-- ==== Sys2Proof/Word.lean ====
section
/-! DEFINITION. The word types of the part: bytes, 64-bit registers, 64-byte lines, and the finite
map that every sparse piece of state is held in. -/

namespace Sys2Proof

/-- A byte of memory. -/
abbrev Byte := BitVec 8

/-- A 64-bit register or control-space word. -/
abbrev Word := BitVec 64

/-- A 64-byte line, a flit payload or a vector register; byte 0 is bits [7:0] (R6, R235). -/
abbrev Line := BitVec 512

/-- A sparse table: key and value pairs, keys strictly rising, no entry equal to what an unlisted
key reads as. `Map.get`, `Map.set` are in `Machine/Maps.lean`. -/
abbrev Map (α : Type) := List (Nat × α)

end Sys2Proof
end

