-- ==== Sys2Proof/Syntax.lean ====
section
/-! DEFINITION. The commands of the part: one constructor of `Instr` for each row of
spec/opcode_table.json, with the row's operands. A thread is named by its number core × 4 + thread
(R309). What the world outside the part decides (what the host's memory held, what a sensor reads,
which code word of a line is uncorrectable) is an operand. -/

namespace Sys2Proof

/-- A thread of the part: core × 4 + thread. -/
abbrev Tid := Nat
/-- A general or vector register number (R91, R235). -/
abbrev Reg := Fin 32
/-- A page register number (R91). -/
abbrev PgReg := Fin 8

/-- Who makes a control-space access (R9, R25). -/
inductive Accessor where
  /-- The Keeper firmware, over the lantern ring. -/
  | keeper
  /-- A thread, over the mesh. -/
  | thread (t : Tid)
  /-- The host driver, through PCI Express function f. -/
  | host (f : Nat)
  /-- The debug window of PF0, or JTAG. -/
  | debug
  deriving DecidableEq, Repr

/-- Element types of the vector unit (R235). -/
inductive EType where
  | nf4 | nf6 | nf8 | nw8 | nf16 | nf32 | i8 | i16 | i32 | i64
  deriving DecidableEq, Repr

/-- The comparisons of VCMP (R238). -/
inductive CmpOp where
  | eq | ne | lt | le
  deriving DecidableEq, Repr

/-- The reductions of VRED and VLRED (R238, R242). -/
inductive RedOp where
  | sum | max | min | ssq
  deriving DecidableEq, Repr

/-- The element-wise operations of VLOP (R243). -/
inductive LopOp where
  | add | mul | max | min | exp2 | rcp
  deriving DecidableEq, Repr

/-- The engines of the matrix unit (R175). -/
inductive TileEngine where
  | array | aLoad | bLoad | output
  deriving DecidableEq, Repr

/-- The atomic operations answered by ATOMR (R291). -/
inductive AtomOp where
  | swap | cas | fadd | fand | forA | fxor | fmax | fmin | fmaxu | fminu | aload
  deriving DecidableEq, Repr

/-- The fields that a host configuration request reaches (R356, R362, R363, R369, R372, R373); a read names its register by
the value that it carries. -/
inductive ConfigField where
  | read | busMaster | msixEnable | msixMask | vfEnable | powerState | completionTimeout
  /-- The Requester ID range of IDE stream k: its first function in bits [15:0] and its last in [31:16] (R373). -/
  | ideRid (k : Fin 8)
  /-- The first host address of address association range j of IDE stream k. -/
  | ideBase (k : Fin 8) (j : Fin 2)
  /-- Its last host address. -/
  | ideLimit (k : Fin 8) (j : Fin 2)
  deriving DecidableEq, Repr

/-- One line slot of a Meridian data frame (R376): TYPE, LINE, TAG, FIRST, LAST and the data. -/
structure MLine where
  typ : Nat
  line : Nat
  tag : Nat
  first : Nat
  last : Nat
  data : Line
  /-- Code words of the data that cannot be corrected, as a mask (R246, R378). -/
  bad : Nat := 0
  deriving DecidableEq, Repr

/-- The control frames of R384. -/
inductive ControlMsg where
  /-- A message of training. -/
  | training
  /-- The identity message of R381: FLEET_ID, port, BOND_FIRST, BOND_WIDTH. -/
  | ident (fleet port bondFirst bondWidth : Nat)
  /-- A timestamp message: the sidereal time at which it leaves, and the sender's hop count. One that answers holds the
  time of the message that it answers, and of that message's arrival (R78, R84; log entry 112, DESIGN CHOICE). -/
  | timestamp (time : Word) (hops : Nat) (echo : Option (Word × Word))
  deriving DecidableEq, Repr

/-- A Meridian frame (R376). `good` is the outcome of the CRC and code-word checks of R378. -/
structure Frame where
  kind : Nat
  seq : Nat
  ack : Nat
  nak : Bool
  credit : Nat
  good : Bool
  lines : List MLine
  /-- The message of a control frame (R384). -/
  ctl : Option ControlMsg := none
  deriving DecidableEq, Repr

/-- What stops working in the fabric (R439): a router, a link from a router in a direction (0 north, 1 east, 2
south, 3 west), or the beacon-tree wire of a die. -/
inductive FabricUnit where
  | router (x y : Nat)
  | link (x y dir : Nat)
  | beacon (die : Nat)
  deriving DecidableEq, Repr

/-- The commands of the part, one for each row of spec/opcode_table.json. -/
inductive Instr where
  /-- R9. REGISTER_WRITE: A write to a register that has no row of its own sets or ignores its fields by access code, or is refused under the silent violation rule. -/
  | registerWrite (acc : Accessor) (addr : Word) (val : Word)
  /-- R50. LOAD: The chart engine empties the shadow store and starts reading, checking and hashing a chart from host memory. -/
  | load
  /-- R50. CHART_LOAD_COMPLETE: The load ends: on success it sets SHADOW_VALID, SHADOW_MEAS and possibly CHART_KEY_HASH, and on failure it records CHART_ERR; it then sets DONE. -/
  | chartLoadComplete
  /-- R53. DISCARD: The chart engine empties the shadow store. -/
  | discard
  /-- R55. COMMIT: The chart engine applies the commit checks for constellation c and, if they pass, moves c to committing and begins clearing and configuring its cores. -/
  | commit (c : Nat)
  /-- R56. COMMIT_COMPLETE: The commit finishes: window entries and live fields are written, measurements are copied, and c becomes held. -/
  | commitComplete (c : Nat)
  /-- R53. START: The chart engine moves a held or halted constellation to running, or fails the command with LOCKED or STATE. -/
  | start (c : Nat)
  /-- R53. STOP: The chart engine moves a running constellation to stopping. -/
  | stop (c : Nat)
  /-- R53. STOP_COMPLETE: Every member thread has stopped and the constellation becomes halted. -/
  | stopComplete (c : Nat)
  /-- R57. RESET: The chart engine moves c to resetting, retires its session slots and clears its member cores. -/
  | reset (c : Nat)
  /-- R56. RESET_COMPLETE: The reset finishes, c is restored from the committed store, and it becomes held. -/
  | resetComplete (c : Nat)
  /-- R57. RELEASE: The chart engine moves c to resetting, retires its slots and clears its member cores, with the cores to be powered down. -/
  | release (c : Nat)
  /-- R57. RELEASE_COMPLETE: The release finishes: the cores are powered down, the live fields are zero and c becomes dark. -/
  | releaseComplete (c : Nat)
  /-- R54. FLR_RESET: Once the chart engine and c allow it, the engine begins a reset that a Function Level Reset requested, and it sets FLR_DONE when c is held. -/
  | flrReset (c : Nat)
  /-- R69. ROOT_LOCK: The root PLL locks, and all divided clocks and every CCYCLE start together. -/
  | rootLock
  /-- R70. ROOT_LOSS_OF_LOCK: The root PLL loses lock: every divided clock stops within 1 µs and FAULT_N is asserted. -/
  | rootLossOfLock
  /-- R71. REFERENCE_LOSS: The reference stops: the sidereal counter stops, every PHY loses lock and the root PLL loses lock. -/
  | referenceLoss
  /-- R72. SIDEREAL_INCREMENT: In each reference period every counter replica adds 10, 11 or 12, as the TRIM accumulator carries or borrows. -/
  | siderealIncrement
  /-- R76. SIDEREAL_LOAD: A Keeper write replaces the sidereal counter at the end of the reference period, provided every constellation is dark or held. -/
  | siderealLoad (v : Word)
  /-- R77. SIDEREAL_STEP: A Keeper write adds STEP to the counter at the end of the reference period, in master or free and without wrapping. -/
  | siderealStep (v : Word)
  /-- R78. TIME_EXCHANGE: Every 125 µs the part exchanges timestamps with its upstream neighbour and evaluates the servo. -/
  | timeExchange
  /-- R79. HOLDOVER_ENTRY: After 8 consecutive missed exchanges a locked servo enters holdover and keeps the last TRIM. -/
  | holdoverEntry
  /-- R102. ADD: Adds two general registers modulo 2^64. -/
  | add (t : Tid) (rd : Reg) (ra : Reg) (rb : Reg)
  /-- R102. SUB: Subtracts two general registers modulo 2^64. -/
  | sub (t : Tid) (rd : Reg) (ra : Reg) (rb : Reg)
  /-- R102. AND: Bitwise AND of two general registers. -/
  | and (t : Tid) (rd : Reg) (ra : Reg) (rb : Reg)
  /-- R102. OR: Bitwise OR of two general registers. -/
  | or (t : Tid) (rd : Reg) (ra : Reg) (rb : Reg)
  /-- R102. XOR: Bitwise XOR of two general registers. -/
  | xor (t : Tid) (rd : Reg) (ra : Reg) (rb : Reg)
  /-- R102. ANDN: Computes a & ~b. -/
  | andn (t : Tid) (rd : Reg) (ra : Reg) (rb : Reg)
  /-- R103. SHL: Shifts left by the low 6 bits of g[RB]. -/
  | shl (t : Tid) (rd : Reg) (ra : Reg) (rb : Reg)
  /-- R103. SHR: Logical right shift by the low 6 bits of g[RB]. -/
  | shr (t : Tid) (rd : Reg) (ra : Reg) (rb : Reg)
  /-- R103. SAR: Arithmetic right shift by the low 6 bits of g[RB]. -/
  | sar (t : Tid) (rd : Reg) (ra : Reg) (rb : Reg)
  /-- R103. ROL: Rotates left by the low 6 bits of g[RB]. -/
  | rol (t : Tid) (rd : Reg) (ra : Reg) (rb : Reg)
  /-- R102. SLT: Sets g[RD] to 1 if g[RA] is less than g[RB], signed, and to 0 otherwise. -/
  | slt (t : Tid) (rd : Reg) (ra : Reg) (rb : Reg)
  /-- R102. SLTU: Sets g[RD] to 1 if g[RA] is less than g[RB], unsigned, and to 0 otherwise. -/
  | sltu (t : Tid) (rd : Reg) (ra : Reg) (rb : Reg)
  /-- R102. MIN: Signed minimum of two registers. -/
  | min (t : Tid) (rd : Reg) (ra : Reg) (rb : Reg)
  /-- R102. MAX: Signed maximum of two registers. -/
  | max (t : Tid) (rd : Reg) (ra : Reg) (rb : Reg)
  /-- R102. MINU: Unsigned minimum of two registers. -/
  | minu (t : Tid) (rd : Reg) (ra : Reg) (rb : Reg)
  /-- R102. MAXU: Unsigned maximum of two registers. -/
  | maxu (t : Tid) (rd : Reg) (ra : Reg) (rb : Reg)
  /-- R102. MUL: The low 64 bits of the product of two registers. -/
  | mul (t : Tid) (rd : Reg) (ra : Reg) (rb : Reg)
  /-- R102. MULH: The signed high 64 bits of the product of two registers. -/
  | mulh (t : Tid) (rd : Reg) (ra : Reg) (rb : Reg)
  /-- R102. MULHU: The unsigned high 64 bits of the product of two registers. -/
  | mulhu (t : Tid) (rd : Reg) (ra : Reg) (rb : Reg)
  /-- R103. DIV: Signed division rounding toward zero, with the defined edge results; blocks issue for 34 cycles. -/
  | div (t : Tid) (rd : Reg) (ra : Reg) (rb : Reg)
  /-- R103. DIVU: Unsigned division with the defined edge results; blocks issue. -/
  | divu (t : Tid) (rd : Reg) (ra : Reg) (rb : Reg)
  /-- R103. REM: Signed remainder, with the sign of the dividend; blocks issue. -/
  | rem (t : Tid) (rd : Reg) (ra : Reg) (rb : Reg)
  /-- R103. REMU: Unsigned remainder; blocks issue. -/
  | remu (t : Tid) (rd : Reg) (ra : Reg) (rb : Reg)
  /-- R103. CLZ: Counts leading zeros, giving 64 for zero. -/
  | clz (t : Tid) (rd : Reg) (ra : Reg)
  /-- R103. CTZ: Counts trailing zeros, giving 64 for zero. -/
  | ctz (t : Tid) (rd : Reg) (ra : Reg)
  /-- R102. POP: Counts the set bits of a register. -/
  | pop (t : Tid) (rd : Reg) (ra : Reg)
  /-- R101. ADDI: Adds the sign-extended IMM16. -/
  | addi (t : Tid) (rd : Reg) (ra : Reg) (imm : BitVec 16)
  /-- R101. ANDI: ANDs with the zero-extended IMM16. -/
  | andi (t : Tid) (rd : Reg) (ra : Reg) (imm : BitVec 16)
  /-- R101. ORI: ORs with the zero-extended IMM16. -/
  | ori (t : Tid) (rd : Reg) (ra : Reg) (imm : BitVec 16)
  /-- R101. XORI: XORs with the zero-extended IMM16. -/
  | xori (t : Tid) (rd : Reg) (ra : Reg) (imm : BitVec 16)
  /-- R101. SLTI: Signed compare with the sign-extended IMM16. -/
  | slti (t : Tid) (rd : Reg) (ra : Reg) (imm : BitVec 16)
  /-- R101. SLTIU: Unsigned compare with the sign-extended IMM16. -/
  | sltiu (t : Tid) (rd : Reg) (ra : Reg) (imm : BitVec 16)
  /-- R101. SHLI: Shifts left by an immediate amount. -/
  | shli (t : Tid) (rd : Reg) (ra : Reg) (amt : BitVec 6)
  /-- R101. SHRI: Logical right shift by an immediate amount. -/
  | shri (t : Tid) (rd : Reg) (ra : Reg) (amt : BitVec 6)
  /-- R101. SARI: Arithmetic right shift by an immediate amount. -/
  | sari (t : Tid) (rd : Reg) (ra : Reg) (amt : BitVec 6)
  /-- R101. ROLI: Rotates left by an immediate amount. -/
  | roli (t : Tid) (rd : Reg) (ra : Reg) (amt : BitVec 6)
  /-- R101. LI: Loads the sign-extended IMM21 into g[RD]. -/
  | li (t : Tid) (rd : Reg) (imm : BitVec 21)
  /-- R101. LSH: Shifts g[RD] left by 21 and ORs in IMM21. -/
  | lsh (t : Tid) (rd : Reg) (imm : BitVec 21)
  /-- R101. LDB: Loads one zero-extended byte, as translation and checks allow. -/
  | ldb (t : Tid) (rd : Reg) (ra : Reg) (pg : PgReg) (imm : BitVec 13)
  /-- R101. LDBS: Loads one sign-extended byte. -/
  | ldbs (t : Tid) (rd : Reg) (ra : Reg) (pg : PgReg) (imm : BitVec 13)
  /-- R101. LDH: Loads 2 zero-extended bytes, naturally aligned. -/
  | ldh (t : Tid) (rd : Reg) (ra : Reg) (pg : PgReg) (imm : BitVec 13)
  /-- R101. LDHS: Loads 2 sign-extended bytes. -/
  | ldhs (t : Tid) (rd : Reg) (ra : Reg) (pg : PgReg) (imm : BitVec 13)
  /-- R101. LDW: Loads 4 zero-extended bytes. -/
  | ldw (t : Tid) (rd : Reg) (ra : Reg) (pg : PgReg) (imm : BitVec 13)
  /-- R101. LDWS: Loads 4 sign-extended bytes. -/
  | ldws (t : Tid) (rd : Reg) (ra : Reg) (pg : PgReg) (imm : BitVec 13)
  /-- R101. LDD: Loads 8 bytes through the own local store, the data cache or the mesh. -/
  | ldd (t : Tid) (rd : Reg) (ra : Reg) (pg : PgReg) (imm : BitVec 13)
  /-- R101. STB: Posts a store of the low byte of g[RS] into the store queue. -/
  | stb (t : Tid) (rs : Reg) (ra : Reg) (pg : PgReg) (imm : BitVec 13)
  /-- R101. STH: Posts a store of the low 2 bytes of g[RS]. -/
  | sth (t : Tid) (rs : Reg) (ra : Reg) (pg : PgReg) (imm : BitVec 13)
  /-- R101. STW: Posts a store of the low 4 bytes of g[RS]. -/
  | stw (t : Tid) (rs : Reg) (ra : Reg) (pg : PgReg) (imm : BitVec 13)
  /-- R101. STD: Posts a store of 8 bytes of g[RS]. -/
  | std (t : Tid) (rs : Reg) (ra : Reg) (pg : PgReg) (imm : BitVec 13)
  /-- R96. LDX: Indexed load of 2^SIZE bytes, sign-extended if SIGNED. -/
  | ldx (t : Tid) (rd : Reg) (ra : Reg) (rb : Reg) (pg : PgReg) (scale : Fin 4) (size : Fin 4) (sx : Bool)
  /-- R96. STX: Indexed store of 2^SIZE bytes. -/
  | stx (t : Tid) (rs : Reg) (ra : Reg) (rb : Reg) (pg : PgReg) (scale : Fin 4) (size : Fin 4)
  /-- R101. BEQ: Branches if the two registers are equal. -/
  | beq (t : Tid) (ra : Reg) (rb : Reg) (disp : BitVec 16)
  /-- R101. BNE: Branches if the two registers are not equal. -/
  | bne (t : Tid) (ra : Reg) (rb : Reg) (disp : BitVec 16)
  /-- R101. BLT: Branches if the first register is less than the second, signed. -/
  | blt (t : Tid) (ra : Reg) (rb : Reg) (disp : BitVec 16)
  /-- R101. BGE: Branches if the first register is greater than or equal to the second, signed. -/
  | bge (t : Tid) (ra : Reg) (rb : Reg) (disp : BitVec 16)
  /-- R101. BLTU: Branches if the first register is less than the second, unsigned. -/
  | bltu (t : Tid) (ra : Reg) (rb : Reg) (disp : BitVec 16)
  /-- R101. BGEU: Branches if the first register is greater than or equal to the second, unsigned. -/
  | bgeu (t : Tid) (ra : Reg) (rb : Reg) (disp : BitVec 16)
  /-- R101. JMP: Jumps PC-relative. -/
  | jmp (t : Tid) (disp : BitVec 26)
  /-- R105. CALL: Pushes the return address onto the return stack and jumps, or raises RSTACK when the stack is full. -/
  | call (t : Tid) (disp : BitVec 26)
  /-- R101. JR: Jumps to the address in g[RA]. -/
  | jr (t : Tid) (ra : Reg)
  /-- R105. CALLR: Pushes the return address and jumps to g[RA]. -/
  | callr (t : Tid) (ra : Reg)
  /-- R105. RET: Pops PC from the return stack, or raises RSTACK. -/
  | ret (t : Tid)
  /-- R95. SETPG: Sets a page register from bits [51:24] of g[RA]. -/
  | setpg (t : Tid) (pg : PgReg) (ra : Reg)
  /-- R101. GETPG: Reads a page register into g[RD]. -/
  | getpg (t : Tid) (rd : Reg) (pg : PgReg)
  /-- R100. UNDEF: Raises a precise UNDEF exception, as do unlisted and malformed encodings. -/
  | undef (t : Tid) (fetchRefused : Bool)
  /-- R104. NOP: Does nothing. -/
  | nop (t : Tid)
  /-- R463. BRK: Stops the thread for the debugger when BRK_STOP is set in the Open world, and otherwise enters the handler with cause BRK. -/
  | brk (t : Tid)
  /-- R75. RDTIME: Reads the local sidereal replica. -/
  | rdtime (t : Tid) (rd : Reg)
  /-- R104. RDCYC: Reads CCYCLE. -/
  | rdcyc (t : Tid) (rd : Reg)
  /-- R107. RDFW: Reads a feature word. -/
  | rdfw (t : Tid) (rd : Reg) (n : Fin 8)
  /-- R106. RDRSP: Reads RSP. -/
  | rdrsp (t : Tid) (rd : Reg)
  /-- R106. WRRSP: Sets RSP at supervisor level, clamped to 2048; refused at user level. -/
  | wrrsp (t : Tid) (ra : Reg)
  /-- R111. CWB: Writes back one data-cache line and retires when its write-backs are acknowledged. -/
  | cwb (t : Tid) (ra : Reg) (pg : PgReg)
  /-- R111. CINV: Writes back one line if it is dirty, then invalidates it. -/
  | cinv (t : Tid) (ra : Reg) (pg : PgReg)
  /-- R111. CWBA: Scans every set and writes back every dirty line. -/
  | cwba (t : Tid)
  /-- R111. CINVA: Writes back every dirty line, then invalidates every line. -/
  | cinva (t : Tid)
  /-- R112. IINV: Invalidates the instruction cache. -/
  | iinv (t : Tid)
  /-- R88. STORE_DRAIN: A posted store leaves the store queue into the data cache, the gather buffer or the mesh once there is room. -/
  | storeDrain (t : Tid)
  /-- R114. BLOCKED_RETRY: A blocked pipe, ring, wait or fence instruction is retried in each of the thread's slots until it completes. -/
  | blockedRetry (t : Tid)
  /-- R114. PWR: Appends a word to the open message of a pipe; it blocks while the pipe is full and faults with PIPE on an eighth word. -/
  | pwr (t : Tid) (peer : Fin 4) (ra : Reg)
  /-- R113. PWRL: Appends the last word and commits the message. -/
  | pwrl (t : Tid) (peer : Fin 4) (ra : Reg)
  /-- R117. PRD: Removes the oldest committed word of a pipe; it blocks while no word is committed and is refused on a world mismatch. -/
  | prd (t : Tid) (rd : Reg) (peer : Fin 4)
  /-- R113. PTST: Returns the pipe status word without blocking. -/
  | ptst (t : Tid) (rd : Reg) (peer : Fin 4)
  /-- R119. FOE_VALID_CLEAR: A W1C write of FOE_INFO.VALID clears the first-offender entry; a refusal in the same cycle is recorded after the clear. -/
  | foeValidClear (acc : Accessor) (core : Nat)
  /-- R132. SCALL: Enters the bank of the thread's world with cause SCALL. -/
  | scall (t : Tid)
  /-- R134. GATE: Enters S.s at SEALED_ENTRY for a bound slot, saving the return state in bank S; otherwise it is refused. -/
  | gate (t : Tid) (ra : Reg)
  /-- R135. GATE_OUT: Scrubs the thread's sealed state in 160 cycles and returns to the Open context saved by GATE. -/
  | gateOut (t : Tid)
  /-- R133. ERET: Returns to EPC with LEVEL, IE and SESSION from ESTATUS and clears EL. -/
  | eret (t : Tid)
  /-- R125. MFE: Reads an entry register of the permitted bank. -/
  | mfe (t : Tid) (rd : Reg) (n : Fin 32)
  /-- R136. MTE: Writes an entry register; ESTATUS fields are clamped to the writer's privilege. -/
  | mte (t : Tid) (n : Fin 32) (ra : Reg)
  /-- R132. XSW: Exchanges g[RD] with a swap register of the bank. -/
  | xsw (t : Tid) (rd : Reg) (n : Fin 4)
  /-- R131. EDONE: Clears STATUS.EL. -/
  | edone (t : Tid)
  /-- R138. NIBEGIN: Opens a non-interruptible window of at most NI_LIMIT cycles. -/
  | nibegin (t : Tid) (ra : Reg)
  /-- R139. NIEND: Closes the open non-interruptible window. -/
  | niend (t : Tid)
  /-- R132. MFS: Reads STATUS. -/
  | mfs (t : Tid) (rd : Reg)
  /-- R132. MTS: Sets STATUS.IE. -/
  | mts (t : Tid) (ra : Reg)
  /-- R139. NI_WINDOW_END: The non-interruptible window reaches its end cycle and closes, and the interrupts it held become deliverable. -/
  | niWindowEnd (t : Tid)
  /-- R129. INTERRUPT_ENTRY: A deliverable interrupt is taken in the thread's slot, or at a progress point, and enters its bank. -/
  | interruptEntry (t : Tid) (pos : Nat)
  /-- R126. TIMER_INTERRUPT: The local sidereal replica reaches the bank's non-zero TCMP, and cause TIMER becomes pending. -/
  | timerInterrupt (t : Tid) (sealedBank : Bool)
  /-- R137. EVICTION: 8192 cycles after an Open demand arises, the part evicts the sealed thread, scrubs it and enters bank O with cause EVICT. -/
  | eviction (t : Tid)
  /-- R131. LOCKUP_OVERRUN: STATUS.EL has stayed 1 for 256 cycles, and the core locks up with cause OVERRUN. -/
  | lockupOverrun (t : Tid)
  /-- R155. P4_ITEM_PERFORM: In a thread's owned P4 slot at a sub-store, its oldest pending item and every item for the same line are performed. -/
  | p4ItemPerform (t : Tid) (sub : Fin 8) (bad : BitVec 8)
  /-- R150. P7_INBOUND_PERFORM: In each slot, port P7 performs the oldest inbound mesh request queued for the sub-store. -/
  | p7InboundPerform (core : Nat) (sub : Fin 8) (bad : BitVec 8)
  /-- R162. SCRUB_SLOT: Scrub takes an empty P7 slot, corrects one row and writes it back if needed. -/
  | scrubSlot (core : Nat) (sub : Fin 8) (bad : BitVec 8)
  /-- R162. SCRUB_FORCED: After 4095 frames without a scrub slot at a sub-store, scrub takes that P7 slot in the next frame. -/
  | scrubForced (core : Nat) (sub : Fin 8) (bad : BitVec 8)
  /-- R164. RPUSH: Pushes a vector register into the ring slot at TAIL, and blocks while the ring is full. -/
  | rpush (t : Tid) (ring : Fin 16) (va : Reg)
  /-- R164. RPUSHG: Pushes a general register as bytes 0–7 of the slot; blocks. -/
  | rpushg (t : Tid) (ring : Fin 16) (ra : Reg)
  /-- R164. RPOP: Pops the slot at HEAD into a vector register; blocks while the ring is empty. -/
  | rpop (t : Tid) (vd : Reg) (ring : Fin 16)
  /-- R164. RPOPG: Pops bytes 0–7 of the slot at HEAD into a general register; blocks. -/
  | rpopg (t : Tid) (rd : Reg) (ring : Fin 16)
  /-- R165. RTPUSH: Non-blocking push of a vector register, with status. -/
  | rtpush (t : Tid) (rd : Reg) (ring : Fin 16) (va : Reg)
  /-- R165. RTPUSHG: Non-blocking push of a general register, with status. -/
  | rtpushg (t : Tid) (rd : Reg) (ring : Fin 16) (ra : Reg)
  /-- R165. RTPOP: Non-blocking pop into a vector register, with status. -/
  | rtpop (t : Tid) (rd : Reg) (ring : Fin 16) (va : Reg)
  /-- R165. RTPOPG: Non-blocking pop into a general register, with status. -/
  | rtpopg (t : Tid) (rd : Reg) (ring : Fin 16) (ra : Reg)
  /-- R165. RSTAT: Returns the ring status word. -/
  | rstat (t : Tid) (rd : Reg) (ring : Fin 16)
  /-- R163. RRD: Reads a ring register. -/
  | rrd (t : Tid) (rd : Reg) (ring : Fin 16) (f : Fin 4)
  /-- R163. RWBASE: Writes RING_BASE, subject to the writer rules. -/
  | rwbase (t : Tid) (ring : Fin 16) (ra : Reg)
  /-- R163. RWSIZE: Writes RING_SIZE. -/
  | rwsize (t : Tid) (ring : Fin 16) (ra : Reg)
  /-- R163. RWHEAD: Writes RING_HEAD. -/
  | rwhead (t : Tid) (ring : Fin 16) (ra : Reg)
  /-- R163. RWTAIL: Writes RING_TAIL. -/
  | rwtail (t : Tid) (ring : Fin 16) (ra : Reg)
  /-- R169. RCLR: Waits until no slot is in transfer, then sets the ring's slots empty and HEAD and TAIL to zero. -/
  | rclr (t : Tid) (ring : Fin 16)
  /-- R185. TLDA: Loads operand tile ta row by row from memory. -/
  | tlda (t : Tid) (ra : Reg) (rc : Reg) (pg : PgReg) (rowsM1 : Fin 64) (bytesM1 : Fin 64)
  /-- R185. TLDB: Loads operand tile tb row by row from memory. -/
  | tldb (t : Tid) (rb : Reg) (rc : Reg) (pg : PgReg) (rowsM1 : Fin 64) (bytesM1 : Fin 64)
  /-- R186. TLDAB: Loads ta and tb together on both load engines. -/
  | tldab (t : Tid) (ra : Reg) (rb : Reg) (rc : Reg) (pga : PgReg) (rowsA : Fin 64) (bytesA : Fin 64) (pgb : PgReg) (rowsB : Fin 64) (bytesB : Fin 64)
  /-- R183. MMA: Checks the shape, enters the unit queue and accumulates A × B into z. -/
  | mma (t : Tid) (z : Fin 2) (cm : Fin 3)
  /-- R184. TCLR: Clears an accumulator to zero with extent M × N. -/
  | tclr (t : Tid) (z : Fin 2)
  /-- R184. TREL: Releases the masked tile registers to empty. -/
  | trel (t : Tid) (mask : BitVec 4)
  /-- R187. TST: Converts z with scale, bias, clip and rounding and writes its rows to memory. -/
  | tst (t : Tid) (z : Fin 2) (ra : Reg) (rb : Reg) (rc : Reg) (pg : PgReg) (fmt : Fin 8) (sc : Bool) (bi : Bool) (cl : Bool) (sr : Bool) (vs : Fin 4)
  /-- R189. RANGE: Measures the largest magnitude of a region and writes BS8 scales per block or per tensor. -/
  | range (t : Tid) (ra : Reg) (rb : Reg) (rc : Reg) (pgs : PgReg) (pgd : PgReg) (src : Fin 16) (tgt : Fin 16) (mode : Bool)
  /-- R190. TXLD: Loads the thread's weight-expansion state from 1 KiB. -/
  | txld (t : Tid) (ra : Reg) (pg : PgReg)
  /-- R195. TSAVE: Writes one tile register as a context record; a Sealed-tagged tile is emptied instead. -/
  | tsave (t : Tid) (ra : Reg) (pg : PgReg) (tile : Fin 4)
  /-- R195. TRESTORE: Reads a context record into a tile register, after checking its header. -/
  | trestore (t : Tid) (ra : Reg) (pg : PgReg) (tile : Fin 4)
  /-- R182. MFT: Reads TSHAPE, TSTART or TSTATE. -/
  | mft (t : Tid) (rd : Reg) (n : Fin 16)
  /-- R182. MTT: Writes TSHAPE or TSTART. -/
  | mtt (t : Tid) (ra : Reg) (n : Fin 16)
  /-- R176. TWAIT: Waits until the thread's pending unit instructions have completed. -/
  | twait (t : Tid)
  /-- R175. TILE_ENGINE_START: A free matrix engine starts the oldest eligible waiting instruction of the next thread in round robin. -/
  | tileEngineStart (core : Nat) (e : TileEngine)
  /-- R183. UNIT_INSTRUCTION_COMPLETE: An MMA, TCLR or TREL finishes its array steps and its result is complete in z. -/
  | unitInstructionComplete (core : Nat)
  /-- R186. LONG_TILE_RETIRE: A long tile instruction retires once its last line has been performed or has arrived, and TSTART is cleared. -/
  | longTileRetire (t : Tid) (upto : Nat)
  /-- R239. VADD: Lane-wise addition, rounded once. -/
  | vadd (t : Tid) (vd : Reg) (va : Reg) (vb : Reg) (et : EType)
  /-- R239. VSUB: Lane-wise subtraction. -/
  | vsub (t : Tid) (vd : Reg) (va : Reg) (vb : Reg) (et : EType)
  /-- R239. VMUL: Lane-wise multiplication. -/
  | vmul (t : Tid) (vd : Reg) (va : Reg) (vb : Reg) (et : EType)
  /-- R239. VFMA: Lane-wise fused multiply-add with one rounding. -/
  | vfma (t : Tid) (vd : Reg) (va : Reg) (vb : Reg) (vc : Reg) (et : EType)
  /-- R238. VMAX: Lane-wise maximum. -/
  | vmax (t : Tid) (vd : Reg) (va : Reg) (vb : Reg) (et : EType) (u : Bool)
  /-- R238. VMIN: Lane-wise minimum. -/
  | vmin (t : Tid) (vd : Reg) (va : Reg) (vb : Reg) (et : EType) (u : Bool)
  /-- R238. VAND: Bitwise AND on all 512 bits. -/
  | vand (t : Tid) (vd : Reg) (va : Reg) (vb : Reg) (et : EType)
  /-- R238. VOR: Bitwise OR on all 512 bits. -/
  | vor (t : Tid) (vd : Reg) (va : Reg) (vb : Reg) (et : EType)
  /-- R238. VXOR: Bitwise XOR on all 512 bits. -/
  | vxor (t : Tid) (vd : Reg) (va : Reg) (vb : Reg) (et : EType)
  /-- R238. VSHL: Lane-wise left shift. -/
  | vshl (t : Tid) (vd : Reg) (va : Reg) (vb : Reg) (et : EType)
  /-- R238. VSHR: Lane-wise right shift, arithmetic unless U is set. -/
  | vshr (t : Tid) (vd : Reg) (va : Reg) (vb : Reg) (et : EType) (u : Bool)
  /-- R238. VCMP: Lane-wise comparison, producing masks. -/
  | vcmp (t : Tid) (vd : Reg) (va : Reg) (vb : Reg) (et : EType) (sub : CmpOp) (u : Bool)
  /-- R238. VSEL: Lane-wise select. -/
  | vsel (t : Tid) (vd : Reg) (va : Reg) (vb : Reg) (vc : Reg) (et : EType)
  /-- R240. VEXP: Approximate 2^x per lane. -/
  | vexp (t : Tid) (vd : Reg) (va : Reg) (et : EType)
  /-- R240. VRCP: Approximate reciprocal per lane. -/
  | vrcp (t : Tid) (vd : Reg) (va : Reg) (et : EType)
  /-- R241. VCVT: Converts lanes between types with a shift and one rounding, possibly stochastic. -/
  | vcvt (t : Tid) (vd : Reg) (va : Reg) (rb : Reg) (et : EType) (et2 : EType) (rm : Bool) (u : Bool)
  /-- R242. VRED: Reduces one register to g[RD]. -/
  | vred (t : Tid) (rd : Reg) (va : Reg) (et : EType) (sub : RedOp) (u : Bool)
  /-- R238. VBCAST: Broadcasts g[RA] to every lane. -/
  | vbcast (t : Tid) (vd : Reg) (ra : Reg) (et : EType)
  /-- R238. VEXT: Extracts one lane to g[RD]. -/
  | vext (t : Tid) (rd : Reg) (va : Reg) (rb : Reg) (et : EType)
  /-- R238. VINS: Inserts g[RA] into one lane. -/
  | vins (t : Tid) (vd : Reg) (ra : Reg) (rb : Reg) (et : EType)
  /-- R238. VMFC: Reads a vector control register, VPROG or a rounding-stream register. -/
  | vmfc (t : Tid) (rd : Reg) (n : Fin 32)
  /-- R238. VMTC: Writes a vector control register. -/
  | vmtc (t : Tid) (n : Fin 32) (ra : Reg)
  /-- R243. VLD: Loads 64 bytes of the own local store into a vector register. -/
  | vld (t : Tid) (vd : Reg) (ra : Reg) (pg : PgReg)
  /-- R243. VST: Stores a vector register to 64 bytes of the own local store. -/
  | vst (t : Tid) (va : Reg) (rd : Reg) (pg : PgReg)
  /-- R243. VLDC: Column read of 32 elements into a register pair. -/
  | vldc (t : Tid) (vd : Reg) (ra : Reg) (pg : PgReg)
  /-- R243. VGTH: Gathers 16 elements by index. -/
  | vgth (t : Tid) (vd : Reg) (ra : Reg) (vb : Reg) (et : EType) (pg : PgReg)
  /-- R243. VSCT: Scatters 16 elements by index. -/
  | vsct (t : Tid) (vc : Reg) (ra : Reg) (vb : Reg) (et : EType) (pg : PgReg)
  /-- R243. VLOP: Applies an element-wise operation over n elements in memory. -/
  | vlop (t : Tid) (rd : Reg) (ra : Reg) (rb : Reg) (vc : Reg) (et : EType) (sub : LopOp) (u : Bool) (pg : PgReg)
  /-- R243. VLCVT: Converts n elements in memory. -/
  | vlcvt (t : Tid) (rd : Reg) (ra : Reg) (rb : Reg) (rc : Reg) (et : EType) (et2 : EType) (rm : Bool) (u : Bool) (pg : PgReg)
  /-- R242. VLRED: Reduces n elements in memory to g[RD]. -/
  | vlred (t : Tid) (rd : Reg) (ra : Reg) (rb : Reg) (et : EType) (sub : RedOp) (u : Bool) (pg : PgReg)
  /-- R244. STREAM_ENGINE_START: The free stream engine starts the oldest waiting vector memory instruction of the next thread in round robin. -/
  | streamEngineStart (core : Nat)
  /-- R244. VECTOR_MEMORY_RETIRE: A vector memory instruction retires after its last read or write is performed, and VPROG is cleared. -/
  | vectorMemoryRetire (t : Tid) (upto : Nat)
  /-- R283. FENCE: Waits until the store queue, the gather-buffer write items and stream 0 have drained, then drops clean entries. -/
  | fence (t : Tid)
  /-- R282. FENCER: Performs CWBA and then FENCE. -/
  | fencer (t : Tid)
  /-- R282. FENCEA: Performs CINVA and then FENCE. -/
  | fencea (t : Tid)
  /-- R285. CWAIT: Waits until a stream's outstanding count is at most g[RA]. -/
  | cwait (t : Tid) (ra : Reg) (k : Fin 16)
  /-- R282. CWAITA: Waits until every stream has ISSUED equal to DONE. -/
  | cwaita (t : Tid)
  /-- R282. CRD: Reads a stream's ISSUED and DONE. -/
  | crd (t : Tid) (rd : Reg) (k : Fin 16)
  /-- R291. SWAP: Atomic swap at the home. -/
  | swap (t : Tid) (rd : Reg) (ra : Reg) (rb : Reg) (pg : PgReg)
  /-- R291. CAS: Atomic compare-and-swap at the home. -/
  | cas (t : Tid) (rd : Reg) (ra : Reg) (rb : Reg) (pg : PgReg)
  /-- R291. FADD: Atomic fetch-and-add. -/
  | fadd (t : Tid) (rd : Reg) (ra : Reg) (rb : Reg) (pg : PgReg)
  /-- R291. FAND: Atomic fetch-and-AND. -/
  | fand (t : Tid) (rd : Reg) (ra : Reg) (rb : Reg) (pg : PgReg)
  /-- R291. FOR: Atomic fetch-and-OR. -/
  | forA (t : Tid) (rd : Reg) (ra : Reg) (rb : Reg) (pg : PgReg)
  /-- R291. FXOR: Atomic fetch-and-XOR. -/
  | fxor (t : Tid) (rd : Reg) (ra : Reg) (rb : Reg) (pg : PgReg)
  /-- R291. FMAX: Atomic signed maximum. -/
  | fmax (t : Tid) (rd : Reg) (ra : Reg) (rb : Reg) (pg : PgReg)
  /-- R291. FMIN: Atomic signed minimum. -/
  | fmin (t : Tid) (rd : Reg) (ra : Reg) (rb : Reg) (pg : PgReg)
  /-- R291. FMAXU: Atomic unsigned maximum. -/
  | fmaxu (t : Tid) (rd : Reg) (ra : Reg) (rb : Reg) (pg : PgReg)
  /-- R291. FMINU: Atomic unsigned minimum. -/
  | fminu (t : Tid) (rd : Reg) (ra : Reg) (rb : Reg) (pg : PgReg)
  /-- R291. ALOAD: Atomic load at the home. -/
  | aload (t : Tid) (rd : Reg) (ra : Reg) (pg : PgReg)
  /-- R292. ADDN32: Posts an ADD packet of two int32 lanes with an RTAG. -/
  | addn32 (t : Tid) (ra : Reg) (rb : Reg) (pg : PgReg) (rtag : Fin 8)
  /-- R292. ADDN64: Posts an ADD packet of one int64 lane with an RTAG. -/
  | addn64 (t : Tid) (ra : Reg) (rb : Reg) (pg : PgReg) (rtag : Fin 8)
  /-- R255. INJECT: A waiting response or queued request is injected on the lowest free plane. -/
  | inject (node : Nat)
  /-- R252. FLIT_HOP: A router assigns each arriving flit to ejection, a productive output or a deflection. -/
  | flitHop (plane : Fin 4) (x : Nat) (y : Nat) (damage : List Nat)
  /-- R257. INJECTION_THROTTLE_EVAL: Every 64 fabric cycles the core decides whether to enter or leave the injection throttle. -/
  | injectionThrottleEval (core : Nat)
  /-- R262. RD_AT_HOME: A read is performed at its home and answered with RDATA, zero if it is refused or its target is gone. -/
  | rdAtHome (node : Nat) (i : Nat) (ue : BitVec 2)
  /-- R262. WR_AT_HOME: A write is performed at its home and answered with WACK. -/
  | wrAtHome (node : Nat) (i : Nat) (ue : BitVec 2)
  /-- R291. ATOM_AT_HOME: An atomic is performed at its home and answered with ATOMR. -/
  | atomAtHome (node : Nat) (i : Nat) (ue : BitVec 2)
  /-- R269. ADD_AT_HOME: The home adds the lanes into the line and adds CNT to RCOUNT. -/
  | addAtHome (node : Nat) (i : Nat) (ue : BitVec 2)
  /-- R263. RDATA_ARRIVE: A read response reaches its issuer, completes the load and raises DONE of its stream. -/
  | rdataArrive (core : Nat) (i : Nat) (ue : BitVec 2)
  /-- R263. WACK_ARRIVE: A write acknowledgement reaches its issuer and raises DONE. -/
  | wackArrive (core : Nat) (i : Nat)
  /-- R263. ATOMR_ARRIVE: An atomic result reaches its issuer and raises DONE. -/
  | atomrArrive (core : Nat) (i : Nat) (ue : BitVec 2)
  /-- R260. SOURCE_REFUSAL_COMPLETE: An access refused at its source completes with zero at the computed P7 slot time. -/
  | sourceRefusalComplete (t : Tid)
  /-- R266. CONTROL_ACCESS: The block that holds a register performs a control-space access and answers. -/
  | controlAccess (node : Nat) (i : Nat)
  /-- R321. CPSET: Writes a copy-channel field under the ownership, tag and busy rules. -/
  | cpset (t : Tid) (ch : Fin 4) (f : Fin 8) (ra : Reg)
  /-- R320. CPGET: Reads a copy-channel field. -/
  | cpget (t : Tid) (rd : Reg) (ch : Fin 4) (f : Fin 8)
  /-- R320. CPWAIT: Waits until the channel is not busy. -/
  | cpwait (t : Tid) (ch : Fin 4)
  /-- R321. COPY_GO: Sets the CCTL fields and starts an idle channel, or ends it in error when its fields are invalid. -/
  | copyGo (t : Tid) (ch : Fin 4) (ra : Reg)
  /-- R328. COPY_ABORT: Stops a busy channel from issuing further bursts. -/
  | copyAbort (t : Tid) (ch : Fin 4) (ra : Reg)
  /-- R330. COPY_EVENT_CLEAR: A W1C write clears CSTAT.EVENT and with it the COPY cause. -/
  | copyEventClear (t : Tid) (ch : Fin 4) (ra : Reg)
  /-- R324. COPY_BURST_ISSUE: The engine issues the translated burst of the next eligible channel, at most one per cycle. -/
  | copyBurstIssue (core : Nat)
  /-- R324. COPY_BURST_COMPLETE: A burst's writes are performed or its packets injected, and RESIDUE falls. -/
  | copyBurstComplete (core : Nat) (ch : Fin 4) (i : Nat)
  /-- R328. COPY_STOP: Once its issued bursts are complete, a stopping channel takes its stop state, sets EVENT and may raise COPY. -/
  | copyStop (core : Nat) (ch : Fin 4)
  /-- R334. STACK_ACCEPT: A stack accepts an ejected flit into its channel queue, where it is performed in ingress order. -/
  | stackAccept (stk : Nat) (i : Nat) (bad : BitVec 4)
  /-- R336. STACK_SLOT: In each slot a channel issues a refresh, an overdue background item, a foreground request or a background item. -/
  | stackSlot (stk : Nat) (ch : Fin 32)
  /-- R337. STACK_REFRESH: In slots 0, 42 and 85 of every 128, a channel refreshes 4 rows of one bank. -/
  | stackRefresh (stk : Nat) (ch : Fin 32)
  /-- R338. STACK_RESPONSE: A stack answer leaves correction, decryption and egress and is injected. -/
  | stackResponse (stk : Nat) (i : Nat) (ue : BitVec 2)
  /-- R343. ATOMIC_UNIT_OP: The stack's atomic unit performs one atomic, ADD or RCOUNT update on a buffered line. -/
  | atomicUnitOp (stk : Nat)
  /-- R343. ATOMIC_EVICT_WRITEBACK: An evicted atomic-buffer line enters its channel queue as a write once there is room. -/
  | atomicEvictWriteback (stk : Nat)
  /-- R344. PATROL_SCRUB_CREATE: Every 2048 slots a patrol scrub read item is created. -/
  | patrolScrubCreate (stk : Nat) (ch : Fin 32)
  /-- R344. NEIGHBOUR_REFRESH: A row's activation count reaches 4096 and two neighbour refresh items are created. -/
  | neighbourRefresh (stk : Nat) (ch : Fin 32) (bank : Fin 32) (row : Nat)
  /-- R344. PHY_CALIBRATION: Once per ms a PHY calibration item is created. -/
  | phyCalibration (stk : Nat) (ch : Fin 32)
  /-- R344. TELEMETRY_READOUT: Once per ms a telemetry readout item is created. -/
  | telemetryReadout (stk : Nat) (ch : Fin 32)
  /-- R352. REGION_LOG: A row reaches 16 corrections or turns uncorrectable, is logged in STK_RETIRE and reported. -/
  | regionLog (stk : Nat) (ch : Fin 32) (q : Nat)
  /-- R437. STACK_FAILURE: A base die fails and from then on answers every request with zero itself. -/
  | stackFailure (stk : Nat)
  /-- R430. TRAIN: A STK_TRAIN write starts locking, calibrating and zeroing the stack. -/
  | train (stk : Nat)
  /-- R430. TRAINING_DONE: Training ends with TRAINED or FAILED set. -/
  | trainingDone (stk : Nat) (ok : Bool)
  /-- R353. STK_CLEAR_RETIRE: Empties STK_RETIRE and clears USED and OVERFLOW. -/
  | stkClearRetire (stk : Nat)
  /-- R353. STK_CLEAR_ERR: Sets UE and CE to zero. -/
  | stkClearErr (stk : Nat)
  /-- R349. WALK_LINE_RETURN: A window-table line returns to a walking core, which stops at the first matching entry. -/
  | walkLineReturn (core : Nat) (by_ : Fin 64) (k : Fin 8)
  /-- R350. WTBASE_WRITE: A write of WTBASE drops every cached entry of c. -/
  | wtbaseWrite (acc : Accessor) (c : Nat) (v : Word)
  /-- R350. WTCOUNT_WRITE: A write of WTCOUNT drops every cached entry of c. -/
  | wtcountWrite (acc : Accessor) (c : Nat) (v : Word)
  /-- R350. WINV_ALL: Drops every cached window entry of c at every member core. -/
  | winvAll (acc : Accessor) (c : Nat)
  /-- R350. WINV_ENTRY: Drops the cached copies of one window entry at every member core. -/
  | winvEntry (acc : Accessor) (c : Nat) (e : Nat)
  /-- R350. WINV_DONE: Every member core has reported its drop, and the WINV returns its WACK. -/
  | winvDone (c : Nat)
  /-- R359. HOST_INBOUND_READ: A host read of a VF aperture is translated through INB_MAP and performed as line reads. -/
  | hostInboundRead (f : Nat) (off : Nat) (len : Nat)
  /-- R359. HOST_INBOUND_WRITE: A host write of a VF aperture is translated and performed as line writes. -/
  | hostInboundWrite (f : Nat) (off : Nat) (data : List Byte)
  /-- R360. DOORBELL: A host write to DOORBELL[i] sets VALUE and DB_PEND bit i after earlier posted writes, making HOST pending. -/
  | doorbell (f : Nat) (i : Fin 64) (size : Nat) (v : Word)
  /-- R361. DB_PEND_CLEAR: A W1C write clears DB_PEND bits and the HOST cause. -/
  | dbPendClear (acc : Accessor) (f : Nat) (v : Word)
  /-- R362. MSIX_SEND: A thread's write queues the MSI-X message of the named vector as the function. -/
  | msixSend (t : Tid) (f : Nat) (v : Word)
  /-- R364. HOST_COMPLETION: A completion for an outbound read arrives and answers the read. -/
  | hostCompletion (tag : Nat) (data : BitVec 512)
  /-- R366. PF0_RATE_RELEASE: A PF0 outbound request that waited for the rate limit is issued. -/
  | pf0RateRelease
  /-- R368. VF_FLR: A Function Level Reset of a VF sets FLR, discards requests and requests RESET of its constellation. -/
  | vfFlr (f : Nat)
  /-- R368. VF_FLR_COMPLETE: FLR clears, and the VF accepts requests again. -/
  | vfFlrComplete (f : Nat)
  /-- R369. PF0_FLR: Resets the mailbox, PF0's block and configuration, and clears VF Enable. -/
  | pf0Flr
  /-- R369. HOT_RESET: A hot reset or link disable has the effect of a PF0 reset. -/
  | hotReset
  /-- R356. D3HOT: Entry to D3hot disables PF0's memory decode. -/
  | d3hot
  /-- R370. LINK_DOWN: The data link goes down: outbound requests complete with zero and affected constellations receive FAULT. -/
  | linkDown
  /-- R372. COMPLETION_TIMEOUT: An outbound read times out, returns zero data and raises FAULT. -/
  | completionTimeout (tag : Nat)
  /-- R371. POISONED_WRITE: A poisoned inbound write is discarded and logged as advisory. -/
  | poisonedWrite (f : Nat) (off : Nat)
  /-- R371. POISONED_COMPLETION: A poisoned completion returns zero data and raises FAULT. -/
  | poisonedCompletion (tag : Nat)
  /-- R371. UNEXPECTED_COMPLETION: An unexpected completion is discarded and logged. -/
  | unexpectedCompletion
  /-- R371. UNSUPPORTED_REQUEST: An I/O request, AtomicOp or unsupported message is reported as Unsupported Request. -/
  | unsupportedRequest (f : Nat)
  /-- R371. BRIDGE_INTERNAL_ERROR: An uncorrectable error in the bridge queues completes pending requests with zero and reports fatal AER. -/
  | bridgeInternalError
  /-- R373. IDE_CHECK_FAILURE: An IDE check failure moves the stream to Insecure, drops its inbound TLPs and raises FAULT. -/
  | ideCheckFailure (stream : Fin 8)
  /-- R373. IDE_KM: An IDE_KM message in a secured session writes IDE keys. -/
  | ideKm (stream : Fin 8) (key : BitVec 256)
  /-- R374. DOE_OBJECT: A DOE object arrives at PF0 and is answered within 1 s. -/
  | doeObject (obj : List Byte)
  /-- R374. DOE_ABORT: A DOE Abort discards the object in progress. -/
  | doeAbort
  /-- R421. QUOTE_REQ: A vendor DOE request for a quote of a constellation or the package. -/
  | quoteReq (cid : BitVec 8) (nonce : BitVec 256)
  /-- R421. SKEY_REQ: A vendor DOE request for the session public key. -/
  | skeyReq
  /-- R421. SPDM_MESSAGE: An SPDM 1.2 message is handled by the responder on PF0. -/
  | spdmMessage (msg : List Byte)
  /-- R375. FRAME_TRANSMIT: A port starts a frame every 18 ns, carrying queued lines, ACK and CREDIT. -/
  | frameTransmit (port : Nat)
  /-- R378. FRAME_RECEIVE: A data frame is accepted if its CRC, SEQ and code words are good, or is discarded. -/
  | frameReceive (port : Nat) (f : Frame)
  /-- R382. ACK_TIMEOUT_REPLAY: ACK has not advanced for 16 µs, and the transmitter replays unacknowledged frames. -/
  | ackTimeoutReplay (port : Nat)
  /-- R384. CONTROL_FRAME_RECEIVE: A training, identify or timestamp control frame is received. -/
  | controlFrameReceive (port : Nat) (m : ControlMsg)
  /-- R379. MERIDIAN_HANDOFF: 40 ns after its frame arrives, a received line is handed to the mesh or the tally engine. -/
  | meridianHandoff (port : Nat)
  /-- R380. LANES_LOCKED: All 8 lanes lock and deskew, and the port enters identify. -/
  | lanesLocked (port : Nat)
  /-- R380. TRAINING_TIMEOUT: At 20 ms the port enters identify at 4 lanes, or goes down. -/
  | trainingTimeout (port : Nat) (halfLocked : Bool)
  /-- R380. DOWN_RETRY: After 1 s in down the port trains again. -/
  | downRetry (port : Nat)
  /-- R381. IDENTIFY: The identity exchange completes, and the port becomes up or refused. -/
  | identify (port : Nat) (peerAccepts : Bool)
  /-- R380. LINK_FAILURE: 8 replays without progress, or a loss of lane lock, moves the port to retraining. -/
  | linkFailure (port : Nat)
  /-- R380. RETRAIN_DONE: The lanes relock with the same peer, and the port is up again. -/
  | retrainDone (port : Nat) (lanes : Fin 9)
  /-- R380. RETRAIN_TIMEOUT: After 2 ms in retraining, or on a changed peer, the port goes down. -/
  | retrainTimeout (port : Nat)
  /-- R380. RETRAIN: An MER_CMD write starts training or retraining of a port. -/
  | retrain (port : Nat)
  /-- R380. DISABLE: An MER_CMD write disables a port. -/
  | disable (port : Nat)
  /-- R473. CABLE_PRESENCE_CHANGE: CBL_PRSNT_N changes, and a port without a cable stays disabled. -/
  | cablePresenceChange (port : Nat) (present : Bool)
  /-- R390. TALLY_SUBMIT: An Open thread queues a tally job descriptor with an engine. -/
  | tallySubmit (t : Tid) (die : Nat) (addr : Word)
  /-- R393. TALLY_JOB_START: The engine takes the next queued job, checks its descriptor and starts the header exchange. -/
  | tallyJobStart (die : Nat)
  /-- R394. TALLY_LINE_RECEIVE: A TALLY line of a step arrives, is added or written, and the dependent line is sent on. -/
  | tallyLineReceive (die : Nat) (half : Bool) (step : Nat) (index : Nat) (data : BitVec 512)
  /-- R398. TALLY_ABORT_LINE: An ABORT line arrives; the job ends in PEER_ABORT and forwards it. -/
  | tallyAbortLine (die : Nat)
  /-- R398. TALLY_TIMEOUT: No TALLY line has arrived for TIMEOUT_US, and the job ends in TIMEOUT. -/
  | tallyTimeout (die : Nat)
  /-- R397. TALLY_JOB_END: After its writes are performed, the job writes its status record and sends its signal. -/
  | tallyJobEnd (die : Nat)
  /-- R398. TALLY_ABORT: A write ends c's running job and discards queued jobs that carry the tag. -/
  | tallyAbort (t : Tid) (die : Nat) (tag : BitVec 32)
  /-- R400. SNAP: Copies every digest into the snapshot registers. -/
  | snap
  /-- R400. DIG_CLEAR: Sets every digest and snapshot to zero. -/
  | digClear
  /-- R407. KEY: A supervisor command queues the keying of a free slot from the ciphertext in CT. -/
  | key (c : Nat) (slot : Nat)
  /-- R407. KEY_START: The session engine takes the next KEY in round robin and checks it. -/
  | keyStart
  /-- R406. KEY_REPLICATION_ANSWER: A stack answers a replicated key with the hash it computed. -/
  | keyReplicationAnswer (stk : Nat) (hash : BitVec 256)
  /-- R406. REPLICATION_TIMEOUT: A stack fails to answer within 2 µs, and the key is resent, or KEY ends in REPLICATION. -/
  | replicationTimeout (stk : Nat)
  /-- R409. KEY_COMPLETE: The key is installed in every stack, the slot becomes keyed and CONFIRM is written. -/
  | keyComplete
  /-- R402. BIND: Moves a keyed slot to bound, so that GATE admits it. -/
  | bind (c : Nat) (slot : Nat)
  /-- R403. UNBIND: Moves a bound slot to keyed, so that no new GATE enters it. -/
  | unbind (c : Nat) (slot : Nat)
  /-- R412. RETIRE: Retires a slot: evicts its threads, drops its cached data, erases its key, purges, optionally fills and frees it. -/
  | retire (c : Nat) (slot : Nat) (fill : Bool)
  /-- R408. ROTATE: Generates a new session key pair and destroys the old decapsulation key. -/
  | rotate
  /-- R417. RECON: Reconstructs the identity seed from the helper record. -/
  | recon
  /-- R417. ENROL: Derives a new identity seed and helper record. -/
  | enrol
  /-- R418. IDENTITY_READY: The identity keys are derived and READY is set, or FAIL on a failed check. -/
  | identityReady
  /-- R420. QUOTE_GO: Assembles and starts signing a quote. -/
  | quoteGo (cid : Nat) (pkg : Bool)
  /-- R420. QUOTE_DONE: The quote is signed, and DONE is set. -/
  | quoteDone
  /-- R300. BDECL: Sends a DECLARE to a barrier's home and blocks until the event returns. -/
  | bdecl (t : Tid) (ra : Reg) (rb : Reg)
  /-- R301. BFREE: Sends a FREE to a declared barrier's home and blocks until the event returns. -/
  | bfree (t : Tid) (ra : Reg)
  /-- R303. BARR: Writes a token and posts an arrival; with KERNEL it first fences and drains. -/
  | barr (t : Tid) (rd : Reg) (ra : Reg)
  /-- R299. BSTAT: Reads a barrier replica. -/
  | bstat (t : Tid) (rd : Reg) (ra : Reg)
  /-- R307. WAIT: Blocks until masked signal flags are set or the token's barrier changes generation. -/
  | wait (t : Tid) (rd : Reg) (ra : Reg) (rb : Reg)
  /-- R309. SIG: Posts a SIGNAL packet to a thread. -/
  | sig (t : Tid) (ra : Reg) (rb : Reg)
  /-- R299. SPOLL: Reads and clears masked signal flags. -/
  | spoll (t : Tid) (rd : Reg) (ra : Reg)
  /-- R299. SIGCFG: Sets SIGIE and SIGOPEN. -/
  | sigcfg (t : Tid) (ra : Reg)
  /-- R299. SIGRD: Reads the signal word. -/
  | sigrd (t : Tid) (rd : Reg)
  /-- R300. DECLARE_AT_HOME: The home declares the barrier, releasing the old generation as REDECLARED, and emits DECLARE. -/
  | declareAtHome (die : Nat) (i : Nat)
  /-- R301. FREE_AT_HOME: The home undeclares the barrier and emits FREE. -/
  | freeAtHome (die : Nat) (i : Nat)
  /-- R305. ARRIVE_AT_HOME: The home adds CNT to ARRIVED and emits RELEASE, or FLUSH for a KERNEL barrier, when COUNT is reached. -/
  | arriveAtHome (die : Nat) (i : Nat)
  /-- R298. DECLARE_EVENT: A DECLARE event reaches every core and updates its replica. -/
  | declareEvent
  /-- R298. FREE_EVENT: A FREE event reaches every core, undeclaring the replica. -/
  | freeEvent
  /-- R298. RELEASE_EVENT: A RELEASE event advances the replicas' GEN and wakes the waiters. -/
  | releaseEvent
  /-- R286. FLUSH_EVENT: A FLUSH event makes every member core perform CINVA and IINV, drop its gather buffers and report. -/
  | flushEvent
  /-- R305. FLUSH_REPORT_COMPLETE: Every member core's flush report has arrived, and the home emits RELEASE. -/
  | flushReportComplete (b : Nat)
  /-- R438. BEACON_PARITY_RESEND: 80 fabric cycles after an event with bad parity, the root resends it. -/
  | beaconParityResend
  /-- R310. SIGNAL_ARRIVE: The target core ORs the permitted flags into the thread's FLAGS, or drops the packet. -/
  | signalArrive (core : Nat) (i : Nat)
  /-- R314. FOG_SAMPLE: At the end of each 1 µs interval the fog home counts quiet intervals and raises the alarm at FOG_US. -/
  | fogSample (c : Nat)
  /-- R315. FOG_ESCALATION: FOG_US intervals after an unanswered alarm, the alarm is escalated to the Keeper. -/
  | fogEscalation (c : Nat)
  /-- R315. FOG_ALARM_CLEAR: A W1C write of ALARM clears it and the FOG pending bit. -/
  | fogAlarmClear (acc : Accessor) (c : Nat)
  /-- R317. LIVE_LIMITS_WRITE: Writes FOG_US and NI_LIMIT independently, within their ranges. -/
  | liveLimitsWrite (acc : Accessor) (c : Nat) (v : Word)
  /-- R257. MESH_LIMITS_WRITE: Writes INJ_OCC and DEFL_LIMIT, which take effect at the next evaluation. -/
  | meshLimitsWrite (acc : Accessor) (c : Nat) (v : Word)
  /-- R273. MESH_CLEAR_TRAFFIC: Sets a die's MESH_DIE_TRAFFIC to zero. -/
  | meshClearTraffic (die : Nat)
  /-- R273. MESH_CLEAR_STATUS: Sets a die's MESH_DIE_STATUS to zero. -/
  | meshClearStatus (die : Nat)
  /-- R425. PERST_N_ASSERT: PERST_N driven low starts a cold reset at once and holds the clocks stopped. -/
  | perstNAssert
  /-- R426. PERST_N_RELEASE: PERST_N rising starts the cold boot sequence. -/
  | perstNRelease
  /-- R427. ROM_SELF_CHECK: The boot ROM's self-check passes, and STATE becomes waiting. -/
  | romSelfCheck
  /-- R427. BOOT_GO: Starts fetching an image, or rejects its length. -/
  | bootGo
  /-- R427. BOOT_ABORT: Abandons a fetch or verification and zeroes image memory. -/
  | bootAbort
  /-- R428. IMAGE_FETCHED: The last image byte has been fetched, and verification begins. -/
  | imageFetched
  /-- R428. VERIFY_DONE: Verification ends in running with FW_MEAS written, or in waiting with ERR set. -/
  | verifyDone
  /-- R429. WARM: A warm reset stops the Keeper and threads, retires slots, clears every core and returns the ROM to waiting. -/
  | warm
  /-- R432. CORE_RESET_GO: Starts a core reset: aborts the core's copy channels and waits for its streams. -/
  | coreResetGo (die : Nat) (index : Nat)
  /-- R432. CORE_RESET_DONE: The core's packets have returned, and the core is cleared and its threads set to start state. -/
  | coreResetDone (die : Nat)
  /-- R433. TRESET: Starts a debugger reset of a stopped thread. -/
  | treset (t : Tid)
  /-- R433. THREAD_RESET_DONE: The thread's packets have returned, and it is set to start state while staying stopped. -/
  | threadResetDone (t : Tid)
  /-- R440. KICK: Restarts the Keeper watchdog. -/
  | kick
  /-- R440. WATCHDOG_EXPIRY: A second without KICK stops the Keeper and asserts FAULT_N. -/
  | watchdogExpiry
  /-- R438. LANTERN_RETRY: An unacknowledged lantern message is repeated, and LANTERN is reported after the third failure. -/
  | lanternRetry (node : Nat)
  /-- R443. AGEING_SAMPLE: Every 600 s every ageing monitor of the part is read. -/
  | ageingSample (slacks : List Int)
  /-- R443. MONITOR_GATE: With no idle run within 1 s, the die controller gates a core's matrix issue for 64 cycles to sample it. -/
  | monitorGate (core : Nat)
  /-- R445. PLAN_COMPUTE: Every 24 powered hours the margin plan is computed and raised rails are moved. -/
  | planCompute
  /-- R445. FLOOR_RAISE: A rail below its floor is raised one step and resampled after 1 s, and MARGIN is reported at the maximum. -/
  | floorRaise (rail : Nat) (slack : Int)
  /-- R447. LOGBOOK_WRITE_CYCLE: The logbook controller appends a record, plans and fault entries, if 60 minutes have passed. -/
  | logbookWriteCycle
  /-- R455. INFO: A mailbox command that returns firmware, ROM, member, fleet and serial data. -/
  | info
  /-- R455. SET_WALL_TIME: Records the host wall time once per boot. -/
  | setWallTime (v : Word)
  /-- R455. CHART_LOAD: A mailbox command that loads a chart through the chart engine. -/
  | chartLoad (src : Word)
  /-- R455. CHART_CMD: A mailbox command that issues a chart command for a constellation. -/
  | chartCmd (cmd : BitVec 8) (cid : BitVec 8)
  /-- R455. FAULTED_SET: Sets a core's FAULTED bit. -/
  | faultedSet (core : Nat)
  /-- R455. FAULTED_CLEAR: Clears a core's FAULTED bit. -/
  | faultedClear (core : Nat)
  /-- R458. EVENT_READ: Returns event-log entries from a SEQ onward. -/
  | eventRead (seq : Nat) (count : Nat)
  /-- R455. LOGBOOK_READ: Returns logbook pages. -/
  | logbookRead (page : Nat) (count : Nat)
  /-- R455. STACK_WEAR: Returns per-bank activation totals of a channel. -/
  | stackWear (stk : Nat) (ch : Nat)
  /-- R455. POWER_CAP: A mailbox command that lowers the power cap in force. -/
  | powerCap (watts : BitVec 32)
  /-- R455. SKEY_ROTATE: A mailbox command that rotates the session key pair. -/
  | skeyRotate
  /-- R457. TELEMETRY_MIRROR: Every 1 ms the firmware copies a snapshot into the telemetry mirror, bracketed by SEQ. -/
  | telemetryMirror
  /-- R456. TALLY_CLEAR: Sets violation tallies to zero. -/
  | tallyClear (acc : Accessor) (v : Word)
  /-- R459. SMBUS_STATUS: Returns pin, lock and boot status over SMBus. -/
  | smbusStatus
  /-- R459. TJ_MAX: Returns the hottest junction temperature. -/
  | tjMax
  /-- R459. STACK_TMAX: Returns the hottest stack temperature. -/
  | stackTmax
  /-- R459. INPUT_POWER: Returns the input power in watts. -/
  | inputPower
  /-- R459. SERIAL: Returns the serial number. -/
  | serial
  /-- R459. WARM_RESET: Starts a warm reset when written with 0xA5. -/
  | warmReset (v : BitVec 8) (pecOk : Bool)
  /-- R459. SMBUS_POWER_CAP: Lowers the power cap over SMBus. -/
  | smbusPowerCap (w : BitVec 16) (pecOk : Bool)
  /-- R460. BYPASS: Selects the 1-bit bypass register. -/
  | bypass
  /-- R460. IDCODE: Selects the identification register. -/
  | idcode
  /-- R460. SAMPLE_PRELOAD: Samples or preloads the boundary register. -/
  | samplePreload
  /-- R460. EXTEST: Drives pins from scan while PERST_N is low, and acts as BYPASS otherwise. -/
  | extest
  /-- R460. CLAMP: Clamps pins while PERST_N is low, and acts as BYPASS otherwise. -/
  | clamp
  /-- R460. HIGHZ: Floats pins while PERST_N is low, and acts as BYPASS otherwise. -/
  | highz
  /-- R460. DBG_ACCESS: Performs an access to the debug window at Update-DR. -/
  | dbgAccess (write : Bool) (off : BitVec 32) (data : Word)
  /-- R461. DBG_STOP: Stops a thread at its next instruction boundary or progress point. -/
  | dbgStop (t : Tid)
  /-- R461. DBG_RESUME: Resumes a stopped thread. -/
  | dbgResume (t : Tid)
  /-- R462. DBG_STEP: Lets a stopped Open thread issue one instruction. -/
  | dbgStep (t : Tid)
  /-- R462. STEP_STOP: The stepped instruction retires, blocks or enters a handler, and the thread stops with REASON 2. -/
  | stepStop (t : Tid)
  /-- R466. DBG_DATA_ACCESS: Reads or writes the selected item of a stopped Open thread. -/
  | dbgDataAccess (core : Nat) (write : Bool) (data : Word)
  /-- R480. VIN_RISE: VIN rises through 40 V, and inrush limiting and rail bring-up begin. -/
  | vinRise
  /-- R480. POWER_GOOD: Internal power-good is reached. -/
  | powerGood
  /-- R480. VIN_FALL: VIN below 38 V for 100 µs switches off every rail. -/
  | vinFall
  /-- R476. POWER_COMPARATOR_EVAL: Every 2 µs the power, current and temperature comparators adjust each die's throttle level. -/
  | powerComparatorEval (powerMw : Nat) (vinMv : Nat) (currents : List Nat) (temps : List (Nat × Nat)) (stackTemps : List Nat)
  /-- R476. PWR_LIMITS_WRITE: Writes CAP_W, TJ_LIMIT and THR_MIN, which can only tighten the limits. -/
  | pwrLimitsWrite (v : Word)
  /-- R478. THERMAL_TRIP: A sensor reaches 105 °C: THERM_N latches low and every non-management rail switches off. -/
  | thermalTrip
  /-- R478. TRIP_RELEASE: With PERST_N low and every sensor at 85 °C or less, THERM_N releases. -/
  | tripRelease
  /-- R412. RETIREMENT_COMPLETE: The local-store purge and any fill of a retired slot finish, and the slot becomes free with owner 0. -/
  | retirementComplete (slot : Nat)
  /-- R370. DATA_LINK_UP: The host data link comes up after training, and outbound requests are again issued on it. -/
  | dataLinkUp
  /-- R363. CONFIGURATION_REQUEST: A host configuration request is answered: with Request Retry Status before readiness, and otherwise by setting fields such as Bus Master Enable, MSI-X enable, VF Enable or the power state. -/
  | configurationRequest (f : Nat) (fld : ConfigField) (v : Word)
  /-- R439. FABRIC_WIRE_FAILURE: A router, seam link or beacon-tree wire stops working, FAULT_N is asserted and the traffic through it is lost. -/
  | fabricWireFailure (unit : FabricUnit)
  /-- R71. REFERENCE_RETURN: The 100 MHz reference returns after a loss, and the sidereal counter, which counts while the reference is present, counts again. -/
  | referenceReturn
  deriving DecidableEq, Repr

end Sys2Proof
end

