-- ==== Sys2Proof/Decode.lean ====
section
/-! DEFINITION. Two decoders. `decodeTableWord` reads a command from the bits of the opcode table, which gives bits
to no row. `decodeInstr` reads the words that a thread fetches, by the encodings of R99-R104, R482 and of the unit
chapters, and names the command that the thread's core performs for them. Lean's runtime cannot build the constructors
beyond its 244th, so the decoders that name one are marked noncomputable: the kernel evaluates them as any other. -/

namespace Sys2Proof

/-- The command that a word of `nbits` bits spells by the bits of the opcode table: none, for the table gives bits to
no row. -/
def decodeTableWord (_nbits _w : Nat) : Option Instr := none

/-! ## Fields of an instruction word (R99, R181, R237) -/

/-- The `k` bits of a word from bit `lo` upward. -/
def fieldAt (w : BitVec 32) (lo k : Nat) : Nat := w.toNat / 2 ^ lo % 2 ^ k

/-- The five-bit field of a word from bit `lo` upward: a register or a number in its place. -/
def reg5 (w : BitVec 32) (lo : Nat) : Fin 32 := Fin.ofNat 32 (fieldAt w lo 5)

/-- One bit of a word. -/
def flagAt (w : BitVec 32) (lo : Nat) : Bool := fieldAt w lo 1 == 1

def majorOf (w : BitVec 32) : Nat := fieldAt w 26 6
def funcOf (w : BitVec 32) : Nat := fieldAt w 0 11
def opOf (w : BitVec 32) : Nat := fieldAt w 0 6

/-- The RD field, bits [25:21]. -/
def rdOf (w : BitVec 32) : Reg := reg5 w 21
/-- The RA field, bits [20:16]. -/
def raOf (w : BitVec 32) : Reg := reg5 w 16
/-- The RB field, bits [15:11]. -/
def rbOf (w : BitVec 32) : Reg := reg5 w 11
/-- The RC field of a long form, bits [10:6]. -/
def rcOf (w : BitVec 32) : Reg := reg5 w 6
/-- A page register number in the three bits from `lo`. -/
def pgAt (w : BitVec 32) (lo : Nat) : PgReg := Fin.ofNat 8 (fieldAt w lo 3)

/-- The bits of the fields of word 0: MAJOR with FUNC or OP, RD, RA, RB and RC. -/
def inFunc : BitVec 32 := 0xFC0007FF
def inOp : BitVec 32 := 0xFC00003F
def inRd : BitVec 32 := 0x03E00000
def inRa : BitVec 32 := 0x001F0000
def inRb : BitVec 32 := 0x0000F800
def inRc : BitVec 32 := 0x000007C0

/-- The instruction of a word that has no bit set outside the fields that the instruction uses: every other field must
be zero (R100, R482). -/
def only (w used : BitVec 32) (i : Instr) : Option Instr := if w &&& ~~~used = 0 then some i else none

/-! ## One-word instructions -/

/-- The system group, MAJOR 0x00 (R104, R132, R165, R282, R299). -/
noncomputable def decodeSystem (t : Tid) (w : BitVec 32) : Option Instr :=
  let rd := rdOf w
  let ra := raOf w
  let rb := rbOf w
  let k : Fin 16 := Fin.ofNat 16 rb.val
  let plain := only w inFunc
  let d := only w (inFunc ||| inRd)
  let a := only w (inFunc ||| inRa)
  let da := only w (inFunc ||| inRd ||| inRa)
  let ab := only w (inFunc ||| inRa ||| inRb)
  let dab := only w (inFunc ||| inRd ||| inRa ||| inRb)
  let ring := only w (inFunc ||| 0x7800)
  let ringA := only w (inFunc ||| inRa ||| 0x7800)
  let ringD := only w (inFunc ||| inRd ||| 0x7800)
  let ringDA := only w (inFunc ||| inRd ||| inRa ||| 0x7800)
  match funcOf w with
  | 0x000 => plain (.undef t false)
  | 0x001 => plain (.nop t)
  | 0x002 => plain (.brk t)
  | 0x010 => plain (.scall t)
  | 0x011 => a (.gate t ra)
  | 0x012 => plain (.gateOut t)
  | 0x013 => plain (.eret t)
  | 0x014 => only w (inFunc ||| inRd ||| inRb) (.mfe t rd rb)
  | 0x015 => ab (.mte t rb ra)
  | 0x016 => only w (inFunc ||| inRd ||| 0x1800) (.xsw t rd (Fin.ofNat 4 rb.val))
  | 0x017 => plain (.edone t)
  | 0x018 => a (.nibegin t ra)
  | 0x019 => plain (.niend t)
  | 0x01A => d (.mfs t rd)
  | 0x01B => a (.mts t ra)
  | 0x020 => plain (.fence t)
  | 0x021 => plain (.fencer t)
  | 0x022 => plain (.fencea t)
  | 0x024 => ringA (.cwait t ra k)
  | 0x025 => plain (.cwaita t)
  | 0x026 => ringD (.crd t rd k)
  | 0x030 => ab (.bdecl t ra rb)
  | 0x031 => a (.bfree t ra)
  | 0x032 => da (.barr t rd ra)
  | 0x033 => da (.bstat t rd ra)
  | 0x034 => dab (.wait t rd ra rb)
  | 0x035 => ab (.sig t ra rb)
  | 0x036 => da (.spoll t rd ra)
  | 0x037 => a (.sigcfg t ra)
  | 0x038 => d (.sigrd t rd)
  | 0x040 => ringA (.rpush t k ra)
  | 0x041 => ringA (.rpushg t k ra)
  | 0x042 => ringD (.rpop t rd k)
  | 0x043 => ringD (.rpopg t rd k)
  | 0x044 => ringDA (.rtpush t rd k ra)
  | 0x045 => ringDA (.rtpushg t rd k ra)
  | 0x046 => ringDA (.rtpop t rd k ra)
  | 0x047 => ringDA (.rtpopg t rd k ra)
  | 0x048 => ringD (.rstat t rd k)
  | 0x049 => only w (inFunc ||| inRd ||| 0x30000 ||| 0x7800) (.rrd t rd k (Fin.ofNat 4 ra.val))
  | 0x04A => ringA (.rwbase t k ra)
  | 0x04B => ringA (.rwsize t k ra)
  | 0x04C => ringA (.rwhead t k ra)
  | 0x04D => ringA (.rwtail t k ra)
  | 0x04E => ring (.rclr t k)
  | 0x050 => d (.rdtime t rd)
  | 0x051 => d (.rdcyc t rd)
  | 0x052 => only w (inFunc ||| inRd ||| 0x3800) (.rdfw t rd (pgAt w 11))
  | 0x053 => d (.rdrsp t rd)
  | 0x054 => a (.wrrsp t ra)
  | 0x060 => only w (inFunc ||| inRa ||| 0x3800) (.cwb t ra (pgAt w 11))
  | 0x061 => only w (inFunc ||| inRa ||| 0x3800) (.cinv t ra (pgAt w 11))
  | 0x062 => plain (.cwba t)
  | 0x063 => plain (.cinva t)
  | 0x064 => plain (.iinv t)
  | _ => none

/-- The ALU group, MAJOR 0x01 (R102). -/
def decodeAlu (t : Tid) (w : BitVec 32) : Option Instr :=
  let rd := rdOf w
  let ra := raOf w
  let rb := rbOf w
  let unary := only w (inFunc ||| inRd ||| inRa)
  match funcOf w with
  | 0x00 => some (.add t rd ra rb)
  | 0x01 => some (.sub t rd ra rb)
  | 0x02 => some (.and t rd ra rb)
  | 0x03 => some (.or t rd ra rb)
  | 0x04 => some (.xor t rd ra rb)
  | 0x05 => some (.andn t rd ra rb)
  | 0x06 => some (.shl t rd ra rb)
  | 0x07 => some (.shr t rd ra rb)
  | 0x08 => some (.sar t rd ra rb)
  | 0x09 => some (.rol t rd ra rb)
  | 0x0A => some (.slt t rd ra rb)
  | 0x0B => some (.sltu t rd ra rb)
  | 0x0C => some (.min t rd ra rb)
  | 0x0D => some (.max t rd ra rb)
  | 0x0E => some (.minu t rd ra rb)
  | 0x0F => some (.maxu t rd ra rb)
  | 0x10 => some (.mul t rd ra rb)
  | 0x11 => some (.mulh t rd ra rb)
  | 0x12 => some (.mulhu t rd ra rb)
  | 0x14 => some (.div t rd ra rb)
  | 0x15 => some (.divu t rd ra rb)
  | 0x16 => some (.rem t rd ra rb)
  | 0x17 => some (.remu t rd ra rb)
  | 0x18 => unary (.clz t rd ra)
  | 0x19 => unary (.ctz t rd ra)
  | 0x1A => unary (.pop t rd ra)
  | _ => none

/-- The immediate shifts, MAJOR 0x08: the kind is IMM16[7:6] and IMM16[15:8] is zero (R101). -/
def decodeShift (t : Tid) (w : BitVec 32) : Option Instr :=
  let n : BitVec 6 := BitVec.ofNat 6 (fieldAt w 0 6)
  only w 0xFFFF00FF <|
    match fieldAt w 6 2 with
    | 0 => .shli t (rdOf w) (raOf w) n
    | 1 => .shri t (rdOf w) (raOf w) n
    | 2 => .sari t (rdOf w) (raOf w) n
    | _ => .roli t (rdOf w) (raOf w) n

/-- The atomics, MAJOR 0x1E (R291). -/
def decodeAtom (t : Tid) (w : BitVec 32) : Option Instr :=
  let rd := rdOf w
  let ra := raOf w
  let rb := rbOf w
  let pg := pgAt w 8
  let addN := only w (inFunc ||| inRa ||| inRb)
  match fieldAt w 0 8 with
  | 0x00 => some (.swap t rd ra rb pg)
  | 0x01 => some (.cas t rd ra rb pg)
  | 0x02 => some (.fadd t rd ra rb pg)
  | 0x03 => some (.fand t rd ra rb pg)
  | 0x04 => some (.forA t rd ra rb pg)
  | 0x05 => some (.fxor t rd ra rb pg)
  | 0x06 => some (.fmax t rd ra rb pg)
  | 0x07 => some (.fmin t rd ra rb pg)
  | 0x08 => some (.fmaxu t rd ra rb pg)
  | 0x09 => some (.fminu t rd ra rb pg)
  | 0x0A => only w (inFunc ||| inRd ||| inRa) (.aload t rd ra pg)
  | n =>
    if n / 8 = 2 then addN (.addn32 t ra rb pg (pgAt w 0))
    else if n / 8 = 3 then addN (.addn64 t ra rb pg (pgAt w 0))
    else none

/-- A one-word instruction (R101, R113, R482). -/
noncomputable def decodeShort (t : Tid) (w : BitVec 32) : Option Instr :=
  let rd := rdOf w
  let ra := raOf w
  let rb := rbOf w
  let imm : BitVec 16 := BitVec.ofNat 16 (fieldAt w 0 16)
  let imm13 : BitVec 13 := BitVec.ofNat 13 (fieldAt w 0 13)
  let imm21 : BitVec 21 := BitVec.ofNat 21 (fieldAt w 0 21)
  let disp : BitVec 26 := BitVec.ofNat 26 (fieldAt w 0 26)
  let pg := pgAt w 13
  let size : Fin 4 := Fin.ofNat 4 (fieldAt w 4 2)
  let scale : Fin 4 := Fin.ofNat 4 (fieldAt w 6 2)
  let peer : Fin 4 := Fin.ofNat 4 rb.val
  match majorOf w with
  | 0x00 => decodeSystem t w
  | 0x01 => decodeAlu t w
  | 0x02 => some (.addi t rd ra imm)
  | 0x03 => some (.andi t rd ra imm)
  | 0x04 => some (.ori t rd ra imm)
  | 0x05 => some (.xori t rd ra imm)
  | 0x06 => some (.slti t rd ra imm)
  | 0x07 => some (.sltiu t rd ra imm)
  | 0x08 => decodeShift t w
  | 0x09 => some (.li t rd imm21)
  | 0x0A => some (.lsh t rd imm21)
  | 0x10 => some (.ldb t rd ra pg imm13)
  | 0x11 => some (.ldbs t rd ra pg imm13)
  | 0x12 => some (.ldh t rd ra pg imm13)
  | 0x13 => some (.ldhs t rd ra pg imm13)
  | 0x14 => some (.ldw t rd ra pg imm13)
  | 0x15 => some (.ldws t rd ra pg imm13)
  | 0x16 => some (.ldd t rd ra pg imm13)
  | 0x18 => some (.stb t rd ra pg imm13)
  | 0x19 => some (.sth t rd ra pg imm13)
  | 0x1A => some (.stw t rd ra pg imm13)
  | 0x1B => some (.std t rd ra pg imm13)
  | 0x1C => only w 0xFFFFFFF8 (.ldx t rd ra rb (pgAt w 8) scale size (flagAt w 3))
  | 0x1D => only w 0xFFFFFFF0 (.stx t rd ra rb (pgAt w 8) scale size)
  | 0x1E => decodeAtom t w
  | 0x20 => some (.beq t rd ra imm)
  | 0x21 => some (.bne t rd ra imm)
  | 0x22 => some (.blt t rd ra imm)
  | 0x23 => some (.bge t rd ra imm)
  | 0x24 => some (.bltu t rd ra imm)
  | 0x25 => some (.bgeu t rd ra imm)
  | 0x26 => some (.jmp t disp)
  | 0x27 => some (.call t disp)
  | 0x28 => only w (0xFC000000 ||| inRa) (.jr t ra)
  | 0x29 => only w (0xFC000000 ||| inRa) (.callr t ra)
  | 0x2A => only w 0xFC000000 (.ret t)
  | 0x2B =>
    match funcOf w with
    | 0 => only w (inFunc ||| 0xE00000 ||| inRa) (.setpg t (pgAt w 21) ra)
    | 1 => only w (inFunc ||| inRd ||| 0x3800) (.getpg t rd (pgAt w 11))
    | _ => none
  | 0x2C =>
    match funcOf w with
    | 0 => only w (inFunc ||| inRa ||| 0x1800) (.pwr t peer ra)
    | 1 => only w (inFunc ||| inRa ||| 0x1800) (.pwrl t peer ra)
    | 2 => only w (inFunc ||| inRd ||| 0x1800) (.prd t rd peer)
    | 3 => only w (inFunc ||| inRd ||| 0x1800) (.ptst t rd peer)
    | _ => none
  | _ => none

/-! ## Long forms (R99) -/

/-- The instruction of two words that have no bit set outside the fields that it uses. -/
def only2 (w u used0 used1 : BitVec 32) (i : Instr) : Option Instr := (only w used0 i).bind fun _ => only u used1 i

/-- The matrix instructions, MAJOR 0x3D (R181). A reserved CM is UNDEF, and the reserved codes of TST and RANGE are
found when they issue. -/
def decodeMatrix (t : Tid) (w u : BitVec 32) : Option Instr :=
  let rd := rdOf w
  let ra := raOf w
  let rb := rbOf w
  let rc := rcOf w
  let z : Fin 2 := Fin.ofNat 2 rd.val
  let rowsA : Fin 64 := Fin.ofNat 64 (fieldAt u 6 6)
  let bytesA : Fin 64 := Fin.ofNat 64 (fieldAt u 12 6)
  let rowsB : Fin 64 := Fin.ofNat 64 (fieldAt u 18 6)
  let bytesB : Fin 64 := Fin.ofNat 64 (fieldAt u 24 6)
  let tile : Fin 4 := Fin.ofNat 4 (fieldAt u 3 2)
  let nib (lo : Nat) : Fin 16 := Fin.ofNat 16 (fieldAt u lo 4)
  let pg := pgAt u 0
  let inZ : BitVec 32 := 0x00200000
  match opOf w with
  | 0x01 => only2 w u (inOp ||| inRa ||| inRc) 0x0003FFC7 (.tlda t ra rc pg rowsA bytesA)
  | 0x02 => only2 w u (inOp ||| inRb ||| inRc) 0x3FFC0038 (.tldb t rb rc (pgAt u 3) rowsB bytesB)
  | 0x03 => only2 w u (inOp ||| inRa ||| inRb ||| inRc) 0x3FFFFFFF
      (.tldab t ra rb rc pg rowsA bytesA (pgAt u 3) rowsB bytesB)
  | 0x04 =>
    if h : fieldAt u 0 2 < 3 then only2 w u (inOp ||| inZ) 3 (.mma t z ⟨fieldAt u 0 2, h⟩) else none
  | 0x05 => only2 w u (inOp ||| inZ) 0 (.tclr t z)
  | 0x06 => only2 w u inOp 0xF (.trel t (BitVec.ofNat 4 (fieldAt u 0 4)))
  | 0x07 => only2 w u (inOp ||| inZ ||| inRa ||| inRb ||| inRc) 0xFFF
      (.tst t z ra rb rc pg (pgAt u 3) (flagAt u 6) (flagAt u 7) (flagAt u 8) (flagAt u 9) (Fin.ofNat 4 (fieldAt u 10 2)))
  | 0x08 => only2 w u (inOp ||| inRa ||| inRb ||| inRc) 0x7FFF
      (.range t ra rb rc pg (pgAt u 3) (nib 6) (nib 10) (flagAt u 14))
  | 0x09 => only2 w u (inOp ||| inRa) 7 (.txld t ra pg)
  | 0x0A => only2 w u (inOp ||| inRa) 0x1F (.tsave t ra pg tile)
  | 0x0B => only2 w u (inOp ||| inRa) 0x1F (.trestore t ra pg tile)
  | 0x0C => only2 w u (inOp ||| inRd) 0xF (.mft t rd (nib 0))
  | 0x0D => only2 w u (inOp ||| inRa) 0xF (.mtt t ra (nib 0))
  | 0x0E => only2 w u inOp 0 (.twait t)
  | _ => none

/-- The element type of a code (R235). -/
def etypeOf : Nat → Option EType
  | 0x0 => some .nf4
  | 0x1 => some .nf6
  | 0x2 => some .nf8
  | 0x3 => some .nw8
  | 0x4 => some .nf16
  | 0x5 => some .nf32
  | 0x8 => some .i8
  | 0x9 => some .i16
  | 0xA => some .i32
  | 0xB => some .i64
  | _ => none

/-- The comparison of SUB of VCMP (R238). -/
def cmpOf : Nat → Option CmpOp
  | 0 => some .eq
  | 1 => some .ne
  | 2 => some .lt
  | 3 => some .le
  | _ => none

/-- The reduction of SUB of VRED and VLRED (R238, R242). -/
def redOf : Nat → Option RedOp
  | 0 => some .sum
  | 1 => some .max
  | 2 => some .min
  | 3 => some .ssq
  | _ => none

/-- The operation of SUB of VLOP (R243). -/
def lopOf : Nat → Option LopOp
  | 0 => some .add
  | 1 => some .mul
  | 2 => some .max
  | 3 => some .min
  | 4 => some .exp2
  | 5 => some .rcp
  | _ => none

/-- The vector instructions, MAJOR 0x3C (R237, R238, R243). VLD, VST and VLDC take every type that R235 says they
accept, and move the same bytes for each (log entry 121, DEDUCED). A listed type that another instruction does not
accept is found when it issues. -/
def decodeVector (t : Tid) (w u : BitVec 32) : Option Instr :=
  let rd := rdOf w
  let ra := raOf w
  let rb := rbOf w
  let rc := rcOf w
  let uns := flagAt u 10
  let rm := flagAt u 8
  let pg := pgAt u 14
  let sub := fieldAt u 11 3
  let et := etypeOf (fieldAt u 0 4)
  let et2 := etypeOf (fieldAt u 4 4)
  let da := inOp ||| inRd ||| inRa
  let dab := da ||| inRb
  let dabc := dab ||| inRc
  let inU : BitVec 32 := 0x400
  let inSub : BitVec 32 := 0x3800
  let inPg : BitVec 32 := 0x1C000
  let typed (used0 used1 : BitVec 32) (f : EType → Instr) : Option Instr :=
    et.bind fun e => only2 w u used0 (0xF ||| used1) (f e)
  let conv (used0 used1 : BitVec 32) (f : EType → EType → Instr) : Option Instr :=
    et2.bind fun e2 => typed used0 (0x1F0 ||| inU ||| used1) fun e => f e e2
  match opOf w with
  | 0x01 => typed dab 0 (.vadd t rd ra rb)
  | 0x02 => typed dab 0 (.vsub t rd ra rb)
  | 0x03 => typed dab 0 (.vmul t rd ra rb)
  | 0x04 => typed dabc 0 (.vfma t rd ra rb rc)
  | 0x05 => typed dab inU (.vmax t rd ra rb · uns)
  | 0x06 => typed dab inU (.vmin t rd ra rb · uns)
  | 0x07 => typed dab 0 (.vand t rd ra rb)
  | 0x08 => typed dab 0 (.vor t rd ra rb)
  | 0x09 => typed dab 0 (.vxor t rd ra rb)
  | 0x0A => typed dab 0 (.vshl t rd ra rb)
  | 0x0B => typed dab inU (.vshr t rd ra rb · uns)
  | 0x0C => (cmpOf sub).bind fun c => typed dab (inU ||| inSub) (.vcmp t rd ra rb · c uns)
  | 0x0D => typed dabc 0 (.vsel t rd ra rb rc)
  | 0x0E => typed da 0 (.vexp t rd ra)
  | 0x0F => typed da 0 (.vrcp t rd ra)
  | 0x10 => conv dab 0 (.vcvt t rd ra rb · · rm uns)
  | 0x11 => (redOf sub).bind fun o => typed da (inU ||| inSub) (.vred t rd ra · o uns)
  | 0x12 => typed da 0 (.vbcast t rd ra)
  | 0x13 => typed dab 0 (.vext t rd ra rb)
  | 0x14 => typed dab 0 (.vins t rd ra rb)
  | 0x15 => only2 w u (inOp ||| inRd ||| inRb) 0 (.vmfc t rd rb)
  | 0x16 => only2 w u (inOp ||| inRa ||| inRb) 0 (.vmtc t rb ra)
  | 0x20 => typed da inPg fun _ => .vld t rd ra pg
  | 0x21 => typed da inPg fun _ => .vst t ra rd pg
  | 0x22 => if et = some .nf4 then none else typed da inPg fun _ => .vldc t rd ra pg
  | 0x23 => typed dab inPg (.vgth t rd ra rb · pg)
  | 0x24 => typed (inOp ||| inRa ||| inRb ||| inRc) inPg (.vsct t rc ra rb · pg)
  | 0x28 => (lopOf sub).bind fun o => typed dabc (inU ||| inSub ||| inPg) (.vlop t rd ra rb rc · o uns pg)
  | 0x29 => conv dabc inPg (.vlcvt t rd ra rb rc · · rm uns pg)
  | 0x2A => (redOf sub).bind fun o => typed dab (inU ||| inSub ||| inPg) (.vlred t rd ra rb · o uns pg)
  | _ => none

/-- The copy instructions, MAJOR 0x3E (R320). -/
def decodeCopy (t : Tid) (w u : BitVec 32) : Option Instr :=
  let ch : Fin 4 := Fin.ofNat 4 (fieldAt u 0 2)
  let f := pgAt u 2
  match opOf w with
  | 0x01 => only2 w u (inOp ||| inRa) 0x1F (.cpset t ch f (raOf w))
  | 0x02 => only2 w u (inOp ||| inRd) 0x1F (.cpget t (rdOf w) ch f)
  | 0x03 => only2 w u inOp 3 (.cpwait t ch)
  | _ => none

/-- A MAJOR of the long forms (R99). -/
def isLongMajor (n : Nat) : Bool := n == 0x3C || n == 0x3D || n == 0x3E

/-- A two-word instruction. -/
def decodeLong (t : Tid) (w u : BitVec 32) : Option Instr :=
  if majorOf w = 0x3C then decodeVector t w u else if majorOf w = 0x3D then decodeMatrix t w u else decodeCopy t w u

/-- The command of the word at a thread's PC and, for a long form, of the word that follows it: `none` stands for a word
whose fetch was refused. Every encoding that no chapter lists is UNDEF, and so is a long form whose second word was
refused, whatever it held (R31, R99, R100). -/
noncomputable def decodeInstr (t : Tid) (first second : Option (BitVec 32)) : Instr :=
  match first with
  | none => .undef t true
  | some w =>
    if isLongMajor (majorOf w) then
      match second with
      | none => .undef t true
      | some u => (decodeLong t w u).getD (.undef t false)
    else (decodeShort t w).getD (.undef t false)

end Sys2Proof
end

