-- ==== Sys2Proof/Config.lean ====
section
/-! DEFINITION. What one part fixes and the spec leaves open: free values, and the results of the
cryptographic standards that the spec names and does not restate. Every constant is opaque: no
proof can see its value, so a claim about it holds for every value. -/

namespace Sys2Proof.Config

open Sys2Proof

/-- The k-th value that the spec leaves open (log entry 3, DESIGN CHOICE). -/
opaque freeWord : Nat → Word

/-- SHA-256 (R36, R50, R406, R419; log entry 4, DESIGN CHOICE). -/
opaque sha256 : List Byte → BitVec 256

/-- SLH-DSA-SHA2-128s verification of a chart: key, message, signature (R34, R50). -/
opaque slh128Verify : List Byte → List Byte → List Byte → Bool

/-- SLH-DSA-SHA2-256s verification of a Horwin image (R422). -/
opaque slh256Verify : List Byte → List Byte → List Byte → Bool

/-- The hash of the image signer's key held in the boot ROM (R422). -/
opaque romKeyHash : BitVec 256

/-- ROM_MEAS, the SHA-256 of the boot ROM (R419). -/
opaque romMeas : BitVec 256

/-- ROM_VERSION (R427). -/
opaque romVersion : BitVec 16

/-- The 16-byte serial number in the manufacturing area of the logbook (R446, R455). -/
opaque serialNumber : Fin 16 → Byte

/-- Byte i of page p of the logbook as manufacture left it: the manufacturing area, and every page that no write
has reached (R446; log entry 41, DESIGN CHOICE). -/
opaque logbookInit : Nat → Nat → Byte

/-- The slope that R445 takes over samples of a rail's slack, in ps per hour, as a numerator over a denominator less
one: R445 does not state how it is fitted (log entry 42, DESIGN CHOICE). -/
opaque slopeNum : List Int → Int
/-- The denominator, less one. -/
opaque slopeDen : List Int → Nat

/-- Silicon revision of IDCODE (R460). -/
opaque siliconRevision : BitVec 4

/-- The k-th ML-KEM-768 encapsulation key that the session engine generates, by byte (R408). -/
opaque sessionPub : Nat → Fin 1184 → Byte

/-- ML-KEM-768 decapsulation of a ciphertext under the k-th pair (R409, R410). -/
opaque decapsulate : Nat → List Byte → BitVec 256

/-- 96 bytes of HKDF-SHA-256 from IKM, salt and info (R409). -/
opaque hkdf : BitVec 256 → BitVec 256 → List Byte → BitVec 768

/-- What AES-256-XTS gives when a line is decrypted under another key, generation or address than it was encrypted under (R340,
R414; log entry 4, DESIGN CHOICE): key number, generation and fabric line of the writer, and then of the reader, and the line that
the writer stored. -/
opaque wrongDecrypt : Nat × BitVec 32 × Nat → Nat × BitVec 32 × Nat → Line → Line

/-- The seed that the identity SRAM and a helper record give, if its check passes (R416, R417). -/
opaque reconSeed : List Byte → Option (BitVec 256)

/-- The seed and the helper record of an enrolment, by byte (R417). -/
opaque enrolSeed : Nat → BitVec 256
/-- Byte i of the helper record of the k-th enrolment (R416). -/
opaque enrolHelper : Nat → Nat → Byte

/-- The SLH-DSA public key derived from a seed (R418). -/
opaque identityPub : BitVec 256 → BitVec 256

/-- Byte i of the signature of a quote body under the identity (R420). -/
opaque quoteSig : BitVec 256 → List Byte → Nat → Byte

/-- The answer of the SPDM responder to the last of the messages received, in its length and by byte (R421,
DSP0274; log entry 4, DESIGN CHOICE). -/
opaque spdmLength : List Byte → Nat
/-- Byte i of that answer. -/
opaque spdmByte : List Byte → Nat → Byte

/-- The answer to a DOE Discovery object, in its length and by byte: PCI Express gives it, not the spec. -/
opaque doeLength : List Byte → Nat
/-- Byte i of that answer. -/
opaque doeByte : List Byte → Nat → Byte

/-- The IDE stream that PCI Express's rules assign to inbound TLPs of a function (R373; log entry 38, DESIGN CHOICE). -/
opaque ideInbound : Fin 8 → Nat → Bool

/-- What a configuration read of a function's register gives where the spec does not state it (log entry 122, DESIGN
CHOICE). -/
opaque configWord : Nat → Nat → Word

/-- Which of the NF32 values within the bound of R240 VEXP and VRCP give for an input. -/
opaque vexpPick : BitVec 32 → Nat
/-- The choice of VRCP. -/
opaque vrcpPick : BitVec 32 → Nat

/-- The sign of an exact zero that an addition or multiplication of codes gives (R219, R239, R242 state
none; log entry 17, DESIGN CHOICE). -/
opaque zeroSign : Nat → Nat → Nat → Bool

/-- EXP2 (true) and RCP of `VLOP` in an 8-bit format or on integers, for which R240 states no value: s and c (log entry 119,
DESIGN CHOICE). -/
opaque narrowFn : Bool → Nat → Nat → Word

end Sys2Proof.Config
end

