-- ==== Sys2Proof/Machine/Maps.lean ====
section
/-! DEFINITION. Operations of sparse tables, and of bytes, words and lines in little-endian order
(R6). -/

namespace Sys2Proof

/-- The entry of key `k`, if it is listed. -/
def Map.find {α : Type} : Map α → Nat → Option α
  | [], _ => none
  | (j, v) :: m, k => if k = j then some v else Map.find m k

/-- What key `k` reads as; `d` is what an unlisted key reads as. -/
def Map.get {α : Type} (d : α) (m : Map α) (k : Nat) : α := (Map.find m k).getD d

/-- The table without key `k`. -/
def Map.drop {α : Type} (m : Map α) (k : Nat) : Map α := m.filter (fun p => decide (p.1 ≠ k))

/-- Insertion of a key that is not listed, before the first larger key. -/
def Map.insert {α : Type} (k : Nat) (v : α) : Map α → Map α
  | [] => [(k, v)]
  | p :: m => if k < p.1 then (k, v) :: p :: m else p :: Map.insert k v m

/-- The table in which `k` reads as `v`; a value equal to `d` is not listed. -/
def Map.set {α : Type} [DecidableEq α] (d : α) (m : Map α) (k : Nat) (v : α) : Map α :=
  if v = d then Map.drop m k else Map.insert k v (Map.drop m k)

/-- The canonical form: keys strictly rising, and no entry equal to `d`. -/
def Map.wf {α : Type} [DecidableEq α] (d : α) (m : Map α) : Bool :=
  decide (m.Pairwise (fun p q => p.1 < q.1)) && m.all (fun p => decide (p.2 ≠ d))

/-- The number that bytes give, the first the least significant (R6). -/
def leNat : List Byte → Nat
  | [] => 0
  | b :: bs => b.toNat + 256 * leNat bs

/-- The low `n` bytes of a number, the least significant first. -/
def natBytes (n v : Nat) : List Byte := (List.range n).map fun i => BitVec.ofNat 8 (v >>> (8 * i))

/-- A 64-byte line from its bytes. -/
def lineOf (bs : List Byte) : Line := BitVec.ofNat 512 (leNat bs)

/-- Byte `i` of a line. -/
def lineByte (l : Line) (i : Nat) : Byte := l.extractLsb' (8 * i) 8

/-- The bytes of a line. -/
def lineBytes (l : Line) : List Byte := (List.range 64).map (lineByte l)

/-- `n` bytes of a line from byte `off`, as a number. -/
def lineNat (l : Line) (off n : Nat) : Nat := (l.toNat >>> (8 * off)) % 2 ^ (8 * n)

/-- The line `old` with `n` bytes from `off` replaced by the low bytes of `v`. -/
def lineSet (old : Line) (off n v : Nat) : Line :=
  let m := ((2 ^ (8 * n) - 1) <<< (8 * off)) % 2 ^ 512
  BitVec.ofNat 512 ((old.toNat &&& (2 ^ 512 - 1 - m)) ||| ((v % 2 ^ (8 * n)) <<< (8 * off)))

/-- The line `old` with the bytes from `first` to `last` taken from `new` (R261, R277). -/
def linePatch (old new : Line) (first last : Nat) : Line :=
  lineSet old first (last + 1 - first) (lineNat new first (last + 1 - first))

/-- Bytes `base`, `base + 1`, … of a memory. -/
def readBytes (m : Map Byte) (base : Nat) : Nat → List Byte
  | 0 => []
  | n + 1 => Map.get 0 m base :: readBytes m (base + 1) n

/-- The memory with the bytes stored from `base` on. -/
def writeBytes (m : Map Byte) (base : Nat) : List Byte → Map Byte
  | [] => m
  | b :: bs => writeBytes (Map.set 0 m base b) (base + 1) bs

/-- Sign extension of the low `n` bytes of a word (R101). -/
def sextBytes (n : Nat) (v : Nat) : Word :=
  if v % 2 ^ (8 * n) < 2 ^ (8 * n - 1) then BitVec.ofNat 64 (v % 2 ^ (8 * n))
  else BitVec.ofInt 64 ((v % 2 ^ (8 * n) : Nat) - (2 ^ (8 * n) : Nat) : Int)

/-- The value a load of `n` bytes returns, sign- or zero-extended. -/
def loadValue (n : Nat) (sx : Bool) (v : Nat) : Word :=
  if sx then sextBytes n v else BitVec.ofNat 64 (v % 2 ^ (8 * n))

/-- Replace entry `i` of a list by the entries `xs`. -/
def spliceAt {α : Type} (l : List α) (i : Nat) (xs : List α) : List α := l.take i ++ xs ++ l.drop (i + 1)

/-- The list without entry `i`. -/
def dropAt {α : Type} (l : List α) (i : Nat) : List α := l.eraseIdx i

/-- A number that counts up to `top` and stays there. -/
def satAdd (top a b : Nat) : Nat := min top (a + b)

/-- One if true. -/
def bit (b : Bool) : Nat := if b then 1 else 0

/-- One bit of a reflected CRC-32C. -/
def crcBit (c : Nat) : Nat := if c % 2 = 1 then (c / 2) ^^^ 0x82F63B78 else c / 2

/-- CRC-32C (Castagnoli) of bytes. -/
def crc32c (bs : List Byte) : Nat :=
  (bs.foldl (fun c b => (List.range 8).foldl (fun c _ => crcBit c) (c ^^^ b.toNat)) 0xFFFFFFFF) ^^^ 0xFFFFFFFF

/-- The bits of a word from `lo`, `n` of them, as a number. -/
def field (w : Word) (lo n : Nat) : Nat := (w.toNat >>> lo) % 2 ^ n

end Sys2Proof
end

