-- ==== Sys2Proof/Machine/State.lean ====
section
/-! DEFINITION. The state of the part as plain data, and the reasons a step can stop. Each field
names the rule that gives it. A field with a default value takes that value at a cold reset; fields
marked MODEL are the model's own bookkeeping and no state of the spec. -/

namespace Sys2Proof.Machine

open Sys2Proof

/-- Why a step stops with a fault: no command does, so there is no reason. -/
inductive Fault
  deriving DecidableEq, Repr

/-- Why a step refuses a command. -/
inductive Refusal where
  /-- Answered only by `exec` for a command that has no meaning yet. Safe. -/
  | notModelled (mnemonic : String)
  deriving DecidableEq, Repr

/-- The three outcomes of a step of the part. -/
abbrev Out (σ : Type) := Host.Outcome σ Fault Refusal

/-! ## Tags and accesses -/

/-- World and session slot that an access, a line, a tile or a pipe word carries (R109, R157). -/
structure Tag where
  sealed : Bool := false
  session : BitVec 12 := 0
  deriving DecidableEq, Repr

/-- Packet types (R261); `control` marks a RD or WR to control space (R266). -/
inductive PType where
  | rd | rdata | wr | wack | atom | atomr | add | arrive | signal | tally
  deriving DecidableEq, Repr

/-- The engines whose accesses to one line are kept in order (R265, R274). -/
inductive Engine where
  | thread (t : Tid)
  | cache (core : Nat)
  | port (p : Nat)
  | chan (k : Nat)
  /-- The engine on local-store port p of a core (R146). -/
  | unit (core p : Nat)
  deriving DecidableEq, Repr

/-- Where the result of a load goes. `id` distinguishes this load from a later one to the same
register (MODEL, log entry 13, DESIGN CHOICE). -/
inductive Dst where
  | g (r : Reg) (id : Nat)
  | v (r : Reg) (id : Nat)
  | pc
  | nowhere
  deriving DecidableEq, Repr

/-- What the answer of an outstanding packet does at its issuer (R263). -/
inductive Use where
  /-- A scalar read of `size` bytes at byte `off` of the line. -/
  | load (t : Tid) (dst : Dst) (off size : Nat) (sx : Bool)
  /-- A data-cache fill that also completes a load, when `dst` is a register (R108). -/
  | fill (t : Tid) (dst : Dst) (off size : Nat) (sx : Bool)
  /-- A posted write, or an instruction-cache fill. -/
  | ack (t : Tid)
  /-- A write-back of the data cache (R111). -/
  | writeBack (t : Tid)
  /-- The old word of an ATOM (R291). -/
  | atomOld (t : Tid) (dst : Dst)
  /-- A remote request that a Meridian port injected, with its TAG (R388). -/
  | remote (p : Nat) (tag : Nat)
  /-- Line i that channel k reads for its burst at offset off: a source line, or from 4 on a destination line of
  COMPARE (R325). -/
  | copyRead (k off i : Nat)
  /-- A line that channel k writes for its burst at offset off. -/
  | copyWrite (k off : Nat)
  /-- The line with key k that the long instruction numbered `id` of thread t reads (R185). -/
  | engine (t : Tid) (id k : Nat)
  deriving DecidableEq, Repr

/-- The port of a core's engine whose packet this is, which a refusal records, and for a copy channel the channel and the offset
of its burst; the other engines have channel 4 (MODEL for R30, R324, R325). -/
structure PktChan where
  port : Nat
  chan : Nat
  off : Nat
  deriving DecidableEq, Repr

/-- A mesh packet: the header of R250 and the payload. -/
structure Packet where
  typ : PType
  /-- LINE: bits [51:6] of the address, a barrier number (R304) or a signal target (R309). -/
  line : Nat
  first : Nat := 0
  last : Nat := 63
  tag : Tag := {}
  seq : BitVec 16 := 0
  stream : Nat := 0
  thread : Nat := 0
  /-- Level of the access, which a refusal at its home records (R28). -/
  level : Bool := false
  src : Nat := 0
  /-- Node number of the destination endpoint (R249). -/
  dst : Nat := 0
  dx : Nat := 0
  dy : Nat := 0
  dport : Nat := 0
  /-- CNT and RTAG of an ADD or ARRIVE, its constellation and lane width (R267). -/
  cnt : Nat := 0
  rtag : Nat := 0
  cid : Nat := 0
  wide : Bool := false
  data : Line := 0
  /-- Operation, word, operand and compare value of an ATOM (R291). -/
  op : AtomOp := .aload
  word : Nat := 0
  opnd : Word := 0
  cmp : Word := 0
  /-- Function and host address that the source's check gave (R60, R363). -/
  host : Option (Nat × Nat) := none
  /-- The packet is a control-space access (R266). -/
  control : Bool := false
  /-- Clear count of the target core at the check (MODEL for R483). -/
  epoch : Nat := 0
  /-- Clear count of the issuing core, which its answer returns (MODEL for R434; log entry 101, DEDUCED). -/
  life : Nat := 0
  chan : Option PktChan := none
  /-- Fabric cycle of injection, from which AGE follows (R253). -/
  injected : Nat := 0
  /-- The home refused the access, so the answer's line allocates nothing (MODEL for R109, R31). -/
  refused : Bool := false
  /-- Code words of the payload that cannot be corrected, as a mask (R246, R271). -/
  bad : Nat := 0
  /-- Place in ingress order at a stack: fabric cycle, router and plane of the ejection (MODEL for R334). -/
  came : Nat := 0
  deriving DecidableEq, Repr

/-- A packet whose answer has not returned (R263, R265). -/
structure Outst where
  engine : Engine
  thread : Nat
  stream : Nat
  seq : BitVec 16
  line : Nat
  tag : Tag := {}
  /-- Function and host address of a host-window line, as checked (R60, R363). -/
  host : Option (Nat × Nat) := none
  /-- Clear count of the target core at the check (MODEL for R483). -/
  epoch : Nat := 0
  use : Use
  deriving DecidableEq, Repr

/-- What a scalar memory instruction does at its address (R96, R101, R111, R291). -/
inductive AccKind where
  | load (size : Nat) (sx : Bool) (rd : Reg)
  | store (size : Nat) (data : Word)
  | atom (op : AtomOp) (rd : Reg) (b cmp : Word)
  | addn (wide : Bool) (rtag : Nat) (b : Word)
  | maint (inv : Bool)
  deriving DecidableEq, Repr

/-- A scalar access: its kind and its effective fabric address. -/
structure Access where
  kind : AccKind
  addr : Nat
  deriving DecidableEq, Repr

/-- A window-table walk in progress, for a scalar access or for the address of an engine's (R349): the line of the table that
the core looks at next, the lines that have returned from there on, and that none matched. -/
structure Walk where
  acc : Access
  nextLine : Nat := 0
  got : List (Nat × Line) := []
  failed : Bool := false
  deriving DecidableEq, Repr

/-! ## Threads -/

/-- An entry of a thread's store queue (R88, R292, R303, R309). -/
inductive QItem where
  /-- A store to the thread's own local store, with its number in the thread's order of items (R155). -/
  | own (off size : Nat) (data : Word) (tag : Tag) (born : Nat)
  /-- A store through a cacheable window, to the translated line. -/
  | cached (line off size : Nat) (data : Word) (tag : Tag)
  /-- A posted packet: an uncached store, a control-space write, ADDN, ARRIVE or SIGNAL. -/
  | packet (p : Packet)
  deriving DecidableEq, Repr

/-- An entry of the gather buffer (R154): a 128-byte line of the core's local store. -/
structure GEntry where
  line : Nat
  valid : BitVec 128 := 0
  dirty : BitVec 128 := 0
  data : BitVec 1024 := 0
  tagLo : Tag := {}
  tagHi : Tag := {}
  /-- Creation order of the write item (R155). -/
  born : Nat := 0
  deriving DecidableEq, Repr

/-- What a pending P4 item other than a dirty entry does when it is performed (R154, R164). -/
inductive P4Kind where
  | read (dst : Dst) (off size : Nat) (sx : Bool)
  | ringPush (half : Nat) (data : Line)
  | ringPop (half : Nat) (dst : Dst)
  deriving DecidableEq, Repr

/-- A pending P4 item of a thread (R155). -/
structure P4Item where
  line : Nat
  kind : P4Kind
  tag : Tag
  /-- Level of the access, which a refusal records (R28). -/
  level : Bool
  born : Nat
  deriving DecidableEq, Repr

/-- An access refused at its source, with the core cycle at which it completes (R260). -/
structure SrcRefusal where
  dst : Dst
  due : Word
  deriving DecidableEq, Repr

/-- An instruction in which a thread is blocked (R88, R114, R166, R284, R307, R320). -/
inductive BlockOp where
  | pwr (last : Bool) (peer : Nat) (data : Word)
  | prd (rd : Reg) (peer : Nat)
  | rpush (ring : Nat) (data : Line)
  | rpop (ring : Nat) (toV : Bool) (rd : Reg)
  | rclr (ring : Nat)
  /-- FENCE, and what FENCER and FENCEA do once their scan has ended (R282, R283). -/
  | fence
  /-- The scan of CWBA or CINVA, and of a fence that begins with one: the cycle of its first set, none while a cached
  store of the thread waits in its store queue, and the sets scanned (R111). -/
  | scan (inv thenFence : Bool) (start : Option Word) (sets : Nat)
  | cwait (k : Nat) (n : Word)
  | cwaita
  | cpwait (ch : Nat)
  | wait (rd : Reg) (mask : BitVec 16) (token : Word)
  /-- A KERNEL arrival in step 1 of R286. -/
  | barrKernel (rd : Reg) (b : Nat)
  | bdecl (b : Nat)
  | bfree (b : Nat)
  /-- A cache-maintenance instruction whose write-backs are not yet acknowledged (R111). -/
  | maint
  deriving DecidableEq, Repr

/-- One bank of entry registers (R125). SPOS lives in the session slot (R404). -/
structure EBank where
  entry : Word := 0
  epc : Word := 0
  estatus : Word := 0
  ecause : Word := 0
  einfo : Word := 0
  /-- IPEND as latched; causes that follow a level (HOST, COPY, SIGNAL, FOG, FAULT) are added at each
  read (R311, R330, R361, R441). -/
  ipend : Word := 0
  imask : Word := 0
  tcmp : Word := 0
  swap0 : Word := 0
  swap1 : Word := 0
  swap2 : Word := 0
  swap3 : Word := 0
  gretPc : Word := 0
  gretStatus : Word := 0
  gretRsp : Word := 0
  deriving DecidableEq, Repr

/-- An operand tile (R170): state 0 empty, 1 partial, 2 full. -/
structure OpTile where
  /-- The one of the register's two buffers that holds it (R173). -/
  buf : Bool := false
  st : Nat := 0
  rows : Nat := 0
  bytes : Nat := 0
  tag : Tag := {}
  data : Map Line := []
  deriving DecidableEq, Repr

/-- An accumulator tile (R170): element (m, n) at key 64m + n, in NK40. -/
structure AccTile where
  st : Nat := 0
  m : Nat := 0
  n : Nat := 0
  tag : Tag := {}
  data : Map (BitVec 40) := []
  deriving DecidableEq, Repr

/-- A unit instruction in the queue (R174), with what it read at its issue (R178, R190). -/
inductive UnitOp where
  | mma (z : Nat) (clear : Bool) (shape : Word) (a b : OpTile) (xs : Map Byte)
  | tclr (z : Nat) (m n : Nat)
  | trel (mask : BitVec 4)
  deriving DecidableEq, Repr

/-- A queued unit instruction with its issuer's tag. -/
structure UnitItem where
  op : UnitOp
  tag : Tag
  deriving DecidableEq, Repr

/-- A long tile or vector memory instruction, with the register values read at its issue. -/
inductive LongOp where
  | tld (toA toB : Bool) (baseA baseB stride : Nat) (pgA pgB : Nat) (rowsA bytesA rowsB bytesB : Nat)
  | tst (z pg base stride fmt : Nat) (sc bi cl sr : Bool) (vs : Nat) (lo hi : BitVec 32)
  | range (src dst n : Nat) (fmt tgt : Nat) (mode : Bool)
  | txld (addr : Nat)
  | tsave (addr tile : Nat)
  | trestore (addr tile : Nat)
  | twait
  | vld (vd : Reg) (addr : Nat)
  | vst (data : Line) (addr : Nat)
  | vldc (vd : Reg) (addr : Nat)
  | vgth (vd : Reg) (pg off : Nat) (idx : Line) (et : EType)
  | vsct (data : Line) (pg off : Nat) (idx : Line) (et : EType)
  | vlop (pg dst src n : Nat) (c : Line) (et : EType) (sub : LopOp) (u : Bool)
  | vlcvt (pg dst src n : Nat) (shift : Int) (et et2 : EType) (sr u : Bool)
  | vlred (rd : Reg) (pg src n : Nat) (et : EType) (sub : RedOp) (u : Bool)
  deriving DecidableEq, Repr

/-- A long instruction that has issued and not retired: its number, and what its engines have done. The lines that an engine on
port p presents have the keys 4i + p, for i in its order. `sent` counts them by port; `got` holds what half h of line k read, at
2k + h; `owed` are the lines read over the mesh whose answers have not returned; `barred` are the halves, so numbered, whose tag
refused it; `counted` are the lines of which a refusal is counted (R185, R243, R263). -/
structure Long where
  op : LongOp
  started : Bool := false
  id : Nat := 0
  sent : Map Nat := []
  got : Map Line := []
  owed : List Nat := []
  barred : List Nat := []
  counted : List Nat := []
  deriving DecidableEq, Repr

/-- The state of one thread. -/
structure Thread where
  /-- g1–g31 (R91). -/
  g : Map Word := []
  pc : Word := 0
  pg : Map Word := []
  /-- Return-stack pointer, 0–2048 (R105). -/
  rsp : Nat := 0
  /-- STATUS (R121). -/
  session : BitVec 12 := 0
  ni : Bool := false
  el : Bool := false
  ie : Bool := false
  world : Bool := false
  level : Bool := false
  /-- End cycle of the non-interruptible window (R138). -/
  niEnd : Word := 0
  /-- Cycle in which EL was set (R131). -/
  elSince : Word := 0
  bankO : EBank := {}
  bankS : EBank := {}
  /-- Cycle in which an Open demand arose (R137). -/
  demand : Option Word := none
  yielded : Bool := false
  storeQ : List QItem := []
  gather : List GEntry := []
  p4 : List P4Item := []
  /-- Registers whose result is not available: key r for g, 32 + r for v (R88, R89). -/
  busy : Map Nat := []
  /-- RET waits for its entry (R89). -/
  pcWait : Bool := false
  refusals : List SrcRefusal := []
  blocked : Option BlockOp := none
  walk : Option Walk := none
  nextId : Nat := 1
  /-- v0–v31 (R235). -/
  v : Map Line := []
  ta : OpTile := {}
  tb : OpTile := {}
  z0 : AccTile := {}
  z1 : AccTile := {}
  /-- TSHAPE, TSTART and TSTATE.WHY (R177, R182, R191). -/
  tshape : Word := 0
  tstart : Word := 0
  why : BitVec 4 := 0
  /-- Weight-expansion state (R190). -/
  xstate : Map Byte := []
  unitQ : List UnitItem := []
  long : Option Long := none
  /-- VPROG (R245). -/
  vpos : Word := 0
  vacc : Word := 0
  /-- Rounding streams of the Open and the Sealed bank (R214); none in `seedO` means that SRSEED of
  the Open bank holds its reset value core × 4 + thread. -/
  seedO : Option Word := none
  ctrO : Word := 0
  seedS : Word := 0
  ctrS : Word := 0
  /-- Signals (R309). -/
  flags : BitVec 16 := 0
  sigie : BitVec 16 := 0
  sigopen : BitVec 16 := 0
  /-- ISSUED and DONE of streams 0–15 (R263). -/
  issued : Map (BitVec 32) := []
  done : Map (BitVec 32) := []
  /-- Fabric cycle of the last completion of a stream, or of the packet that ended its idleness (MODEL
  for R313). -/
  progress : Map Nat := []
  /-- Debugger state (R461): stopped, REASON, BRK_STOP. `step` is 1 when a STEP is armed and 2 when
  its instruction has issued. -/
  stopped : Bool := false
  /-- A STOP waits for the next instruction boundary. -/
  stopReq : Bool := false
  reason : Nat := 0
  brkStop : Bool := false
  step : Nat := 0
  treset : Bool := false
  /-- The thread has issued since the last fog sample (MODEL for R314). -/
  ran : Bool := false
  /-- The thread took the FOG entry of the present alarm (R315). -/
  tookFog : Bool := false
  deriving DecidableEq, Repr

/-! ## Cores -/

/-- A line of the data cache (R108, R109, R279), keyed by its translated line. -/
structure CLine where
  line : Nat
  tag : Tag
  data : Line
  /-- Function and host address of a host-window line, as checked at its fill (R60, R351). -/
  host : Option (Nat × Nat) := none
  dirty : BitVec 64 := 0
  /-- Clear count of the target core at the check of the fill (MODEL for R483). -/
  epoch : Nat := 0
  deriving DecidableEq, Repr

/-- A line of the instruction cache (R112). -/
structure ILine where
  line : Nat
  tag : Tag
  deriving DecidableEq, Repr

/-- One word in a pipe (R113, R117). `last` marks the end of a committed message. -/
structure PipeWord where
  data : Word
  tag : Tag
  committed : Bool
  last : Bool
  deriving DecidableEq, Repr

/-- The registers of a ring (R163). -/
structure Ring where
  base : Word := 0
  size : Nat := 0
  head : Nat := 0
  tail : Nat := 0
  deriving DecidableEq, Repr

/-- Where the access of an engine to one line goes once it is translated and checked: refused, to an absent window, to
the own local store, or over the mesh to a node; `epoch` is the clear count of a target core (MODEL for R483). -/
inductive EngTo where
  | refused
  | absent
  | own (off : Nat)
  | line (node pa : Nat) (tag : Tag) (host : Option (Nat × Nat)) (epoch : Nat)
  deriving DecidableEq, Repr

/-- A copy burst that has issued and is not complete (R324): its offset in the operation, where each of its
source and destination lines went at its translation, the RDs and WRs of it that are not answered, the lines that its
RDs have returned, and whether its writes have been performed or issued. -/
structure Burst where
  off : Nat
  len : Nat
  src : List EngTo := []
  dst : List EngTo := []
  waits : Nat := 0
  got : Map Line := []
  wrote : Bool := false
  deriving DecidableEq, Repr

/-- A copy channel (R318–R331). States: 0 idle, 1 busy, 2 done, 3 aborted, 4 window, 5 error. -/
structure Chan where
  src : Word := 0
  dst : Word := 0
  cnt : Nat := 0
  fill : Word := 0
  op : Nat := 0
  ie : Bool := false
  stream : Nat := 0
  rtag : Nat := 0
  tag : Tag := {}
  st : Nat := 0
  residue : Nat := 0
  err : Nat := 0
  mismatch : Bool := false
  event : Bool := false
  /-- The last stop raises COPY (R330). -/
  raises : Bool := false
  fault : Word := 0
  /-- Offset of the first byte not yet issued. -/
  issuedTo : Nat := 0
  bursts : List Burst := []
  /-- The state to take once the issued bursts are complete (R328); 0 while the channel goes on. -/
  stopAs : Nat := 0
  mismatchAt : Nat := 0
  /-- Level of the thread that wrote GO, and the sealed exit of R331. -/
  level : Bool := false
  wipe : Bool := false
  /-- Fabric cycle of the start or of the last completed burst (MODEL for R313). -/
  progress : Nat := 0
  deriving DecidableEq, Repr

/-- A cached window entry: its index and its 32 bytes (R349). -/
structure WCached where
  index : Nat
  raw : BitVec 256
  deriving DecidableEq, Repr

/-- What a first-offender entry records of a refused access (R28, R119, R452). -/
structure FoeRec where
  issuer : Nat := 0
  world : Bool := false
  level : Bool := false
  kind : Nat := 0
  addr : Word := 0
  time : Word := 0
  node : Nat := 0
  func : Nat := 0
  deriving DecidableEq, Repr

/-- A first-offender entry (R30, R119, R452). -/
structure Foe extends FoeRec where
  valid : Bool := false
  /-- Core cycle in which the entry was recorded (MODEL for R30). -/
  since : Word := 0
  /-- The refusal of core cycle `lateAt` that R30 puts first (MODEL for R12, R30). -/
  late : Option FoeRec := none
  lateAt : Word := 0
  deriving DecidableEq, Repr

/-- The state of one core beside its threads. -/
structure Core where
  /-- Constellation in which the core is live (R61). -/
  member : Option Nat := none
  locked : Bool := false
  lockCause : Nat := 0
  lockSealed : Bool := false
  lockThread : Nat := 0
  lockPc : Word := 0
  lockTime : Word := 0
  foe : Foe := {}
  /-- Data cache, most recently used line first (R108). -/
  dcache : List CLine := []
  icache : List ILine := []
  /-- Pipe (sender, receiver) at key 4 × sender + receiver, oldest word first (R113). -/
  pipes : Map (List PipeWord) := []
  rings : Map Ring := []
  chans : Map Chan := []
  owner : BitVec 8 := 0xE4
  lastChan : Nat := 3
  /-- Cached window entries, most recently used first (R349). -/
  wcache : List WCached := []
  /-- Walks of the core's engines: of the engine on local-store port p at key p, of copy channel k at key 8 + k (R349). -/
  walks : Map Walk := []
  /-- Injection queue (R255) and packets not yet presented to it (R256, R264, R265). -/
  injQ : List Packet := []
  waitQ : List (Packet × Option Outst) := []
  outst : List Outst := []
  /-- Fabric cycle of the last request injected on each plane, plus 1 (R257). -/
  lastInj : Map Nat := []
  /-- Fabric cycle of the last ARRIVE, SIGNAL or ADD injected, plus 1 (MODEL for R313). -/
  posted : Nat := 0
  throttled : Bool := false
  throttleEvents : BitVec 32 := 0
  /-- Fabric cycles in which the core's router deflected a flit, since the last evaluation (R257). -/
  deflCycles : List Nat := []
  /-- Fabric cycle of the last evaluation of the throttle, plus 1 (R257). -/
  evalAt : Nat := 0
  rcount : Map (BitVec 32) := []
  /-- Matrix and stream engines: the thread each serves, and the thread served last (R175, R244). -/
  arrayBusy : Option Nat := none
  aBusy : Option Nat := none
  bBusy : Option Nat := none
  outBusy : Option Nat := none
  streamBusy : Option Nat := none
  lastArray : Nat := 3
  lastA : Nat := 3
  lastB : Nat := 3
  lastOut : Nat := 3
  lastStream : Nat := 3
  /-- Number of times the core has been cleared (MODEL for R483). -/
  clears : Nat := 0
  /-- Next scrub row, and frame of the last scrub slot, per sub-store (R162). -/
  scrubRow : Map Nat := []
  scrubLast : Map Nat := []
  /-- Rows that a row-form read has queued for scrub, per sub-store (R160, R162). -/
  scrubQ : Map (List Nat) := []
  resetPending : Bool := false
  /-- End of the core cycles for which the die controller gates matrix issue for an ageing sample (R443). -/
  gatedTo : Word := 0
  deriving DecidableEq, Repr

/-! ## The chart -/

/-- An interleave set (R41). -/
structure MemSet where
  granule : Nat := 8
  mask : BitVec 24 := 0
  baseGib : Nat := 0
  sizeGib : Nat := 0
  offGib : Nat := 0
  deriving DecidableEq, Repr

/-- A port record of the PORT section (R46). -/
structure PortRec where
  bondFirst : Nat := 0
  bondWidth : Nat := 0
  enable : Bool := false
  deriving DecidableEq, Repr

/-- The package-scope fields (R55). -/
structure PkgCfg where
  sets : Map MemSet := []
  homes : Map Nat := []
  fleetId : Nat := 0
  timeMaster : Bool := false
  upstream : Nat := 0xFF
  exportBase : Nat := 0
  exportSize : Nat := 0
  ports : Map PortRec := []
  admits : BitVec 4096 := 0
  policy : Nat := 0
  powerCap : Nat := 0
  deriving DecidableEq, Repr

/-- What a chart gives one constellation (R38–R49). -/
structure ConsCfg where
  cores : List Nat := []
  resume : Bool := false
  reference : Bool := false
  supervisor : Nat := 0
  niLimit : Nat := 0
  commonMib : Nat := 0
  injOcc : Nat := 0
  fogUs : Nat := 0
  deflLimit : Nat := 0
  starts : List Nat := []
  reach : BitVec 64 := 0
  tableBase : Nat := 0
  entries : List (BitVec 256) := []
  sealedCapable : Bool := false
  quota : Nat := 0
  sealedEntry : Nat := 0
  barFirst : Nat := 0
  barCount : Nat := 0
  portMask : BitVec 16 := 0
  /-- Functions bound to the constellation, with MSIX_VECTORS. -/
  funcs : List (Nat × Nat) := []
  deriving DecidableEq, Repr

/-- A checked chart in the shadow store (R50). -/
structure Chart where
  pkg : PkgCfg := {}
  cons : Map (Option ConsCfg) := []
  meas : BitVec 256 := 0
  keyHash : BitVec 256 := 0
  deriving DecidableEq, Repr

/-- The lifecycle states of a constellation (R53). -/
inductive CState where
  | dark | committing | held | running | stopping | halted | resetting
  deriving DecidableEq, Repr

/-- What the fault registers record of a fault (R442). -/
structure FaultRec where
  cls : Nat
  node : Nat
  sld : Bool
  addr : Word
  time : Word
  deriving DecidableEq, Repr

/-- A constellation: its lifecycle state, its committed values and its live fields. -/
structure Cons where
  st : CState := .dark
  cfg : ConsCfg := {}
  cmeas : BitVec 256 := 0
  /-- Live fields of R58. -/
  wtbase : Word := 0
  wtcount : Word := 0
  fogUs : Nat := 0
  /-- FOG_US in force for the present sampling interval, and the sidereal time at which that began (R314, R317). -/
  fogLive : Nat := 0
  fogAt : Word := 0
  niLimit : Nat := 0
  injOcc : Nat := 0
  deflLimit : Nat := 0
  /-- Violation tally (R28), and its counts of core cycle `violAt` (MODEL for R456). -/
  viol : BitVec 32 := 0
  violNew : Nat := 0
  violAt : Word := 0
  /-- Fault registers (R442): class bits, COUNT, first entry. -/
  faultBits : BitVec 15 := 0
  faultCount : BitVec 32 := 0
  faultValid : Bool := false
  faultClass : Nat := 0
  faultNode : Nat := 0
  faultSealed : Bool := false
  faultAddr : Word := 0
  faultTime : Word := 0
  /-- Core cycle in which the entry was recorded, and the fault of core cycle `faultLateAt` that R442 puts first (MODEL for
  R12, R442). -/
  faultSince : Word := 0
  faultLate : Option FaultRec := none
  faultLateAt : Word := 0
  /-- Fog alarm (R314, R315). -/
  fogCount : BitVec 32 := 0
  fogQuiet : Bool := false
  fogKeeper : Bool := false
  fogAlarm : Bool := false
  fogTime : Word := 0
  quietRun : Nat := 0
  fogArmed : Bool := true
  fogSince : Option Nat := none
  /-- A host or Meridian packet for a set in reach arrived in this sampling interval, or work of the constellation that is no
  thread's ended in it (MODEL for R313, R314). -/
  inbound : Bool := false
  /-- A WINV whose WACK waits for the member cores (R350). -/
  winv : List Packet := []
  /-- Function Level Resets that wait for a reset of this constellation (R54, R368). -/
  flrWaiting : List Nat := []
  deriving DecidableEq, Repr

/-- The command that the chart engine is performing (R53). -/
inductive ChartCmd where
  | load
  | commit (c : Nat)
  | start (c : Nat)
  | stop (c : Nat)
  | reset (c : Nat)
  | release (c : Nat)
  deriving DecidableEq, Repr

/-- The chart engine (R50–R56). -/
structure ChartEngine where
  src : Word := 0
  busy : Option ChartCmd := none
  /-- The command waits for a core reset to end (R432). -/
  waits : Bool := false
  /-- The reset that a Function Level Reset requested, in progress (R54). -/
  flr : Option Nat := none
  done : Bool := false
  error : Bool := false
  dropped : Bool := false
  flrDone : Bool := false
  code : Nat := 0
  sect : Nat := 0
  offset : Nat := 0
  cid : Nat := 0
  keyHash : BitVec 256 := 0
  shadow : Option Chart := none
  pkgMeas : BitVec 256 := 0
  pkg : PkgCfg := {}
  /-- FAULTED (R62): the cores marked. -/
  faulted : Map Bool := []
  deriving DecidableEq, Repr

/-! ## Clocks -/

/-- States of the time servo (R79). -/
inductive Servo where
  | master | free | acquiring | locked | holdover
  deriving DecidableEq, Repr

/-- The clock unit (R69–R81). -/
structure Clock where
  rootLock : Bool := false
  refPresent : Bool := true
  /-- The PLL has lost lock since the cold reset: only a cold reset restarts the clocks (R70). -/
  lost : Bool := false
  ccycle : Word := 0
  /-- The second fabric cycle of the present core cycle (R69). -/
  odd : Bool := false
  sidereal : Word := 0
  pendLoad : Option Word := none
  pendStep : List Word := []
  /-- TRIM in units of 2^-32 tick per reference period, and its accumulator (R80). -/
  trim : Int := 0
  frac : Nat := 0
  servo : Servo := .free
  offset : Int := 0
  hops : Nat := 0
  goodRun : Nat := 0
  /-- Sidereal time of the last exchange, and of the last attempt at one (R78, R79). -/
  lastX : Word := 0
  lastTry : Word := 0
  deriving DecidableEq, Repr

/-! ## Barriers and the beacon tree -/

/-- A replica of a barrier (R296); every core holds the same replicas (R298). -/
structure Replica where
  declared : Bool := false
  kernel : Bool := false
  gen : BitVec 16 := 0
  last : Nat := 0
  deriving DecidableEq, Repr

/-- A barrier at its home (R296). -/
structure Barrier where
  declared : Bool := false
  kernel : Bool := false
  count : Nat := 0
  arrived : Nat := 0
  gen : BitVec 16 := 0
  last : Nat := 0
  /-- Flushes in progress, oldest first: the constellation and the release that follows (R286). -/
  flushing : List (Nat × Replica) := []
  deriving DecidableEq, Repr

/-- The kinds of beacon-tree event (R298). -/
inductive BKind where
  | declare | free | release | flush
  deriving DecidableEq, Repr

/-- An event on the beacon tree, with the replica it leaves and the thread whose packet caused it. -/
structure BEvent where
  kind : BKind
  barrier : Nat
  replica : Replica
  cid : Nat := 0
  by_ : Option Tid := none
  deriving DecidableEq, Repr

/-! ## Memory stacks -/

/-- A DRAM bank: its open row and the slots from which it accepts a hit or a row change (R337). -/
structure SBank where
  row : Option Nat := none
  hitFrom : Nat := 0
  rowFrom : Nat := 0
  deriving DecidableEq, Repr

/-- The kinds of background item (R344). -/
inductive BgKind where
  | patrol | scrubWrite | neighbour | phyCal | telemetry
  deriving DecidableEq, Repr

/-- A background item of a channel (R344): the bank and row it touches. -/
structure BgItem where
  kind : BgKind
  created : Nat
  bank : Nat := 0
  row : Nat := 0
  line : Nat := 0
  deriving DecidableEq, Repr

/-- A foreground request in a channel queue (R335, R338). -/
structure SReq where
  /-- Line of the stack, l of R333. -/
  line : Nat
  /-- The slots it still takes: a read, a write, or a read and then a write. -/
  needRead : Bool
  needWrite : Bool
  /-- Earliest slot of the write that follows a read (R338). -/
  notBefore : Nat := 0
  /-- The bytes that a write covers; all of them once its read has returned (R335, R338). -/
  bytes : BitVec 64 := 0
  /-- The answer that becomes ready after the read slot. -/
  answer : Option Packet := none
  /-- The read is for the atomic unit (R343). -/
  forAtomic : Bool := false
  deriving DecidableEq, Repr

/-- A channel of a stack (R332, R336, R344–R346, R352). -/
structure SChan where
  slotNo : Nat := 0
  queue : List SReq := []
  bg : List BgItem := []
  banks : Map SBank := []
  refreshNo : Nat := 0
  patrol : Nat := 0
  /-- Runs of 2048 slots up to the one in which the last patrol item was created (R344). -/
  patrols : Nat := 0
  /-- Activation count of bank b, row r at key 65536b + r (R346). -/
  acts : Map Nat := []
  /-- Corrected code words read from a row since power-up (R352). -/
  corrected : Map Nat := []
  /-- Rows in which a code word was uncorrectable (R352). -/
  bad : Map Bool := []
  /-- Lifetime activations per bank (R346). -/
  wear : Map Nat := []
  deriving DecidableEq, Repr

/-- An entry of STK_RETIRE (R353). -/
structure RetEntry where
  kind : Nat
  channel : Nat
  block : Nat
  bank : Nat := 0
  row : Nat := 0
  deriving DecidableEq, Repr

/-- A line of the atomic buffer (R343). -/
structure BufLine where
  line : Nat
  /-- The first read has been performed. -/
  ready : Bool
  tag : Tag := {}
  deriving DecidableEq, Repr

/-- A memory stack. -/
structure Stack where
  phyLock : Bool := false
  trained : Bool := false
  training : Bool := false
  trainFailed : Bool := false
  /-- The failed state of R437. -/
  dead : Bool := false
  temp : Nat := 0
  ue : Nat := 0
  ce : Nat := 0
  retOverflow : Bool := false
  retire : List RetEntry := []
  forced : BitVec 32 := 0
  passes : BitVec 32 := 0
  chans : Map SChan := []
  /-- Atomic buffer, most recently used first, atomics waiting, evicted lines waiting (R343). -/
  buf : List BufLine := []
  atomQ : List Packet := []
  evicted : List Nat := []
  /-- Answers ready for injection (R334, R338). -/
  ready : List Packet := []
  rcount : Map (BitVec 32) := []
  deriving DecidableEq, Repr

/-- The tag of a stored stack line, with the key a Sealed line is stored under (R339, R340). -/
structure LineTag where
  tag : Tag := {}
  /-- Number of the key pair (MODEL), generation and fabric line of the tweak. -/
  key : Nat := 0
  gen : BitVec 32 := 0
  fline : Nat := 0
  deriving DecidableEq, Repr

/-! ## Host interface -/

/-- A PCI Express function (R357–R368). -/
structure Func where
  bound : Option Nat := none
  vectors : Nat := 0
  hwbase : Word := 0
  hwlimit : Word := 0
  hwhost : Word := 0
  flr : Bool := false
  inb : Map Word := []
  doorbell : Map Word := []
  dbPend : BitVec 64 := 0
  dbRoute : Map Word := []
  busMaster : Bool := false
  msixEnable : Bool := false
  msixMask : Bool := false
  msixTable : Map (BitVec 128) := []
  msixPba : Map Bool := []
  deriving DecidableEq, Repr

/-- What the bridge puts on the link, in order (R362, R364, R359, R363). -/
inductive Tlp where
  | memRead (f tag addr : Nat)
  | memWrite (f addr first last : Nat) (data : Line)
  | completion (f : Nat) (data : List Byte) (poisoned : Bool)
  | msix (f vector : Nat) (entry : BitVec 128)
  | configDone (f : Nat) (retry : Bool) (data : Word)
  deriving DecidableEq, Repr

/-- An outbound read that waits for its completion (R364): its function, and the packet it answers unless PF0
issued it (R363, R366). -/
structure HostRead where
  tag : Nat
  func : Nat
  pkt : Option Packet
  /-- For a read of PF0's fetch, the number of its line in the fetch. -/
  line : Nat := 0
  /-- Fabric cycle in which it was issued (R372). -/
  since : Nat := 0
  /-- Its host address. -/
  addr : Nat := 0
  deriving DecidableEq, Repr

/-- The ranges of a selective IDE stream: functions, and two ranges of host addresses; none is set after reset (R373; log
entry 38, DESIGN CHOICE). -/
structure IdeRange where
  ridFirst : Nat := 1
  ridLast : Nat := 0
  base0 : Nat := 1
  limit0 : Nat := 0
  base1 : Nat := 1
  limit1 : Nat := 0
  deriving DecidableEq, Repr

/-- An AER record (R371): the error, by name, and the function that logs it. -/
inductive AerErr where
  | poisonedTlp | completionTimeout | unexpectedCompletion | unsupportedRequest | internalError | surpriseDown
  deriving DecidableEq, Repr

/-- The host bridge (R355–R374). -/
structure HostBridge where
  linkUp : Bool := false
  /-- Configuration requests are answered (R426 step 4). -/
  ready : Bool := false
  vfEnable : Bool := false
  d3hot : Bool := false
  tlps : List Tlp := []
  reads : List HostRead := []
  nextTag : Nat := 0
  /-- PF0's rate limit: lines allowed at a fabric cycle, and the fetch in progress as its next fabric address
  and the lines left (R366). -/
  pf0Tokens : Nat := 64
  pf0At : Nat := 0
  pf0Fetch : Option (Nat × Nat) := none
  /-- Lines that the fetch has asked for in all, and those that have returned, by number (R50, R428, R484). -/
  pf0Lines : Nat := 0
  pf0Buf : Map Line := []
  aer : List (Nat × AerErr) := []
  /-- Completion timeout: its range as PCI Express encodes it, and whether it is disabled (R372; log entry 113, PRESUMED). -/
  timeoutRange : Nat := 0
  timeoutOff : Bool := false
  /-- IDE streams: secure, insecure or unused, and their keys (R373). -/
  ideSecure : Map Bool := []
  ideInsecure : Map Bool := []
  ideKey : Map (BitVec 256) := []
  ideRange : Map IdeRange := []
  doe : Option (List Byte) := none
  doeOut : List (List Byte) := []
  /-- A quote that a DOE object asked for is being signed (R421). -/
  doeQuote : Bool := false
  /-- The SPDM messages received so far (R421). -/
  spdm : List Byte := []
  deriving DecidableEq, Repr

/-! ## Meridian and tally -/

/-- States of a Meridian port (R380). -/
inductive PState where
  | disabled | training | identify | up | retraining | down | refused
  deriving DecidableEq, Repr

/-- The four times of an exchange, and the neighbour's hop count (R78, R84): the local message leaves and reaches the
neighbour, the neighbour's leaves and reaches the part. -/
structure TimeAnswer where
  asked : Word
  heard : Word
  sent : Word
  got : Word
  hops : Nat
  deriving DecidableEq, Repr

/-- A remote request that waits for its answer (R388). -/
structure RemoteReq where
  tag : Nat
  pkt : Packet
  deriving DecidableEq, Repr

/-- A Meridian port (R380–R388). -/
structure MPort where
  st : PState := .disabled
  lanes : Nat := 0
  peerFleet : Nat := 0
  peerPort : Nat := 0
  /-- What the peer's identity message said: fleet, port, BOND_FIRST, BOND_WIDTH (R381). -/
  peerMsg : Option (Nat × Nat × Nat × Nat) := none
  /-- DISABLE holds until RETRAIN or a commit. -/
  heldDown : Bool := false
  cable : Bool := true
  retrains : Nat := 0
  replays : BitVec 16 := 0
  /-- Answers that wait for a frame, each with the plane that brought it (R379, R383). -/
  outQ : List (Nat × MLine) := []
  /-- Received lines that wait for their hand-off, each with its number in the bond's stream (R379). -/
  inQ : List (Nat × MLine) := []
  /-- Lines of inbound requests in service, and whether their answers are still owed (R274, R389). -/
  serving : List (Nat × Bool) := []
  /-- Fabric cycle in which the port entered its state (R380). -/
  since : Nat := 0
  /-- Frames started, oldest first. -/
  wire : List Frame := []
  /-- Earliest start of the port's next frame, in fifths of a fabric cycle (R375). -/
  nextTx : Nat := 0
  /-- The last answer to a timestamp message of this port (R78, R84). -/
  stamp : Option TimeAnswer := none
  /-- A timestamp message of this port waits to leave, and the messages that wait for their answers: the time each holds
  and that of its arrival (R78, R384). -/
  asks : Bool := false
  owes : List (Word × Word) := []
  /-- The peer's identity changed while the port retrains (R380). -/
  changed : Bool := false
  reqs : List RemoteReq := []
  nextTag : Nat := 0
  deriving DecidableEq, Repr

/-- A bond's frame streams and digests (R382, R383, R399), keyed by BOND_FIRST. -/
structure Bond where
  txSeq : Nat := 1
  rxSeq : Nat := 1
  /-- Lines accepted so far (MODEL for the order of R379). -/
  rxLines : Nat := 0
  unacked : List Frame := []
  /-- Frames that wait to be sent again (R382). -/
  replay : List Frame := []
  nakOut : Bool := false
  /-- The live member that last started a frame, for the order of R385. -/
  lastTx : Option Nat := none
  freed : Nat := 0
  credits : Nat := 0
  stalls : Nat := 0
  /-- Fabric cycle in which ACK last advanced, or frames were first unacknowledged (R382). -/
  ackAt : Nat := 0
  sent : BitVec 128 := 0
  recv : BitVec 128 := 0
  snapSent : BitVec 128 := 0
  snapRecv : BitVec 128 := 0
  deriving DecidableEq, Repr

/-- A tally job as submitted (R390): descriptor address, constellation and thread. -/
structure TJob where
  addr : Nat
  cid : Nat
  by_ : Tid
  deriving DecidableEq, Repr

/-- A tally descriptor (R391). -/
structure TDesc where
  op : Nat
  both : Bool
  stoch : Bool
  mean : Bool
  srcHalf : Bool
  outInt : Bool
  group : Nat
  rank : Nat
  txBond : Nat
  rxBond : Nat
  jobTag : BitVec 32
  blog : Nat
  count : Nat
  src : Nat
  dst : Nat
  maxrec : Nat
  emem : Nat
  seed : Word
  timeout : Nat
  sigThread : Nat
  sigFlags : BitVec 16
  status : Nat
  deriving DecidableEq, Repr

/-- One half of a running tally job (R393, R394): its phase and step, the lines received in the present
step, the vector that the phase combines, the agreed maxima with their shifts, and for ONEBIT the signs, the
rank's own means and the lines of all ranks. -/
structure THalf where
  active : Bool := false
  phase : Nat := 1
  step : Nat := 0
  got : Nat := 0
  /-- Maxima by block (phase 2) as NF32 codes, then sums by element (phase 3) in int32. -/
  vals : Map (BitVec 32) := []
  /-- S_b + 160 by block (R395). -/
  shifts : Map Nat := []
  /-- Quantised m of the rank's blocks after compression, as NF32 codes, and sign bits (R396). -/
  means : Map (BitVec 32) := []
  signs : Map Bool := []
  /-- Line i of rank k's ONEBIT payload at key 2^40 k + i. -/
  raw : Map Line := []
  finished : Bool := false
  deriving DecidableEq, Repr

/-- A running tally job. -/
structure TRun where
  job : TJob
  desc : TDesc
  half0 : THalf := {}
  half1 : THalf := {}
  startTime : Word := 0
  /-- Fabric cycle of the start or of the last TALLY line (R398). -/
  heard : Nat := 0
  /-- End code of R398 once the job has ended, and before its status record is written. -/
  ended : Option Nat := none
  /-- The status record is written, and the signal waits for it to be performed (R397). -/
  recorded : Bool := false
  deriving DecidableEq, Repr

/-- A tally engine (R390–R398). -/
structure TEngine where
  queue : List TJob := []
  run : Option TRun := none
  /-- Lines to send, each with its bond (R394). -/
  out : List (Nat × MLine) := []
  /-- Lines of jobs that have not started here, each with its bond (MODEL, log entry 29, DESIGN CHOICE). -/
  held : List (Nat × MLine) := []
  deriving DecidableEq, Repr

/-! ## Sessions, identity, quotes -/

/-- States of a session slot (R401). -/
inductive SlotSt where
  | free | keyed | bound | retired
  deriving DecidableEq, Repr

/-- A session slot (R401, R404). -/
structure Slot where
  st : SlotSt := .free
  owner : Nat := 0
  gen : BitVec 32 := 0
  pos : BitVec 22 := 0
  fill : Bool := false
  /-- First and last address of each range that the fill zeroes (R412 step 5). -/
  ranges : List (Nat × Nat) := []
  /-- Number of the key pair placed in the stacks' key stores (MODEL), and the pair (R405). -/
  key : Nat := 0
  pair : BitVec 512 := 0
  deriving DecidableEq, Repr

/-- A constellation's area of the session block (R402, R409, R420). -/
structure Area where
  ct : Map Byte := []
  slot : Nat := 0
  gen : BitVec 32 := 0
  code : Nat := 0
  done : Bool := false
  busy : Bool := false
  confirm : BitVec 256 := 0
  report : BitVec 512 := 0
  deriving DecidableEq, Repr

/-- A KEY in progress (R406, R407): the slot, the pair, and the stacks that still have to answer with
the number of sends each has had and the fabric cycle of the last. -/
structure KeyRun where
  cid : Nat
  slot : Nat
  pair : BitVec 512
  confirm : BitVec 256
  waiting : Map Nat
  sentAt : Map Nat := []
  deriving DecidableEq, Repr

/-- The session engine, the identity engine and the quote engine. -/
structure Trust where
  slots : Map Slot := []
  areas : Map Area := []
  keyQ : List (Nat × Nat) := []
  lastKey : Nat := 31
  keyRun : Option KeyRun := none
  nextKey : Nat := 1
  skeyValid : Bool := false
  skeyId : BitVec 32 := 0
  skeyHash : BitVec 256 := 0
  /-- Number of the session key pair in use (MODEL; the pair itself is `Config.sessionPair`). -/
  skeyNo : Nat := 0
  rotatePending : Bool := false
  idUsed : Bool := false
  idEnrol : Bool := false
  idPending : Bool := false
  enrolled : Bool := false
  idFail : Bool := false
  idReady : Bool := false
  idPub : BitVec 256 := 0
  helper : Map Byte := []
  quoteBusy : Bool := false
  quoteDone : Bool := false
  quoteSeq : Word := 0
  quoteNonce : BitVec 256 := 0
  quoteBody : List Byte := []
  quoteBuf : List Byte := []
  deriving DecidableEq, Repr

/-! ## Boot, health and management -/

/-- States of the boot ROM (R427). -/
inductive BootSt where
  | reset | waiting | loading | verifying | running | warm
  deriving DecidableEq, Repr

/-- An entry of the event log (R458). -/
structure Event where
  seq : Nat
  time : Word
  kind : Nat
  cid : Nat := 0xFF
  node : Nat := 0
  detail : Nat := 0
  addr : Word := 0
  deriving DecidableEq, Repr

/-- A plan of the margin plan (R444, R445): an offset and a worst slack per rail. -/
structure Plan where
  boot : Bool
  applied : Bool
  minutes : Nat
  offsets : List Int
  slacks : List Int
  deriving DecidableEq, Repr

/-- The Keeper, the boot ROM and the mailbox (R427, R440, R453, R458). -/
structure Keeper where
  boot : BootSt := .reset
  bootErr : Nat := 0
  attempts : Nat := 0
  bootSrc : Word := 0
  bootLen : Nat := 0
  /-- Header and body bytes held for verification; the body is in image memory (R427). -/
  image : List Byte := []
  fwMeas : BitVec 256 := 0
  fwVersion : Word := 0
  stopped : Bool := false
  /-- Core cycle of the last KICK, or of the start of the image (R440). -/
  kickAt : Nat := 0
  mbBusy : Bool := false
  mbDone : Bool := false
  mbSeq : BitVec 16 := 0
  /-- The mailbox request waits for the end of a chart command, of constellation c or of a load (R454). -/
  mbWait : Option (Option Nat) := none
  request : Map Byte := []
  response : List Byte := []
  /-- PKG_FAULT (R442). -/
  pkgBits : BitVec 15 := 0
  pkgCount : BitVec 32 := 0
  /-- Event log, newest last, at most 4096 entries (R458). -/
  events : List Event := []
  eventSeq : Nat := 0
  wall : Option (Word × Word) := none
  mirrorSeq : Nat := 0
  /-- Core cycle of the last snapshot since the reset (R457). -/
  mirrorAt : Option Nat := none
  mirror : Map Word := []
  violPkg : BitVec 48 := 0
  /-- Counts of the package tally in core cycle `violAt` (MODEL for R456). -/
  violNew : Nat := 0
  violAt : Word := 0
  deriving DecidableEq, Repr

/-- Ageing, the margin plan and the logbook (R443–R449). -/
structure Ageing where
  /-- The latest sample: the least slack of each rail, in ps, in the order of the rail table. -/
  slacks : List Int := []
  /-- Samples of the last 168 powered hours, newest last. -/
  history : List (List Int) := []
  /-- Sidereal time of the last regular sample since the reset. -/
  sampleAt : Option Word := none
  /-- Offset of each rail, in steps. -/
  offsets : Map Int := []
  /-- Rails whose voltage is on its way: the rail, the offset it goes to, and the core cycle of its next step (R445). -/
  moves : List (Nat × Int × Nat) := []
  /-- Core cycle in which the die controller last raised a rail that a sample showed below its floor (R445). -/
  raisedAt : Map Nat := []
  /-- Plans that wait for a write cycle; the boot plan has still to be computed; POWERED_MIN of the last plan. -/
  plans : List Plan := []
  planAtBoot : Bool := true
  planMin : Nat := 0
  /-- POWERED_MIN at the last cold reset, and at the last write cycle since then, or at that reset (R447, R448). -/
  minutes : Nat := 0
  lastWrite : Nat := 0
  /-- Pages of the EEPROM that a write has reached (R446). -/
  pages : Map (List Byte) := []
  /-- Numbers of records, plans and fault entries written since manufacture. -/
  recSeq : Nat := 0
  planNo : Nat := 0
  faultNo : Nat := 0
  /-- Fault entries that wait for a write cycle. -/
  faultQ : List (List Byte) := []
  /-- FAULTS_DROPPED, BOOTS, ENERGY_WH at the last cold reset, and LIFE_COUNTS (R448). -/
  faultsDropped : Nat := 0
  boots : Nat := 1
  energyWh : Nat := 0
  lifeCounts : Map Nat := []
  /-- Copies of the helper record written in this boot (R446). -/
  helperWritten : BitVec 2 := 0
  deriving DecidableEq, Repr

/-- Power, pins and limits (R473–R480). -/
structure Power where
  /-- Fabric cycle of the last evaluation of the comparators (R476). -/
  evalAt : Nat := 0
  vinOn : Bool := true
  powerGood : Bool := true
  perstLow : Bool := true
  railsOn : Bool := true
  tripped : Bool := false
  faultN : Bool := false
  capW : Nat := 0
  tjLimit : Nat := 95
  thrMin : Nat := 0
  /-- Demands of the power, current and temperature comparators, per die (R476). -/
  powerDemand : Nat := 0
  currentDemand : Map Nat := []
  tempDemand : Map Nat := []
  /-- Evaluations in a row with the quantity below its release point. -/
  powerBelow : Nat := 0
  currentBelow : Map Nat := []
  tempBelow : Map Nat := []
  /-- PERST_N has been low since the trip (R478). -/
  perstSeen : Bool := false
  /-- Input power of the evaluations of the last 1 ms, input voltage, and input energy in nJ since the cold reset
  (R456). -/
  powerLog : List Nat := []
  vinMv : Nat := 0
  energyNj : Nat := 0
  coreAmps : Map Nat := []
  tjMax : Map Nat := []
  tjMin : Map Nat := []
  /-- Last SMBus answer (R459) and JTAG instruction, data register (R460). -/
  smbus : List Byte := []
  jtagIr : BitVec 8 := 0xFF
  jtagDr : Word := 0
  /-- Pins under scan: 0 none, 1 EXTEST, 2 CLAMP, 3 HIGHZ. -/
  scan : Nat := 0
  deriving DecidableEq, Repr

/-- The registers of a die controller and the mesh counters of its die (R273, R432, R452). -/
structure Die where
  resetIndex : Nat := 0
  /-- Local number of the core that the reset in progress clears (MODEL for R9, R432). -/
  resetCore : Nat := 0
  resetBusy : Bool := false
  late : Nat := 0
  hdrDropped : Nat := 0
  hdrCorrected : Nat := 0
  deflections : BitVec 32 := 0
  combines : BitVec 32 := 0
  deriving DecidableEq, Repr

/-- A flit in the mesh: its packet, its plane and the router whose input it has reached (R251). -/
structure Flit where
  pkt : Packet
  plane : Nat
  x : Nat
  y : Nat
  /-- Fabric cycle of its arrival there (R251). -/
  due : Nat := 0
  deriving DecidableEq, Repr

/-- The members of the family (R1). -/
inductive Member where
  | nv2 | nv4 | nv8
  deriving DecidableEq, Repr

/-- The status bits that software clears by writing 1 (R9), but for VALID of the first-offender and fault entries. -/
inductive StatusBit where
  | chartDone | chartError | chartDropped | chartFlrDone
  | fogAlarm (c : Nat)
  | fogKeeper (c : Nat)
  | copyEvent (core k : Nat)
  | doorbell (f i : Nat)
  | sessionDone (c : Nat)
  | quoteDone
  | fault (c cls : Nat)
  | pkgFault (cls : Nat)
  | mailboxDone
  deriving DecidableEq, Repr

/-- The state of the part. -/
structure State where
  /-- Commands that wait, first in, first out. -/
  pending : List Instr := []
  /-- The member; no command changes it (R1, R2). -/
  member : Member := .nv8
  clk : Clock := {}
  chart : ChartEngine := {}
  cons : Map Cons := []
  cores : Map Core := []
  threads : Map Thread := []
  /-- Local-store bytes at core × 2^25 + offset; half tags and slot states at core × 2^19 + half
  (R145, R157, R164; states 0 empty, 1 filling, 2 full, 3 draining). -/
  ls : Map Byte := []
  lsTag : Map Tag := []
  lsSlot : Map Nat := []
  /-- The check arrays, as what they tell of each row (R159, R160): at core × 2^18 + line, bits [3:0] name the code words of
  the 128-byte line with two or three bad symbols and bits [7:4] those with one. -/
  lsBad : Map (BitVec 8) := []
  /-- Stack bytes at stack × 2^37 + in-stack offset, and line tags at stack × 2^31 + l (R332, R339). -/
  mem : Map Byte := []
  memTag : Map LineTag := []
  /-- The same of the stored lines of the stacks, at stack × 2^31 + l: bits [1:0] and bits [3:2] (R339, R342). -/
  memBad : Map (BitVec 4) := []
  stks : Map Stack := []
  /-- Packets that have reached an endpoint and are not yet performed, by node number (R249). -/
  inbox : Map (List Packet) := []
  /-- Responses that wait for injection, by node number (R255). -/
  outbox : Map (List Packet) := []
  flits : List Flit := []
  /-- Fabric cycle of the last injection at each port of a router on each plane, plus 1 (MODEL for R255). -/
  injAt : Map Nat := []
  /-- What has stopped working in the fabric (R439). -/
  failed : List FabricUnit := []
  dies : Map Die := []
  dcFoe : Foe := {}
  /-- Lantern-ring messages that were not acknowledged, by node: the failures in a row, and the fabric cycle of the
  first (R438). -/
  lantern : Map (Nat × Nat) := []
  barriers : Map Barrier := []
  replicas : Map Replica := []
  /-- Beacon events not yet delivered, by home die, and the die the root served last (R298). -/
  beacon : Map (List BEvent) := []
  lastBeacon : Nat := 7
  funcs : Map Func := []
  host : HostBridge := {}
  ports : Map MPort := []
  bonds : Map Bond := []
  /-- DIG_TOTAL: sums of the digests of all bonds, and their snapshots (R399). -/
  digSent : BitVec 128 := 0
  digRecv : BitVec 128 := 0
  digSnapSent : BitVec 128 := 0
  digSnapRecv : BitVec 128 := 0
  tally : Map TEngine := []
  trust : Trust := {}
  keeper : Keeper := {}
  ageing : Ageing := {}
  power : Power := {}
  /-- DBG_SEL of each core (R464). -/
  dbgSel : Map Word := []
  /-- Last word read through DBG_DATA or DBG_ACCESS (R460, R466). -/
  dbgData : Word := 0
  /-- The status bits that hardware has set in core cycle `hwAt` (MODEL for R12; log entry 104, DESIGN CHOICE). -/
  hwSet : List StatusBit := []
  hwAt : Word := 0
  /-- Number of free values drawn so far (MODEL, log entry 3, DESIGN CHOICE). -/
  freeCtr : Nat := 0
  deriving DecidableEq, Repr

/-- The part right after a cold reset, with PERST_N low (R425, R434): an NV8, every constellation
dark, every core powered down, the divided clocks stopped, the time servo free, CAP_W at the member
maximum. -/
def State.reset : State := { power := { capW := 3200 } }

end Sys2Proof.Machine
end

