-- ==== Sys2Proof/Machine/Ops.lean ====
section
/-! DEFINITION. Named operations of the part: the units of a member, reading and replacing the
pieces of the state, the records of refused accesses (R25-R30), fault reporting (R441), the status
word, and the one entry operation of exceptions and interrupts (R130) with lockup (R142) and the
exits from a handler and from the Sealed world. -/

namespace Sys2Proof.Machine

open Sys2Proof

/-! ## The member (R1, R13, R16, R17) -/

/-- Compute dies. -/
def Member.dies : Member → Nat
  | .nv2 => 2
  | .nv4 => 4
  | .nv8 => 8

/-- Columns of dies, C of R13. -/
def Member.dieCols : Member → Nat
  | .nv2 => 2
  | .nv4 => 2
  | .nv8 => 4

/-- Width W of the mesh (R13). -/
def Member.width (m : Member) : Nat := 12 * m.dieCols

/-- Rows of the mesh (R13). -/
def Member.rows : Member → Nat
  | .nv2 => 12
  | .nv4 => 24
  | .nv8 => 24

/-- Cores (R1). -/
def Member.cores (m : Member) : Nat := 144 * m.dies

/-- Stacks (R1). -/
def Member.stks (m : Member) : Nat := 3 * m.dies

/-- Meridian ports (R1). -/
def Member.ports : Member → Nat
  | .nv2 => 4
  | .nv4 => 8
  | .nv8 => 16

/-- Module input power, the default cap, in W (R1, R48). -/
def Member.maxW : Member → Nat
  | .nv2 => 900
  | .nv4 => 1700
  | .nv8 => 3200

/-- The die carries Meridian ports and so a tally engine (R17). -/
def Member.hasTally (m : Member) (d : Nat) : Bool :=
  match m with
  | .nv8 => d == 0 || d == 3 || d == 4 || d == 7
  | .nv4 => d < 4
  | .nv2 => d < 2

/-- Ports per die edge (R17). -/
def Member.portsPerEdge : Member → Nat
  | .nv2 => 2
  | .nv4 => 2
  | .nv8 => 4

/-- Stack memory in GiB (R1). -/
def Member.stackGib (m : Member) : Nat := 384 * m.dies

/-- The die of core n (R14). -/
def Member.dieOf (m : Member) (n : Nat) : Nat :=
  (n / m.width / 12) * m.dieCols + (n % m.width) / 12

/-- Coordinates of core n (R14). -/
def Member.xy (m : Member) (n : Nat) : Nat × Nat := (n % m.width, n / m.width)

/-- The core at local position (lx, ly) of die d. -/
def Member.coreAt (m : Member) (d lx ly : Nat) : Nat :=
  (12 * (d / m.dieCols) + ly) * m.width + 12 * (d % m.dieCols) + lx

/-! ## Pieces of the state -/

/-- Core of a thread (R309). -/
def coreOf (t : Tid) : Nat := t / 4
/-- Number of a thread within its core. -/
def tnum (t : Tid) : Nat := t % 4

def State.thr (s : State) (t : Tid) : Thread := Map.get {} s.threads t
def State.setThr (s : State) (t : Tid) (x : Thread) : State := { s with threads := Map.set {} s.threads t x }
def State.modThr (s : State) (t : Tid) (f : Thread → Thread) : State := s.setThr t (f (s.thr t))

def State.core (s : State) (n : Nat) : Core := Map.get {} s.cores n
def State.setCore (s : State) (n : Nat) (x : Core) : State := { s with cores := Map.set {} s.cores n x }
def State.modCore (s : State) (n : Nat) (f : Core → Core) : State := s.setCore n (f (s.core n))

def State.con (s : State) (c : Nat) : Cons := Map.get {} s.cons c
def State.setCon (s : State) (c : Nat) (x : Cons) : State := { s with cons := Map.set {} s.cons c x }
def State.modCon (s : State) (c : Nat) (f : Cons → Cons) : State := s.setCon c (f (s.con c))

def State.stack (s : State) (k : Nat) : Stack := Map.get {} s.stks k
def State.setStack (s : State) (k : Nat) (x : Stack) : State := { s with stks := Map.set {} s.stks k x }
def State.modStack (s : State) (k : Nat) (f : Stack → Stack) : State := s.setStack k (f (s.stack k))

def State.die (s : State) (d : Nat) : Die := Map.get {} s.dies d
def State.modDie (s : State) (d : Nat) (f : Die → Die) : State :=
  { s with dies := Map.set {} s.dies d (f (s.die d)) }

def State.func (s : State) (f : Nat) : Func := Map.get {} s.funcs f
def State.modFunc (s : State) (f : Nat) (g : Func → Func) : State :=
  { s with funcs := Map.set {} s.funcs f (g (s.func f)) }

def State.port (s : State) (p : Nat) : MPort := Map.get {} s.ports p
def State.modPort (s : State) (p : Nat) (f : MPort → MPort) : State :=
  { s with ports := Map.set {} s.ports p (f (s.port p)) }

def State.bond (s : State) (p : Nat) : Bond := Map.get {} s.bonds p
def State.modBond (s : State) (p : Nat) (f : Bond → Bond) : State :=
  { s with bonds := Map.set {} s.bonds p (f (s.bond p)) }

def State.eng (s : State) (d : Nat) : TEngine := Map.get {} s.tally d
def State.modEng (s : State) (d : Nat) (f : TEngine → TEngine) : State :=
  { s with tally := Map.set {} s.tally d (f (s.eng d)) }

def State.slot (s : State) (n : Nat) : Slot := Map.get {} s.trust.slots n
def State.modSlot (s : State) (n : Nat) (f : Slot → Slot) : State :=
  { s with trust := { s.trust with slots := Map.set {} s.trust.slots n (f (s.slot n)) } }

def State.area (s : State) (c : Nat) : Area := Map.get {} s.trust.areas c
def State.modArea (s : State) (c : Nat) (f : Area → Area) : State :=
  { s with trust := { s.trust with areas := Map.set {} s.trust.areas c (f (s.area c)) } }

def State.barrier (s : State) (b : Nat) : Barrier := Map.get {} s.barriers b
def State.modBarrier (s : State) (b : Nat) (f : Barrier → Barrier) : State :=
  { s with barriers := Map.set {} s.barriers b (f (s.barrier b)) }

def State.replica (s : State) (b : Nat) : Replica := Map.get {} s.replicas b

/-- Packets that wait at node n. -/
def State.inb (s : State) (n : Nat) : List Packet := Map.get [] s.inbox n
def State.setInb (s : State) (n : Nat) (l : List Packet) : State := { s with inbox := Map.set [] s.inbox n l }
/-- Responses that wait for injection at node n. -/
def State.outb (s : State) (n : Nat) : List Packet := Map.get [] s.outbox n
def State.setOutb (s : State) (n : Nat) (l : List Packet) : State := { s with outbox := Map.set [] s.outbox n l }

/-- The numbers of the constellations. -/
def allCons : List Nat := List.range 32

/-- The state with an update made for each element of a list. -/
def overAll {α : Type} (xs : List α) (f : State → α → State) (s : State) : State := xs.foldl f s

/-- The divided clocks run, and the core, fabric and stack rails are on (R69, R70, R478). What their logic does
happens only then. -/
def State.clocksOn (s : State) : Bool := s.clk.rootLock && s.power.railsOn

/-- Such an event in full. -/
def clocked (s t : State) : Out State := .next (if s.clocksOn then t else s)

/-- A value that the spec leaves open, and the state in which it is drawn (log entry 3, DESIGN CHOICE). -/
def State.draw (s : State) : Word × State := (Config.freeWord s.freeCtr, { s with freeCtr := s.freeCtr + 1 })

/-- An IDE stream is assigned to function f, and to a host address. -/
def IdeRange.serves (r : IdeRange) (f : Nat) : Bool := decide (r.ridFirst ≤ f) && decide (f ≤ r.ridLast)
def IdeRange.covers (r : IdeRange) (f a : Nat) : Bool :=
  r.serves f && ((decide (r.base0 ≤ a) && decide (a ≤ r.limit0)) || (decide (r.base1 ≤ a) && decide (a ≤ r.limit1)))

/-- The ranges of IDE stream k. -/
def HostBridge.ide (h : HostBridge) (k : Nat) : IdeRange := Map.get {} h.ideRange k

/-- The IDE stream of an outbound TLP of function f to a host address is Insecure (R373). -/
def State.ideLost (s : State) (f a : Nat) : Bool :=
  (List.finRange 8).any fun k => Map.get false s.host.ideInsecure k.val && (s.host.ide k.val).covers f a

/-- The IDE stream of inbound TLPs of function f is Insecure (R373). -/
def State.ideBroken (s : State) (f : Nat) : Bool :=
  (List.finRange 8).any fun k => Map.get false s.host.ideInsecure k.val && Config.ideInbound k f

/-- The host address of a TLP that carries one. -/
def Tlp.addr : Tlp → Option Nat
  | .memRead _ _ a => some a
  | .memWrite _ a _ _ _ => some a
  | .msix _ _ e => some (e.toNat % 2 ^ 64)
  | .completion _ _ _ => none
  | .configDone _ _ _ => none

/-- The bridge queues a TLP; while the data link is down, or its IDE stream is Insecure, it is dropped (R364, R370, R373). -/
def State.tlp (s : State) (f : Nat) (t : Tlp) : State :=
  let lost := match t.addr with
    | some a => s.ideLost f a
    | none => s.ideBroken f
  if s.host.linkUp && !lost then { s with host := { s.host with tlps := s.host.tlps ++ [t] } } else s

/-- The sidereal time, as every replica reads it (R72, R75). -/
def State.now (s : State) : Word := s.clk.sidereal

/-- The core cycle in which thread t issues next: its first slot at or after CCYCLE (R87, R89; log
entry 6, DESIGN CHOICE). -/
def State.issueCycle (s : State) (t : Tid) : Word :=
  s.clk.ccycle + BitVec.ofNat 64 ((tnum t + 4 - s.clk.ccycle.toNat % 4) % 4)

/-- The member cores of constellation c (R61). -/
def State.members (s : State) (c : Nat) : List Nat :=
  (List.range s.member.cores).filter fun n => (s.core n).member == some c

/-- The constellation has a configuration: it is not dark, and not being committed for the first
time. -/
def Cons.live (c : Cons) : Bool := c.st != .dark

/-! ## Node numbers (R249) -/

def nodeStack (k : Nat) : Nat := 0x800 + k
def nodeHost : Nat := 0xC00
def nodePort (p : Nat) : Nat := 0xD00 + p
def nodeTally (d : Nat) : Nat := 0xE00 + d
def nodeBeacon (d : Nat) : Nat := 0xF00 + d
def nodeControl : Nat := 0xF80

/-! ## Levels and worlds (R121-R123) -/

/-- The STATUS word (R121). -/
def Thread.status (th : Thread) : Word :=
  BitVec.ofNat 64 (65536 * th.session.toNat + bit th.ni * 16 + bit th.el * 8 + bit th.ie * 4 +
    bit th.world * 2 + bit th.level)

/-- The tag that the thread's own accesses carry (R157). -/
def Thread.tag (th : Thread) : Tag := if th.world then { sealed := true, session := th.session } else {}

/-- The bank of entry registers of a world. -/
def Thread.bank (th : Thread) (sealedBank : Bool) : EBank := if sealedBank then th.bankS else th.bankO

/-- The thread with the bank of a world replaced. -/
def Thread.setBank (th : Thread) (sealedBank : Bool) (b : EBank) : Thread :=
  if sealedBank then { th with bankS := b } else { th with bankO := b }

/-- The thread acts as the supervisor of constellation c: it is at O.s and its core belongs to c
(R122). -/
def State.isSup (s : State) (t : Tid) (c : Nat) : Bool :=
  (s.core (coreOf t)).member == some c && !(s.thr t).world && (s.thr t).level

/-- The thread belongs to constellation c. -/
def State.isOf (s : State) (t : Tid) (c : Nat) : Bool := (s.core (coreOf t)).member == some c

/-- Thread 0 of SUPERVISOR_CORE of constellation c (R38). -/
def State.supThread (s : State) (c : Nat) : Tid := 4 * (s.con c).cfg.supervisor

/-! ## Status bits that hardware sets (R12) -/

/-- Hardware has set a status bit in the present core cycle (R12; log entry 104, DESIGN CHOICE). -/
def State.hwMark (s : State) (b : StatusBit) : State :=
  if s.hwAt = s.clk.ccycle then { s with hwSet := if s.hwSet.contains b then s.hwSet else b :: s.hwSet }
  else { s with hwSet := [b], hwAt := s.clk.ccycle }

/-- The event of the present core cycle that set a status bit takes effect after a write of the same cycle, so the
bit stays set (R12). -/
def State.hwNow (s : State) (b : StatusBit) : Bool := s.hwAt == s.clk.ccycle && s.hwSet.contains b

/-- A status bit after a W1C write (R9, R12). -/
def State.w1c (s : State) (b : StatusBit) (old written : Bool) : Bool := old && (!written || s.hwNow b)

/-- The bits below n that a W1C write cannot clear in this cycle, given the status bit at each place (R12). -/
def State.hwBits (s : State) (n : Nat) (at_ : Nat → StatusBit) : BitVec n :=
  BitVec.ofNat n (((List.range n).filter fun i => s.hwNow (at_ i)).foldl (fun v i => v + 2 ^ i) 0)

/-! ## Event log and faults (R441, R442, R458) -/

/-- The Keeper firmware is running (R427, R440). -/
def State.firmware (s : State) : Bool := s.keeper.boot == .running && !s.keeper.stopped && s.clk.rootLock

/-- A command that the firmware gives: it has its effect while the firmware runs (R440). -/
def State.keeperDoes (s t : State) : Out State := .next (if s.firmware then t else s)

/-- Add an entry to the event log, a ring of 4096 entries (R458). -/
def State.event (s : State) (kind cid node detail : Nat) (addr : Word) : State :=
  let k := s.keeper
  let e : Event := { seq := k.eventSeq, time := s.now, kind, cid, node, detail, addr }
  { s with keeper := { k with
      events := (k.events ++ [e]).drop (k.events.length + 1 - 4096)
      eventSeq := k.eventSeq + 1 } }

/-- Of two faults of one core cycle the entry records the one of the lower class, then of the lower node (R442). -/
def FaultRec.before (a b : FaultRec) : Bool := decide (a.cls < b.cls) || (a.cls == b.cls && decide (a.node < b.node))

/-- FAULT_INFO, FAULT_ADDR and FAULT_TIME hold a fault, recorded in a core cycle (R441). -/
def Cons.faultHold (c : Cons) (r : FaultRec) (cyc : Word) : Cons :=
  { c with faultValid := true, faultClass := r.cls, faultNode := r.node, faultSealed := r.sld, faultAddr := r.addr
           faultTime := r.time, faultSince := cyc }

/-- The first fault of the present core cycle, with r among them (R442). -/
def Cons.faultFirst (c : Cons) (r : FaultRec) (cyc : Word) : FaultRec :=
  match c.faultLate with
  | some b => if c.faultLateAt = cyc ∧ !r.before b then b else r
  | none => r

/-- The fault registers of a constellation after a report in a core cycle: an entry of an earlier cycle stays (R441,
R442). -/
def Cons.fault (c : Cons) (cls node : Nat) (sld : Bool) (addr now cyc : Word) : Cons :=
  let b := c.faultFirst { cls, node, sld, addr := if sld then 0 else addr, time := now } cyc
  let c := { c with faultBits := c.faultBits ||| BitVec.ofNat 15 (1 <<< cls), faultCount := c.faultCount + 1
                    faultLate := some b, faultLateAt := cyc }
  if c.faultValid ∧ c.faultSince ≠ cyc then c else c.faultHold b cyc

/-- VALID of FAULT_INFO written with 1: the entry is cleared, or holds the first fault of the same cycle (R12, R442). -/
def Cons.faultClear (c : Cons) (cyc : Word) : Cons :=
  match c.faultLate with
  | some b => if c.faultLateAt = cyc then c.faultHold b cyc else
    { c with faultValid := false, faultClass := 0, faultNode := 0, faultSealed := false, faultAddr := 0, faultTime := 0 }
  | none => { c with faultValid := false, faultClass := 0, faultNode := 0, faultSealed := false, faultAddr := 0, faultTime := 0 }

/-- A fault-history entry of the logbook: CLASS, FLAGS, NODE, POWERED_MIN, time, ADDR, DETAIL, CRC
(R449). -/
def faultEntry (now : Word) (cls node minutes : Nat) (addr : Word) : List Byte :=
  let b := natBytes 1 cls ++ natBytes 1 0 ++ natBytes 2 node ++ natBytes 4 minutes ++ natBytes 8 now.toNat ++
    natBytes 8 addr.toNat ++ natBytes 4 0
  b ++ natBytes 4 (crc32c b)

/-- POWERED_MIN now: what it was at the cold reset, and the minutes of CCYCLE since (log entry 40, DESIGN CHOICE). -/
def State.poweredMin (s : State) : Nat := s.ageing.minutes + s.clk.ccycle.toNat / 66000000000

/-- The life count that a fault class adds to (R448): lockups, STK_UE, LS_UE. -/
def lifeIndex : Nat → Option Nat
  | 4 => some 0
  | 2 => some 1
  | 1 => some 2
  | _ => none

/-- Add 1 to a life count, if any. -/
def Ageing.lived (a : Ageing) (i : Option Nat) : Ageing :=
  match i with
  | none => a
  | some i => { a with lifeCounts := Map.set 0 a.lifeCounts i (Map.get 0 a.lifeCounts i + 1) }

/-- Report a covered fault of class `cls` to the constellations named and to the Keeper (R441). -/
def State.report (s : State) (cls : Nat) (cons : List Nat) (node : Nat) (sld : Bool) (addr : Word) : State :=
  let s := overAll cons (fun s c => (s.modCon c fun x => x.fault cls node sld addr s.now s.clk.ccycle).hwMark (.fault c cls)) s
  let s := s.hwMark (.pkgFault cls)
  let s := { s with keeper := { s.keeper with
    pkgBits := s.keeper.pkgBits ||| BitVec.ofNat 15 (1 <<< cls), pkgCount := s.keeper.pkgCount + 1 } }
  if s.firmware then
    let a := if sld then 0 else addr
    let cid := cons.headD 0xFF
    let s := s.event 1 cid node cls a
    { s with ageing := { s.ageing.lived (lifeIndex cls) with
        faultQ := s.ageing.faultQ ++ [faultEntry s.now cls node s.poweredMin a] } }
  else s

/-! ## Refused accesses (R25-R30, R119, R452) -/

/-- Counts of the present core cycle after one more (MODEL for R456). -/
def newCount (now at_ : Word) (n : Nat) : Nat := if at_ = now then n + 1 else 1

/-- Add one refused access to the tallies of constellation c, if any, and of the package (R28, R29). -/
def State.tallyUp (s : State) (c : Option Nat) : State :=
  let t := s.clk.ccycle
  let s := match c with
    | none => s
    | some c => s.modCon c fun x => { x with
        viol := if x.viol = BitVec.allOnes 32 then x.viol else x.viol + 1, violNew := newCount t x.violAt x.violNew, violAt := t }
  { s with keeper := { s.keeper with
      violPkg := if s.keeper.violPkg = BitVec.allOnes 48 then s.keeper.violPkg else s.keeper.violPkg + 1
      violNew := newCount t s.keeper.violAt s.keeper.violNew, violAt := t } }

/-- Place of an issuer among those refused in one core cycle: an engine on a port comes before every thread, in port
order (R30). -/
def FoeRec.rank (r : FoeRec) : Nat := if 8 ≤ r.issuer then r.issuer - 8 else 8 + r.issuer

/-- The first offender of the present core cycle, with r among them (R30). -/
def Foe.first (e : Foe) (r : FoeRec) (cyc : Word) : FoeRec :=
  match e.late with
  | some b => if e.lateAt = cyc ∧ b.rank ≤ r.rank then b else r
  | none => r

/-- Record a refusal of core cycle `cyc`: an entry of an earlier cycle is not overwritten, and of the refusals of one
cycle the entry holds the first (R30). -/
def Foe.record (e : Foe) (r : FoeRec) (cyc : Word) : Foe :=
  let b := e.first r cyc
  if e.valid ∧ e.since ≠ cyc then { e with late := some b, lateAt := cyc }
  else { toFoeRec := b, valid := true, since := cyc, late := some b, lateAt := cyc }

/-- Record a refused access (R28, R30, R119). -/
def Foe.note (e : Foe) (issuer : Nat) (tag : Tag) (level : Bool) (kind : Nat) (addr now : Word)
    (node func : Nat) (cyc : Word) : Foe :=
  e.record { issuer, world := tag.sealed, level, kind, addr := if tag.sealed then 0 else addr, time := now, node, func } cyc

/-- VALID written with 1: VALID, the address and the time are cleared, or the entry holds the first offender of the
same cycle (R12, R30). -/
def Foe.clear (e : Foe) (cyc : Word) : Foe :=
  match e.late with
  | some b => if e.lateAt = cyc then { e with toFoeRec := b, valid := true, since := cyc }
    else { e with valid := false, addr := 0, time := 0 }
  | none => { e with valid := false, addr := 0, time := 0 }

/-- A refused access by an issuer of core n: a thread 0-3 or the engine on port p as 8 + p. -/
def State.refuseAt (s : State) (n issuer : Nat) (tag : Tag) (level : Bool) (kind addr : Nat) : State :=
  let s := s.tallyUp (s.core n).member
  s.modCore n fun c => { c with foe := c.foe.note issuer tag level kind (BitVec.ofNat 64 addr) s.now 0 0 s.clk.ccycle }

/-- A refused access by thread t, of a kind of FOE_INFO. -/
def State.refuse (s : State) (t : Tid) (kind addr : Nat) : State :=
  let th := s.thr t
  s.refuseAt (coreOf t) (tnum t) th.tag th.level kind addr

/-- A refused access by an issuer outside any core: its node, and the function of the host bridge
(R29, R452). -/
def State.refuseOut (s : State) (c : Option Nat) (node func kind addr : Nat) : State :=
  let s := s.tallyUp c
  { s with dcFoe := s.dcFoe.note 0 {} false kind (BitVec.ofNat 64 addr) s.now node func s.clk.ccycle }

/-! ## General registers and the program counter -/

/-- g[r]; g0 reads as zero (R91). -/
def Thread.greg (th : Thread) (r : Reg) : Word := if r.val = 0 then 0 else Map.get 0 th.g r.val

/-- Write g[r]; a write to g0 is discarded (R91). The register's result is then available. -/
def Thread.setG (th : Thread) (r : Reg) (v : Word) : Thread :=
  if r.val = 0 then th
  else { th with g := Map.set 0 th.g r.val v, busy := Map.set 0 th.busy r.val 0 }

/-- v[r] (R235). -/
def Thread.vreg (th : Thread) (r : Reg) : Line := Map.get 0 th.v r.val

/-- Write v[r]. -/
def Thread.setV (th : Thread) (r : Reg) (v : Line) : Thread :=
  { th with v := Map.set 0 th.v r.val v, busy := Map.set 0 th.busy (32 + r.val) 0 }

/-- pg[n] (R91). -/
def Thread.pgreg (th : Thread) (n : Nat) : Word := Map.get 0 th.pg n

/-- A value with bits [63:52] and [1:0] cleared: what PC can hold (R91). -/
def pcOf (v : Word) : Word := v &&& 0x000FFFFFFFFFFFFC#64

def State.setG (s : State) (t : Tid) (r : Reg) (v : Word) : State := s.modThr t fun th => th.setG r v
def State.setV (s : State) (t : Tid) (r : Reg) (v : Line) : State := s.modThr t fun th => th.setV r v

/-- Mark a register's result as not available, under a load number (R88; log entry 13, DESIGN CHOICE). -/
def Thread.await (th : Thread) (key id : Nat) : Thread := { th with busy := Map.set 0 th.busy key id }

/-- Deliver the result of a load, if its register still waits for this load. -/
def Thread.deliver (th : Thread) (d : Dst) (w : Word) (l : Line) : Thread :=
  match d with
  | .g r id => if r.val ≠ 0 ∧ Map.get 0 th.busy r.val = id then th.setG r w else th
  | .v r id => if Map.get 0 th.busy (32 + r.val) = id then th.setV r l else th
  | .pc => if th.pcWait then { th with pc := pcOf w, pcWait := false } else th
  | .nowhere => th

/-- Advance the program counter by n bytes. -/
def Thread.advance (th : Thread) (n : Nat) : Thread := { th with pc := pcOf (th.pc + BitVec.ofNat 64 n) }

/-! ## Issue (R87, R88) -/

/-- The thread's core is a member of a running constellation and is not locked up, and the divided
clocks run (R61, R69, R88, R142). -/
def State.runs (s : State) (t : Tid) : Bool :=
  s.clocksOn && !(s.core (coreOf t)).locked &&
  match (s.core (coreOf t)).member with
  | none => false
  | some c => (s.con c).st == CState.running

/-- The engines that serve a long instruction run: its constellation does, or is stopping, and the core is not locked up (R53,
R142). -/
def State.works (s : State) (t : Tid) : Bool :=
  s.clocksOn && !(s.core (coreOf t)).locked &&
  match (s.core (coreOf t)).member with
  | none => false
  | some c => (s.con c).st == CState.running || (s.con c).st == CState.stopping

/-- No earlier instruction of the thread blocks issue, and no debugger stops it (R88, R461, R462). -/
def Thread.free (th : Thread) : Bool :=
  (if th.stopped then th.step == 1 else !th.stopReq) && th.blocked.isNone && th.long.isNone && th.walk.isNone && !th.pcWait &&
    !th.treset

/-- Entries of the store queue in use: its stores, and the P4 items other than dirty entries (R154). -/
def Thread.queued (th : Thread) : Nat := th.storeQ.length + th.p4.length

/-- The results named by keys (r for g[r], 32 + r for v[r]) are available. -/
def Thread.avail (th : Thread) (srcs : List Nat) : Bool := srcs.all fun k => Map.get 0 th.busy k == 0

/-- Thread t is ready to issue an instruction that reads the registers `srcs` (R88). -/
def State.ready (s : State) (t : Tid) (srcs : List Nat) : Bool :=
  s.runs t && (s.thr t).free && (s.thr t).avail srcs && decide ((s.thr t).queued < 8)

/-- The marks that an issue leaves: the thread has run (R312), and a step is used up (R462). -/
def Thread.issued1 (th : Thread) : Thread :=
  { th with ran := true, step := if th.stopped && th.step == 1 then 2 else th.step }

/-- Issue an instruction: if thread t is ready its effect `k` follows, and otherwise nothing happens
(R88; log entry 1, DESIGN CHOICE). The program counter still names the instruction when `k` begins. -/
def issue (s : State) (t : Tid) (srcs : List Nat) (k : State → State) : Out State :=
  .next (if s.ready t srcs then k (s.modThr t Thread.issued1) else s)

/-- Retire an instruction of n bytes: the program counter moves past it. -/
def State.past (s : State) (t : Tid) (n : Nat) : State := s.modThr t fun th => th.advance n

/-- The engines that serve a long instruction of thread k become free (R175, R244). -/
def Core.freeLong (c : Core) (k : Nat) : Core :=
  let f (x : Option Nat) : Option Nat := if x = some k then none else x
  { c with aBusy := f c.aBusy, bBusy := f c.bBusy, outBusy := f c.outBusy, streamBusy := f c.streamBusy }

/-- The stream engine serves the instruction. -/
def LongOp.isVec : LongOp → Bool
  | .vld .. | .vst .. | .vldc .. | .vgth .. | .vsct .. | .vlop .. | .vlcvt .. | .vlred .. => true
  | _ => false

/-- The instruction has progress points (R140, R245). -/
def LongOp.hasPoints : LongOp → Bool
  | .vlop .. | .vlcvt .. | .vlred .. => true
  | _ => false

/-- An interrupt or a stop leaves the blocked instruction without effect: those of R141 and R284. The others hold
issue until their stated retire time. -/
def BlockOp.leaves : BlockOp → Bool
  | .bdecl _ | .bfree _ | .maint | .scan _ false _ _ => false
  | _ => true

/-- A halt can leave the thread where it stands: at an instruction boundary, in a blocked instruction that is left without
effect, or in a long one that waits or is at a progress point (R53, R140, R141). -/
def Thread.atPoint (th : Thread) : Bool :=
  th.walk.isNone && !th.pcWait && !th.treset && th.blocked.all BlockOp.leaves &&
    th.long.all fun l => !l.started || !l.op.isVec || l.op.hasPoints

/-- A long instruction of thread t is left (R140). -/
def State.dropLong (s : State) (t : Tid) : State :=
  (s.modCore (coreOf t) fun c => c.freeLong (tnum t)).modThr t fun th => { th with long := none }

/-! ## Lockup (R142) and entry into a handler (R130) -/

/-- Cause codes of R126. -/
def causeUndef : Nat := 0x01
def causeAlign : Nat := 0x02
def causeWindow : Nat := 0x03
def causeRstack : Nat := 0x04
def causePipe : Nat := 0x05
def causeTile : Nat := 0x06
def causeScall : Nat := 0x07
def causeBrk : Nat := 0x08
def causeGate : Nat := 0x09
def causeOverrun : Nat := 0x0F
def causeEvict : Nat := 0x20

/-- Core n locks up with a cause, in the thread whose entry faulted and at its PC (R142, R144). -/
def State.lockup (s : State) (t : Tid) (cause : Nat) : State :=
  let n := coreOf t
  let th := s.thr t
  let s := s.modCore n fun c => { c with
    locked := true, lockCause := cause, lockSealed := th.world, lockThread := tnum t
    lockPc := if th.world then 0 else th.pc, lockTime := s.now }
  let s := { s with chart := { s.chart with faulted := Map.set false s.chart.faulted n true } }
  let s := match (s.core n).member with
    | none => s
    | some c => s.modCon c fun x => if x.st = CState.running then { x with st := CState.stopping } else x
  s.report 4 [] n th.world th.pc

/-- The actions of R130 on one thread: enter the bank of a world with a cause, an access kind, an
information word and the PC to save. -/
def Thread.enter (th : Thread) (sealedBank : Bool) (code acc : Nat) (progress : Bool) (info epc status : Word)
    (cycle : Word) : Thread :=
  let b := th.bank sealedBank
  let b := { b with epc := epc, estatus := status &&& (~~~ 0x18#64), einfo := info,
                    ecause := BitVec.ofNat 64 (code + 256 * acc + 1024 * bit progress) }
  let th := th.setBank sealedBank b
  { th with level := true, ie := false, el := true, elSince := cycle, ni := false, pc := b.entry,
            blocked := none, long := none, walk := none, pcWait := false }

/-- A precise exception of thread t, saving `epc` (R126, R130): it enters the bank of the thread's
world, or locks up the core while STATUS.EL is 1 (R131). -/
def State.raiseAt (s : State) (t : Tid) (code acc : Nat) (progress : Bool) (info epc : Word) : State :=
  let th := s.thr t
  if th.el then s.lockup t code
  else (s.dropLong t).setThr t (th.enter th.world code acc progress info epc th.status (s.issueCycle t))

/-- A precise exception at the present instruction. -/
def State.raise (s : State) (t : Tid) (code acc : Nat) (info : Word) : State :=
  s.raiseAt t code acc false info (s.thr t).pc

/-- TILE, with its reason in TSTATE.WHY (R180). A fault that locks up the core is recorded too. -/
def State.tileFault (s : State) (t : Tid) (why : Nat) : State :=
  (s.modThr t fun th => { th with why := BitVec.ofNat 4 why }).raise t causeTile 0 0

/-- ERET: restore PC, LEVEL, IE and SESSION of the bank of the thread's world, clear EL and close any
window (R133). -/
def Thread.eret (th : Thread) : Thread :=
  let b := th.bank th.world
  { th with pc := pcOf b.epc, level := b.estatus.getLsbD 0, ie := b.estatus.getLsbD 2,
            session := if th.world then b.estatus.extractLsb' 16 12 else 0, el := false, ni := false }

/-! ## Slices (R93, R94) -/

/-- Bytes of a thread slice of core n (R40, R93). -/
def State.sliceBytes (s : State) (n : Nat) : Nat :=
  match (s.core n).member with
  | none => 0
  | some c => 0x100000 * ((28 - (s.con c).cfg.commonMib) / 4)

/-- Offset of the first byte of thread t's return-stack region in its core's local store (R93). -/
def State.rstackBase (s : State) (t : Tid) : Nat := (tnum t + 1) * s.sliceBytes (coreOf t) - 0x4000

/-- The populated bytes of a local store: 28 MiB (R23). -/
def lsBytes : Nat := 0x1C00000

/-- An own-slot byte offset is one that thread t may read, or write with an ordinary store of a level
(R94). -/
def State.ownOkAt (s : State) (t : Tid) (level : Bool) (off : Nat) (write : Bool) : Bool :=
  let S := s.sliceBytes (coreOf t)
  let k := tnum t
  let inSlice := k * S ≤ off && off < (k + 1) * S
  let inCommon := 4 * S ≤ off && off < lsBytes
  let inStack := s.rstackBase t ≤ off && off < (k + 1) * S
  (inSlice || inCommon) && !(write && inStack && !level)

/-- The same at the thread's own level. -/
def State.ownOk (s : State) (t : Tid) (off : Nat) (write : Bool) : Bool := s.ownOkAt t (s.thr t).level off write

/-! ## Pipes -/

/-- The pipe from thread a to thread b of a core (R113). -/
def Core.pipe (c : Core) (a b : Nat) : List PipeWord := Map.get [] c.pipes (4 * a + b)
def Core.setPipe (c : Core) (a b : Nat) (l : List PipeWord) : Core :=
  { c with pipes := Map.set [] c.pipes (4 * a + b) l }

/-- Discard the open messages of thread k of a core (R117, R118). -/
def Core.dropOpen (c : Core) (k : Nat) : Core :=
  (List.range 4).foldl (fun c b => c.setPipe k b ((c.pipe k b).filter (·.committed))) c

/-! ## Leaving the Sealed world (R135, R137, R331) -/

/-- Channel k of a core. -/
def Core.chan (c : Core) (k : Nat) : Chan := Map.get {} c.chans k
def Core.setChan (c : Core) (k : Nat) (x : Chan) : Core := { c with chans := Map.set {} c.chans k x }

/-- The burst at an offset of channel k changed. -/
def Core.modBurst (c : Core) (k off : Nat) (f : Burst → Burst) : Core :=
  let x := c.chan k
  c.setChan k { x with bursts := x.bursts.map fun b => if b.off = off then f b else b }

/-- The owner of channel k (R318). -/
def Core.ownerOf (c : Core) (k : Nat) : Nat := (c.owner.toNat >>> (2 * k)) % 4

/-- The channels that carry a Sealed tag, when a thread leaves its session: each issues no further burst, and is cleared once
its bursts are complete (R331). -/
def Core.wipeChans (c : Core) (tag : Tag) : Core :=
  (List.range 4).foldl (fun c i =>
    let x := c.chan i
    if x.tag = tag then
      if x.st = 1 ∧ x.bursts ≠ [] then c.setChan i { x with stopAs := 3, wipe := true } else c.setChan i {}
    else c) c

/-- Zero the local-store bytes from `a` to `b` of core n (R135). -/
def State.zeroLs (s : State) (n a b : Nat) : State :=
  { s with ls := s.ls.filter fun p => !(decide (0x2000000 * n + a ≤ p.1) && decide (p.1 < 0x2000000 * n + b))
           lsBad := s.lsBad.filter fun p => !(decide (2 ^ 18 * n + (a + 127) / 128 ≤ p.1) && decide (p.1 < 2 ^ 18 * n + b / 128)) }

/-- A gather-buffer entry with the bytes of offsets from `a` to `b` zeroed. -/
def GEntry.zeroRange (e : GEntry) (a b : Nat) : GEntry :=
  { e with data := (List.range 128).foldl (fun d i =>
      if a ≤ 128 * e.line + i ∧ 128 * e.line + i < b then d &&& ~~~ (0xFF#1024 <<< (8 * i)) else d) e.data }

/-- A store that waits, with its data zeroed if it lies from `a` to `b` of the own local store. -/
def QItem.zeroRange (a b : Nat) : QItem → QItem
  | .own off size data tag born => .own off size (if a ≤ off ∧ off < b then 0 else data) tag born
  | q => q

/-- The scrub that GATE OUT and an eviction perform; an eviction also zeroes g4 and g5 (R135, R137,
R197, R331). A load that is still in flight is not delivered to a scrubbed register. -/
def State.leaveSealed (s : State) (t : Tid) (evict : Bool) : State :=
  let th := s.thr t
  let rsp := th.bankS.gretRsp.toNat
  let a := s.rstackBase t + 8 * rsp
  let b := s.rstackBase t + 0x4000
  let st := th.bankS.gretStatus
  let keep (k : Nat) : Bool := !evict && (k == 4 || k == 5)
  let s := s.zeroLs (coreOf t) a b
  let s := s.modCore (coreOf t) fun c =>
    let c := ((c.dropOpen (tnum t)).wipeChans th.tag).freeLong (tnum t)
    { c with arrayBusy := if c.arrayBusy = some (tnum t) then none else c.arrayBusy }
  s.setThr t { th with
    g := th.g.filter (fun p => keep p.1)
    busy := th.busy.filter (fun p => keep p.1)
    v := [], ta := {}, tb := {}, z0 := {}, z1 := {}, tstart := 0, vpos := 0, vacc := 0, unitQ := []
    rsp := rsp, storeQ := th.storeQ.map (QItem.zeroRange a b), gather := th.gather.map (·.zeroRange a b)
    bankS := {}, demand := none, yielded := false, seedS := 0, ctrS := 0
    session := 0, ni := false, el := st.getLsbD 3, ie := st.getLsbD 2, world := false, level := st.getLsbD 0
    pc := th.bankS.gretPc, blocked := none, long := none, walk := none, pcWait := false }

/-! ## Interrupts (R126, R128, R137, R311, R330, R361, R441) -/

/-- A doorbell of a function bound to constellation c is pending for thread t (R361). -/
def State.hostPending (s : State) (t : Tid) (c : Nat) : Bool :=
  s.funcs.any fun (_, f) => f.bound == some c && (List.range 64).any fun i =>
    f.dbPend.getLsbD i && (Map.get 0 f.dbRoute i).getLsbD 16 &&
      field (Map.get 0 f.dbRoute i) 0 13 == t

/-- Some channel of thread k has EVENT 1 from a stop that raises COPY in a bank (R330). -/
def Core.copyPending (c : Core) (k : Nat) (sealedBank : Bool) : Bool :=
  (List.range 4).any fun i =>
    c.ownerOf i == k && (c.chan i).event && (c.chan i).raises && (c.chan i).tag.sealed == sealedBank

/-- IPEND of bank O of thread t: the latched causes and the levels (R125). -/
def State.ipendO (s : State) (t : Tid) : Word :=
  let th := s.thr t
  match (s.core (coreOf t)).member with
  | none => th.bankO.ipend
  | some c =>
    let sup := t == s.supThread c
    th.bankO.ipend ||| BitVec.ofNat 64 (
      4 * bit (sup && (s.con c).faultBits != 0) + 8 * bit (sup && (s.con c).fogAlarm) +
      16 * bit (s.hostPending t c) + 64 * bit ((s.core (coreOf t)).copyPending (tnum t) false) +
      128 * bit (th.flags &&& th.sigie != 0))

/-- IPEND of bank S of thread t. -/
def State.ipendS (s : State) (t : Tid) : Word :=
  let th := s.thr t
  th.bankS.ipend |||
    BitVec.ofNat 64 (64 * bit (th.world && (s.core (coreOf t)).copyPending (tnum t) true))

def State.ipend (s : State) (t : Tid) (sealedBank : Bool) : Word :=
  if sealedBank then s.ipendS t else s.ipendO t

/-- An Open demand on a Sealed thread arises now (R137): record its cycle and make YIELD pending. -/
def State.noteDemand (s : State) (t : Tid) : State :=
  let th := s.thr t
  if th.world && th.demand.isNone && th.bankS.gretStatus.getLsbD 2 &&
      ((s.ipendO t &&& th.bankO.imask) &&& 0xFC#64) != 0 then
    s.setThr t { th with demand := some s.clk.ccycle, yielded := true,
                         bankS := { th.bankS with ipend := th.bankS.ipend ||| 2 } }
  else s

/-- The Sealed threads of constellation c whose Open demand may arise after an event. -/
def State.noteDemands (s : State) (c : Nat) : State :=
  overAll ((s.threads.map (·.1)).filter fun t => (s.thr t).world && s.isOf t c) State.noteDemand s

/-- The interrupt causes that are deliverable to thread t in its present world (R128). YIELD, whose bit
of IMASK cannot be set, is delivered whatever IMASK holds (R125, R137; log entry 14, DEDUCED). -/
def State.deliverable (s : State) (t : Tid) : Word :=
  let th := s.thr t
  if th.ie && !th.el && !th.ni then s.ipend t th.world &&& ((th.bank th.world).imask ||| 2) else 0

/-- The lowest set bit of a word, below bit 8. -/
def lowestBit (w : Word) : Option Nat := (List.range 8).find? fun i => w.getLsbD i

end Sys2Proof.Machine
end

