-- ==== Sys2Proof/Machine/Memory.lean ====
section
/-! DEFINITION. The fabric address map (R23), interleave sets (R42), host windows (R363), the window
table and its translation (R347-R350), and reads and writes of a line at its home: half tags of the
local store (R157, R158) and line tags of the stacks (R339-R341). -/

namespace Sys2Proof.Machine

open Sys2Proof

/-! ## Addresses -/

/-- Where a translated address lies (R23). -/
inductive Target where
  | ls (core off : Nat)
  | stack (k q : Nat)
  | host
  | remote (fleet off : Nat)
  | control
  | nowhere
  deriving DecidableEq, Repr

/-- The canonical form of a memory: addresses strictly rising, and no entry equal to the zero that an unlisted
address reads as (log entry 50, DESIGN CHOICE). -/
def Memory.wf (m : Map Byte) : Bool := Map.wf 0 m

/-- The memories of the part, with their tags and slot states, are in canonical form. -/
def State.memOk (s : State) : Bool :=
  Memory.wf s.ls && Memory.wf s.mem && Map.wf {} s.lsTag && Map.wf 0 s.lsSlot && Map.wf {} s.memTag && Map.wf 0 s.lsBad &&
    Map.wf 0 s.memBad

/-- The stacks of an interleave set, lowest first. -/
def MemSet.stks (m : MemSet) : List Nat := (List.range 24).filter fun i => m.mask.getLsbD i

/-- The set is used and holds the address. -/
def MemSet.holds (m : MemSet) (pa : Nat) : Bool :=
  m.sizeGib != 0 && 2 ^ 30 * m.baseGib ≤ pa && pa < 2 ^ 30 * (m.baseGib + m.sizeGib)

/-- Stack and in-stack offset of an address of the set (R42). -/
def MemSet.place (m : MemSet) (pa : Nat) : Nat × Nat :=
  let o := pa - 2 ^ 30 * m.baseGib
  let i := o / 2 ^ m.granule
  let ks := m.stks
  let n := ks.length
  (ks.getD (i % n) 0, 2 ^ 30 * m.offGib + (i / n) * 2 ^ m.granule + o % 2 ^ m.granule)

/-- The interleave set that holds an address, with its number. -/
def State.setAt (s : State) (pa : Nat) : Option (Nat × MemSet) := s.chart.pkg.sets.find? fun p => p.2.holds pa

/-- Target of a translated address (R23, R24, R42, R61). -/
def State.target (s : State) (pa : Nat) : Target :=
  if pa < 0x40000000000 then
    match s.setAt pa with
    | none => .nowhere
    | some (_, m) => let (k, q) := m.place pa; .stack k q
  else if 0x100000000000 ≤ pa ∧ pa < 0x200000000000 then
    let n := (pa - 0x100000000000) / 0x2000000
    let off := pa % 0x2000000
    if n < s.member.cores ∧ off < lsBytes ∧ (s.core n).member ≠ none then .ls n off else .nowhere
  else if 0x200000000000 ≤ pa ∧ pa < 0x300000000000 then .host
  else if 0x4000000000000 ≤ pa ∧ pa < 0x8000000000000 then .remote ((pa / 2 ^ 38) % 4096) (pa % 2 ^ 38)
  else if 0xF000000000000 ≤ pa then .control
  else .nowhere

/-- Offset in core n's own local-store slot, if the address lies in that slot (R97). -/
def ownOffset (n addr : Nat) : Option Nat :=
  if 0x100000000000 + 0x2000000 * n ≤ addr ∧ addr < 0x100000000000 + 0x2000000 * (n + 1) then
    some (addr % 0x2000000)
  else none

/-- First fabric address of core n's local-store slot. -/
def lsBase (n : Nat) : Nat := 0x100000000000 + 0x2000000 * n

/-! ## Host windows (R59, R363) -/

/-- HWBASE and HWLIMIT agree (R59). -/
def Func.hwOk (f : Func) : Bool :=
  f.hwbase.toNat ≤ f.hwlimit.toNat && 0x200000000000 ≤ f.hwbase.toNat && f.hwlimit.toNat + 0xFFF < 0x300000000000

/-- The function's host window contains an address. -/
def Func.hwHolds (f : Func) (a : Nat) : Bool :=
  f.hwOk && f.hwbase.toNat ≤ a && a ≤ f.hwlimit.toNat + 0xFFF

/-- Host bus address of an address of the function's window (R363). -/
def Func.hwAddr (f : Func) (a : Nat) : Nat := (f.hwhost.toNat + (a - f.hwbase.toNat)) % 2 ^ 64

/-- The function through which constellation c reaches a host-window address, and the host address
(R363); none if the access is refused. -/
def State.hostFn (s : State) (c a : Nat) : Option (Nat × Nat) :=
  match s.funcs.find? fun p => p.2.bound == some c && p.2.hwHolds a with
  | none => none
  | some (f, x) => if x.busMaster then some (f, x.hwAddr a) else none

/-! ## Window entries (R59, R347, R348) -/

/-- A window entry. -/
structure WEntry where
  base : Nat
  limit : Nat
  target : Nat
  valid : Bool
  absent : Bool
  r : Bool
  w : Bool
  x : Bool
  cache : Bool
  sld : Bool
  session : BitVec 12
  clean : Bool
  deriving DecidableEq, Repr

/-- The fields of a 32-byte entry (R347). -/
def WEntry.of (v : BitVec 256) : WEntry :=
  { base := (v.extractLsb' 0 52).toNat, valid := v.getLsbD 52, absent := v.getLsbD 53
    r := v.getLsbD 54, w := v.getLsbD 55, x := v.getLsbD 56, cache := v.getLsbD 57, sld := v.getLsbD 58
    limit := (v.extractLsb' 64 52).toNat, session := v.extractLsb' 116 12
    target := (v.extractLsb' 128 52).toNat
    clean := v.extractLsb' 59 5 == 0 && v.extractLsb' 180 12 == 0 }

/-- The stacks and extents that constellation c reaches: set k is in its reach mask (R41). -/
def State.reaches (s : State) (c k : Nat) : Bool := (s.con c).cfg.reach.getLsbD k

/-- The addresses from a to b lie within one set in c's reach (R59). -/
def State.inReach (s : State) (c a b : Nat) : Bool :=
  s.chart.pkg.sets.any fun (k, m) => s.reaches c k && m.holds a && m.holds b

/-- The target range of a window is one that R59 admits. -/
def State.rangeOk (s : State) (c a b : Nat) (sld : Bool) : Bool :=
  s.inReach c a b ||
  ((match s.target a, s.target b with
    | .ls n _, .ls m _ => n == m && (s.core n).member == some c
    | _, _ => false)) ||
  (!sld && s.funcs.any fun (_, f) => f.bound == some c && f.hwHolds a && f.hwHolds b) ||
  (!sld && 0x4000000000000 ≤ a && b < 0x8000000000000 && a / 2 ^ 38 == b / 2 ^ 38 &&
    s.chart.pkg.admits.getLsbD ((a / 2 ^ 38) % 4096))

/-- The fields of an entry agree (R59, R386, R411). -/
def State.entryOk (s : State) (c : Nat) (e : WEntry) : Bool :=
  e.clean && e.base ≤ e.limit && e.base % 4096 == 0 && (e.limit + 1) % 4096 == 0 &&
    s.rangeOk c e.target (e.target + (e.limit - e.base)) e.sld

/-- Address a matches entry number i with its bytes v (R348). -/
def State.matches (s : State) (c i : Nat) (v : BitVec 256) (a : Nat) : Bool :=
  let e := WEntry.of v
  i < (s.con c).wtcount.toNat && e.valid && e.base ≤ a && a ≤ e.limit && s.entryOk c e

/-- WTBASE and WTCOUNT agree (R59). -/
def State.tableOk (s : State) (c : Nat) : Bool :=
  let x := s.con c
  x.wtcount.toNat ≤ 1024 && x.wtbase.toNat % 0x8000 == 0 &&
    (x.wtcount == 0 || s.inReach c x.wtbase.toNat (x.wtbase.toNat + x.wtcount.toNat * 32 - 1))

/-! ## The window table in memory (R58, R123) -/

/-- The line of a fabric address lies in the window table of constellation c, as its live fields give it. -/
def State.inTable (s : State) (c pa : Nat) : Bool :=
  let x := s.con c
  s.tableOk c && decide (x.wtbase.toNat ≤ pa) && decide (pa < x.wtbase.toNat + 32 * x.wtcount.toNat)

/-- No window table holds a byte from a to b, but for that of the constellation whose supervisor writes: window entries
are written by its supervisor only (R58, R123). A window table is a range of whole entries, so an access that crosses
into it has an end or a boundary of 32 bytes in it. -/
def State.tableFree (s : State) (who : Option Nat) (a b : Nat) : Bool :=
  allCons.all fun c => who == some c ||
    !((List.range (b / 32 - a / 32 + 1)).any fun i => s.inTable c (max a (32 * (a / 32 + i))))

/-- The constellation as whose supervisor an access of core n acts (R122). -/
def State.writerOf (s : State) (n : Nat) (tag : Tag) (level : Bool) : Option Nat :=
  if level && !tag.sealed then (s.core n).member else none

/-! ## A line at its home -/

/-- Placement of byte offset o of a local store: its sub-store, row, element and bank (R145). -/
def lsPlace (o : Nat) : Nat × Nat × Nat × Nat :=
  let line := o / 128
  let k := line / 8
  let e := o / 4 % 32
  (line % 8, k, e, (k % 32 + e) % 32)

/-- Line l (64 bytes) of stack k as stored. -/
def State.stkLine (s : State) (k l : Nat) : Line := lineOf (readBytes s.mem (2 ^ 37 * k + l * 64) 64)
def State.stkTag (s : State) (k l : Nat) : LineTag := Map.get {} s.memTag (2 ^ 31 * k + l)
def State.setStkLine (s : State) (k l : Nat) (v : Line) : State :=
  { s with mem := writeBytes s.mem (2 ^ 37 * k + l * 64) (lineBytes v) }
def State.setStkTag (s : State) (k l : Nat) (t : LineTag) : State :=
  { s with memTag := Map.set {} s.memTag (2 ^ 31 * k + l) t }

/-- The line tag that a writer leaves: a Sealed line records the key and generation of its slot and
its fabric line, as the tweak does (R339, R340). -/
def State.lineTag (s : State) (tag : Tag) (fline : Nat) : LineTag :=
  if tag.sealed then
    { tag, key := (s.slot tag.session.toNat).key, gen := (s.slot tag.session.toNat).gen, fline }
  else {}

/-- The slot's key has been erased from the stacks: a sealed access there is dropped, and a read of it
returns zero (R413). -/
def State.keyGone (s : State) (tag : Tag) : Bool := tag.sealed && (s.slot tag.session.toNat).key == 0

/-- The plain bytes of a stored line for a reader that its tag admits: a Sealed line written under
another key, generation or address decrypts to unrelated bytes (R340, R341). -/
def State.stkPlain (s : State) (k l fline : Nat) : Line :=
  let t := s.stkTag k l
  let raw := s.stkLine k l
  let r := s.lineTag t.tag fline
  if t.tag.sealed && t != r then Config.wrongDecrypt (t.key, t.gen, t.fline) (r.key, r.gen, r.fline) raw else raw

/-- A reader with a tag may read a line or half with another tag (R158, R341). -/
def mayRead (reader stored : Tag) : Bool := !stored.sealed || reader == stored

/-- Zero the 32-byte code words of a line that a mask names (R160, R271, R342). -/
def zeroWords (ue : Nat) (l : Line) : Line :=
  let l := if ue % 2 = 1 then lineSet l 0 32 0 else l
  if ue / 2 % 2 = 1 then lineSet l 32 32 0 else l

/-- The code words of a half or a stack line that the bytes of a mask touch, as a mask (R151). -/
def touchedWords (m : BitVec 64) : Nat := bit (m.extractLsb' 0 32 != 0) + 2 * bit (m.extractLsb' 32 32 != 0)

/-- The code words that a mask names, in order. -/
def wordBits (ue : Nat) : List Nat := (List.range 4).filter fun i => ue.testBit i

/-- What the check array tells of row `line` of core n's local store (R159). -/
def State.rowBad (s : State) (n line : Nat) : BitVec 8 := Map.get 0 s.lsBad (2 ^ 18 * n + line)
def State.setRowBad (s : State) (n line : Nat) (b : BitVec 8) : State :=
  { s with lsBad := Map.set 0 s.lsBad (2 ^ 18 * n + line) b }

/-- Symbols of a row go bad: bits [3:0] name the code words that can no longer be corrected, bits [7:4] those with one bad
symbol. -/
def State.strikeLs (s : State) (n line : Nat) (b : BitVec 8) : State := s.setRowBad n line (s.rowBad n line ||| b)

/-- Code words of half h that cannot be corrected, and those with one bad symbol. -/
def State.halfBad (s : State) (n h : Nat) : Nat := (s.rowBad n (h / 2)).toNat % 16 / 4 ^ (h % 2) % 4
def State.halfWeak (s : State) (n h : Nat) : Nat := (s.rowBad n (h / 2)).toNat / 16 / 4 ^ (h % 2) % 4

/-- Code words of half h get new check bytes (R151). -/
def State.mendHalf (s : State) (n h ws : Nat) : State :=
  let m : BitVec 8 := BitVec.ofNat 8 (17 * (ws % 4 * 4 ^ (h % 2)))
  s.setRowBad n (h / 2) (s.rowBad n (h / 2) &&& ~~~ m)

/-- What the check symbols tell of line l of stack k (R339, R342). -/
def State.lineBad (s : State) (k l : Nat) : BitVec 4 := Map.get 0 s.memBad (2 ^ 31 * k + l)
def State.setLineBad (s : State) (k l : Nat) (b : BitVec 4) : State := { s with memBad := Map.set 0 s.memBad (2 ^ 31 * k + l) b }

/-- Symbols of a stored line go bad: bits [1:0] name the code words that can no longer be corrected, bits [3:2] those with
one bad symbol. -/
def State.strikeLine (s : State) (k l : Nat) (b : BitVec 4) : State := s.setLineBad k l (s.lineBad k l ||| b)

/-- Code words of a line get new check symbols. -/
def State.mendLine (s : State) (k l ws : Nat) : State :=
  s.setLineBad k l (s.lineBad k l &&& ~~~ BitVec.ofNat 4 (5 * (ws % 4)))

/-- Code words of a stored line that cannot be corrected. -/
def State.lineLost (s : State) (k l : Nat) : Nat := (s.lineBad k l).toNat % 4

/-- Half h of core n's local store. -/
def State.half (s : State) (n h : Nat) : Line := lineOf (readBytes s.ls (0x2000000 * n + h * 64) 64)
def State.halfTag (s : State) (n h : Nat) : Tag := Map.get {} s.lsTag (2 ^ 19 * n + h)
def State.setHalf (s : State) (n h : Nat) (v : Line) (t : Tag) : State :=
  { s with ls := writeBytes s.ls (0x2000000 * n + h * 64) (lineBytes v)
           lsTag := Map.set {} s.lsTag (2 ^ 19 * n + h) t }

/-- Slot state of half h: 0 empty, 1 filling, 2 full, 3 draining (R164). -/
def State.slotSt (s : State) (n h : Nat) : Nat := Map.get 0 s.lsSlot (2 ^ 19 * n + h)
def State.setSlotSt (s : State) (n h st : Nat) : State := { s with lsSlot := Map.set 0 s.lsSlot (2 ^ 19 * n + h) st }

/-- The line `old` with the bytes that a mask names taken from `new`. -/
def maskPatch (old new : Line) (mask : BitVec 64) : Line :=
  (List.range 64).foldl (fun l i => if mask.getLsbD i then lineSet l i 1 (lineNat new i 1) else l) old

/-- Half h as a row-form read delivers it: a code word that cannot be corrected is zero (R160). -/
def State.halfRead (s : State) (n h : Nat) : Line := zeroWords (s.halfBad n h) (s.half n h)

/-- Write the bytes that a mask names of half h, under R157: each code word that they touch is read, merged and given new
check bytes, and one that cannot be corrected merges as zero (R151, R160). -/
def State.writeHalf (s : State) (n h : Nat) (mask : BitVec 64) (data : Line) (tag : Tag) : State :=
  let same := s.halfTag n h == tag
  let ws := if same then touchedWords mask else 3
  let old := if same then zeroWords (s.halfBad n h &&& ws) (s.half n h) else 0
  (s.setHalf n h (maskPatch old data mask) tag).mendHalf n h ws

/-- A row-form access meets code words of half h: it reports each that cannot be corrected, and queues the row for scrub if
it corrected one (R151, R160). -/
def State.meetHalf (s : State) (n h ws : Nat) (cons : List Nat) (sld : Bool) (addr : Nat) : State :=
  let s := overAll (wordBits (s.halfBad n h &&& ws)) (fun s _ => s.report 1 cons n sld (BitVec.ofNat 64 addr)) s
  if s.halfWeak n h &&& ws = 0 then s
  else s.modCore n fun c =>
    let q := Map.get [] c.scrubQ (h / 2 % 8)
    { c with scrubQ := if q.contains (h / 2) then c.scrubQ else Map.set [] c.scrubQ (h / 2 % 8) (q ++ [h / 2]) }

/-- Bytes `first` to `last` as a mask. -/
def spanMask (first last : Nat) : BitVec 64 :=
  BitVec.ofNat 64 ((2 ^ (last + 1 - first) - 1) * 2 ^ first)

/-- What a read of a line at its home gives: the line, and whether the home refused it. A target that
is gone answers zero without a refusal (R483). -/
def State.homeRead (s : State) (tag : Tag) (pa : Nat) : Line × Bool :=
  match s.target pa with
  | .ls n off =>
    if mayRead tag (s.halfTag n (off / 64)) then (s.halfRead n (off / 64), false) else (0, true)
  | .stack k q =>
    if (s.stack k).dead || s.keyGone tag then (0, false)
    else if mayRead tag (s.stkTag k (q / 64)).tag then
      (zeroWords (s.lineLost k (q / 64)) (s.stkPlain k (q / 64) (pa / 64)), false)
    else (0, true)
  | _ => (0, false)

/-- Bytes of line l of stack k written by an access with a tag: if the line's tag differs the line is zeroed first, and a
code word that cannot be corrected merges as zero (R341, R342). -/
def State.writeLine (s : State) (k l fline : Nat) (tag : Tag) (mask : BitVec 64) (data : Line) : State :=
  let same := (s.stkTag k l).tag == tag
  let ws := if same then touchedWords mask else 3
  let old := if same then zeroWords (s.lineLost k l &&& ws) (s.stkPlain k l fline) else 0
  (((s.setStkLine k l (maskPatch old data mask)).setStkTag k l (s.lineTag tag fline))).mendLine k l ws

/-- A write of bytes `first` to `last` of a line at its home (R157, R277, R341). -/
def State.homeWrite (s : State) (tag : Tag) (pa first last : Nat) (data : Line) : State :=
  match s.target pa with
  | .ls n off => s.writeHalf n (off / 64) (spanMask first last) data tag
  | .stack k q =>
    if (s.stack k).dead || s.keyGone tag then s else s.writeLine k (q / 64) (pa / 64) tag (spanMask first last) data
  | _ => s

/-- The tag of a line at its home, none where the target is gone (R483). -/
def State.homeTag (s : State) (pa : Nat) : Option Tag :=
  match s.target pa with
  | .ls n off => some (s.halfTag n (off / 64))
  | .stack k q => if (s.stack k).dead then none else some (s.stkTag k (q / 64)).tag
  | _ => none

/-! ## Placement (R333) -/

def chOf (l : Nat) : Nat := l % 32
def bankOf (l : Nat) : Nat := l / 1024 % 32
def rowOf (l : Nat) : Nat := l / 32768
/-- Key of bank b, row r in the tables of a channel. -/
def rowKey (b r : Nat) : Nat := 65536 * b + r

def Stack.chan (k : Stack) (ch : Nat) : SChan := Map.get {} k.chans ch
def Stack.setChan (k : Stack) (ch : Nat) (x : SChan) : Stack := { k with chans := Map.set {} k.chans ch x }
def Stack.modChan (k : Stack) (ch : Nat) (f : SChan → SChan) : Stack := k.setChan ch (f (k.chan ch))
def SChan.bank (c : SChan) (b : Nat) : SBank := Map.get {} c.banks b

/-! ## A stack line and the work it costs (R335, R338, R342, R345) -/

def Stack.buffered (k : Stack) (l : Nat) : Option BufLine := k.buf.find? fun b => b.line == l
def Stack.touchBuf (k : Stack) (b : BufLine) : Stack := { k with buf := b :: k.buf.filter fun x => x.line != b.line }

/-- The bytes of a line that queued writes of its channel cover (R335, R338). -/
def SChan.covers (c : SChan) (l : Nat) : BitVec 64 :=
  c.queue.foldl (fun m q => if q.line = l ∧ q.needWrite then m ||| q.bytes else m) 0

/-- A line is covered by queued writes of its channel (R338). -/
def SChan.written (c : SChan) (l : Nat) : Bool := c.covers l == BitVec.allOnes 64

/-- Queue a request of a channel. -/
def State.stkQueue (s : State) (k l : Nat) (r : SReq) : State :=
  s.modStack k fun x => x.modChan (chOf l) fun c => { c with queue := c.queue ++ [r] }

/-- A write to a line drops its scrub write-back (R345). -/
def State.dropScrub (s : State) (k l : Nat) : State :=
  s.modStack k fun x => x.modChan (chOf l) fun c => { c with
    bg := c.bg.filter fun b => !(b.kind == .scrubWrite && b.line == l) }

/-- The slots that a write of the bytes of a mask takes: one for a whole line, and otherwise a read and then a write; a
buffered line takes none (R338, R343, R345). -/
def State.writeSlots (s : State) (k l : Nat) (mask : BitVec 64) : State :=
  let s := s.dropScrub k l
  match (s.stack k).buffered l with
  | some b => s.modStack k fun x => x.touchBuf b
  | none => s.stkQueue k l { line := l, needRead := mask != BitVec.allOnes 64, needWrite := true, bytes := mask }

/-- A read of the line takes a slot: it is neither buffered nor covered by queued writes (R338, R343). -/
def State.readsSlot (s : State) (k l : Nat) : Bool :=
  ((s.stack k).buffered l).isNone && !((s.stack k).chan (chOf l)).written l

/-- Code words of a line that cannot be corrected: STK_ERR.UE, the row's mark and a report for each (R342, R352). -/
def State.stkUe (s : State) (k l ws : Nat) (cons : List Nat) (sld : Bool) (addr : Nat) : State :=
  overAll (wordBits ws) (fun s _ =>
    (s.modStack k fun x => { (x.modChan (chOf l) fun c => { c with
        bad := Map.set false c.bad (rowKey (bankOf l) (rowOf l)) true }) with ue := satAdd 65535 x.ue 1 }).report 2 cons
      (nodeStack k) sld (BitVec.ofNat 64 addr)) s

/-- What an access that is no packet meets in the code words of its line: what cannot be corrected is reported (R160,
R342). -/
def State.homeFault (s : State) (pa ws : Nat) (cons : List Nat) (sld : Bool) : State :=
  match s.target pa with
  | .ls n off => s.meetHalf n (off / 64) ws cons sld pa
  | .stack k q => s.stkUe k (q / 64) (s.lineLost k (q / 64) &&& ws) cons sld pa
  | _ => s

/-- A read of a line at its home by an access that is no packet, with its slot and its faults (R335, R342, R346). -/
def State.homeGet (s : State) (tag : Tag) (pa : Nat) (cons : List Nat) : Line × Bool × State :=
  let r := s.homeRead tag pa
  let s := if r.2 then s else s.homeFault pa 3 cons tag.sealed
  (r.1, r.2, match s.target pa with
    | .stack k q =>
      if (s.stack k).dead || !s.readsSlot k (q / 64) then s
      else s.stkQueue k (q / 64) { line := q / 64, needRead := true, needWrite := false }
    | _ => s)

/-- The code words of a stack line that a write of a mask merges with old bytes (R338). -/
def partWords (m : BitVec 64) : Nat :=
  let one (h : BitVec 32) : Bool := h != 0 && h != BitVec.allOnes 32
  bit (one (m.extractLsb' 0 32)) + 2 * bit (one (m.extractLsb' 32 32))

/-- The code words that a write of a mask reads: those it touches in a local store, and those it merges in a stack (R151,
R342). -/
def State.mergedWords (s : State) (tag : Tag) (pa : Nat) (mask : BitVec 64) : Nat :=
  if s.homeTag pa ≠ some tag then 0
  else match s.target pa with
    | .ls _ _ => touchedWords mask
    | _ => partWords mask

/-- The same for a write (R151, R335, R342, R345, R346). -/
def State.homePut (s : State) (tag : Tag) (pa first last : Nat) (data : Line) (cons : List Nat) : State :=
  let mask := spanMask first last
  let s := (s.homeFault pa (s.mergedWords tag pa mask) cons tag.sealed).homeWrite tag pa first last data
  match s.target pa with
  | .stack k q => if (s.stack k).dead then s else s.writeSlots k (q / 64) mask
  | _ => s

/-! ## Translation (R348, R349) -/

/-- What an access needs of a window (R348). -/
structure Need where
  r : Bool := false
  w : Bool := false
  x : Bool := false
  deriving DecidableEq, Repr

/-- The outcome of a translation. -/
inductive Xlat where
  /-- The translated address, the tag the access carries, and the cacheable attribute. -/
  | ok (pa : Nat) (tag : Tag) (cache : Bool)
  | refused
  | absent
  deriving DecidableEq, Repr

/-- The checks of R348 on the entry that address a uses, for an accessor with a tag (R123, R124). TARGET need not be a multiple
of 64: the access then acts on the line that holds its translated address (log entry 120, DESIGN CHOICE). -/
def useEntry (v : BitVec 256) (acc : Tag) (need : Need) (a : Nat) : Xlat :=
  let e := WEntry.of v
  if e.sld && acc != { sealed := true, session := e.session } then .refused
  else if (need.r && !e.r) || (need.w && !e.w) || (need.x && !e.x) then .refused
  else if e.absent then .absent
  else .ok (e.target + (a - e.base)) (if e.sld then acc else {}) e.cache

/-- Entry i of constellation c's window table as it stands at its home; a Sealed line reads zero (R349). -/
def State.tableEntry (s : State) (c i : Nat) : BitVec 256 :=
  let a := (s.con c).wtbase.toNat + 32 * i
  BitVec.ofNat 256 (lineNat (s.homeRead {} a).1 (a % 64) 32)

/-- The first matching entry of the table from entry i on, within `fuel` entries. -/
def State.walkFrom (s : State) (c a : Nat) : Nat → Nat → Option WCached
  | _, 0 => none
  | i, fuel + 1 =>
    let v := s.tableEntry c i
    if s.matches c i v a then some { index := i, raw := v } else s.walkFrom c a (i + 1) fuel

/-- The lowest-numbered cached entry of core n that matches (R349). -/
def State.cachedEntry (s : State) (n c a : Nat) : Option WCached :=
  ((s.core n).wcache.filter fun w => s.matches c w.index w.raw a).foldl
    (fun best w => match best with
      | none => some w
      | some b => if w.index < b.index then some w else some b) none

/-- A use of a cached entry makes it the most recently used of the 64 (R349). -/
def Core.touchW (c : Core) (w : WCached) : Core :=
  { c with wcache := (w :: c.wcache.filter fun x => x.index ≠ w.index).take 64 }

/-- What a translation gives as the core's cached entries and the table stand. -/
def State.translateNow (s : State) (n : Nat) (acc : Tag) (need : Need) (a : Nat) : Xlat :=
  match (s.core n).member with
  | none => .refused
  | some c =>
    if !s.tableOk c then .refused
    else
      match (match s.cachedEntry n c a with
        | some w => some w
        | none => s.walkFrom c a 0 (s.con c).wtcount.toNat) with
      | some w => useEntry w.raw acc need a
      | none => .refused

/-- The walk of an engine of core n, by its key (R349). -/
def State.setWalk (s : State) (n key : Nat) (w : Option Walk) : State :=
  s.modCore n fun c => { c with walks := match w with
    | some w => Map.insert key w (Map.drop c.walks key)
    | none => Map.drop c.walks key }

/-- A walk whose result an engine has used. -/
def State.endWalk (s : State) (n key : Nat) : State := if (Map.find (s.core n).walks key).isSome then s.setWalk n key none else s

/-- Translation by an engine of core n: none while it waits for a walk, which it starts if no cached entry matches (R348,
R349). -/
def State.translate (s : State) (n key : Nat) (acc : Tag) (need : Need) (a : Nat) : Option Xlat × State :=
  match (s.core n).member with
  | none => (some .refused, s)
  | some c =>
    if !s.tableOk c || (s.con c).wtcount == 0 then (some .refused, s)
    else
      match s.cachedEntry n c a with
      | some w => (some (useEntry w.raw acc need a), s.modCore n fun x => x.touchW w)
      | none =>
        let new : Walk := { acc := { kind := .load 1 false 0, addr := a } }
        match Map.find (s.core n).walks key with
        | none => (none, s.setWalk n key (some new))
        | some w =>
          if w.acc.addr ≠ a then (none, s.setWalk n key (some new))
          else if w.failed then (some .refused, s)
          else (none, s)

/-- Line i of constellation c's window table, as a read of it returns; its slots and faults are those of any read (R349). -/
def State.tableLine (s : State) (c i : Nat) : Line × State :=
  let r := s.homeGet {} ((s.con c).wtbase.toNat + 64 * i) [c]
  (r.1, r.2.2)

/-- Lines of the table. -/
def State.tableLines (s : State) (c : Nat) : Nat := ((s.con c).wtcount.toNat + 1) / 2

/-- The first of the two entries in line i that matches (R347, R349). -/
def State.matchIn (s : State) (c i : Nat) (l : Line) (a : Nat) : Option WCached :=
  (List.range 2).findSome? fun j =>
    let v := BitVec.ofNat 256 (lineNat l (32 * j) 32)
    if s.matches c (2 * i + j) v a then some { index := 2 * i + j, raw := v } else none

/-- How a walk stands: it waits for a line, it has met a matching entry, or it has passed the last one. -/
inductive WalkEnd where
  | waits (w : Walk)
  | found (e : WCached)
  | none

/-- A walk looks at the lines that have returned, in order, and stops at the first that holds a match (R349). -/
def State.walkOn (s : State) (c : Nat) : Nat → Walk → WalkEnd
  | 0, w => .waits w
  | fuel + 1, w =>
    if !s.tableOk c || s.tableLines c ≤ w.nextLine then .none
    else
      match w.got.lookup w.nextLine with
      | Option.none => .waits w
      | some l =>
        match s.matchIn c w.nextLine l w.acc.addr with
        | some e => .found e
        | Option.none => s.walkOn c fuel { w with nextLine := w.nextLine + 1, got := w.got.filter fun p => p.1 ≠ w.nextLine }

/-- The k-th of the 8 reads that a walk has outstanding returns, unless it has: the walk with its line, and how it stands
then (R349). -/
def State.walkReturn (s : State) (c k : Nat) (w : Walk) : WalkEnd × State :=
  let i := w.nextLine + k
  if s.tableLines c ≤ i || (w.got.lookup i).isSome then (s.walkOn c 9 w, s)
  else
    let r := s.tableLine c i
    (r.2.walkOn c 9 { w with got := (i, r.1) :: w.got }, r.2)

end Sys2Proof.Machine
end

