-- ==== Sys2Proof/Machine/Entitle.lean ====
section
/-! DEFINITION. Who may read and write the registers of control space: the map of R451 with the access
rules that each register map states. An address that the map does not list is reserved (R24). -/

namespace Sys2Proof.Machine

open Sys2Proof

/-- First address of control space. -/
def ctlBase : Nat := 0xF000000000000

/-- The address lies in control space. -/
def isCtl (a : Nat) : Bool := decide (ctlBase ≤ a)

/-- Block number, offset in the block. -/
def ctlSplit (a : Nat) : Nat × Nat := ((a - ctlBase) / 2 ^ 32, (a - ctlBase) % 2 ^ 32)

/-- The accessor is the supervisor of constellation c. -/
def State.supOf (s : State) (acc : Accessor) (c : Nat) : Bool :=
  match acc with
  | .thread t => s.isSup t c
  | _ => false

/-- The accessor is a thread of constellation c. -/
def State.thrOf (s : State) (acc : Accessor) (c : Nat) : Bool :=
  match acc with
  | .thread t => s.isOf t c
  | _ => false

/-- The accessor is the supervisor of some constellation. -/
def State.anySup (s : State) (acc : Accessor) : Bool :=
  match acc with
  | .thread t => (s.core (coreOf t)).member.isSome && !(s.thr t).world && (s.thr t).level
  | _ => false

/-- The accessor is a thread in the Open world. -/
def State.openThr (s : State) (acc : Accessor) : Bool :=
  match acc with
  | .thread t => (s.core (coreOf t)).member.isSome && !(s.thr t).world
  | _ => false

/-- RCOUNT at offset 0x1000 + 64c + 8r of a control block (R272, R353). -/
def State.mayRcount (s : State) (acc : Accessor) (r : Nat) (write : Bool) : Bool :=
  let c := (r - 0x1000) / 64
  if r < 0x1000 || 0x1800 ≤ r then false
  else acc == .keeper || (if write then s.supOf acc c else s.thrOf acc c)

/-- Core control block of core n (ch. 4; R61, R119, R272). -/
def State.mayCcb (s : State) (acc : Accessor) (n r : Nat) (write : Bool) : Bool :=
  let sup := match (s.core n).member with
    | none => false
    | some c => s.supOf acc c
  let mine := acc == .keeper || sup
  if s.member.cores ≤ n then false
  else if r == 0x40 then mine
  else if [0x00, 0x08, 0x10, 0x18, 0x20, 0x48, 0x50, 0x60, 0x80].contains r then mine && !write
  else if 0x400 ≤ r && r < 0x600 then mine && !write
  else (acc == .keeper || (s.core n).member.isSome) && s.mayRcount acc r write

/-- Function block of function f as the part sees it (ch. 15). -/
def State.mayFunc (s : State) (acc : Accessor) (f r : Nat) (write : Bool) : Bool :=
  let c := (s.func f).bound
  let sup := match c with
    | none => false
    | some c => s.supOf acc c
  let thr := match c with
    | none => false
    | some c => s.thrOf acc c
  if 32 ≤ f then false
  else if r < 0x18 then (sup || (acc == .keeper && f == 0)) && !write
  else if r == 0x18 then (thr || acc == .keeper) && !write
  else if f == 0 then false
  else if 0x100 ≤ r && r < 0x100 + 8 * 63 then sup
  else if 0x1000 ≤ r && r < 0x1200 then thr && !write
  else if r == 0x1400 then thr
  else if 0x1600 ≤ r && r < 0x1800 then sup
  else if r == 0x2000 then thr
  else false

/-- The function block of its own function is open to the host at an offset (R357, R358); what a write does there
follows the access code (R9). -/
def mayHostFunc (f r : Nat) : Bool :=
  if r ≤ 0x18 then true
  else if 0x10000 ≤ r && r < 0x18100 then true
  else if f == 0 then false
  else (0x100 ≤ r && r < 0x100 + 8 * 63) || (0x1000 ≤ r && r < 0x1200) || r == 0x1400 || (0x1600 ≤ r && r < 0x1800)

/-- Synchronisation block (ch. 12; R317). -/
def State.maySync (s : State) (acc : Accessor) (r : Nat) (write : Bool) : Bool :=
  if r < 0x200 then
    (acc == .keeper || s.supOf acc (r / 16)) && (!write || r % 16 == 0)
  else if 0x400 ≤ r && r < 0x500 then acc == .keeper || s.supOf acc ((r - 0x400) / 8)
  else if 0x1000 ≤ r && r < 0x3000 then
    let b := (r - 0x1000) / 8
    !write && (acc == .keeper || allCons.any fun c =>
      s.supOf acc c && (s.con c).cfg.barFirst ≤ b && b < (s.con c).cfg.barFirst + (s.con c).cfg.barCount)
  else false

/-- Chart engine (ch. 2; R419 opens the measurement registers to every reader). -/
def State.mayChart (s : State) (acc : Accessor) (r : Nat) (write : Bool) : Bool :=
  if acc == .keeper then
    r < 0x20 || (0x40 ≤ r && r < 0xA0) || (0x100 ≤ r && r < 0x200) || (0x400 ≤ r && r < 0x890)
  else
    !write && ((0x40 ≤ r && r < 0x60) || (0x80 ≤ r && r < 0xA0) || (0x400 ≤ r && r < 0x800) ||
      (0x100 ≤ r && r < 0x200 && s.supOf acc ((r - 0x100) / 8)))

/-- Session block (ch. 17; R419 opens SKEY_HASH and SKEY_ID to every reader). -/
def State.maySession (s : State) (acc : Accessor) (r : Nat) (write : Bool) : Bool :=
  let anyRead := (s.anySup acc || acc == .keeper) && !write
  if r < 0x8000 then anyRead
  else if 0x10000 ≤ r && r < 0x20000 then
    let o := (r - 0x10000) % 0x800
    let sup := s.supOf acc ((r - 0x10000) / 0x800)
    if o < 0x440 || o == 0x600 || (0x640 ≤ o && o < 0x680) then sup
    else if o == 0x608 then sup || (acc == .keeper && !write)
    else if 0x620 ≤ o && o < 0x640 then sup && !write
    else false
  else if r == 0x20000 then acc == .keeper
  else if r == 0x20008 || (0x20040 ≤ r && r < 0x20060) then !write
  else if 0x20800 ≤ r && r < 0x20CA0 then anyRead
  else false

/-- An accessor may read, or write, the control-space register at an 8-byte-aligned address (R25, R451). -/
def State.ctlMay (s : State) (acc : Accessor) (a : Nat) (write : Bool) : Bool :=
  let r := (ctlSplit a).2
  let keeper := acc == .keeper
  match (ctlSplit a).1 with
  | 0x0 => s.mayCcb acc (r / 0x10000) (r % 0x10000) write
  | 0x1 =>
    let o := r % 0x10000
    keeper && r / 0x10000 < s.member.dies && (o == 0x40 || ((o == 0x48 || o == 0x50) && !write) || o == 0x200)
  | 0x2 => s.maySync acc r write
  | 0x3 =>
    let o := r % 0x10000
    r / 0x10000 < s.member.stks &&
      ((keeper && !write && (o < 0x18 || (0x100 ≤ o && o < 0x180))) || (keeper && (o == 0x18 || o == 0x20)) ||
        s.mayRcount acc o write)
  | 0x4 =>
    if r < 0x100 then keeper || s.supOf acc (r / 8)
    else keeper && r < 0x100 + 32 * s.member.dies && (r % 32 == 0x10 || (!write && r % 32 < 0x10))
  | 0x5 =>
    r < 0x800 && (if r % 64 < 0x10 then s.supOf acc (r / 64) || (keeper && !write)
                  else r % 64 == 0x10 && s.supOf acc (r / 64))
  | 0x6 => s.mayChart acc r write
  | 0x7 => (keeper && r < 0x30) || (s.anySup acc && !write && (r == 0x08 || r == 0x20))
  | 0x8 => s.mayFunc acc (r / 0x20000) (r % 0x20000) write
  | 0x9 =>
    if r < 0x400 then
      if r % 64 == 0 then
        !write && r / 64 < s.member.ports &&
          (keeper || allCons.any fun c => s.supOf acc c && (s.con c).cfg.portMask.getLsbD (r / 64))
      else keeper && r % 64 == 8 && r / 64 < s.member.ports
    else keeper && ((0x800 ≤ r && r < 0xC40 && !write) || r == 0xC40)
  | 0xA =>
    let o := r % 0x1000
    s.member.hasTally (r / 0x1000) && r / 0x1000 < 8 &&
      ((o == 0 && (s.openThr acc || (keeper && !write))) || (o == 8 && keeper && !write) ||
        (o == 0x10 && ((allCons.any fun c => s.thrOf acc c) || (keeper && !write))))
  | 0xB => s.maySession acc r write
  | 0xC =>
    if r == 0 then keeper
    else if r == 8 || (0x40 ≤ r && r < 0x60) then true
    else keeper && 0x1000 ≤ r && r < 0x2020
  | 0xD => keeper && (r < 0x10 || (0x20 ≤ r && r < 0x40) || (0x1000 ≤ r && r < 0x54C0))
  | 0xE =>
    if r < 0x400 then keeper || (s.supOf acc (r / 32) && (!write || r % 32 < 0x10))
    else keeper && (r == 0x400 || r == 0x408)
  | 0xF =>
    if r == 0 then keeper || (!write && s.anySup acc)
    else if r == 8 || r == 0x200 then keeper
    else if 0x40 ≤ r && r < 0x40 + 8 * s.member.dies then keeper || (!write && s.anySup acc)
    else if 0x100 ≤ r && r < 0x200 then keeper || (!write && s.supOf acc ((r - 0x100) / 8))
    else if r == 0x208 then keeper || s.anySup acc
    else r == 0x210 && keeper
  | 0x10 =>
    let o := r % 0x2000
    (keeper || acc == .debug || acc == .host 0) && r / 0x2000 < s.member.cores &&
      (o == 0x400 || o == 0x408 || (o < 0x400 && (o % 0x100 == 0 || o % 0x100 == 8)))
  | _ => false

/-- A refused register access counts, as kind 5, for the accessor that made it (R25, R28, R29, R452): the
Keeper and PF0 count in the package tally only. -/
def State.refuseAccessor (s : State) (acc : Accessor) (a : Nat) : State :=
  match acc with
  | .thread t => s.refuse t 5 a
  | .keeper => s.refuseOut none 0xFFF 0 5 a
  | .host f => s.refuseOut (if f = 0 then none else (s.func f).bound) nodeHost f 5 a
  | .debug => s.refuseOut none nodeHost 0 5 a

/-- A write of the register at address `a` by an accessor, with its effect if the accessor is entitled. -/
def State.regCmd (s : State) (acc : Accessor) (a : Nat) (k : State → State) : State :=
  if acc == .keeper && !s.firmware then s
  else if s.ctlMay acc a true then k s else s.refuseAccessor acc a

/-- The firmware adds an entry to the event log whose NODE, and DETAIL and ADDR where none is given, R458 does
not state for its kind (log entry 3, DESIGN CHOICE). An entry of kind 4, boot or warm reset, is made while it stops too. -/
def State.eventOpen (s : State) (kind cid : Nat) (detail : Option Nat) : State :=
  let a := s.draw
  let b := a.2.draw
  let c := b.2.draw
  if !s.firmware && kind != 4 then s
  else c.2.event kind cid (a.1.toNat % 65536) (detail.getD (b.1.toNat % 2 ^ 32)) c.1

end Sys2Proof.Machine
end

