-- ==== Sys2Proof/Machine/Mesh.lean ====
section
/-! DEFINITION. The mesh: destinations (R248, R249, R260), the presentation of packets at a core
(R255, R256, R263-R265), injection, the routers (R251-R254, R268, R270), the performance of packets
at a local-store home (R150, R262, R269, R291, R483), and the arrival of answers (R263). -/

namespace Sys2Proof.Machine

open Sys2Proof

/-- The present fabric cycle: two make a core cycle (R69). -/
def State.fab (s : State) : Nat := 2 * s.clk.ccycle.toNat + bit s.clk.odd

/-! ## Bonds and ports (R17, R47, R387) -/

/-- The committed port record of port p. -/
def State.portRec (s : State) (p : Nat) : PortRec := Map.get {} s.chart.pkg.ports p

/-- Member ports of the bond whose lowest port is b. -/
def State.bondPorts (s : State) (b : Nat) : List Nat :=
  (List.range s.member.ports).filter fun p => (s.portRec p).enable && (s.portRec p).bondFirst == b

/-- The members that are up, in ascending order. -/
def State.livePorts (s : State) (b : Nat) : List Nat :=
  (s.bondPorts b).filter fun p => (s.port p).st == PState.up

/-- Peer of a bond that is up. -/
def State.bondPeer (s : State) (b : Nat) : Option Nat := (s.livePorts b).head?.map fun p => (s.port p).peerFleet

/-- The port through which constellation c reaches a line of fleet identity f (R387). -/
def State.remotePort (s : State) (c f line : Nat) : Option Nat :=
  if f = s.chart.pkg.fleetId then none
  else
    match (List.range s.member.ports).find? fun b =>
      (s.portRec b).enable && (s.portRec b).bondFirst == b && s.bondPeer b == some f &&
        (s.con c).cfg.portMask.getLsbD b with
    | none => none
    | some b => let l := s.livePorts b; l[line % l.length]?

/-! ## Destinations (R16-R18, R248, R260) -/

/-- Router and destination port of a node for a line. -/
def State.routerOf (s : State) (node line : Nat) : Nat × Nat × Nat :=
  let m := s.member
  if node < 0x480 then ((m.xy node).1, (m.xy node).2, 0)
  else if node < 0xC00 then
    let k := node - 0x800
    let d := k / 3
    (12 * (d % m.dieCols) + 4 * (k % 3) + line % 4, if d < m.dieCols then 0 else 23, 1)
  else if node < 0xD00 then (0, line % 12, 3)
  else if node < 0xE00 then
    let p := node - 0xD00
    let e := p / m.portsPerEdge
    let g := 12 / m.portsPerEdge
    (if e % 2 = 0 then 0 else m.width - 1, 12 * (e / 2) + g * (p % m.portsPerEdge) + line % g, 2)
  else
    let lx := if node = nodeControl then 5 else 6
    let ly := if node < 0xF00 then 6 else 5
    let d := if node = nodeControl then 0 else node % 256
    (12 * (d % m.dieCols) + lx, 12 * (d / m.dieCols) + ly, 3)

/-- The packet addressed to a node. -/
def State.addressed (s : State) (p : Packet) (node : Nat) : Packet :=
  let r := s.routerOf node p.line
  { p with dst := node, dx := r.1, dy := r.2.1, dport := r.2.2 }

/-- The node that performs accesses to a translated address for constellation c, and the host address
where it is a host window; none if the source refuses the access (R24, R260, R363, R387). -/
def State.homeNode (s : State) (c pa : Nat) : Option (Nat × Option (Nat × Nat)) :=
  match s.target pa with
  | .ls n _ => some (n, none)
  | .stack k _ => some (nodeStack k, none)
  | .host => (s.hostFn c pa).map fun h => (nodeHost, some h)
  | .remote f _ => (s.remotePort c f (pa / 64)).map fun p => (nodePort p, none)
  | .control => none
  | .nowhere => none

/-! ## Presentation at a core (R255, R256, R263-R265) -/

/-- Packets of a stream that are not answered (R264). -/
def Thread.outstanding (th : Thread) (k : Nat) : Nat :=
  (Map.get 0 th.issued k - Map.get 0 th.done k).toNat

/-- The engine that presents a packet which no answer follows, if R265 orders it: a copy channel's ADD, and a thread's
TALLY packet. -/
def Packet.engine (p : Packet) (n : Nat) : Option Engine :=
  match p.chan with
  | some x => some (.chan x.chan)
  | none => if p.typ == .tally then some (.thread (4 * n + p.thread)) else none

/-- Core n can present a packet now (R256, R264, R265). -/
def State.canPresent (s : State) (n : Nat) (p : Packet) (o : Option Outst) : Bool :=
  let c := s.core n
  let clear (e : Engine) : Bool := !(c.outst.any fun x => x.engine == e && x.line == p.line)
  c.injQ.length < 16 &&
  match o with
  | none => (p.engine n).all clear
  | some o => clear o.engine && (s.thr (4 * n + o.thread)).outstanding o.stream < 4096

/-- Present a packet: it takes its place in the injection queue, and a RD, WR or ATOM counts in its
stream (R263). -/
def State.present (s : State) (n : Nat) (p : Packet) (o : Option Outst) : State :=
  match o with
  | none => s.modCore n fun c => { c with injQ := c.injQ ++ [p] }
  | some o =>
    let t := 4 * n + o.thread
    let seq := Map.get 0 (s.thr t).issued o.stream
    let s := s.modThr t fun th => { th with
      issued := Map.set 0 th.issued o.stream (seq + 1)
      progress := if th.outstanding o.stream = 0 then Map.set 0 th.progress o.stream s.fab else th.progress }
    s.modCore n fun c => { c with
      injQ := c.injQ ++ [{ p with seq := seq.setWidth 16, life := c.clears }]
      outst := c.outst ++ [{ o with seq := seq.setWidth 16, epoch := p.epoch }] }

/-- The engine whose order a waiting packet keeps. -/
def waitEngine (n : Nat) (p : Packet) (o : Option Outst) : Engine :=
  match o with
  | some o => o.engine
  | none => (p.engine n).getD (.cache n)

/-- Present, in order, every waiting packet that can be presented; a packet that waits holds back the
later packets of its engine. -/
def pumpList (n : Nat) : List (Packet × Option Outst) → List Engine → State → State × List (Packet × Option Outst)
  | [], _, s => (s, [])
  | (p, o) :: l, held, s =>
    if !held.contains (waitEngine n p o) && s.canPresent n p o then pumpList n l held (s.present n p o)
    else
      let r := pumpList n l (waitEngine n p o :: held) s
      (r.1, (p, o) :: r.2)

/-- Present what core n can present of its waiting packets. -/
def State.pump (s : State) (n : Nat) : State :=
  let r := pumpList n (s.core n).waitQ [] s
  r.1.modCore n fun c => { c with waitQ := r.2 }

/-- Hand a packet of core n to the mesh as soon as it can be presented. -/
def State.send (s : State) (n : Nat) (p : Packet) (o : Option Outst) : State :=
  (s.modCore n fun c => { c with waitQ := c.waitQ ++ [(p, o)] }).pump n

/-! ## Injection and routers -/

/-- Mesh neighbours of a router, in the order north, east, south, west (R252). -/
def Member.out (m : Member) (x y dir : Nat) : Option (Nat × Nat) :=
  match dir with
  | 0 => if 0 < y then some (x, y - 1) else none
  | 1 => if x + 1 < m.width then some (x + 1, y) else none
  | 2 => if y + 1 < m.rows then some (x, y + 1) else none
  | _ => if 0 < x then some (x - 1, y) else none

def Member.outs (m : Member) (x y : Nat) : Nat := ((List.range 4).filter fun d => (m.out x y d).isSome).length

/-- Flits at a router input of a plane. -/
def State.flitsAt (s : State) (plane x y : Nat) : List Flit :=
  s.flits.filter fun f => f.plane == plane && f.x == x && f.y == y

/-- A line's stack channel (R333), from the fabric line. -/
def State.channelOf (s : State) (line : Nat) : Nat :=
  match s.target (line * 64) with
  | .stack _ q => q / 64 % 32
  | _ => 0

/-- Lines of a plane that wait in port p's outbound queue (R383). -/
def State.portQueued (s : State) (p plane : Nat) : Nat :=
  ((s.inb (nodePort p)).filter fun q => q.came % 4 == plane).length + ((s.port p).outQ.filter fun l => l.1 == plane).length

/-- The endpoint of a packet accepts it from a plane this cycle (R252, R334, R383, R437). -/
def State.accepts (s : State) (p : Packet) (plane : Nat) : Bool :=
  if 0x800 ≤ p.dst ∧ p.dst < 0xC00 ∧ !p.control then
    let k := s.stack (p.dst - 0x800)
    let ch := s.channelOf p.line
    k.dead || (Map.get ({} : SChan) k.chans ch).queue.length +
      ((s.inb p.dst).filter fun q => s.channelOf q.line == ch).length < 64
  else if 0xD00 ≤ p.dst ∧ p.dst < 0xE00 then s.portQueued (p.dst - 0xD00) plane < 256
  else true

/-- TYPE of the header (R261). -/
def PType.code : PType → Nat
  | .rd => 1
  | .rdata => 2
  | .wr => 3
  | .wack => 4
  | .atom => 5
  | .atomr => 6
  | .add => 7
  | .arrive => 8
  | .signal => 9
  | .tally => 10

/-- STREAM and SEQ of the header: those of an ADD hold its lane width, CNT and RTAG (R250). -/
def Packet.hdrStream (p : Packet) : Nat := if p.typ == .add then bit p.wide else p.stream
def Packet.hdrSeq (p : Packet) : Nat := if p.typ == .add then 8 * p.cnt + p.rtag else p.seq.toNat

/-- SESSION of the header: in an ADD its constellation (R250, R267). -/
def Packet.hdrSession (p : Packet) : Nat := if p.typ == .add then p.cid else if p.tag.sealed then p.tag.session.toNat else 0

/-- The header of a packet of an age (R250). -/
def Packet.header (p : Packet) (age : Nat) : BitVec 128 :=
  BitVec.ofNat 128 (((((((((((((p.line * 64 + p.last) * 64 + p.first) * 4096 + p.hdrSession) * 2 + bit p.tag.sealed) * 64 +
    age) * 65536 + p.hdrSeq) * 16 + p.hdrStream) * 4 + p.thread) * 4096 + p.src) * 4 + p.dport) * 32 + p.dy) * 64 +
    p.dx) * 16 + p.typ.code)

/-- AGE (R253). -/
def State.age (s : State) (p : Packet) : Nat := min 63 (s.fab / 16 - p.injected / 16)

/-- The rank of R253 as a number: the smaller ranks higher. -/
def State.rank (s : State) (p : Packet) : Nat :=
  ((((63 - s.age p) * 4096 + (p.src + 4096 - s.fab / 256 % 4096) % 4096) * 4 + p.thread) * 16 + p.hdrStream) * 65536 +
    p.hdrSeq

/-- Insert a flit in rank order. -/
def insertRank (key : Flit → Nat) (f : Flit) : List Flit → List Flit
  | [] => [f]
  | g :: l => if key f < key g then f :: g :: l else g :: insertRank key f l

/-- The flits of a ranked list that eject in one cycle: each ejection port takes one (R252). -/
def State.ejects (s : State) (x y : Nat) (l : List Flit) : Nat :=
  (l.foldl (fun ports f =>
    if f.pkt.dx = x ∧ f.pkt.dy = y ∧ !ports.contains f.pkt.dport ∧ s.accepts f.pkt f.plane then f.pkt.dport :: ports else ports)
    ([] : List Nat)).length

/-- Key of the port of a router on a plane, at which an endpoint injects. -/
def State.injKey (s : State) (x y dport plane : Nat) : Nat := ((y * s.member.width + x) * 4 + dport) * 4 + plane

/-- The planes whose router at (x, y) takes a flit from an endpoint in this fabric cycle: fewer flits must leave it on mesh
outputs than it has, and it has taken none from that endpoint (R255). -/
def State.freePlanes (s : State) (x y dport : Nat) : List Nat :=
  (List.range 4).filter fun p =>
    let here := (s.flitsAt p x y).foldl (fun l f => insertRank (fun f => s.rank f.pkt) f l) []
    here.length - s.ejects x y here < s.member.outs x y && Map.get 0 s.injAt (s.injKey x y dport p) != s.fab + 1

/-- Inject a packet at a router on a plane (R255). -/
def State.injectOn (s : State) (p : Packet) (plane x y dport : Nat) : State :=
  { s with flits := s.flits ++ [{ pkt := { p with injected := s.fab }, plane, x, y, due := s.fab }]
           injAt := Map.set 0 s.injAt (s.injKey x y dport plane) (s.fab + 1) }

/-- Inject a waiting response of a node on the lowest free plane, oldest first (R255). -/
def State.injectResponse (s : State) (node : Nat) : State :=
  match s.outb node with
  | [] => s
  | p :: l =>
    let r := s.routerOf node p.line
    match (s.freePlanes r.1 r.2.1 r.2.2).head? with
    | none => s
    | some pl => (s.setOutb node l).injectOn p pl r.1 r.2.1 r.2.2

/-- Inject the head of core n's injection queue; a throttled core uses each plane at most once in 8
fabric cycles (R255, R257). -/
def State.injectRequest (s : State) (n : Nat) : State :=
  let c := s.core n
  match c.injQ with
  | [] => s
  | p :: l =>
    let r := s.member.xy n
    let planes := (s.freePlanes r.1 r.2 0).filter fun pl =>
      !c.throttled || Map.get 0 c.lastInj pl == 0 || Map.get 0 c.lastInj pl + 7 ≤ s.fab
    match planes.head? with
    | none => s
    | some pl =>
      let posted (c : Core) : Nat :=
        if p.typ == .arrive || p.typ == .signal || p.typ == .add then s.fab + 1 else c.posted
      ((s.modCore n fun c => { c with
          injQ := l, lastInj := Map.set 0 c.lastInj pl (s.fab + 1), posted := posted c }).injectOn p pl
        r.1 r.2 0).pump n

/-- Add lanes of 32 or 64 bits modulo 2^w (R267). -/
def addLanes (wide : Bool) (a b : Line) : Line :=
  let w := if wide then 8 else 4
  lineOf ((List.range (64 / w)).flatMap fun i => natBytes w (lineNat a (w * i) w + lineNat b (w * i) w))

/-- Two packets that routers merge (R268, R304). -/
def mergeable (a b : Packet) : Bool :=
  a.typ == b.typ && a.bad == 0 && b.bad == 0 && (a.typ == .add || (a.typ == .arrive && a.first == 0 && b.first == 0)) &&
    a.line == b.line && a.dx == b.dx && a.dy == b.dy && a.dport == b.dport && a.rtag == b.rtag &&
    a.cid == b.cid && a.wide == b.wide && a.cnt + b.cnt ≤ 8191

/-- The merged packet: `a` ranks higher (R268). -/
def mergePkt (a b : Packet) : Packet :=
  { a with data := if a.typ == .add then addLanes a.wide a.data b.data else 0, cnt := a.cnt + b.cnt
           first := if a.typ == .add then min a.first b.first else a.first
           last := if a.typ == .add then max a.last b.last else a.last
           injected := min a.injected b.injected }

/-- Merge a flit into the first one of a ranked list that it merges with; true if ADDs merged. -/
def mergeInto (f : Flit) : List Flit → List Flit × Bool
  | [] => ([f], false)
  | g :: l =>
    if mergeable g.pkt f.pkt then ({ g with pkt := mergePkt g.pkt f.pkt } :: l, f.pkt.typ == .add)
    else let r := mergeInto f l; (g :: r.1, r.2)

/-- The merges of a ranked list, and how many of them were of ADDs (R268, R273). -/
def mergeAll (l : List Flit) : List Flit × Nat :=
  l.foldl (fun a f => let r := mergeInto f a.1; (r.1, a.2 + bit r.2)) ([], 0)

/-- The code of a response on a Meridian link (R376). -/
def lineType : PType → Nat
  | .rd => 1
  | .rdata => 2
  | .wr => 3
  | .wack => 4
  | .atom => 5
  | .atomr => 6
  | _ => 8

/-- The answer of a node to a packet (R262, R263). -/
def State.reply (s : State) (node : Nat) (p : Packet) (typ : PType) (data : Line) (refused : Bool) : Packet :=
  s.addressed { typ, line := p.line, first := p.first, last := p.last, tag := p.tag, seq := p.seq,
                stream := p.stream, thread := p.thread, src := node, data, refused, control := p.control, life := p.life } p.src

/-- Queue an answer at its node for injection (R255). -/
def State.answer (s : State) (node : Nat) (p : Packet) (typ : PType) (data : Line) (refused : Bool) : State :=
  s.setOutb node (s.outb node ++ [s.reply node p typ data refused])

/-- The type of the answer to a packet (R261). -/
def answerType : PType → PType
  | .rd => .rdata
  | .wr => .wack
  | _ => .atomr

/-- The answer to an inbound request leaves through its Meridian port, or another live member of the bond, with
its TAG; one that is no longer owed is discarded (R385, R388, R389). -/
def State.ejectAnswer (s : State) (p : Packet) : State :=
  let n := p.dst - 0xD00
  let q := s.port n
  match q.serving.find? fun x => x.1 == p.line with
  | none => s
  | some x =>
    let s := s.modPort n fun q => { q with serving := q.serving.erase x }
    let live := s.livePorts (s.portRec n).bondFirst
    match (if live.contains n then some n else live.head?) with
    | none => s
    | some m =>
      if !x.2 then s
      else s.modPort m fun q => { q with outQ := q.outQ ++
        [(p.came % 4, { typ := lineType p.typ, line := (p.line - 2 ^ 24 * s.chart.pkg.exportBase) % 2 ^ 32, tag := p.seq.toNat
                        first := p.first, last := p.last, data := p.data, bad := p.bad })] }

/-- Enter a packet among those that wait at a stack: those of one fabric cycle stand by router from west to east, then by
plane (R334). -/
def ingress (p : Packet) : List Packet → List Packet
  | [] => [p]
  | q :: l => if p.came < q.came then p :: q :: l else q :: ingress p l

/-- Deliver an ejected packet: a request for a bond that is not up completes at once (R389), and every other
packet waits at its node. -/
def State.eject (s : State) (p : Packet) : State :=
  if 0xD00 ≤ p.dst ∧ p.dst < 0xE00 then
    if p.typ == .rdata || p.typ == .wack || p.typ == .atomr then s.ejectAnswer p
    else if (s.livePorts (s.portRec (p.dst - 0xD00)).bondFirst).isEmpty then
      if p.src < 0x480 then s.answer p.dst p (answerType p.typ) 0 false else s
    else s.setInb p.dst (s.inb p.dst ++ [p])
  else if 0x800 ≤ p.dst ∧ p.dst < 0xC00 then s.setInb p.dst (ingress p (s.inb p.dst))
  else s.setInb p.dst (s.inb p.dst ++ [p])

/-- What a hop has done so far: the state, the outputs and ejection ports taken. -/
structure Hop where
  s : State
  outs : List Nat
  ejected : List Nat

/-- The outputs that bring a flit closer, X first (R252). -/
def productive (p : Packet) (x y : Nat) : List Nat :=
  (if x < p.dx then [1] else if p.dx < x then [3] else []) ++
  (if y < p.dy then [2] else if p.dy < y then [0] else [])

/-- A flit that leaves (x, y) in a direction is lost: the link, seen from either end, or the next router has stopped
working (R439). -/
def State.lostAt (s : State) (x y o : Nat) : Bool :=
  let n := (s.member.out x y o).getD (x, y)
  s.failed.contains (.router n.1 n.2) || s.failed.contains (.link x y o) || s.failed.contains (.link n.1 n.2 ((o + 2) % 4))

/-- Assign an output to one flit (R252): the next router has it 2 fabric cycles after this one did, and 4 later across a seam
between dies (R251, R258). A flit always finds an output, since every router has as many outputs as inputs and R255 holds
injection back; in a state of another kind it stays. -/
def Hop.place (h : Hop) (f : Flit) : Hop :=
  let p := f.pkt
  let s := h.s
  let d := s.member.dieOf (f.y * s.member.width + f.x)
  if p.dx = f.x ∧ p.dy = f.y ∧ !h.ejected.contains p.dport ∧ s.accepts p f.plane then
    let s := s.modDie d fun x => { x with late := if p.injected + 65536 < s.fab then satAdd 65535 x.late 1 else x.late }
    { h with s := s.eject { p with came := (s.fab * 64 + f.x) * 4 + f.plane }, ejected := p.dport :: h.ejected }
  else
    let free (o : Nat) : Bool := !h.outs.contains o && (s.member.out f.x f.y o).isSome
    let good := (productive p f.x f.y).filter free
    match good ++ (List.range 4).filter free with
    | [] => { h with s := { s with flits := s.flits ++ [f] } }
    | o :: _ =>
      let xy := (s.member.out f.x f.y o).getD (f.x, f.y)
      let seam := f.x / 12 ≠ xy.1 / 12 ∨ f.y / 12 ≠ xy.2 / 12
      let due := f.due + (if seam then 6 else 2)
      let s := if s.lostAt f.x f.y o then s else { s with flits := s.flits ++ [{ f with x := xy.1, y := xy.2, due }] }
      let s := if good.isEmpty then
          let n := f.y * s.member.width + f.x
          (s.modDie d fun x => { x with deflections := x.deflections + 1 }).modCore n fun c => { c with
            deflCycles := if c.deflCycles.head? = some s.fab then c.deflCycles else (s.fab :: c.deflCycles).take 64 }
        else s
      { h with s := s, outs := o :: h.outs }

/-- What arrives damaged at a router, of its i-th flit: entry 8i + b with b from 1 to 3 says that b bytes of its header and
check bytes are bad, entry 8i that more are and that it reads as a packet of an invalid type, and entry 8i + 4 + m that the code
words of its payload which the mask m names cannot be corrected. -/
abbrev Damage := List Nat

/-- Bad header bytes of flit i: one is corrected, two or three are detected (R247). -/
def Damage.header (d : Damage) (i : Nat) : Option Nat := (d.find? fun e => e / 8 = i ∧ e % 8 < 4).map (· % 8)

/-- Code words of the payload of flit i that have become uncorrectable. -/
def Damage.payload (d : Damage) (i : Nat) : Nat :=
  (d.filter fun e => e / 8 = i ∧ 4 < e % 8).foldl (fun m e => m ||| (e % 8 - 4)) 0

/-- A flit is discarded whose header has two or three bad bytes or whose type is invalid; the first is also reported. One bad
byte is corrected (R247, R261, R270). -/
def State.dropHeaders (s : State) (n : Nat) (bad : Damage) (l : List Flit) : State × List Flit :=
  let at_ (f : Nat → Bool) : Nat := ((List.range l.length).filter fun i => (bad.header i).any f).length
  let lost := at_ fun b => 2 ≤ b
  let s := s.modDie (s.member.dieOf n) fun x => { x with
    hdrDropped := satAdd 65535 x.hdrDropped (lost + at_ (· == 0)), hdrCorrected := satAdd 65535 x.hdrCorrected (at_ (· == 1)) }
  let s := overAll (List.range lost) (fun s _ => s.report 5 [] n false 0) s
  (s, (l.zipIdx.filter fun p => (bad.header p.2).all (· == 1)).map fun p =>
    { p.1 with pkt := { p.1.pkt with bad := p.1.pkt.bad ||| bad.payload p.2 } })

/-- One cycle of one router of one plane, for the flits that arrived in an earlier fabric cycle (R251-R253, R268, R270). -/
def State.hop (s : State) (plane x y : Nat) (bad : Damage) : State :=
  let now (f : Flit) : Bool := f.plane == plane && f.x == x && f.y == y && decide (f.due < s.fab)
  let here := s.flits.filter now
  if here.isEmpty then s
  else
    let n := y * s.member.width + x
    let broken := s.failed.contains (.router x y)
    let s := { s with flits := s.flits.filter fun f => !now f }
    if broken then s
    else
    let r := s.dropHeaders n bad here
    let s := r.1
    let ranked := r.2.foldl (fun l f => insertRank (fun f => s.rank f.pkt) f l) []
    let m := mergeAll ranked
    let s := s.modDie (s.member.dieOf n) fun d => { d with combines := d.combines + BitVec.ofNat 32 m.2 }
    (m.1.foldl Hop.place { s, outs := [], ejected := [] }).s

/-! ## Packets at their home -/

/-- The constellation whose engine issued a packet. -/
def State.requester (s : State) (p : Packet) : Option Nat :=
  if p.src < 0x480 then (s.core p.src).member else none

/-- A home refuses a packet (R28, R262); a refused ADD counts in the package tally only (R269). The address recorded is that of
the line at its home (log entry 106, DESIGN CHOICE). -/
def State.refusePkt (s : State) (p : Packet) (kind : Nat) : State :=
  if p.typ == .add then s.tallyUp none
  else if p.src < 0x480 then
    match p.chan with
    | some x => s.refuseAt p.src (8 + x.port) p.tag p.level kind (p.line * 64)
    | none => s.refuseAt p.src p.thread p.tag p.level kind (p.line * 64)
  else s.refuseOut none p.src 0 kind (p.line * 64)

/-- The new word of an atomic operation (R291). -/
def atomNew (op : AtomOp) (w b cmp : Word) : Word :=
  match op with
  | .swap => b
  | .cas => if w = cmp then b else w
  | .fadd => w + b
  | .fand => w &&& b
  | .forA => w ||| b
  | .fxor => w ^^^ b
  | .fmax => if w.slt b then b else w
  | .fmin => if b.slt w then b else w
  | .fmaxu => if w.ult b then b else w
  | .fminu => if b.ult w then b else w
  | .aload => w

/-- The line after an ATOM, and the old word. -/
def atomLine (p : Packet) (old : Line) : Line × Word :=
  let w : Word := BitVec.ofNat 64 (lineNat old (8 * p.word) 8)
  (lineSet old (8 * p.word) 8 (atomNew p.op w p.opnd p.cmp).toNat, w)

/-- A home counter RCOUNT after an ADD (R269). -/
def countAdd (m : Map (BitVec 32)) (p : Packet) : Map (BitVec 32) :=
  Map.set 0 m (8 * p.cid + p.rtag) (Map.get 0 m (8 * p.cid + p.rtag) + BitVec.ofNat 32 p.cnt)

/-- Payload code words of a packet that its home cannot correct are written as zero and reported: those that its bytes
touch (R271). -/
def Packet.payload (p : Packet) : Line := zeroWords p.bad p.data

/-- An ATOM whose payload cannot be corrected acts with an operand and a compare value of zero (R271; log entry 116, DESIGN
CHOICE). -/
def Packet.atomed (p : Packet) : Packet := if p.bad = 0 then p else { p with opnd := 0, cmp := 0 }

/-- Report the uncorrectable payload code words of a packet at a home (R271). -/
def State.payloadUe (s : State) (cls node : Nat) (p : Packet) : State :=
  let ws := match p.typ with
    | .wr | .add => p.bad &&& touchedWords (spanMask p.first p.last)
    | .atom => p.bad
    | _ => 0
  overAll (wordBits ws) (fun s _ => s.report cls (s.requester p).toList node p.tag.sealed (BitVec.ofNat 64 (p.line * 64))) s

/-- Constellation of a requester and address, as a fault of its access reports them (R160, R342). -/
def State.meetPkt (s : State) (n h ws : Nat) (p : Packet) : State :=
  s.meetHalf n h ws (s.requester p).toList p.tag.sealed (p.line * 64)

/-- Perform a RD, WR, ATOM or ADD at core n's local store, in one P7 slot (R150, R151, R262, R269, R271, R291). A
core that is gone or has been cleared since the check answers zero (R483). -/
def State.performLs (s : State) (n : Nat) (p : Packet) : State :=
  let h := p.line * 64 % 0x2000000 / 64
  let c := s.core n
  if c.member = none ∨ c.clears ≠ p.epoch then
    if p.typ == .add then s else s.answer n p (answerType p.typ) 0 false
  else
    let same := s.halfTag n h == p.tag
    let mask := match p.typ with
      | .atom => spanMask (8 * p.word) (8 * p.word + 7)
      | _ => spanMask p.first p.last
    let ws := touchedWords mask
    match p.typ with
    | .rd =>
      if mayRead p.tag (s.halfTag n h) then
        (s.meetPkt n h 3 p).answer n p .rdata (s.halfRead n h) false
      else (s.refusePkt p 0).answer n p .rdata 0 true
    | .wr =>
      let s := (if same then s.meetPkt n h ws p else s).payloadUe 1 n p
      (s.writeHalf n h mask p.payload p.tag).answer n p .wack 0 false
    | .atom =>
      if same then
        let r := atomLine p.atomed (s.halfRead n h)
        (((s.meetPkt n h ws p).payloadUe 1 n p).writeHalf n h mask r.1 p.tag).answer n p .atomr (lineSet 0 0 8 r.2.toNat) false
      else (s.refusePkt p 2).answer n p .atomr 0 true
    | .add =>
      let s := s.modCore n fun c => { c with rcount := countAdd c.rcount p }
      if same then
        ((s.meetPkt n h ws p).payloadUe 1 n p).writeHalf n h mask (addLanes p.wide (s.halfRead n h) p.payload) p.tag
      else s.refusePkt p 2
    | _ => s

/-- Sub-store of a byte offset (R145). -/
def subStore (off : Nat) : Nat := off / 128 % 8

/-- The packet is a request that port P7 performs (R150), and not a control-space access. -/
def Packet.forP7 (p : Packet) : Bool :=
  !p.control && (p.typ == .rd || p.typ == .wr || p.typ == .atom || p.typ == .add)

/-- Position of the oldest inbound request of core n queued for a sub-store (R150). -/
def State.p7Head (s : State) (n sub : Nat) : Option Nat :=
  (s.inb n).findIdx? fun p => p.forP7 && subStore (p.line * 64 % 0x2000000) == sub

/-- Perform the inbound request at position i of core n, after symbols of its row have gone bad. -/
def State.p7Perform (s : State) (n i : Nat) (bad : BitVec 8) : State :=
  match (s.inb n)[i]? with
  | none => s
  | some p => ((s.strikeLs n (p.line * 64 % 0x2000000 / 128) bad).setInb n (dropAt (s.inb n) i)).performLs n p

/-! ## Arrival of answers (R263) -/

/-- Sets and ways of the data cache (R108). -/
def dcSet (line : Nat) : Nat := line % 128

/-- The maximal runs of dirty bytes of a line, as (first, last) (R279). -/
def dirtyRuns (m : BitVec 64) : List (Nat × Nat) :=
  (List.range 64).filterMap fun i =>
    if m.getLsbD i ∧ (i = 0 ∨ ¬ m.getLsbD (i - 1)) then
      some (i, i + ((List.range 64).filter fun j => i + j < 64 ∧ (List.range (j + 1)).all fun k => m.getLsbD (i + k)).length - 1)
    else none

/-- The packet of a data-cache line's write-back run, with its stream and engine (R263, R274). -/
def State.wbPacket (s : State) (n t : Nat) (eng : Engine) (l : CLine) (run : Nat × Nat) :
    Option (Packet × Option Outst) :=
  let c := (s.core n).member.getD 0
  match (if l.host.isSome then some (nodeHost, l.host) else s.homeNode c (l.line * 64)) with
  | none => none
  | some (node, host) =>
    let p := s.addressed { typ := .wr, line := l.line, first := run.1, last := run.2, tag := l.tag, stream := 0,
                           thread := t % 4, src := n, data := l.data, host, epoch := l.epoch } node
    some (p, some { engine := eng, thread := t % 4, stream := 0, seq := 0, line := l.line, tag := l.tag,
                    use := .writeBack t })

/-- Send the write-backs of a cache line, one WR for each run of dirty bytes, in ascending order (R279).
A line whose target is gone goes nowhere (R351, R483). -/
def State.writeBack (s : State) (n t : Nat) (eng : Engine) (l : CLine) : State :=
  overAll (dirtyRuns l.dirty) (fun s run =>
    match s.wbPacket n t eng l run with
    | none => s
    | some (p, o) => s.send n p o) s

/-- Place a line in core n's data cache, most recently used first; the least recently used line of a
full set is written back if it is dirty, and replaced (R108). A line that is there stays as it is: no event of R289 replaces
its bytes. -/
def State.cacheFill (s : State) (n t : Nat) (l : CLine) : State :=
  let dc := (s.core n).dcache
  if dc.any fun x => x.line == l.line && x.tag == l.tag then s
  else
  let same := dc.filter fun x => dcSet x.line == dcSet l.line
  if same.length < 8 then s.modCore n fun c => { c with dcache := l :: dc }
  else
    match same.getLast? with
    | none => s
    | some old =>
      (s.modCore n fun c => { c with dcache := l :: dc.filter fun x => !(x.line == old.line && x.tag == old.tag) }).writeBack
        n t (.thread t) old

/-- A fill that allocates nothing: what it returns is only delivered. -/
def Use.unfill : Use → Use
  | .fill t dst off size sx => .load t dst off size sx
  | u => u

/-- Fills of a line that are in flight at core n allocate nothing, since an ATOM drops the line (R110, R280, R289). -/
def Core.dropFills (c : Core) (line : Nat) (tag : Tag) : Core :=
  let f (o : Outst) : Outst := if o.line = line ∧ o.tag = tag then { o with use := o.use.unfill } else o
  { c with outst := c.outst.map f, waitQ := c.waitQ.map fun w => (w.1, w.2.map f) }

/-- The bytes a load takes from a line. -/
def loadOf (l : Line) (off size : Nat) (sx : Bool) : Word := loadValue size sx (lineNat l off size)

/-- The outstanding packet of core n that an answer names (R263); the answer to a packet from before a clear of the
core names none (log entry 101, DEDUCED). -/
def State.findOutst (s : State) (n : Nat) (p : Packet) : Option (Nat × Outst) :=
  match (s.core n).outst.zipIdx.find? fun (o, _) =>
    o.thread == p.thread && o.stream == p.stream && o.seq == p.seq && p.life == (s.core n).clears with
  | none => none
  | some (o, i) => some (i, o)

/-- The refused fill of a store that waits at the head of the store queue drops that store (R25). -/
def Thread.dropStore (th : Thread) (line : Nat) : Thread :=
  match th.storeQ with
  | .cached l _ _ _ _ :: q => if l = line then { th with storeQ := q } else th
  | _ => th

/-- Line i of the long instruction numbered `id` returns; if that has been left, nothing waits for it. -/
def Thread.engineAnswer (th : Thread) (id i : Nat) (data : Line) : Thread :=
  match th.long with
  | some l => if l.id = id then { th with long := some { l with got := Map.set 0 l.got (2 * i) data, owed := l.owed.erase i } }
    else th
  | none => th

/-- Complete an access with its answer: DONE rises, and the result goes where the access wants it. -/
def State.complete (s : State) (n i : Nat) (o : Outst) (data : Line) (refused : Bool) : State :=
  let t := 4 * n + o.thread
  let s := s.modCore n fun c => { c with outst := dropAt c.outst i }
  let s := s.modThr t fun th => { th with
    done := Map.set 0 th.done o.stream (Map.get 0 th.done o.stream + 1)
    progress := Map.set 0 th.progress o.stream s.fab }
  let s := match o.use with
    | .load _ dst off size sx => s.modThr t fun th => th.deliver dst (loadOf data off size sx) data
    | .fill _ dst off size sx =>
      let s := s.modThr t fun th => th.deliver dst (loadOf data off size sx) data
      if refused then
        if dst = Dst.nowhere then s.modThr t fun th => th.dropStore o.line else s
      else s.cacheFill n t { line := o.line, tag := o.tag, data, host := o.host, epoch := o.epoch }
    | .atomOld _ dst => s.modThr t fun th => th.deliver dst (BitVec.ofNat 64 (lineNat data 0 8)) data
    | .copyRead k off i => s.modCore n fun c => c.modBurst k off fun b => { b with
        waits := b.waits - 1, got := Map.set 0 b.got i data }
    | .copyWrite k off => s.modCore n fun c => c.modBurst k off fun b => { b with waits := b.waits - 1 }
    | .engine t id i => s.modThr t fun th => th.engineAnswer id i data
    | .ack _ | .writeBack _ | .remote _ _ => s
  s.pump n

/-- An answer of a type reaches core n: it is the i-th packet that waits there (R263, R271). -/
def State.arrive (s : State) (n i : Nat) (typ : PType) (ue : Nat) : State :=
  match (s.inb n)[i]? with
  | none => s
  | some p =>
    if p.typ ≠ typ then s
    else
      let s := s.setInb n (dropAt (s.inb n) i)
      match s.findOutst n p with
      | none => s
      | some (j, o) =>
        let bad := if typ == .wack then 0 else p.bad ||| ue
        let s := overAll (wordBits bad) (fun s _ =>
          s.report 1 (s.core n).member.toList n o.tag.sealed (BitVec.ofNat 64 (p.line * 64))) s
        s.complete n j o (zeroWords bad p.data) p.refused

end Sys2Proof.Machine
end

