-- ==== Sys2Proof/Machine/Operands.lean ====
section
/-! DEFINITION. Operand forms: effective addresses of the M, X and R forms (R96, R101), immediates
and displacements. -/

namespace Sys2Proof.Machine

open Sys2Proof

/-- The address pg[PG] + offset, the offset taken modulo 2^24 (R96). -/
def Thread.pageAddr (th : Thread) (pg : PgReg) (off : Word) : Nat := (th.pgreg pg.val).toNat + off.toNat % 2 ^ 24

/-- M form: (g[RA] + sext(IMM13)) mod 2^24 (R96). -/
def Thread.eaM (th : Thread) (ra : Reg) (pg : PgReg) (imm : BitVec 13) : Nat :=
  th.pageAddr pg (th.greg ra + imm.signExtend 64)

/-- X form: (g[RA] + (g[RB] << SCALE)) mod 2^24 (R96). -/
def Thread.eaX (th : Thread) (ra rb : Reg) (pg : PgReg) (scale : Nat) : Nat :=
  th.pageAddr pg (th.greg ra + (th.greg rb <<< scale))

/-- The address pg[PG] + (g[RA] mod 2^24) of ATOM, the line forms and the engine instructions (R101,
R104). -/
def Thread.eaA (th : Thread) (ra : Reg) (pg : PgReg) : Nat := th.pageAddr pg (th.greg ra)

/-- The address of row i of a tile instruction: pg[PG] + ((g[RA] + i × g[RC]) mod 2^24), from the
register values read at issue (R181). -/
def rowAddr (page base stride i : Nat) : Nat := page + (base + i * stride) % 2 ^ 24

/-- The target of a branch or jump: PC + 4 × sext(displacement) (R101). -/
def branchTarget (pc : Word) (n : Nat) (disp : BitVec n) : Word := pcOf (pc + 4 * disp.signExtend 64)

/-- Keys of the availability table: g[r] and v[r]. -/
def gk (r : Reg) : Nat := r.val
def vk (r : Reg) : Nat := 32 + r.val

/-- Bytes 2^n of a size field. -/
def sizeOf' (n : Nat) : Nat := 2 ^ n

end Sys2Proof.Machine
end

