-- ==== Sys2Proof/Machine/Access.lean ====
section
/-! DEFINITION. The one path of a scalar memory access (R94-R98, R108-R111, R153-R158, R260, R266,
R289-R293, R348, R349), the gather buffer and the P4 items of a thread, the store queue, and the
window-table walk. -/

namespace Sys2Proof.Machine

open Sys2Proof

/-! ## The gather buffer (R154) -/

/-- `n` bytes of a 1024-bit line from byte `off`, as a number. -/
def wideNat (l : BitVec 1024) (off n : Nat) : Nat := (l.toNat >>> (8 * off)) % 2 ^ (8 * n)

/-- A 1024-bit line with `n` bytes from `off` replaced. -/
def wideSet (old : BitVec 1024) (off n v : Nat) : BitVec 1024 :=
  let m := ((2 ^ (8 * n) - 1) <<< (8 * off)) % 2 ^ 1024
  BitVec.ofNat 1024 ((old.toNat &&& (2 ^ 1024 - 1 - m)) ||| ((v % 2 ^ (8 * n)) <<< (8 * off)))

/-- Mask of `n` bytes from `off`. -/
def wideMask (off n : Nat) : BitVec 128 := BitVec.ofNat 128 ((2 ^ n - 1) * 2 ^ off)

/-- Tag of half 0 or 1 of an entry. -/
def GEntry.tag (e : GEntry) (h : Nat) : Tag := if h = 0 then e.tagLo else e.tagHi
def GEntry.setTag (e : GEntry) (h : Nat) (t : Tag) : GEntry := if h = 0 then { e with tagLo := t } else { e with tagHi := t }

/-- The mask of half h. -/
def halfMask (h : Nat) : BitVec 128 := wideMask (64 * h) 64

/-- The entry after a store of `n` bytes at byte `off` (R154). A half that held bytes of another tag
keeps only the store's: dirty bytes read as the zero that R157 makes them, clean ones are no longer
valid. -/
def GEntry.store (e : GEntry) (off n v : Nat) (tag : Tag) (born : Nat) : GEntry :=
  let h := off / 64
  let e := if e.dirty = 0 then { e with born := born } else e
  let e :=
    if e.tag h = tag then e
    else if e.dirty &&& halfMask h = 0 then { e with valid := e.valid &&& ~~~ halfMask h }
    else { e with valid := e.valid ||| halfMask h, dirty := e.dirty ||| halfMask h
                  data := wideSet e.data (64 * h) 64 0 }
  { (e.setTag h tag) with valid := e.valid ||| wideMask off n, dirty := e.dirty ||| wideMask off n
                          data := wideSet e.data off n v }

/-- The entry of a line moved to the front of the thread's entries, if it has one. -/
def Thread.entryOf (th : Thread) (line : Nat) : Option GEntry := th.gather.find? fun e => e.line == line
def Thread.withEntry (th : Thread) (e : GEntry) : Thread :=
  { th with gather := e :: th.gather.filter fun x => x.line ≠ e.line }

/-- The thread's entry of a line, if it has one, made the most recently used (R154). -/
def Thread.useEntry (th : Thread) (line : Nat) : Thread :=
  match th.entryOf line with
  | some e => th.withEntry e
  | none => th

/-- Room for a new entry: the least recently used clean one goes (R154). -/
def Thread.evictClean (th : Thread) : Option Thread :=
  if th.gather.length < 2 then some th
  else
    match (th.gather.filter fun e => e.dirty == 0).getLast? with
    | none => none
    | some e => some { th with gather := th.gather.filter fun x => x.line ≠ e.line }

/-- A number for a new item or load, and the thread that has used it. -/
def Thread.fresh (th : Thread) : Nat × Thread := (th.nextId, { th with nextId := th.nextId + 1 })

/-- Where the result of a load into g[rd] goes, and the thread whose register waits for it (R88, R91). -/
def Thread.dest (th : Thread) (rd : Reg) : Dst × Thread :=
  if rd.val = 0 then (.nowhere, th)
  else (.g rd th.nextId, { th.await rd.val th.nextId with nextId := th.nextId + 1 })

/-- The same for v[vd]. -/
def Thread.destV (th : Thread) (vd : Reg) : Dst × Thread :=
  (.v vd th.nextId, { th.await (32 + vd.val) th.nextId with nextId := th.nextId + 1 })

/-- The own-slot bytes of a load that one entry of the thread holds whole, and may be read (R154, R158). -/
def Thread.gatherHit (th : Thread) (off size : Nat) : Option Nat :=
  match th.entryOf (off / 128) with
  | none => none
  | some e =>
    let o := off % 128
    if e.valid &&& wideMask o size = wideMask o size ∧ mayRead th.tag (e.tag (o / 64)) then
      some (wideNat e.data o size)
    else none

/-! ## P4 items (R155) -/

/-- The own-store line of an item is performed in a slot of thread t at its core: dirty entries first,
then ring pushes, then reads, which return what the slot writes (R155). -/
def State.p4Write (s : State) (t line : Nat) : State :=
  let n := coreOf t
  match (s.thr t).entryOf line with
  | none => s
  | some e =>
    if e.dirty = 0 then s
    else
      let half (s : State) (h : Nat) : State :=
        let m : BitVec 64 := e.dirty.extractLsb' (64 * h) 64
        if m = 0 then s
        else s.writeHalf n (2 * line + h) m (BitVec.ofNat 512 (wideNat e.data (64 * h) 64)) (e.tag h)
      let lost (h : Nat) : BitVec 128 :=
        if e.dirty &&& halfMask h ≠ 0 ∧ s.halfTag n (2 * line + h) ≠ e.tag h then halfMask h &&& ~~~ e.dirty else 0
      let s' := half (half s 0) 1
      s'.modThr t fun th => { th with gather := th.gather.map fun x =>
        if x.line = line then { x with dirty := 0, valid := x.valid &&& ~~~ (lost 0 ||| lost 1) } else x }

/-- A whole line of core n's local store, as a row-form read delivers it. -/
def State.fullLine (s : State) (n line : Nat) : BitVec 1024 :=
  BitVec.ofNat 1024 ((s.halfRead n (2 * line)).toNat + 2 ^ 512 * (s.halfRead n (2 * line + 1)).toNat)

/-- Perform one P4 item other than a dirty entry. The transfer of a pop reads the half as any read does (R158, R164). -/
def State.p4Do (s : State) (t : Tid) (it : P4Item) : State :=
  let n := coreOf t
  let refused (s : State) (off : Nat) (dst : Dst) : State :=
    (s.refuseAt n (tnum t) it.tag it.level 0 (lsBase n + off)).modThr t fun th => th.deliver dst 0 0
  match it.kind with
  | .read dst off size sx =>
    let h := off / 64
    if mayRead it.tag (s.halfTag n h) then
      let v := s.halfRead n h
      let fresh : GEntry := { line := it.line, valid := BitVec.allOnes 128, data := s.fullLine n it.line,
                              tagLo := s.halfTag n (2 * it.line), tagHi := s.halfTag n (2 * it.line + 1) }
      s.modThr t fun th =>
        let th := th.deliver dst (loadOf v (off % 64) size sx) v
        match th.entryOf it.line with
        | some _ => th.withEntry fresh
        | none => match th.evictClean with
          | some th => th.withEntry fresh
          | none => th
    else refused s off dst
  | .ringPush half data => (s.writeHalf n half (BitVec.allOnes 64) data it.tag).setSlotSt n half 2
  | .ringPop half dst =>
    (if mayRead it.tag (s.halfTag n half) then
      let v := s.halfRead n half
      s.modThr t fun th => th.deliver dst (loadOf v 0 8 false) v
     else refused s (64 * half) dst).setSlotSt n half 0

/-- The oldest pending item of thread t at sub-store `sub`: its line (R155). -/
def Thread.oldestLine (th : Thread) (sub : Nat) : Option Nat :=
  let items := (th.p4.map fun i => (i.born, i.line)) ++
    ((th.gather.filter fun e => e.dirty != 0).map fun e => (e.born, e.line))
  ((items.filter fun p => p.2 % 8 == sub).foldl (fun best p =>
    match best with
    | none => some p
    | some b => if p.1 < b.1 then some p else some b) none).map (·.2)

/-- The code words of half h that a slot reads: all of them for a read, and otherwise those that the entry's dirty bytes
touch (R151). -/
def Thread.slotWords (th : Thread) (line h : Nat) (reads : Bool) : Nat :=
  if reads then 3
  else match th.entryOf line with
    | some e => touchedWords (e.dirty.extractLsb' (64 * h) 64)
    | none => 0

/-- What a slot of thread t finds in the code words of a line that it reads (R151, R160). -/
def State.p4Meet (s : State) (t line : Nat) (reads : Bool) : State :=
  let n := coreOf t
  let meet (s : State) (h : Nat) : State :=
    s.meetHalf n (2 * line + h) ((s.thr t).slotWords line h reads) (s.core n).member.toList (s.thr t).world (lsBase n + 128 * line)
  meet (meet s 0) 1

/-- One owned P4 slot of thread t at a sub-store (R155), after symbols of the row have gone bad. What the slot finds in the
code words that it reads follows R160. -/
def State.p4Slot (s : State) (t : Tid) (sub : Nat) (bad : BitVec 8) : State :=
  match (s.thr t).oldestLine sub with
  | none => s
  | some line =>
    let n := coreOf t
    let items := (s.thr t).p4.filter fun i => i.line == line
    let push (i : P4Item) : Bool := match i.kind with
      | .ringPush _ _ => true
      | _ => false
    let reads := items.any fun i => !push i
    let s := (s.modThr t fun th => { th with ran := true, p4 := th.p4.filter fun i => i.line ≠ line }).strikeLs n line bad
    let s := (s.p4Meet t line reads).p4Write t line
    let s := overAll (items.filter push) (fun s i => s.p4Do t i) s
    overAll (items.filter fun i => !push i) (fun s i => s.p4Do t i) s

/-! ## Refusals at the source (R26, R260) -/

/-- The cycle in which an access refused at its source returns its data (R260). -/
def refusalDue (c : Word) (addr : Nat) : Word :=
  c + BitVec.ofNat 64 ((addr / 128 % 8 + 16 - 7 - c.toNat % 8) % 8 + 6)

/-- A scalar read or atomic refused at its source: it counts, and its register holds zero once the
computed time has passed. -/
def State.refuseLoad (s : State) (t : Tid) (kind addr : Nat) (rd : Reg) : State :=
  let s := s.refuse t kind addr
  s.modThr t fun th =>
    let d := th.dest rd
    { d.2 with refusals := d.2.refusals ++ [{ dst := d.1, due := refusalDue (s.issueCycle t) addr }] }

/-- ATOM and ADDN (R101). -/
def AccKind.isAtom : AccKind → Bool
  | .atom .. | .addn .. => true
  | _ => false

/-- Kinds of FOE_INFO. -/
def AccKind.foe : AccKind → Nat
  | .load .. => 0
  | .store .. => 1
  | .atom .. | .addn .. => 2
  | .maint .. => 7

/-- A scalar access is refused: its instruction retires without effect on memory. -/
def State.refuseAcc (s : State) (t : Tid) (a : Access) (kind : Nat) : State :=
  (match a.kind with
   | .load _ _ rd | .atom _ rd _ _ => s.refuseLoad t kind a.addr rd
   | _ => s.refuse t kind a.addr).past t 4

/-! ## Translated scalar accesses -/

/-- The line of a store that waits in the store queue (R88). -/
def QItem.line (n : Nat) : QItem → Option Nat
  | .own off _ _ _ _ => some ((lsBase n + off) / 64)
  | .cached l _ _ _ _ => some l
  | .packet p => if p.typ == .wr then some p.line else none

/-- A store of the thread to a line is still in its store queue (R88). -/
def State.conflict (s : State) (t line : Nat) : Bool :=
  (s.thr t).storeQ.any fun q => q.line (coreOf t) == some line

/-- Append to the store queue. -/
def Thread.push (th : Thread) (q : QItem) : Thread := { th with storeQ := th.storeQ ++ [q] }

/-- The tag of the line in core n's data cache that serves an accessor: its own, or a Sealed one that
refuses an Open accessor (R109). -/
def Core.cached (c : Core) (line : Nat) (tag : Tag) : Option CLine :=
  c.dcache.find? fun l => l.line == line && l.tag == tag
def Core.sealedLine (c : Core) (line : Nat) : Bool := c.dcache.any fun l => l.line == line && l.tag.sealed

/-- Make a cache line the most recently used. -/
def Core.touch (c : Core) (l : CLine) : Core :=
  { c with dcache := l :: c.dcache.filter fun x => !(x.line == l.line && x.tag == l.tag) }

/-- Write back a line of the data cache and, for CINV and ATOM, drop it; true if write-backs were sent
(R110, R111). -/
def State.lineMaint (s : State) (t line : Nat) (tag : Tag) (inv : Bool) : State × Bool :=
  let n := coreOf t
  match (s.core n).cached line tag with
  | none => (s, false)
  | some l =>
    let s := s.modCore n fun c => { c with dcache :=
      if inv then (c.dcache.filter fun x => !(x.line == line && x.tag == tag))
      else (c.dcache.map fun x => if x.line == line && x.tag == tag then { x with dirty := 0 } else x) }
    (s.writeBack n t (.thread t) l, l.dirty != 0)

/-- The packet of a thread's access to a translated address. -/
def State.accPacket (s : State) (t pa node : Nat) (host : Option (Nat × Nat)) (tag : Tag) (typ : PType) : Packet :=
  s.addressed { typ, line := pa / 64, tag, thread := tnum t, level := (s.thr t).level, src := coreOf t, host
                epoch := if node < 0x480 then (s.core node).clears else 0 } node

/-- A write to a line of a window table that only another may write (R58, R123): refused at its source. -/
def State.tableBars (s : State) (t : Tid) (pa : Nat) (kind : AccKind) : Bool :=
  match kind with
  | .load .. | .maint _ => false
  | k =>
    let size := match k with
      | .store size _ => size
      | _ => 8
    !s.tableFree (s.writerOf (coreOf t) (s.thr t).tag (s.thr t).level) pa (pa + size - 1)

def outstOf (t : Tid) (p : Packet) (u : Use) : Outst :=
  { engine := .thread t, thread := tnum t, stream := 0, seq := 0, line := p.line, tag := p.tag, host := p.host, use := u }

/-- Perform a scalar access at its translated address (R94, R108-R111, R291-R293, R363, R387). A load or
ATOM to the line of a store in the store queue does nothing yet; the caller does not let it issue. -/
def State.translated (s : State) (t : Tid) (a : Access) (pa : Nat) (tag : Tag) (cache : Bool) : State :=
  let n := coreOf t
  let c := (s.core n).member.getD 0
  let th := s.thr t
  let own := ownOffset n pa
  let isWrite := match a.kind with
    | .load .. => false
    | _ => true
  let level := th.level && !a.kind.isAtom
  let ownBad := match own with
    | none => s.tableBars t pa a.kind
    | some off => !s.ownOkAt t level off isWrite
  let line := pa / 64
  let off := pa % 64
  let bars (s : State) : Bool := !tag.sealed && (s.core n).sealedLine line && ((s.core n).cached line tag).isNone
  match a.kind with
  | .maint inv =>
    if own.isSome then s.past t 4
    else if (s.homeNode c pa).isNone then s.refuseAcc t a 7
    else
      let r := s.lineMaint t line tag inv
      if r.2 then r.1.modThr t fun th => { th with blocked := some .maint } else r.1.past t 4
  | k =>
    if ownBad then s.refuseAcc t a k.foe
    else
      match s.homeNode c pa with
      | none => s.refuseAcc t a k.foe
      | some (node, host) =>
        match k with
        | .load size sx rd =>
          if cache ∧ own.isNone then
            match (s.core n).cached line tag with
            | some l => ((s.modCore n fun c => c.touch l).setG t rd (loadOf l.data off size sx)).past t 4
            | none =>
              if bars s then s.refuseAcc t a 0
              else
                let d := th.dest rd
                let p := s.accPacket t pa node host tag .rd
                ((s.setThr t d.2).send n p (some (outstOf t p (.fill t d.1 off size sx)))).past t 4
          else
            let d := th.dest rd
            let p := s.accPacket t pa node host tag .rd
            ((s.setThr t d.2).send n p (some (outstOf t p (.load t d.1 off size sx)))).past t 4
        | .store size v =>
          if cache ∧ own.isNone then
            if bars s then s.refuseAcc t a 1
            else (s.modThr t fun th => th.push (.cached line off size v tag)).past t 4
          else
            let p := s.accPacket t pa node host tag .wr
            (s.modThr t fun th => th.push (.packet { p with first := off, last := off + size - 1
                                                            data := lineSet 0 off size v.toNat })).past t 4
        | .atom op rd b cmp =>
          if host.isSome || bars s then s.refuseAcc t a 2
          else
            let s := (s.lineMaint t line tag true).1.modCore n fun c => c.dropFills line tag
            let d := (s.thr t).dest rd
            let p := { s.accPacket t pa node host tag .atom with word := off / 8, op, opnd := b, cmp,
                                                                 first := off, last := off + 7 }
            ((s.setThr t d.2).send n p (some (outstOf t p (.atomOld t d.1)))).past t 4
        | .addn wide rtag b =>
          if host.isSome || bars s || th.world || (decide (0xD00 ≤ node) && decide (node < 0xE00)) then s.refuseAcc t a 2
          else
            let p := s.accPacket t pa node host {} .add
            (s.modThr t fun th => th.push (.packet { p with first := off, last := off + 7, rtag, cid := c, wide, cnt := 1
                                                            data := lineSet 0 off 8 b.toNat })).past t 4
        | .maint _ => s

/-! ## The access -/

/-- What the window checks of an access need (R111, R348). -/
def AccKind.need : AccKind → Need
  | .load .. => { r := true }
  | .store .. => { w := true }
  | .atom .. | .addn .. => { r := true, w := true }
  | .maint _ => {}

/-- ECAUSE.ACCESS (R125). -/
def AccKind.code : AccKind → Nat
  | .load .. | .maint _ => 0
  | .store .. => 1
  | .atom .. | .addn .. => 3

/-- Bytes by which the address must be aligned (R98, R291). -/
def AccKind.align : AccKind → Nat
  | .load n _ _ | .store n _ => n
  | .atom .. | .addn .. => 8
  | .maint _ => 1

/-- Loads and ATOMs wait for an older store of the thread to their line (R88). -/
def AccKind.waits : AccKind → Bool
  | .load .. | .atom .. | .addn .. => true
  | _ => false

/-- Use a window entry for an access (R348): it is refused, raises WINDOW, or goes on. -/
def State.useFor (s : State) (t : Tid) (a : Access) (raw : BitVec 256) : State :=
  match useEntry raw (s.thr t).tag a.kind.need a.addr with
  | .refused => s.refuseAcc t a a.kind.foe
  | .absent =>
    match a.kind with
    | .maint _ => s.past t 4
    | k => s.raise t causeWindow k.code (BitVec.ofNat 64 a.addr)
  | .ok pa tag cache => s.translated t a pa tag cache

/-- The line that an entry translates an address to. -/
def entryLine (raw : BitVec 256) (addr : Nat) : Nat :=
  ((WEntry.of raw).target + (addr - (WEntry.of raw).base)) / 64

/-- An own-slot access: through the gather buffer and the store queue, or, for an ATOM or ADD, over the
mesh to port P7 (R94, R97, R154, R292). -/
def State.ownAccess (s : State) (t : Tid) (a : Access) (off : Nat) : State :=
  let n := coreOf t
  let th := s.thr t
  match a.kind with
  | .maint _ => s.past t 4
  | .load size sx rd =>
    if !s.ownOk t off false then s.refuseAcc t a 0
    else
      match th.gatherHit off size with
      | some v => (s.modThr t fun th => (th.useEntry (off / 128)).setG rd (loadValue size sx v)).past t 4
      | none =>
        let d := th.dest rd
        let f := d.2.fresh
        (s.setThr t { f.2 with p4 := f.2.p4 ++
          [{ line := off / 128, kind := .read d.1 off size sx, tag := th.tag, level := th.level
             born := f.1 }] }).past t 4
  | .store size v =>
    if !s.ownOk t off true then s.refuseAcc t a 1
    else (s.modThr t fun th => { th.push (.own off size v th.tag th.nextId) with nextId := th.nextId + 1 }).past t 4
  | k => if s.ownOkAt t false off true then s.translated t a (lsBase n + off) th.tag false else s.refuseAcc t a k.foe

/-- A control-space access: 8 bytes, checked against the register map, then a RD or WR of stream 0 to
the block that holds the register (R97, R266). -/
def ctlNode (a : Nat) : Nat :=
  let r := (ctlSplit a).2
  match (ctlSplit a).1 with
  | 0x0 => r / 0x10000
  | 0x3 => nodeStack (r / 0x10000)
  | 0x8 => nodeHost
  | 0xA => nodeTally (r / 0x1000)
  | _ => nodeControl

/-- The control-space packet; a stack's control block answers at its first router (R266). -/
def State.ctlPacket (s : State) (t addr : Nat) (typ : PType) (v : Word) : Packet :=
  let node := ctlNode addr
  let p : Packet := { typ, line := addr / 64, tag := (s.thr t).tag, thread := tnum t, level := (s.thr t).level,
                      src := coreOf t, control := true, word := addr % 64 / 8,
                      first := if typ == .rd then 0 else addr % 64, last := if typ == .rd then 63 else addr % 64 + 7, data := lineSet 0 (addr % 64) 8 v.toNat
                      opnd := v, dst := node }
  if 0x800 ≤ node ∧ node < 0xC00 then
    let r := s.routerOf node 0
    { p with dx := r.1, dy := r.2.1, dport := r.2.2 }
  else s.addressed p node

def State.ctlAccess (s : State) (t : Tid) (a : Access) : State :=
  let n := coreOf t
  let eight (size : Nat) (w : Bool) : Bool := size == 8 && s.ctlMay (.thread t) a.addr w
  match a.kind with
  | .maint _ => s.past t 4
  | .atom .. | .addn .. => s.refuseAcc t a 2
  | .load size _ rd =>
    if !eight size false then s.refuseAcc t a 5
    else
      let d := (s.thr t).dest rd
      let p := s.ctlPacket t a.addr .rd 0
      ((s.setThr t d.2).send n p (some (outstOf t p (.load t d.1 (a.addr % 64) 8 false)))).past t 4
  | .store size v =>
    if !eight size true then s.refuseAcc t a 5
    else
      let typ := if (ctlSplit a.addr).1 = 0xA ∧ (ctlSplit a.addr).2 % 0x1000 = 0 then PType.tally else .wr
      (s.modThr t fun th => th.push (.packet (s.ctlPacket t a.addr typ v))).past t 4

/-- The line of an access that needs no walk, for R88. -/
def State.accLine (s : State) (t : Tid) (addr : Nat) : Option Nat :=
  let n := coreOf t
  if (ownOffset n addr).isSome ∨ isCtl addr then some (addr / 64)
  else
    match (s.core n).member with
    | none => none
    | some c => (s.cachedEntry n c addr).map fun w => entryLine w.raw addr

/-- The access waits for a store of the thread to its line (R88). -/
def State.stalls (s : State) (t : Tid) (a : Access) : Bool :=
  a.kind.waits &&
  match s.accLine t a.addr with
  | none => false
  | some l => s.conflict t l

/-- A scalar access through a window: one that no cached entry matches starts a walk of the table (R348, R349). -/
def State.windowAccess (s : State) (t : Tid) (a : Access) : State :=
  let n := coreOf t
  let c := (s.core n).member.getD 0
  if !s.tableOk c then s.refuseAcc t a a.kind.foe
  else
    match s.cachedEntry n c a.addr with
    | some w => (s.modCore n fun x => x.touchW w).useFor t a w.raw
    | none =>
      if (s.con c).wtcount = 0 then s.refuseAcc t a a.kind.foe
      else s.modThr t fun th => { th with walk := some { acc := a } }

/-- A scalar memory access from its issue on (R97, R98). -/
def State.access (s : State) (t : Tid) (a : Access) : State :=
  if a.addr % a.kind.align ≠ 0 then s.raise t causeAlign a.kind.code (BitVec.ofNat 64 a.addr)
  else
    match ownOffset (coreOf t) a.addr with
    | some off => s.ownAccess t a off
    | none => if isCtl a.addr then s.ctlAccess t a else s.windowAccess t a

/-- Issue a scalar memory instruction that reads the registers `srcs`. -/
def accessInstr (s : State) (t : Tid) (srcs : List Nat) (kind : Thread → AccKind) (addr : Thread → Nat) : Out State :=
  let a : Access := { kind := kind (s.thr t), addr := addr (s.thr t) }
  if s.stalls t a then .next s else issue s t srcs fun s => s.access t a

/-- A line that a walk of thread t has asked for returns, the k-th of those outstanding (R349). -/
def State.walkLine (s : State) (t : Tid) (k : Nat) : State :=
  match (s.thr t).walk, (s.core (coreOf t)).member with
  | some w, some c =>
    let r := s.walkReturn c k w
    let done := r.2.modThr t fun th => { th with walk := none }
    match r.1 with
    | .waits w => r.2.modThr t fun th => { th with walk := some w }
    | .found e =>
      if w.acc.kind.waits && s.conflict t (entryLine e.raw w.acc.addr) then s
      else (done.modCore (coreOf t) fun x => x.touchW e).useFor t w.acc e.raw
    | .none => done.refuseAcc t w.acc w.acc.kind.foe
  | _, _ => s

/-- The same for a walk of an engine of core n: the matching entry is cached, and the engine finds it when it presents its
access again. -/
def State.engineWalk (s : State) (n key k : Nat) : State :=
  match Map.find (s.core n).walks key, (s.core n).member with
  | some w, some c =>
    let r := s.walkReturn c k w
    match r.1 with
    | .waits w => r.2.setWalk n key (some w)
    | .found e => (r.2.modCore n fun x => x.touchW e).setWalk n key none
    | .none => r.2.setWalk n key (some { w with failed := true })
  | _, _ => s

/-! ## The store queue (R88, R108, R154, R256) -/

/-- The store at the head of thread t's queue leaves it, if there is room. -/
def State.drain (s : State) (t : Tid) : State :=
  let n := coreOf t
  let s := s.modThr t fun th => if th.storeQ.isEmpty then th else { th with ran := true }
  let th := s.thr t
  match th.storeQ with
  | [] => s
  | q :: rest =>
    match q with
    | .own off size v tag born =>
      match th.entryOf (off / 128) with
      | some e => s.setThr t ({ th with storeQ := rest }.withEntry (e.store (off % 128) size v.toNat tag born))
      | none =>
        match th.evictClean with
        | none => s
        | some th' =>
          let e : GEntry := { line := off / 128 }
          s.setThr t ({ th' with storeQ := rest }.withEntry
            (((e.setTag 0 tag).setTag 1 tag).store (off % 128) size v.toNat tag born))
    | .cached line off size v tag =>
      let c := s.core n
      match c.cached line tag with
      | some l =>
        (s.setCore n (c.touch { l with data := lineSet l.data off size v.toNat
                                       dirty := l.dirty ||| spanMask off (off + size - 1) })).modThr t fun th =>
          { th with storeQ := rest }
      | none =>
        let busy := (c.outst.any fun o => o.line == line && o.tag == tag && (match o.use with
            | .fill .. => true
            | _ => false)) || c.waitQ.any fun w => w.1.line == line && w.1.typ == .rd
        if busy then s
        else
          match s.homeNode (c.member.getD 0) (line * 64) with
          | none => s.modThr t fun th => { th with storeQ := rest }
          | some (node, host) =>
            let p := s.accPacket t (line * 64) node host tag .rd
            s.send n p (some (outstOf t p (.fill t .nowhere 0 8 false)))
    | .packet p =>
      let o := if p.typ == .wr then some (outstOf t p (.ack t)) else none
      let waits := p.typ == .wr && (s.core n).waitQ.any fun w => w.1.line == p.line && w.1.thread == p.thread
      if s.canPresent n p o && !waits then
        (s.present n p o).modThr t fun th => { th with storeQ := rest }
      else s

/-- Complete the oldest access refused at its source whose time has come (R260). -/
def State.refusalDone (s : State) (t : Tid) : State :=
  let th := s.thr t
  match th.refusals with
  | [] => s
  | r :: l =>
    if r.due.toNat ≤ s.clk.ccycle.toNat then s.setThr t ({ th with refusals := l }.deliver r.dst 0 0) else s

end Sys2Proof.Machine
end

