-- ==== Sys2Proof/Machine/Alu.lean ====
section
/-! DEFINITION. Integer arithmetic of the scalar core (R101-R104, R107): the ALU group, the immediate
forms, the register loads and the reads of time, cycle count and feature words. -/

namespace Sys2Proof.Machine

open Sys2Proof

/-! ## Functions of the ALU group (R102, R103) -/

/-- One if true, as a word. -/
def word1 (b : Bool) : Word := if b then 1 else 0

/-- Low 6 bits of a shift amount (R103). -/
def amount (b : Word) : Nat := b.toNat % 64

def aluMin (a b : Word) : Word := if a.slt b then a else b
def aluMax (a b : Word) : Word := if a.slt b then b else a
def aluMinu (a b : Word) : Word := if a.ult b then a else b
def aluMaxu (a b : Word) : Word := if a.ult b then b else a

/-- The signed high 64 bits of the product. -/
def aluMulh (a b : Word) : Word := (a.signExtend 128 * b.signExtend 128).extractLsb' 64 64
/-- The unsigned high 64 bits of the product. -/
def aluMulhu (a b : Word) : Word := (a.setWidth 128 * b.setWidth 128).extractLsb' 64 64

/-- DIV with the edge results of R103. -/
def aluDiv (a b : Word) : Word := if b = 0 then BitVec.allOnes 64 else a.sdiv b
def aluDivu (a b : Word) : Word := if b = 0 then BitVec.allOnes 64 else a / b
def aluRem (a b : Word) : Word := if b = 0 then a else a.srem b
def aluRemu (a b : Word) : Word := if b = 0 then a else a % b

/-- Leading zeros, 64 for zero. -/
def aluClz (a : Word) : Word := BitVec.ofNat 64 (((List.range 64).find? fun i => a.getLsbD (63 - i)).getD 64)
/-- Trailing zeros, 64 for zero. -/
def aluCtz (a : Word) : Word := BitVec.ofNat 64 (((List.range 64).find? fun i => a.getLsbD i).getD 64)
/-- Set bits. -/
def aluPop (a : Word) : Word := BitVec.ofNat 64 ((List.range 64).filter fun i => a.getLsbD i).length

/-! ## Issue of an instruction that writes g[RD] from registers -/

/-- g[RD] = f(g[RA], g[RB]) (R101). -/
def alu2 (t : Tid) (rd ra rb : Reg) (f : Word → Word → Word) (s : State) : Out State :=
  issue s t [gk ra, gk rb] fun s => (s.setG t rd (f ((s.thr t).greg ra) ((s.thr t).greg rb))).past t 4

/-- g[RD] = f(g[RA]). -/
def alu1 (t : Tid) (rd ra : Reg) (f : Word → Word) (s : State) : Out State :=
  issue s t [gk ra] fun s => (s.setG t rd (f ((s.thr t).greg ra))).past t 4

/-- g[RD] = a value that reads no general register. -/
def alu0 (t : Tid) (rd : Reg) (v : State → Word) (s : State) : Out State :=
  issue s t [] fun s => (s.setG t rd (v s)).past t 4

/-! ## Feature words (R107) -/

/-- FW0: core identity. -/
def State.fw0 (s : State) (t : Tid) : Word :=
  let n := coreOf t
  let m := s.member
  BitVec.ofNat 64 ((s.core n).member.getD 0 * 2 ^ 35 + tnum t * 2 ^ 32 + 2 ^ 28 * m.dies + m.dieOf n * 2 ^ 25 +
    (m.xy n).2 * 2 ^ 20 + 2 ^ 14 * (m.xy n).1 + n)

/-- FW1: units and modes. -/
def State.fw1 (s : State) (t : Tid) : Word :=
  let n := coreOf t
  let g := match (s.core n).member with
    | none => ({} : ConsCfg)
    | some c => (s.con c).cfg
  let sup := (s.core n).member.isSome && g.supervisor == n
  BitVec.ofNat 64 (128 * bit g.sealedCapable + 64 * bit g.reference + 32 * bit g.resume + 16 * bit sup + 15)

/-- FW2: formats. -/
def fw2 : Word := 0xFFF

/-- FW3: sizes. -/
def State.fw3 (s : State) (t : Tid) : Word :=
  let n := coreOf t
  let cm := match (s.core n).member with
    | none => 0
    | some c => (s.con c).cfg.commonMib
  BitVec.ofNat 64 (4 * 2 ^ 56 + 8 * 2 ^ 48 + 32 * 2 ^ 40 + 64 * 2 ^ 32 + 2 ^ 24 * cm +
    s.sliceBytes n / 0x100000 * 2 ^ 16 + 28)

/-- Feature word n; words 4 to 7 read zero (R107). -/
def State.featureWord (s : State) (t : Tid) (n : Nat) : Word :=
  match n with
  | 0 => s.fw0 t
  | 1 => s.fw1 t
  | 2 => fw2
  | 3 => s.fw3 t
  | _ => 0

/-! ## Meanings -/

def execAdd (t : Tid) (rd ra rb : Reg) (s : State) : Out State := alu2 t rd ra rb (· + ·) s
def execSub (t : Tid) (rd ra rb : Reg) (s : State) : Out State := alu2 t rd ra rb (· - ·) s
def execAnd (t : Tid) (rd ra rb : Reg) (s : State) : Out State := alu2 t rd ra rb (· &&& ·) s
def execOr (t : Tid) (rd ra rb : Reg) (s : State) : Out State := alu2 t rd ra rb (· ||| ·) s
def execXor (t : Tid) (rd ra rb : Reg) (s : State) : Out State := alu2 t rd ra rb (· ^^^ ·) s
def execAndn (t : Tid) (rd ra rb : Reg) (s : State) : Out State := alu2 t rd ra rb (fun a b => a &&& ~~~ b) s
def execShl (t : Tid) (rd ra rb : Reg) (s : State) : Out State := alu2 t rd ra rb (fun a b => a <<< amount b) s
def execShr (t : Tid) (rd ra rb : Reg) (s : State) : Out State := alu2 t rd ra rb (fun a b => a >>> amount b) s
def execSar (t : Tid) (rd ra rb : Reg) (s : State) : Out State := alu2 t rd ra rb (fun a b => a.sshiftRight (amount b)) s
def execRol (t : Tid) (rd ra rb : Reg) (s : State) : Out State := alu2 t rd ra rb (fun a b => a.rotateLeft (amount b)) s
def execSlt (t : Tid) (rd ra rb : Reg) (s : State) : Out State := alu2 t rd ra rb (fun a b => word1 (a.slt b)) s
def execSltu (t : Tid) (rd ra rb : Reg) (s : State) : Out State := alu2 t rd ra rb (fun a b => word1 (a.ult b)) s
def execMin (t : Tid) (rd ra rb : Reg) (s : State) : Out State := alu2 t rd ra rb aluMin s
def execMax (t : Tid) (rd ra rb : Reg) (s : State) : Out State := alu2 t rd ra rb aluMax s
def execMinu (t : Tid) (rd ra rb : Reg) (s : State) : Out State := alu2 t rd ra rb aluMinu s
def execMaxu (t : Tid) (rd ra rb : Reg) (s : State) : Out State := alu2 t rd ra rb aluMaxu s
def execMul (t : Tid) (rd ra rb : Reg) (s : State) : Out State := alu2 t rd ra rb (· * ·) s
def execMulh (t : Tid) (rd ra rb : Reg) (s : State) : Out State := alu2 t rd ra rb aluMulh s
def execMulhu (t : Tid) (rd ra rb : Reg) (s : State) : Out State := alu2 t rd ra rb aluMulhu s
def execDiv (t : Tid) (rd ra rb : Reg) (s : State) : Out State := alu2 t rd ra rb aluDiv s
def execDivu (t : Tid) (rd ra rb : Reg) (s : State) : Out State := alu2 t rd ra rb aluDivu s
def execRem (t : Tid) (rd ra rb : Reg) (s : State) : Out State := alu2 t rd ra rb aluRem s
def execRemu (t : Tid) (rd ra rb : Reg) (s : State) : Out State := alu2 t rd ra rb aluRemu s

def execClz (t : Tid) (rd ra : Reg) (s : State) : Out State := alu1 t rd ra aluClz s
def execCtz (t : Tid) (rd ra : Reg) (s : State) : Out State := alu1 t rd ra aluCtz s
def execPop (t : Tid) (rd ra : Reg) (s : State) : Out State := alu1 t rd ra aluPop s

/-! The immediate forms (R101). -/

def execAddi (t : Tid) (rd ra : Reg) (imm : BitVec 16) (s : State) : Out State :=
  alu1 t rd ra (fun a => a + imm.signExtend 64) s
def execAndi (t : Tid) (rd ra : Reg) (imm : BitVec 16) (s : State) : Out State :=
  alu1 t rd ra (fun a => a &&& imm.setWidth 64) s
def execOri (t : Tid) (rd ra : Reg) (imm : BitVec 16) (s : State) : Out State :=
  alu1 t rd ra (fun a => a ||| imm.setWidth 64) s
def execXori (t : Tid) (rd ra : Reg) (imm : BitVec 16) (s : State) : Out State :=
  alu1 t rd ra (fun a => a ^^^ imm.setWidth 64) s
def execSlti (t : Tid) (rd ra : Reg) (imm : BitVec 16) (s : State) : Out State :=
  alu1 t rd ra (fun a => word1 (a.slt (imm.signExtend 64))) s
def execSltiu (t : Tid) (rd ra : Reg) (imm : BitVec 16) (s : State) : Out State :=
  alu1 t rd ra (fun a => word1 (a.ult (imm.signExtend 64))) s
def execShli (t : Tid) (rd ra : Reg) (amt : BitVec 6) (s : State) : Out State :=
  alu1 t rd ra (fun a => a <<< amt.toNat) s
def execShri (t : Tid) (rd ra : Reg) (amt : BitVec 6) (s : State) : Out State :=
  alu1 t rd ra (fun a => a >>> amt.toNat) s
def execSari (t : Tid) (rd ra : Reg) (amt : BitVec 6) (s : State) : Out State :=
  alu1 t rd ra (fun a => a.sshiftRight amt.toNat) s
def execRoli (t : Tid) (rd ra : Reg) (amt : BitVec 6) (s : State) : Out State :=
  alu1 t rd ra (fun a => a.rotateLeft amt.toNat) s

def execLi (t : Tid) (rd : Reg) (imm : BitVec 21) (s : State) : Out State := alu0 t rd (fun _ => imm.signExtend 64) s
/-- LSH shifts its own destination, which it therefore reads (R101). -/
def execLsh (t : Tid) (rd : Reg) (imm : BitVec 21) (s : State) : Out State :=
  alu1 t rd rd (fun a => (a <<< 21) ||| imm.setWidth 64) s

/-! Reads of time, cycle count and feature words (R75, R104, R107). RDCYC reads the cycle in which it
issues. -/

def execRdtime (t : Tid) (rd : Reg) (s : State) : Out State := alu0 t rd (fun s => s.now) s
def execRdcyc (t : Tid) (rd : Reg) (s : State) : Out State := alu0 t rd (fun s => s.issueCycle t) s
def execRdfw (t : Tid) (rd : Reg) (n : Fin 8) (s : State) : Out State := alu0 t rd (fun s => s.featureWord t n.val) s
def execRdrsp (t : Tid) (rd : Reg) (s : State) : Out State :=
  alu0 t rd (fun s => BitVec.ofNat 64 (s.thr t).rsp) s

def execNop (t : Tid) (s : State) : Out State := issue s t [] fun s => s.past t 4

end Sys2Proof.Machine
end

