-- ==== Sys2Proof/Machine/Engine.lean ====
section
/-! DEFINITION. Lines that the engines of a long instruction read and write (R94, R140, R148, R157, R158, R185, R192, R243, R256,
R263-R265): through their local-store ports, or over the mesh through windows. A run of such an instruction goes through its
lines from the first; those that it has presented before it finds in the instruction's log, and the next ones it presents (log
entry 9, DESIGN CHOICE). -/

namespace Sys2Proof.Machine

open Sys2Proof

/-- A run over the lines of a long instruction: the state and the log so far, how many lines may be presented in all, the lines
met by port and the line met last on each, whether data is missing in the present row or was in an earlier one, the ports that
present nothing more, and the absent window met, as address and access code. -/
structure EngRun where
  s : State
  log : Long
  limit : Nat
  next : Map Nat := []
  cur : Map (Nat × Nat) := []
  hole : Bool := false
  gap : Bool := false
  stop : List Nat := []
  bad : Option (Nat × Nat) := none

/-- Who an engine acts for: the thread, its port, the tag and level of its accesses and the stream that
counts its packets. -/
structure EngWho where
  t : Tid
  port : Nat
  tag : Tag
  stream : Nat
  level : Bool
  deriving DecidableEq, Repr

/-- The number of the line presented for an address: 128-byte lines of the own slot, 64-byte lines of the
mesh. -/
def EngWho.lineId (w : EngWho) (a : Nat) : Nat :=
  if (ownOffset (coreOf w.t) a).isSome || w.port == 3 then a / 128 else 2 ^ 60 + a / 64

/-- First address and bytes of a line so numbered. -/
def lineBase (id : Nat) : Nat := if id < 2 ^ 60 then 128 * id else 64 * (id - 2 ^ 60)
def lineSize (id : Nat) : Nat := if id < 2 ^ 60 then 128 else 64

/-- A line that the spec does not determine: eight free words (log entry 3, DESIGN CHOICE). -/
def State.drawLine (s : State) : Line × State :=
  ((List.range 8).foldl (fun l i => lineSet l (8 * i) 8 (Config.freeWord (s.freeCtr + i)).toNat) 0,
   { s with freeCtr := s.freeCtr + 8 })

/-- Where a translated access goes: one that writes into a window table is refused unless its constellation's supervisor makes
it (R58, R94, R123). -/
def State.engTo (s : State) (w : EngWho) (write : Bool) (len : Nat) : Xlat → EngTo
  | .refused => .refused
  | .absent => .absent
  | .ok pa tag _ =>
    match ownOffset (coreOf w.t) pa with
    | some off => if s.ownOkAt w.t w.level off write then .own off else .refused
    | none =>
      if write && !s.tableFree (s.writerOf (coreOf w.t) w.tag w.level) pa (pa + len - 1) then .refused
      else
        match s.homeNode ((s.core (coreOf w.t)).member.getD 0) pa with
        | none => .refused
        | some (node, host) => .line node pa tag host (if node < 0x480 then (s.core node).clears else 0)

/-- Translate and check the access of an engine to `len` bytes of a line; none while it waits for a walk, whose key at its core
is given (R94, R97, R123, R348, R349). -/
def State.routeFor (s : State) (w : EngWho) (key a len : Nat) (need : Need) (write : Bool) : Option EngTo × State :=
  match ownOffset (coreOf w.t) a with
  | some off => (some (if s.ownOkAt w.t w.level off write then .own off else .refused), s)
  | none =>
    if isCtl a then (some .refused, s)
    else
      let r := s.translate (coreOf w.t) key w.tag need a
      (r.1.map (r.2.engTo w write len), r.2)

/-- The same for a line of a long instruction. The vector unit never translates (R243). -/
def EngRun.route (x : EngRun) (w : EngWho) (a len : Nat) (write : Bool) : Option EngTo × EngRun :=
  if w.port = 3 ∧ (ownOffset (coreOf w.t) a).isNone then (some .refused, x)
  else
    let r := x.s.routeFor w w.port a len { r := !write, w := write } write
    (r.1, { x with s := if r.1.isSome then r.2.endWalk (coreOf w.t) w.port else r.2 })

/-- The core that held a translated line has been cleared since its check (R483). -/
def State.stale (s : State) (pa epoch : Nat) : Bool :=
  match s.target pa with
  | .ls n _ => (s.core n).clears != epoch
  | _ => false

/-- The line lies in a host or remote window: what a read of it returns comes from outside the part. -/
def farNode (node : Nat) : Bool := node == nodeHost || (0xD00 ≤ node && node < 0xE00)

/-- A read of a host window by an engine that is no issuer of packets: its request goes out, and its data is what the host's
memory held (log entries 3 and 9, DESIGN CHOICE). -/
def State.farRead (s : State) (host : Option (Nat × Nat)) : State :=
  match host with
  | none => s
  | some (f, h) =>
    let tag := s.host.nextTag
    { s with host := { s.host with nextTag := (tag + 1) % 16384 } }.tlp f (.memRead f tag (h / 64 * 64))

/-! ## One line (R140, R148, R192) -/

/-- Lines that an engine has presented. -/
def Long.sentOn (l : Long) (p : Nat) : Nat := Map.get 0 l.sent p
def Long.total (l : Long) : Nat := (l.sent.map (·.2)).sum

/-- The next line of a port. -/
def EngRun.at_ (x : EngRun) (p : Nat) : Nat := Map.get 0 x.next p

/-- The key of the next line of a port. -/
def EngRun.key (x : EngRun) (p : Nat) : Nat := 4 * x.at_ p + p

/-- The run goes past a line of a port. -/
def EngRun.pass (x : EngRun) (p : Nat) (cur : Option (Nat × Nat)) : EngRun :=
  { x with next := Map.set 0 x.next p (x.at_ p + 1)
           cur := match cur with
             | some c => Map.insert p c (Map.drop x.cur p)
             | none => Map.drop x.cur p }

/-- The next line of a port has been presented before. -/
def EngRun.past (x : EngRun) (p : Nat) : Bool := x.at_ p < x.log.sentOn p

/-- A port presents nothing more in this run. -/
def EngRun.halted (x : EngRun) (p : Nat) : Bool := x.stop.contains p || x.bad.isSome || decide (x.limit ≤ x.log.total)

/-- Data of the present row is missing. -/
def EngRun.wait (x : EngRun) : EngRun := { x with hole := true }

/-- A port cannot present its next line now. -/
def EngRun.halt (x : EngRun) (p : Nat) : EngRun := { x with hole := true, stop := p :: x.stop }

/-- A line is presented: it counts. -/
def EngRun.shown (x : EngRun) (p : Nat) : EngRun :=
  { x with log := { x.log with sent := Map.set 0 x.log.sent p (x.log.sentOn p + 1) } }

/-- A refused line counts once, with the engine's port as issuer and the address that the instruction names (R28, R30, R185; log
entry 106, DESIGN CHOICE). -/
def EngRun.refuse (x : EngRun) (w : EngWho) (k kind a : Nat) : EngRun :=
  if x.log.counted.contains k then x
  else { x with log := { x.log with counted := k :: x.log.counted }
                s := x.s.refuseAt (coreOf w.t) (8 + w.port) w.tag w.level kind a }

/-- The packet of an engine's access to a translated line, refused as that of its port (R30, R250). -/
def EngRun.packet (x : EngRun) (w : EngWho) (typ : PType) (node pa : Nat) (tag : Tag) (host : Option (Nat × Nat))
    (epoch : Nat) : Packet :=
  x.s.addressed { typ, line := pa / 64, tag, thread := tnum w.t, stream := w.stream, level := w.level, src := coreOf w.t, host
                  epoch, chan := some { port := w.port, chan := 4, off := 0 } } node

/-- Present a packet, if the core can (R256, R264, R265). -/
def EngRun.send (x : EngRun) (w : EngWho) (p : Packet) (u : Use) : Option EngRun :=
  let n := coreOf w.t
  let o : Outst := { engine := .unit n w.port, thread := tnum w.t, stream := w.stream, seq := 0, line := p.line, tag := p.tag
                     host := p.host, use := u }
  if x.s.canPresent n p (some o) then some { x with s := x.s.present n p (some o) } else none


/-! ### Reads -/

/-- Half `h` of the line with key k is read from half `half` of the own slot, if its tag admits it, with what R160 makes of its
code words. -/
def EngRun.readHalf (x : EngRun) (w : EngWho) (k h half : Nat) : EngRun :=
  let n := coreOf w.t
  if mayRead w.tag (x.s.halfTag n half) then
    { x with log := { x.log with got := Map.set 0 x.log.got (2 * k + h) (x.s.halfRead n half) }
             s := x.s.meetHalf n half 3 (x.s.core n).member.toList w.tag.sealed (lsBase n + 64 * half) }
  else { x with log := { x.log with barred := (2 * k + h) :: x.log.barred } }

/-- Present the line of an address, with key k, for a read: none if that cannot be done now. -/
def EngRun.presentRead (x : EngRun) (w : EngWho) (k a : Nat) : Option EngRun × EngRun :=
  let r := x.route w a 1 false
  match r.1 with
  | none => (none, r.2)
  | some .refused => (some { r.2 with log := { r.2.log with barred := 2 * k :: (2 * k + 1) :: r.2.log.barred } }, r.2)
  | some .absent => (none, { r.2 with bad := some (a, 0) })
  | some (.own off) =>
    if (ownOffset (coreOf w.t) a).isSome then
      (some ((r.2.readHalf w k 0 (off / 128 * 2)).readHalf w k 1 (off / 128 * 2 + 1)), r.2)
    else (some (r.2.readHalf w k 0 (off / 64)), r.2)
  | some (.line node pa tag host epoch) =>
    ((r.2.send w (r.2.packet w .rd node pa tag host epoch) (.engine w.t r.2.log.id k)).map fun x =>
      { x with log := { x.log with owed := x.log.owed ++ [k] } }, r.2)

/-- Meet the next line of a port, which holds an address, for a read: its key, if it has been presented. -/
def EngRun.meetNext (x : EngRun) (w : EngWho) (a : Nat) : Option Nat × EngRun :=
  let k := x.key w.port
  let go (x : EngRun) : EngRun := x.pass w.port (some (w.lineId a, k))
  if x.past w.port then (some k, go x)
  else if x.halted w.port then (none, x.halt w.port)
  else
    match x.presentRead w k a with
    | (some y, _) => (some k, go (y.shown w.port))
    | (none, y) => (none, y.halt w.port)

/-- The same for the line of an address: the one met last on the port is not presented again. -/
def EngRun.meet (x : EngRun) (w : EngWho) (a : Nat) : Option Nat × EngRun :=
  match Map.find x.cur w.port with
  | some c => if c.1 = w.lineId a then (some c.2, x) else x.meetNext w a
  | none => x.meetNext w a

/-- The `n` bytes at an address, within 64, of a line with its key: zero, and counted, where the line refused them; missing while
its answer is owed. -/
def EngRun.readIn (x : EngRun) (w : EngWho) (k a n : Nat) : Nat × EngRun :=
  if x.log.owed.contains k then (0, x.wait)
  else
    let h := 2 * k + (if (ownOffset (coreOf w.t) a).isSome then a / 64 % 2 else 0)
    if x.log.barred.contains h then (0, x.refuse w k 0 a) else (lineNat (Map.get 0 x.log.got h) (a % 64) n, x)

/-- Read `n` bytes at an address that do not cross 64 bytes. -/
def EngRun.piece (x : EngRun) (w : EngWho) (a n : Nat) : Nat × EngRun :=
  match x.meet w a with
  | (some k, y) => y.readIn w k a n
  | (none, y) => (0, y)

/-- The parts of `n` bytes from address a, cut at the multiples of 64. -/
def partsOf (a n : Nat) : List (Nat × Nat) :=
  if n = 0 then []
  else (List.range ((a + n - 1) / 64 - a / 64 + 1)).map fun i =>
    let lo := max a (64 * (a / 64 + i))
    (lo, min (a + n) (64 * (a / 64 + i) + 64) - lo)

/-- Read `n` bytes from an address of any alignment, in address order. -/
def EngRun.bytes (x : EngRun) (w : EngWho) (a n : Nat) : List Byte × EngRun :=
  (partsOf a n).foldl (fun r p =>
    let y := r.2.piece w p.1 p.2
    (r.1 ++ natBytes p.2 y.1, y.2)) ([], x)

/-! ### Writes -/

/-- The mask and the bytes of a 64-byte line that a list of addresses and bytes gives; of two bytes at one address the later
counts. -/
def intoLine (bs : List (Nat × Byte)) : BitVec 64 × Line :=
  bs.foldl (fun r b => (r.1 ||| spanMask (b.1 % 64) (b.1 % 64), lineSet r.2 (b.1 % 64) 1 b.2.toNat)) (0, 0)

/-- Bytes of half `half` of the own slot are written (R151, R157). -/
def EngRun.writeOwn (x : EngRun) (w : EngWho) (half : Nat) (bs : List (Nat × Byte)) : EngRun :=
  if bs.isEmpty then x
  else
    let n := coreOf w.t
    let m := intoLine bs
    let ws := if x.s.halfTag n half = w.tag then touchedWords m.1 else 0
    let s := x.s.meetHalf n half ws (x.s.core n).member.toList w.tag.sealed (lsBase n + 64 * half)
    { x with s := s.writeHalf n half m.1 m.2 w.tag }

/-- Present a write of bytes of one line, the first at address a: none if that cannot be done now. -/
def EngRun.presentWrite (x : EngRun) (w : EngWho) (k a : Nat) (bs : List (Nat × Byte)) : Option EngRun × EngRun :=
  let r := x.route w a bs.length true
  match r.1 with
  | none => (none, r.2)
  | some .refused => (some (r.2.refuse w k 1 a), r.2)
  | some .absent => (none, { r.2 with bad := some (a, 1) })
  | some (.own off) =>
    if (ownOffset (coreOf w.t) a).isSome then
      let h (i : Nat) : List (Nat × Byte) := bs.filter fun b => b.1 / 64 % 2 = i
      (some ((r.2.writeOwn w (off / 128 * 2) (h 0)).writeOwn w (off / 128 * 2 + 1) (h 1)), r.2)
    else (some (r.2.writeOwn w (off / 64) bs), r.2)
  | some (.line node pa tag host epoch) =>
    let m := intoLine bs
    let p := { r.2.packet w .wr node pa tag host epoch with first := a % 64, last := a % 64 + bs.length - 1, data := m.2 }
    (r.2.send w p (.ack w.t), r.2)

/-- Meet the next line of a port for a write of bytes, the first at address a. -/
def EngRun.meetWrite (x : EngRun) (w : EngWho) (a : Nat) (bs : List (Nat × Byte)) : EngRun :=
  if x.past w.port then x.pass w.port none
  else if x.halted w.port then x.halt w.port
  else
    match x.presentWrite w (x.key w.port) a bs with
    | (some y, _) => (y.shown w.port).pass w.port none
    | (none, y) => y.halt w.port

/-- The bytes in address order, each address once with its last byte. -/
def byAddr (bs : List (Nat × Byte)) : List (Nat × Byte) := bs.foldl (fun m b => Map.insert b.1 b.2 (Map.drop m b.1)) []

/-- The lines that bytes in address order fall into: one access for a line of the own slot, and one for each run of bytes of a
line of the mesh, which a WR can carry (R250, R279). -/
def EngWho.accesses (w : EngWho) : List (Nat × Byte) → List (List (Nat × Byte))
  | [] => []
  | b :: l =>
    match w.accesses l with
    | [] => [[b]]
    | g :: gs =>
      let next := (g.head?.map (·.1)).getD 0
      if w.lineId next = w.lineId b.1 ∧ (w.lineId b.1 < 2 ^ 60 ∨ next = b.1 + 1) then (b :: g) :: gs else [b] :: g :: gs

/-- Write bytes at addresses of any alignment: each line once, in address order. -/
def EngRun.put (x : EngRun) (w : EngWho) (bs : List (Nat × Byte)) : EngRun :=
  (w.accesses (byAddr bs)).foldl (fun x g => x.meetWrite w ((g.head?.map (·.1)).getD 0) g) x

/-- A run of bytes with their addresses. -/
def bytesAt (a : Nat) (bs : List Byte) : List (Nat × Byte) := bs.zipIdx.map fun b => (a + b.2, b.1)

/-! ### Rows -/

/-- Go through the rows of a list in order: what the complete rows before the first incomplete one gave, the run, and that
row. The rows after it are presented too. -/
def eachRow {σ : Type} (f : σ → EngRun → Nat → σ × EngRun) : List Nat → σ → EngRun → σ × EngRun × Option Nat
  | [], a, x => (a, x, none)
  | i :: l, a, x =>
    let r := f a { x with hole := false } i
    let t := eachRow f l r.1 { r.2 with gap := r.2.gap || r.2.hole }
    if r.2.hole then (a, t.2.1, some i) else t

/-- lo, lo + 1, …, hi - 1. -/
def rowsFrom (lo hi : Nat) : List Nat := (List.range (hi - lo)).map (lo + ·)

/-- A run of a long instruction in which `limit` lines may be presented in all. -/
def engRun (s : State) (l : Long) (limit : Nat) : EngRun := { s, log := l, limit }

/-- The run is over: its log is that of the thread's instruction. -/
def EngRun.close (x : EngRun) (t : Tid) : State := x.s.modThr t fun th => { th with long := some x.log, ran := true }

end Sys2Proof.Machine
end

