-- ==== Sys2Proof/Machine/Worlds.lean ====
section
/-! DEFINITION. Worlds, levels and exceptions (R121-R144): SCALL, GATE, GATE OUT, ERET, the entry
registers, the entry lock, non-interruptible windows, timers, evictions and lockups. -/

namespace Sys2Proof.Machine

open Sys2Proof

/-! ## Privilege (R123) -/

/-- A refused register instruction: it counts as kind 5, with address zero, and the thread goes on (R28, R123; log entry 106,
DESIGN CHOICE). -/
def State.refuseInstr (s : State) (t : Tid) : State := (s.refuse t 5 0).past t 4

/-- An instruction that only supervisor level may execute. -/
def supInstr (t : Tid) (srcs : List Nat) (k : State → State) (s : State) : Out State :=
  issue s t srcs fun s => if (s.thr t).level then k s else s.refuseInstr t

/-! ## Entry and return (R130, R132-R135) -/

def execScall (t : Tid) (s : State) : Out State :=
  issue s t [] fun s => s.raiseAt t causeScall 0 false 0 (pcOf ((s.thr t).pc + 4))

/-- Slot that GATE names: bits [11:0] of its operand. -/
def gateSlot (v : Word) : Nat := v.toNat % 4096

/-- GATE is admitted (R134). -/
def State.gateOk (s : State) (t : Tid) (ra : Reg) : Bool :=
  let th := s.thr t
  let sl := s.slot (gateSlot (th.greg ra))
  !th.world && !th.el && !th.ni &&
  match (s.core (coreOf t)).member with
  | none => false
  | some c => (s.con c).cfg.sealedCapable && sl.st == SlotSt.bound && sl.owner == c

/-- The actions of an admitted GATE: it zeroes bank S and enters it, which saves PC + 4 and STATUS there as every entry does
(R130, R134, R214; log entry 118, DEDUCED). -/
def State.doGate (s : State) (t : Tid) (slot : Nat) : State :=
  let th := s.thr t
  let se := pcOf (BitVec.ofNat 64 (s.con ((s.core (coreOf t)).member.getD 0)).cfg.sealedEntry)
  let bank : EBank := { entry := se, epc := pcOf (th.pc + 4), estatus := th.status &&& (~~~ 0x18#64), ecause := BitVec.ofNat 64 causeGate, einfo := BitVec.ofNat 64 slot
                        gretPc := pcOf (th.pc + 4), gretStatus := th.status, gretRsp := BitVec.ofNat 64 th.rsp }
  let s := s.modCore (coreOf t) fun c => c.dropOpen (tnum t)
  s.setThr t { th with bankS := bank, world := true, level := true, session := BitVec.ofNat 12 slot, ie := false
                       el := true, elSince := s.issueCycle t, ni := false, pc := se, seedS := 0, ctrS := 0
                       demand := none, yielded := false }

def execGate (t : Tid) (ra : Reg) (s : State) : Out State :=
  issue s t [gk ra] fun s =>
    if s.gateOk t ra then s.doGate t (gateSlot ((s.thr t).greg ra)) else s.refuseInstr t

/-- GATE OUT is permitted at S.s only (R123, R135). -/
def execGateOut (t : Tid) (s : State) : Out State :=
  issue s t [] fun s => if (s.thr t).world && (s.thr t).level then s.leaveSealed t false else s.refuseInstr t

def execEret (t : Tid) (s : State) : Out State := supInstr t [] (fun s => s.modThr t Thread.eret) s

/-! ## Entry registers (R125, R136) -/

/-- Register number n of a bank, without SPOS, which lies in the slot. -/
def EBank.read (b : EBank) (ipend : Word) : Nat → Word
  | 0 => b.entry
  | 1 => b.epc
  | 2 => b.estatus
  | 3 => b.ecause
  | 4 => b.einfo
  | 5 => ipend
  | 6 => b.imask
  | 7 => b.tcmp
  | 8 => b.swap0
  | 9 => b.swap1
  | 10 => b.swap2
  | 11 => b.swap3
  | 12 => b.gretPc
  | 13 => b.gretStatus
  | 14 => b.gretRsp
  | _ => 0

/-- Entry register n of thread t; the registers marked bank S only read zero in bank O (R125, R404). -/
def State.readEntry (s : State) (t n : Nat) : Word :=
  let th := s.thr t
  let isS := decide (16 ≤ n)
  if n = 31 then BitVec.ofNat 64 (s.slot th.session.toNat).pos.toNat
  else if !isS ∧ 12 ≤ n then 0
  else (th.bank isS).read (s.ipend t isS) (n % 16)

/-- The fields of ESTATUS that a write leaves, for a writer of a world, level and session (R136). -/
def clampStatus (old v : Word) (world level : Bool) (session : BitVec 12) : Word :=
  let w := if v.getLsbD 1 = world then v.getLsbD 1 else old.getLsbD 1
  let l := if v.getLsbD 0 && !level then old.getLsbD 0 else v.getLsbD 0
  let n := if v.extractLsb' 16 12 = session then session else old.extractLsb' 16 12
  BitVec.ofNat 64 (65536 * n.toNat + bit (v.getLsbD 2) * 4 + bit w * 2 + bit l)

/-- A write of ESTATUS keeps some field. -/
def clampKept (v : Word) (world level : Bool) (session : BitVec 12) : Bool :=
  v.getLsbD 1 != world || (v.getLsbD 0 && !level) || v.extractLsb' 16 12 != session

/-- Register number n of a bank replaced; read-only numbers ignore the write. -/
def EBank.write (b : EBank) (n : Nat) (v : Word) (world level : Bool) (session : BitVec 12) : EBank :=
  match n with
  | 0 => { b with entry := pcOf v }
  | 1 => { b with epc := pcOf v }
  | 2 => { b with estatus := clampStatus b.estatus v world level session }
  | 6 => { b with imask := v &&& ~~~ 3#64 }
  | 7 => { b with tcmp := v, ipend := b.ipend &&& ~~~ 0x20#64 }
  | 8 => { b with swap0 := v }
  | 9 => { b with swap1 := v }
  | 10 => { b with swap2 := v }
  | 11 => { b with swap3 := v }
  | _ => b

/-- Write entry register n of thread t for a writer of a world, level and session (R125, R136, R404). -/
def State.writeEntry (s : State) (t n : Nat) (v : Word) (world level : Bool) (session : BitVec 12) : State :=
  let th := s.thr t
  let isS := decide (16 ≤ n)
  if n = 31 then s.modSlot th.session.toNat fun x => { x with pos := v.setWidth 22 }
  else s.setThr t (th.setBank isS ((th.bank isS).write (n % 16) v world level session))

/-- The thread may access the bank that n names (R123, R125). -/
def Thread.mayEntry (th : Thread) (n : Nat) : Bool := th.level && (th.world == decide (16 ≤ n))

def execMfe (t : Tid) (rd : Reg) (n : Fin 32) (s : State) : Out State :=
  issue s t [] fun s =>
    if (s.thr t).mayEntry n.val then (s.setG t rd (s.readEntry t n.val)).past t 4 else s.refuseInstr t

def execMte (t : Tid) (n : Fin 32) (ra : Reg) (s : State) : Out State :=
  issue s t [gk ra] fun s =>
    let th := s.thr t
    let v := th.greg ra
    if th.mayEntry n.val then
      let s' := s.writeEntry t n.val v th.world th.level th.session
      let s' := if n.val % 16 = 2 ∧ clampKept v th.world th.level th.session then s'.refuse t 5 0 else s'
      s'.past t 4
    else s.refuseInstr t

/-- XSW reads its destination (R132). -/
def execXsw (t : Tid) (rd : Reg) (n : Fin 4) (s : State) : Out State :=
  supInstr t [gk rd] (fun s =>
    let th := s.thr t
    let b := th.bank th.world
    let v := th.greg rd
    let old := b.read 0 (8 + n.val)
    ((s.setThr t (th.setBank th.world (b.write (8 + n.val) v th.world th.level th.session))).setG t rd old).past t 4) s

def execEdone (t : Tid) (s : State) : Out State :=
  supInstr t [] (fun s => (s.modThr t fun th => { th with el := false }).past t 4) s

def execMfs (t : Tid) (rd : Reg) (s : State) : Out State := alu0 t rd (fun s => (s.thr t).status) s

def execMts (t : Tid) (ra : Reg) (s : State) : Out State :=
  supInstr t [gk ra] (fun s => (s.modThr t fun th => { th with ie := (th.greg ra).getLsbD 2 }).past t 4) s

/-! ## Non-interruptible windows (R138, R139) -/

/-- NIBEGIN; it is refused while STATUS.EL is 1. -/
def execNibegin (t : Tid) (ra : Reg) (s : State) : Out State :=
  supInstr t [gk ra] (fun s =>
    let th := s.thr t
    if th.el then s.refuseInstr t
    else
      let limit := (s.con ((s.core (coreOf t)).member.getD 0)).niLimit
      let n := min (th.greg ra).toNat limit
      let s := if n = 0 ∨ th.ni then s
        else s.setThr t { th with ni := true, niEnd := s.issueCycle t + BitVec.ofNat 64 n }
      s.past t 4) s

def execNiend (t : Tid) (s : State) : Out State :=
  supInstr t [] (fun s => (s.modThr t fun th => { th with ni := false }).past t 4) s

/-- The window reaches its end cycle (R139). -/
def execNiWindowEnd (t : Tid) (s : State) : Out State :=
  let th := s.thr t
  clocked s (if th.ni && th.niEnd.toNat ≤ s.clk.ccycle.toNat then s.setThr t { th with ni := false } else s)

/-! ## Timers (R126) -/

/-- The sidereal replica has reached a bank's TCMP: TIMER becomes pending. -/
def execTimerInterrupt (t : Tid) (sealedBank : Bool) (s : State) : Out State :=
  let th := s.thr t
  let b := th.bank sealedBank
  clocked s (if b.tcmp ≠ 0 ∧ b.tcmp.toNat ≤ s.now.toNat then
    s.setThr t (th.setBank sealedBank { b with ipend := b.ipend ||| 0x20 }) else s)

/-! ## Eviction and lockup (R131, R137, R142) -/

/-- Leave the Sealed world by force and enter bank O with EVICT (R137). -/
def State.evict (s : State) (t : Tid) : State :=
  let th := s.thr t
  let s' := s.leaveSealed t true
  s'.modThr t fun x => x.enter false causeEvict 0 false 0 th.bankS.gretPc th.bankS.gretStatus (s.issueCycle t)

/-- 8192 cycles after the Open demand arose, a thread that is still sealed is evicted (R137). -/
def execEviction (t : Tid) (s : State) : Out State :=
  let th := s.thr t
  clocked s (match th.demand with
    | none => s
    | some p =>
      if th.world && !(s.core (coreOf t)).locked && p.toNat + 8192 ≤ s.clk.ccycle.toNat then s.evict t else s)

/-- STATUS.EL has stayed 1 for 256 core cycles (R131). -/
def execLockupOverrun (t : Tid) (s : State) : Out State :=
  let th := s.thr t
  let c := s.core (coreOf t)
  clocked s (if th.el && !c.locked && c.member.isSome && th.elSince.toNat + 256 ≤ s.clk.ccycle.toNat then
    s.lockup t causeOverrun else s)

end Sys2Proof.Machine
end

