-- ==== Sys2Proof/Machine/Copy.lean ====
section
/-! DEFINITION. The copy engine (R318-R331): the fields of a channel, bursts, and the ends of an
operation. -/

namespace Sys2Proof.Machine

open Sys2Proof

/-! ## Fields (R318-R323) -/

/-- Low 52 bits. -/
def addr52 (w : Word) : Nat := w.toNat % 2 ^ 52

/-- The channel is busy. -/
def Chan.busy (x : Chan) : Bool := x.st == 1

/-- RESIDUE of CSTAT: of a busy channel, the bytes from its lowest incomplete burst on. -/
def Chan.residueNow (x : Chan) : Nat :=
  if x.busy then x.cnt - x.bursts.foldl (fun m b => min m b.off) x.issuedTo else x.residue

/-- CSTAT. -/
def Chan.stat (x : Chan) : Word :=
  BitVec.ofNat 64 (4096 * (x.residueNow % 2 ^ 40) + bit x.tag.sealed * 256 + (if x.st = 5 then x.err * 32 else 0) +
    bit (x.mismatch && !x.busy) * 16 + bit x.event * 8 + x.st)

/-- Field f of channel k (ch. 13). -/
def Core.chanField (c : Core) (k f : Nat) : Word :=
  let x := c.chan k
  match f with
  | 0 => x.src
  | 1 => x.dst
  | 2 => BitVec.ofNat 64 x.cnt
  | 3 => x.fill
  | 4 => BitVec.ofNat 64 (4096 * x.rtag + x.stream * 256 + bit x.ie * 128 + x.op)
  | 5 => x.stat
  | 6 => if x.st = 4 ∨ x.st = 5 then x.fault else 0
  | _ => c.owner.setWidth 64

/-- R319: a Sealed channel refuses a thread of another world or session in fields 0 to 6. -/
def State.chanHidden (s : State) (t k f : Nat) : Bool :=
  let x := (s.core (coreOf t)).chan k
  decide (f < 7) && x.tag.sealed && (s.thr t).tag != x.tag

/-- The thread owns channel k (R318). -/
def State.owns (s : State) (t k : Nat) : Bool := (s.core (coreOf t)).ownerOf k == tnum t

/-- The thread is at O.s. -/
def Thread.openSup (th : Thread) : Bool := !th.world && th.level

/-- A refused channel access counts as kind 5. -/
def State.refuseChan (s : State) (t : Tid) : State := s.refuse t 5 0

def State.modChan (s : State) (t k : Nat) (f : Chan → Chan) : State :=
  s.modCore (coreOf t) fun c => c.setChan k (f (c.chan k))

/-- The RW fields of CCTL. -/
def Chan.control (x : Chan) (v : Word) : Chan :=
  { x with op := field v 0 3, ie := v.getLsbD 7, stream := field v 8 4, rtag := field v 12 3 }

/-- The first misaligned value of a GO, in field order (R322). -/
def Chan.misaligned (x : Chan) : Option Word :=
  if x.op ≠ 1 ∧ x.src.toNat % 64 ≠ 0 then some x.src
  else if x.dst.toNat % 64 ≠ 0 then some x.dst
  else if x.cnt % 64 ≠ 0 then some (BitVec.ofNat 64 x.cnt)
  else none

/-- Error code of a GO and the value CFAULT holds; 0 if there is none (R322). -/
def Chan.goError (x : Chan) : Nat × Word :=
  match x.misaligned with
  | some v => (1, v &&& 0x000FFFFFFFFFFFFF#64)
  | none => if 5 ≤ x.op then (2, 0) else if (x.op = 3 ∨ x.op = 4) ∧ x.tag.sealed then (3, 0) else (0, 0)

/-- GO on a channel that is not busy (R321, R322, R328). -/
def Chan.go (x : Chan) (v : Word) (tag : Tag) (level : Bool) (fab : Nat) : Chan :=
  let x := { x.control v with tag, level, st := 1, event := false, mismatch := false, mismatchAt := 0, issuedTo := 0
                              bursts := [], wipe := false, progress := fab }
  let e := x.goError
  { x with err := e.1, fault := e.2, stopAs := if e.1 ≠ 0 then 5 else if x.cnt = 0 then 2 else 0 }

/-- An ABORT has an effect: the channel is busy, has bursts left to issue, and no earlier event stops it (R328). -/
def Chan.aborts (x : Chan) : Bool := x.busy && x.stopAs == 0 && decide (x.issuedTo < x.cnt)
def Chan.abort (x : Chan) : Chan := if x.aborts then { x with stopAs := 3 } else x

/-- A write of CCTL (R321, R328). -/
def State.chanControl (s : State) (t k : Nat) (v : Word) : State :=
  let x := (s.core (coreOf t)).chan k
  let th := s.thr t
  let go := v.getLsbD 15
  let ab := v.getLsbD 16
  if go && ab then s.refuseChan t
  else if ab then
    if s.owns t k || th.openSup then s.modChan t k fun x => if x.aborts then { x.abort with tag := th.tag } else x
    else s.refuseChan t
  else if !s.owns t k || x.busy then s.refuseChan t
  else if go then s.modChan t k fun x => x.go v th.tag th.level s.fab
  else s.modChan t k fun x => { x.control v with tag := th.tag }

/-- A write of fields 0 to 3 (R318, R319, R321). -/
def State.chanData (s : State) (t k f : Nat) (v : Word) : State :=
  if !s.owns t k || ((s.core (coreOf t)).chan k).busy then s.refuseChan t
  else s.modChan t k fun x =>
    let x := { x with tag := (s.thr t).tag }
    match f with
    | 0 => { x with src := BitVec.ofNat 64 (addr52 v) }
    | 1 => { x with dst := BitVec.ofNat 64 (addr52 v) }
    | 2 => { x with cnt := field v 0 40 }
    | _ => { x with fill := v }

/-- A write of OWNER: only at O.s, and not to change the owner of a busy channel (R318). -/
def State.chanOwner (s : State) (t : Nat) (v : Word) : State :=
  let c := s.core (coreOf t)
  let o : BitVec 8 := v.setWidth 8
  let moved := (List.range 4).any fun k => (c.chan k).busy && field v (2 * k) 2 != c.ownerOf k
  if !(s.thr t).openSup || moved then s.refuseChan t else s.modCore (coreOf t) fun c => { c with owner := o }

/-- CPSET of a field (R318-R321). Field 6 is read-only. -/
def State.cpset (s : State) (t k f : Nat) (v : Word) : State :=
  if s.chanHidden t k f then s.refuseChan t
  else if f < 4 then s.chanData t k f v
  else if f = 4 then s.chanControl t k v
  else if f = 5 then
    if s.owns t k || (s.thr t).openSup then
      s.modChan t k fun x => { x with event := s.w1c (.copyEvent (coreOf t) k) x.event (v.getLsbD 3) }
    else s.refuseChan t
  else if f = 7 then s.chanOwner t v
  else s

def execCpset (t : Tid) (ch : Fin 4) (f : Fin 8) (ra : Reg) (s : State) : Out State :=
  issue s t [gk ra] fun s => (s.cpset t ch.val f.val ((s.thr t).greg ra)).past t 8

/-- The CPSET of CCTL whose operand has GO set and ABORT clear. -/
def execCopyGo (t : Tid) (ch : Fin 4) (ra : Reg) (s : State) : Out State :=
  let v := (s.thr t).greg ra
  if v.getLsbD 15 && !v.getLsbD 16 then
    issue s t [gk ra] fun s => (s.cpset t ch.val 4 v).past t 8
  else .next s

/-- The CPSET of CCTL whose operand has ABORT set. -/
def execCopyAbort (t : Tid) (ch : Fin 4) (ra : Reg) (s : State) : Out State :=
  let v := (s.thr t).greg ra
  if v.getLsbD 16 then issue s t [gk ra] fun s => (s.cpset t ch.val 4 v).past t 8 else .next s

/-- The CPSET of CSTAT whose operand has EVENT set. -/
def execCopyEventClear (t : Tid) (ch : Fin 4) (ra : Reg) (s : State) : Out State :=
  let v := (s.thr t).greg ra
  if v.getLsbD 3 then issue s t [gk ra] fun s => (s.cpset t ch.val 5 v).past t 8 else .next s

def execCpget (t : Tid) (rd : Reg) (ch : Fin 4) (f : Fin 8) (s : State) : Out State :=
  issue s t [] fun s =>
    if s.chanHidden t ch.val f.val then ((s.refuseChan t).setG t rd 0).past t 8
    else (s.setG t rd ((s.core (coreOf t)).chanField ch.val f.val)).past t 8

/-- CPWAIT: a channel hidden by R319 refuses it, and it does not block. -/
def State.tryCpwait (s : State) (t k : Nat) : Option State :=
  if s.chanHidden t k 5 then some ((s.refuseChan t).past t 8)
  else if ((s.core (coreOf t)).chan k).busy then none
  else some (s.past t 8)

def State.orBlockLong (s : State) (t : Tid) (op : BlockOp) (r : Option State) : State :=
  match r with
  | some s' => s'
  | none => s.modThr t fun th => { th with blocked := some op }

def execCpwait (t : Tid) (ch : Fin 4) (s : State) : Out State :=
  issue s t [] fun s => s.orBlockLong t (.cpwait ch.val) (s.tryCpwait t ch.val)

/-! ## Bursts (R324-R326) -/

/-- Who a channel's accesses act for, at the read or the write port (R325). -/
def State.chanWho (s : State) (n k port : Nat) : EngWho :=
  let x := (s.core n).chan k
  { t := 4 * n + (s.core n).ownerOf k, port, tag := x.tag, stream := x.stream, level := x.level }

/-- Source and destination addresses of a burst's lines. -/
def Chan.srcLines (x : Chan) (off len : Nat) : List Nat :=
  if x.op = 1 then [] else (List.range (len / 64)).map fun i => (x.src.toNat + off + 64 * i) % 2 ^ 52
def Chan.dstLines (x : Chan) (off len : Nat) : List Nat :=
  (List.range (len / 64)).map fun i => (x.dst.toNat + off + 64 * i) % 2 ^ 52

/-- Length of the next burst: to the next 256-byte boundary of the destination, or to the end (R324). -/
def Chan.nextLen (x : Chan) : Nat := min (256 - (x.dst.toNat + x.issuedTo) % 256) (x.cnt - x.issuedTo)

/-- Translate lines in order, the first with the walk key given: where each goes, none while its walk has not ended (R324). -/
def routeAll (w : EngWho) (need : Need) (write : Bool) : Nat → List Nat → State → List (Option EngTo) × State
  | _, [], s => ([], s)
  | key, a :: l, s =>
    let r := s.routeFor w key a 64 need write
    let t := routeAll w need write (key + 1) l r.2
    (r.1 :: t.1, t.2)

/-- Key of the walks of channel k: four source lines and four destination lines. -/
def chanKey (k : Nat) : Nat := 8 + 8 * k

/-- The walks of channel k are done with. -/
def Core.dropWalks (c : Core) (k : Nat) : Core :=
  { c with walks := c.walks.filter fun p => p.1 / 8 ≠ k + 1 }

/-- What the destination lines need of a window: ADD reads and writes (R348). -/
def Chan.dstNeed (x : Chan) : Need := { r := x.op != 0 && x.op != 1, w := x.op != 2 }

/-- A packet of channel k's burst at offset off to the line of an access, or none if it is no access to the mesh. -/
def State.chanPacket (s : State) (n k off port : Nat) (typ : PType) (data : Line) : EngTo → Option Packet
  | .line node pa tag host epoch =>
    let x := (s.core n).chan k
    some (s.addressed { typ, line := pa / 64, tag, thread := (s.core n).ownerOf k, src := n, stream := x.stream,
                        data, host, epoch, level := x.level, chan := some { port, chan := k, off } } node)
  | _ => none

/-- Send the RD or WR of a burst, if its line is on the mesh (R325). -/
def State.chanSend (s : State) (n k off port : Nat) (typ : PType) (data : Line) (use : Use) (to_ : EngTo) : State :=
  match s.chanPacket n k off port typ data to_ with
  | none => s
  | some p => s.send n p (some { engine := .chan k, thread := p.thread, stream := p.stream, seq := 0, line := p.line
                                 tag := p.tag, host := p.host, use })

/-- The line is on the mesh and travels as a RD or WR. -/
def EngTo.onMesh : EngTo → Bool
  | .line .. => true
  | _ => false

/-- Send the RDs of an issued burst: its source lines, and the destination lines of COMPARE (R325). -/
def State.burstReads (s : State) (n k : Nat) (b : Burst) : State :=
  let src := b.src.zipIdx
  let dst := if ((s.core n).chan k).op = 2 then b.dst.zipIdx 4 else []
  overAll (src ++ dst) (fun s l => s.chanSend n k b.off 5 .rd 0 (.copyRead k b.off l.2) l.1) s

/-- Offer the issue to channel k of core n: the state after it, and whether it took its turn. It passes while some line of its
burst waits for a walk (R324). A line in an absent window stops the channel (R328). -/
def State.offer (s : State) (n k : Nat) : State × Bool :=
  let x := (s.core n).chan k
  if !x.busy ∨ x.stopAs ≠ 0 ∨ x.cnt ≤ x.issuedTo ∨ 8 ≤ x.bursts.length then (s, false)
  else
    let len := x.nextLen
    let from_ := x.srcLines x.issuedTo len
    let to_ := x.dstLines x.issuedTo len
    let a := routeAll (s.chanWho n k 5) { r := true } false (chanKey k) from_ s
    let b := routeAll (s.chanWho n k 6) x.dstNeed (x.op != 2) (chanKey k + 4) to_ a.2
    let met := ((from_ ++ to_).zip (a.1 ++ b.1)).find? fun l => l.2.isNone || l.2 == some .absent
    let s := b.2
    match met with
    | some (_, none) => (s, false)
    | some (f, _) =>
      (s.modCore n fun c => (c.setChan k { x with stopAs := 4, fault := BitVec.ofNat 64 f }).dropWalks k, false)
    | none =>
      let src := a.1.filterMap id
      let dst := b.1.filterMap id
      let waits := (src.filter EngTo.onMesh).length + if x.op = 2 then (dst.filter EngTo.onMesh).length else 0
      let new : Burst := { off := x.issuedTo, len, src, dst, waits }
      let s := s.modCore n fun c => { (c.setChan k { x with issuedTo := x.issuedTo + len, bursts := x.bursts ++ [new] }).dropWalks k
        with lastChan := k }
      (s.burstReads n k new, true)

/-- The engine offers the issue to the channels in turn, after the one that issued last (R324). -/
def State.burstIssue (s : State) (n : Nat) : State :=
  ((List.range 4).foldl (fun (r : State × Bool) i =>
    if r.2 then r else r.1.offer n (((s.core n).lastChan + 1 + i) % 4)) (s, false)).1

/-- The copy engine of a core of a constellation runs while the divided clocks run. -/
def State.engineRuns (s : State) (n : Nat) : Bool := s.clocksOn && (s.core n).member.isSome

def execCopyBurstIssue (core : Nat) (s : State) : Out State :=
  clocked s (if s.engineRuns core then s.burstIssue core else s)

/-- A refused line of a burst counts, with the port as issuer (R30, R325). -/
def State.refuseLine (s : State) (w : EngWho) (kind a : Nat) : State := s.refuseAt (coreOf w.t) (8 + w.port) w.tag w.level kind a

/-- A line that a burst has read: what its RD returned (slot i), or the own local store, where its tag admits it (R158,
R160). -/
def State.burstRead (s : State) (w : EngWho) (got : Map Line) (i a : Nat) (to_ : EngTo) : Line × State :=
  match to_ with
  | .line .. => (Map.get 0 got i, s)
  | .own off =>
    let n := coreOf w.t
    if mayRead w.tag (s.halfTag n (off / 64)) then
      (s.halfRead n (off / 64), s.meetHalf n (off / 64) 3 (s.core n).member.toList w.tag.sealed a)
    else (0, s.refuseLine w 0 a)
  | _ => (0, s.refuseLine w 0 a)

/-- CFILL in every 8-byte word (R325). -/
def fillLine (v : Word) : Line := (List.range 8).foldl (fun l i => lineSet l (8 * i) 8 v.toNat) 0

/-- A whole line that a burst writes: a WR on the mesh, or a write of the own local store (R325). -/
def State.burstWrite (s : State) (n k off a : Nat) (to_ : EngTo) (v : Line) : State :=
  match to_ with
  | .line .. => s.chanSend n k off 6 .wr v (.copyWrite k off) to_
  | .own o =>
    let w := s.chanWho n k 6
    let ws := if s.halfTag n (o / 64) = w.tag then 3 else 0
    (s.meetHalf n (o / 64) ws (s.core n).member.toList w.tag.sealed a).writeHalf n (o / 64) (BitVec.allOnes 64) v w.tag
  | _ => s.refuseLine (s.chanWho n k 6) 1 a

/-- The ADD packet of a line, or its refusal at the source (R325). One to the own local store goes through the core's
own router. -/
def State.copyAdd (s : State) (n k off a : Nat) (to_ : EngTo) (v : Line) : State :=
  let x := (s.core n).chan k
  let to_ := match to_ with
    | .own o => .line n (lsBase n + o) x.tag none (s.core n).clears
    | .line node .. => if farNode node then .refused else to_
    | _ => .refused
  match s.chanPacket n k off 6 .add v to_ with
  | none => s.refuseAt n 14 x.tag x.level 2 a
  | some p => s.send n { p with rtag := x.rtag, cid := (s.core n).member.getD 0, wide := x.op == 4, cnt := 1 } none

/-- Offset of the first byte at which two lines differ. -/
def firstDiff (a b : Line) : Option Nat := (List.range 64).find? fun i => lineByte a i != lineByte b i

/-- The two accesses go to one line of the mesh. -/
def EngTo.same : EngTo → EngTo → Bool
  | .line node pa .., .line node' pa' .. => node == node' && pa / 64 == pa' / 64
  | _, _ => false

/-- COMPARE records a difference at a byte of the range (R326). -/
def Core.mismatchAt (c : Core) (k at_ : Nat) : Core :=
  let x := c.chan k
  if x.mismatch then c.setChan k { x with mismatchAt := min x.mismatchAt at_ }
  else if x.stopAs = 0 then c.setChan k { x with mismatch := true, mismatchAt := at_, stopAs := 2 }
  else c

/-- Perform line i of a burst of channel k, given its source line if that was read early and the lines that the burst
has written: a source line that the same burst writes is read before or after that write (R327). -/
def State.burstLine (s : State) (n k i : Nat) (b : Burst) (early : Option Line) (wrote : List (EngTo × Line)) :
    State × List (EngTo × Line) :=
  let x := (s.core n).chan k
  let sa := (x.srcLines b.off b.len).getD i 0
  let da := (x.dstLines b.off b.len).getD i 0
  let from_ := b.src.getD i .refused
  let to_ := b.dst.getD i .refused
  let r := match early, wrote.find? fun l => l.1.same from_ with
    | some l, _ => (l, s)
    | none, some l => (l.2, s)
    | none, none =>
      if x.op = 1 then (fillLine x.fill, s) else s.burstRead (s.chanWho n k 5) b.got i sa from_
  match x.op with
  | 2 =>
    let d := r.2.burstRead (r.2.chanWho n k 5) b.got (4 + i) da to_
    match firstDiff r.1 d.1 with
    | none => (d.2, wrote)
    | some j => (d.2.modCore n fun c => c.mismatchAt k (b.off + 64 * i + j), wrote)
  | 3 | 4 => (r.2.copyAdd n k b.off da to_ r.1, wrote)
  | _ => (r.2.burstWrite n k b.off da to_ r.1, (to_, r.1) :: wrote)

/-- The source lines of a burst that a free value has read before its writes (R327). -/
def State.earlyLines (s : State) (n k : Nat) (b : Burst) (pick : Word) : State × List (Option Line) :=
  let x := (s.core n).chan k
  (List.range (b.len / 64)).foldl (fun (r : State × List (Option Line)) i =>
    if x.op = 0 ∧ pick.getLsbD i then
      let l := r.1.burstRead (r.1.chanWho n k 5) b.got i ((x.srcLines b.off b.len).getD i 0) (b.src.getD i .refused)
      (l.2, r.2 ++ [some l.1])
    else (r.1, r.2 ++ [none])) (s, [])

/-- The lines of a burst in the order in which a free value has a COPY perform them (R327). -/
def Burst.order (b : Burst) (op : Nat) (pick : Word) : List Nat :=
  if op = 0 ∧ pick.getLsbD 4 then (List.range (b.len / 64)).reverse else List.range (b.len / 64)

/-- The lines of a burst whose reads have returned: its own local-store accesses, its WRs and its ADDs (R325). -/
def State.burstWrites (s : State) (n k i : Nat) (b : Burst) : State :=
  let x := (s.core n).chan k
  let d := s.draw
  let e := d.2.earlyLines n k b d.1
  let waits := if x.op = 0 ∨ x.op = 1 then (b.dst.filter EngTo.onMesh).length else 0
  let s := e.1.modCore n fun c =>
    let x := c.chan k
    c.setChan k { x with bursts := x.bursts.modify i fun b => { b with wrote := true, waits } }
  ((b.order x.op d.1).foldl (fun r j => r.1.burstLine n k j b (e.2.getD j none) r.2) (s, [])).1

/-- A packet of channel k's burst at offset off waits at core n to be injected. -/
def Core.unsentOf (c : Core) (k off : Nat) : Bool :=
  let of (p : Packet) := match p.chan with
    | some x => x.chan == k && x.off == off
    | none => false
  c.injQ.any of || c.waitQ.any fun w => of w.1

/-- A burst ends once its lines are performed, its packets are injected and its RDs and WRs are answered (R324). -/
def State.burstEnd (s : State) (n k i : Nat) : State :=
  match ((s.core n).chan k).bursts[i]? with
  | none => s
  | some b =>
    let adds : Bool := ((s.core n).chan k).op == 3 || ((s.core n).chan k).op == 4
    if !b.wrote || b.waits != 0 || adds && (s.core n).unsentOf k b.off then s
    else s.modCore n fun c =>
      let x := c.chan k
      c.setChan k { x with bursts := dropAt x.bursts i, progress := s.fab }

/-- Burst i of a channel goes on: once its RDs are answered its lines are performed, and it ends when nothing of it is
left to do (R324, R325). -/
def State.burstDone (s : State) (n k i : Nat) : State :=
  match ((s.core n).chan k).bursts[i]? with
  | none => s
  | some b =>
    if b.waits ≠ 0 then s
    else (if b.wrote then s else s.burstWrites n k i b).burstEnd n k i

def execCopyBurstComplete (core : Nat) (ch : Fin 4) (i : Nat) (s : State) : Out State :=
  clocked s (if s.engineRuns core then s.burstDone core ch.val i else s)

/-! ## Stops (R323, R328, R330, R331) -/

/-- The channel after a stop. -/
def Chan.stop (x : Chan) : Chan :=
  let st := if x.stopAs = 0 then 2 else x.stopAs
  let res := if st = 5 then x.cnt else if x.mismatch then x.cnt - x.mismatchAt else x.cnt - x.issuedTo
  let adv := x.cnt - res
  { x with st, residue := res, cnt := res, event := true, stopAs := 0, raises := st != 2 || x.ie
           src := BitVec.ofNat 64 ((x.src.toNat + adv) % 2 ^ 52), dst := BitVec.ofNat 64 ((x.dst.toNat + adv) % 2 ^ 52) }

/-- A channel with no burst left takes its stop state; one that its thread left at the exit of the Sealed
world is cleared (R331). -/
def execCopyStop (core : Nat) (ch : Fin 4) (s : State) : Out State :=
  let x := (s.core core).chan ch.val
  clocked s (if x.busy ∧ x.bursts = [] ∧ (x.stopAs ≠ 0 ∨ x.cnt ≤ x.issuedTo) then
    if x.wipe then s.modCore core fun c => c.setChan ch.val {}
    else (s.modCore core fun c => c.setChan ch.val x.stop).hwMark (.copyEvent core ch.val)
  else s)

end Sys2Proof.Machine
end

