-- ==== Sys2Proof/Machine/MeshCmds.lean ====
section
/-! DEFINITION. The mesh: injection (R255), router cycles (R251-R254, R268, R270), the injection throttle
(R257), the arrival of answers (R263), and the mesh registers (R257, R273). -/

namespace Sys2Proof.Machine

open Sys2Proof

/-! ## Injection and hops -/

/-- The endpoint offers its waiting responses first, and a core then its injection queue (R255). -/
def State.inject (s : State) (node : Nat) : State :=
  match s.outb node with
  | _ :: _ => s.injectResponse node
  | [] => if node < s.member.cores then s.injectRequest node else s

def execInject (node : Nat) (s : State) : Out State := clocked s (s.inject node)

def execFlitHop (plane : Fin 4) (x y : Nat) (damage : List Nat) (s : State) : Out State :=
  clocked s (s.hop plane.val x y damage)

/-! ## The injection throttle (R257) -/

/-- Cycles of the last 64 fabric cycles in which the core's router deflected a flit. -/
def State.deflections (s : State) (n : Nat) : Nat := ((s.core n).deflCycles.filter fun f => s.fab < f + 64).length

/-- The throttle after an evaluation. -/
def State.throttleNext (s : State) (n c : Nat) : Bool :=
  let full := (s.con c).injOcc ≤ (s.core n).injQ.length
  let d := s.deflections n
  let lim := (s.con c).deflLimit
  if (s.core n).throttled then full || max 1 (lim / 2) ≤ d else full || lim ≤ d

/-- The throttle is evaluated once in 64 fabric cycles. -/
def execInjectionThrottleEval (core : Nat) (s : State) : Out State :=
  clocked s (match (s.core core).member with
    | none => s
    | some c =>
      if (s.core core).evalAt ≠ 0 ∧ s.fab < (s.core core).evalAt + 63 then s
      else
      let x := s.throttleNext core c
      s.modCore core fun k => { k with
        evalAt := s.fab + 1, throttled := x, throttleEvents := if x && !k.throttled then k.throttleEvents + 1 else k.throttleEvents })

/-! ## Answers (R263) -/

def execRdataArrive (core i : Nat) (ue : BitVec 2) (s : State) : Out State := clocked s (s.arrive core i .rdata ue.toNat)
def execWackArrive (core i : Nat) (s : State) : Out State := clocked s (s.arrive core i .wack 0)
def execAtomrArrive (core i : Nat) (ue : BitVec 2) (s : State) : Out State := clocked s (s.arrive core i .atomr ue.toNat)

/-! ## Mesh registers -/

/-- CCB_INJ (ch. 10). -/
def State.ccbInj (s : State) (n : Nat) : Word :=
  let c := s.core n
  BitVec.ofNat 64 (65536 * c.throttleEvents.toNat + s.deflections n * 128 + bit c.throttled * 32 + c.injQ.length % 32)

/-- MESH_LIMITS[c]: each field keeps its old value if the one written is out of range (R257). -/
def State.meshLimits (s : State) (c : Nat) (v : Word) : State :=
  let d := field v 8 7
  let i := field v 0 5
  s.modCon c fun x => { x with
    deflLimit := if 1 ≤ d ∧ d ≤ 64 then d else x.deflLimit, injOcc := if 1 ≤ i ∧ i ≤ 16 then i else x.injOcc }

def State.meshLimitsWord (s : State) (c : Nat) : Word :=
  BitVec.ofNat 64 ((s.con c).deflLimit % 128 * 256 + (s.con c).injOcc % 32)

def meshLimitsAddr (c : Nat) : Nat := 0xF000400000000 + 8 * c

def execMeshLimitsWrite (acc : Accessor) (c : Nat) (v : Word) (s : State) : Out State :=
  clocked s (if c < 32 then s.regCmd acc (meshLimitsAddr c) fun s => s.meshLimits c v else s)

/-- MESH_DIE_STATUS and MESH_DIE_TRAFFIC (R273). -/
def Die.statusWord (d : Die) : Word := BitVec.ofNat 64 (2 ^ 32 * d.late + 65536 * d.hdrDropped + d.hdrCorrected)
def Die.trafficWord (d : Die) : Word := BitVec.ofNat 64 (2 ^ 32 * d.deflections.toNat + d.combines.toNat)

/-- MESH_CLEAR (R273): bit 0 clears the status, bit 1 the traffic. -/
def State.meshClear (s : State) (die : Nat) (v : Word) : State :=
  s.modDie die fun d =>
    let d := if v.getLsbD 0 then { d with late := 0, hdrDropped := 0, hdrCorrected := 0 } else d
    if v.getLsbD 1 then { d with deflections := 0, combines := 0 } else d

/-- A command that names a die of the part. -/
def onDie (die : Nat) (s : State) (k : State → State) : Out State :=
  if die < s.member.dies then clocked s (k s) else .next s

def execMeshClearTraffic (die : Nat) (s : State) : Out State := onDie die s fun s => if s.firmware then s.meshClear die 2 else s
def execMeshClearStatus (die : Nat) (s : State) : Out State := onDie die s fun s => if s.firmware then s.meshClear die 1 else s

end Sys2Proof.Machine
end

