-- ==== Sys2Proof/Machine/Stacks.lean ====
section
/-! DEFINITION. The memory stacks (R332-R345, R352, R353, R430, R437): acceptance and performance in
ingress order, slots and banks, the atomic unit, background work, failing regions and training. -/

namespace Sys2Proof.Machine

open Sys2Proof

/-- A command that names a stack of the part. -/
def onStack (k : Nat) (s : State) (f : State → State) : Out State :=
  if k < s.member.stks then clocked s (f s) else .next s

/-! ## The atomic buffer (R343) -/

/-- Line of the stack that a packet names, if its address lies in a set of the stack (R42, R483). -/
def State.stkOf (s : State) (k : Nat) (p : Packet) : Option Nat :=
  match s.target (p.line * 64) with
  | .stack j q => if j = k then some (q / 64) else none
  | _ => none

/-- The atomic buffer gives a place to a line that an atomic waits for: a free place, or that of the least
recently used line that is not waiting for its read, once its write-back has entered a queue (R343). -/
def Stack.place (k : Stack) (l : Nat) (tag : Tag) : Stack :=
  if (k.buffered l).isSome then k
  else if k.buf.length < 64 then
    let ready := (k.chan (chOf l)).written l
    let k := { k with buf := { line := l, ready, tag } :: k.buf }
    if ready then k
    else k.modChan (chOf l) fun c => { c with queue := c.queue ++ [{ line := l, needRead := true, needWrite := false, forAtomic := true }] }
  else
    match (k.buf.filter fun b => b.ready && !k.evicted.contains b.line).getLast? with
    | none => k
    | some b => { k with evicted := k.evicted ++ [b.line] }

/-- Lines that waiting atomics need and the buffer does not hold, oldest first. -/
def State.wanting (s : State) (k : Nat) : List (Nat × Tag) :=
  (s.stack k).atomQ.filterMap fun p =>
    match s.stkOf k p with
    | none => none
    | some l => if ((s.stack k).buffered l).isSome then none else some (l, p.tag)

/-- Give places to waiting atomics, one eviction at a time. -/
def State.placeAll (s : State) (k : Nat) : State :=
  overAll (s.wanting k) (fun s w =>
    if (s.stack k).evicted.isEmpty then s.modStack k fun x => x.place w.1 w.2 else s) s

/-! ## Performance at acceptance (R335, R338, R341, R342) -/

/-- An answer is ready for injection (R338). -/
def State.stkReady (s : State) (k : Nat) (p : Packet) (typ : PType) (data : Line) (refused : Bool) : State :=
  s.modStack k fun x => { x with ready := x.ready ++ [s.reply (nodeStack k) p typ data refused] }

/-- An answer of zero that counts in no tally; an ADD has none (R413, R437, R483). -/
def State.stkZero (s : State) (k : Nat) (p : Packet) : State :=
  if p.typ == .add then s else s.stkReady k p (answerType p.typ) 0 false

/-- RCOUNT of an ADD (R269). -/
def State.stkCount (s : State) (k : Nat) (p : Packet) : State :=
  if p.typ == .add then s.modStack k fun x => { x with rcount := countAdd x.rcount p } else s

/-- The requester's constellation and the address, as a fault of a packet at a stack reports them (R342). -/
def State.pktUe (s : State) (k l ws : Nat) (p : Packet) : State :=
  s.stkUe k l ws (s.requester p).toList p.tag.sealed (p.line * 64)

/-- A RD at stack k: performed now, answered after its slot (R335, R338, R341, R342). -/
def State.stkRead (s : State) (k l : Nat) (p : Packet) : State :=
  let ok := mayRead p.tag (s.stkTag k l).tag
  let data := if ok then zeroWords (s.lineLost k l) (s.stkPlain k l p.line) else 0
  let slot := s.readsSlot k l
  let s := if ok then s.pktUe k l (s.lineLost k l) p else s.refusePkt p 0
  let s := match (s.stack k).buffered l with
    | some b => s.modStack k fun x => x.touchBuf b
    | none => s
  if slot then s.stkQueue k l { line := l, needRead := true, needWrite := false
                                answer := some (s.reply (nodeStack k) p .rdata data !ok) }
  else s.stkReady k p .rdata data !ok

/-- A WR at stack k: it takes effect and is acknowledged now, and takes its slots later (R271, R335, R338). -/
def State.stkWrite (s : State) (k l : Nat) (p : Packet) : State :=
  let mask := spanMask p.first p.last
  let ws := if (s.stkTag k l).tag == p.tag then partWords mask else 0
  let s := (s.pktUe k l (s.lineLost k l &&& ws) p).payloadUe 2 (nodeStack k) p
  ((s.writeLine k l p.line p.tag mask p.payload).writeSlots k l mask).stkReady k p .wack 0 false

/-- An ATOM or ADD enters the queue of the atomic unit. A code word that could not be corrected is read as zero into the
buffer (R342, R343). -/
def State.stkAtomic (s : State) (k l : Nat) (p : Packet) : State :=
  let reads := ((s.stack k).buffered l).isNone && (s.stkTag k l).tag == p.tag
  let s := if reads && s.lineLost k l != 0 then
      (s.pktUe k l (s.lineLost k l) p).writeLine k l p.line p.tag (BitVec.allOnes 64)
        (zeroWords (s.lineLost k l) (s.stkPlain k l p.line))
    else s
  (((s.payloadUe 2 (nodeStack k) p).dropScrub k l).modStack k fun x => { x with atomQ := x.atomQ ++ [p] }).placeAll k

/-- An atomic of the same line waits for the atomic unit. -/
def State.atomicWaits (s : State) (k l : Nat) : Bool := (s.stack k).atomQ.any fun p => s.stkOf k p == some l

/-- Code words of a line that no queued write and no buffered copy covers: only these does an access read from DRAM (R335). -/
def State.exposed (s : State) (k l : Nat) : Nat :=
  if ((s.stack k).buffered l).isSome then 0 else 3 - touchedWords (((s.stack k).chan (chOf l)).covers l)

/-- Symbols of the line that an access reads have gone bad: bits [1:0] name code words with two or three, bits [3:2] those
with one. -/
def State.stkStrike (s : State) (k l : Nat) (bad : BitVec 4) : State :=
  s.strikeLine k l (bad &&& BitVec.ofNat 4 (5 * s.exposed k l))

/-- Stack k performs a packet that it accepts. -/
def State.stkPerform (s : State) (k : Nat) (p : Packet) (bad : BitVec 4) : State :=
  if (s.stack k).dead then (s.stkCount k p).stkZero k p
  else
    match s.stkOf k p with
    | none => s.stkZero k p
    | some l =>
      if s.keyGone p.tag then s.stkZero k p
      else
        let s := s.stkStrike k l bad
        match p.typ with
        | .rd => s.stkRead k l p
        | .wr => s.stkWrite k l p
        | .atom | .add => s.stkAtomic k l p
        | _ => s

/-- Packet i at stack k may enter its channel queue: it is the oldest of its channel, there is room, and no
atomic of its line waits (R334, R335). -/
def State.stkMay (s : State) (k i : Nat) (p : Packet) : Bool :=
  let ch := s.channelOf p.line
  p.forP7 &&
  ((s.stack k).dead ||
    (((s.inb (nodeStack k)).take i).all fun q => !(q.forP7 && s.channelOf q.line == ch)) &&
      ((s.stack k).chan ch).queue.length < 64 &&
      (p.typ == .atom || p.typ == .add || match s.stkOf k p with
        | none => true
        | some l => !s.atomicWaits k l))

/-- Stack k accepts the i-th packet that waits there. -/
def State.stkAccept (s : State) (k i : Nat) (bad : BitVec 4) : State :=
  match (s.inb (nodeStack k))[i]? with
  | none => s
  | some p =>
    if s.stkMay k i p then (s.setInb (nodeStack k) (dropAt (s.inb (nodeStack k)) i)).stkPerform k p bad else s

def execStackAccept (stk i : Nat) (bad : BitVec 4) (s : State) : Out State :=
  onStack stk s fun s => s.stkAccept stk i bad

/-- The i-th ready answer leaves; a code word of a read that the correction stage finds uncorrectable is delivered as zero, and
stays so at its home (R338, R342). -/
def State.stkRespond (s : State) (k i ue : Nat) : State :=
  match (s.stack k).ready[i]? with
  | none => s
  | some p =>
    let s := s.modStack k fun x => { x with ready := dropAt x.ready i }
    let bad := if p.typ == .rdata && !p.refused then ue else 0
    let s := match s.stkOf k p with
      | some l => (s.pktUe k l bad { p with src := p.dst }).stkStrike k l (BitVec.ofNat 4 (bad % 4))
      | none => s
    s.setOutb (nodeStack k) (s.outb (nodeStack k) ++ [{ p with data := zeroWords bad p.data }])

def execStackResponse (stk i : Nat) (ue : BitVec 2) (s : State) : Out State :=
  onStack stk s fun s => s.stkRespond stk i ue.toNat

/-! ## The atomic unit (R343) -/

/-- Perform one atomic, ADD or RCOUNT update on a buffered line (R269, R291, R341). -/
def State.atomicDo (s : State) (k l : Nat) (p : Packet) : State :=
  let s := s.stkCount k p
  if s.keyGone p.tag then s.stkZero k p
  else if (s.stkTag k l).tag ≠ p.tag then
    let s := s.refusePkt p 2
    if p.typ == .add then s else s.stkReady k p .atomr 0 true
  else
    let old := s.stkPlain k l p.line
    let tag := s.lineTag p.tag p.line
    if p.typ == .add then (s.setStkLine k l (addLanes p.wide old p.payload)).setStkTag k l tag
    else
      let r := atomLine p.atomed old
      ((s.setStkLine k l r.1).setStkTag k l tag).stkReady k p .atomr (lineSet 0 0 8 r.2.toNat) false

/-- The first waiting atomic whose line is buffered and read. -/
def State.nextAtomic (s : State) (k : Nat) : Option (Nat × Packet × Option (Nat × BufLine)) :=
  (s.stack k).atomQ.zipIdx.findSome? fun (p, i) =>
    match s.stkOf k p with
    | none => some (i, p, none)
    | some l =>
      match (s.stack k).buffered l with
      | some b => if b.ready then some (i, p, some (l, b)) else none
      | none => none

def State.atomicOp (s : State) (k : Nat) : State :=
  match s.nextAtomic k with
  | none => s
  | some (i, p, r) =>
    let s := s.modStack k fun x => { x with atomQ := dropAt x.atomQ i }
    match r with
    | none => s.stkZero k p
    | some (l, b) => ((s.modStack k fun x => x.touchBuf b).atomicDo k l p).placeAll k

def execAtomicUnitOp (stk : Nat) (s : State) : Out State := onStack stk s fun s => s.atomicOp stk

/-- An evicted line's write-back enters its channel queue, and the line leaves the buffer (R343). -/
def State.evictBack (s : State) (k : Nat) : State :=
  match (s.stack k).evicted.find? fun l => ((s.stack k).chan (chOf l)).queue.length < 64 with
  | none => s
  | some l =>
    let s := s.modStack k fun x => { x with evicted := x.evicted.filter (· != l), buf := x.buf.filter fun b => b.line != l }
    (s.stkQueue k l { line := l, needRead := false, needWrite := true, bytes := BitVec.allOnes 64 }).placeAll k

def execAtomicEvictWriteback (stk : Nat) (s : State) : Out State := onStack stk s fun s => s.evictBack stk

/-! ## Slots (R336, R337) -/

/-- Slot n of a channel is a refresh slot. -/
def refreshSlot (n : Nat) : Bool := n % 128 == 0 || n % 128 == 42 || n % 128 == 85

/-- Deferral bound of a background item (R344). -/
def BgKind.bound : BgKind → Nat
  | .patrol => 4096
  | .scrubWrite => 64
  | .neighbour => 256
  | .phyCal | .telemetry => 65536

/-- The item touches a bank. -/
def BgKind.usesBank : BgKind → Bool
  | .phyCal | .telemetry => false
  | _ => true

/-- A bank can accept an access to a row in slot n. -/
def SBank.accepts (b : SBank) (row n : Nat) : Bool := if b.row = some row then b.hitFrom ≤ n else b.rowFrom ≤ n

/-- Slots from an access to its data (R337). -/
def SBank.delay (b : SBank) (row : Nat) : Nat := if b.row = some row then 20 else if b.row = none then 40 else 54

/-- The bank after an access to a row in slot u. -/
def SBank.access (b : SBank) (row u : Nat) : SBank :=
  if b.row = some row then { b with hitFrom := u + 1 }
  else if b.row = none then { row := some row, hitFrom := u + 20, rowFrom := u + 48 }
  else { row := some row, hitFrom := u + 34, rowFrom := u + 62 }

/-- An access to a bank and row in slot u; an activation counts (R337, R346). -/
def SChan.touch (c : SChan) (b row u : Nat) : SChan :=
  let k := c.bank b
  let hit := k.row = some row
  { c with banks := Map.set {} c.banks b (k.access row u)
           acts := if hit then c.acts else Map.set 0 c.acts (rowKey b row) (Map.get 0 c.acts (rowKey b row) + 1)
           wear := if hit then c.wear else Map.set 0 c.wear b (Map.get 0 c.wear b + 1) }

/-- Refresh slot number r refreshes four rows of bank r mod 32, and clears their counts (R337, R346; log
entry 26, DEDUCED). -/
def SChan.refresh (c : SChan) (n : Nat) : SChan :=
  let r := c.refreshNo
  let b := r % 32
  let g := r / 32 % 16384
  { c with refreshNo := r + 1, slotNo := n + 1
           banks := Map.set {} c.banks b { row := none, hitFrom := n + 48, rowFrom := n + 48 }
           acts := c.acts.filter fun p => !(p.1 / 65536 == b && p.1 % 65536 / 4 == g) }

/-- The oldest foreground request that slot n can take; it never passes an older one to its line, and a read
needs room in the egress buffer (R334, R336). -/
def SChan.pick (c : SChan) (n : Nat) (room : Bool) : Option Nat :=
  c.queue.zipIdx.findSome? fun (q, i) =>
    if (c.bank (bankOf q.line)).accepts (rowOf q.line) n && q.notBefore ≤ n && (room || q.answer.isNone) &&
        (c.queue.take i).all (fun p => p.line != q.line) then some i else none

/-- Background items that slot n can take. -/
def SChan.pickBg (c : SChan) (n : Nat) (overdue : Bool) : Option Nat :=
  c.bg.zipIdx.findSome? fun (b, i) =>
    if b.created ≤ n && (!b.kind.usesBank || (c.bank b.bank).accepts b.row n || overdue) &&
        (!overdue || b.created + b.kind.bound ≤ n)
    then some i else none

/-- What a read of a line finds in DRAM, which the spec leaves to the memory cells: symbols go bad in words that nothing else
marks (log entry 3, DESIGN CHOICE). -/
def State.cellFaults (s : State) (k l : Nat) : State :=
  let d := s.draw
  d.2.strikeLine k l (BitVec.ofNat 4 (d.1.toNat % 16))

/-- Code words of a line with one bad symbol, which a read corrects. -/
def State.lineWeak (s : State) (k l : Nat) : Nat := (s.lineBad k l).toNat / 4 % 4

/-- A read of a line corrects the code words that have one bad symbol: they count in STK_ERR.CE and in the row's count (R352,
R353). -/
def State.corrected (s : State) (k l : Nat) : Nat × State :=
  let m := (wordBits (s.lineWeak k l &&& (3 - s.lineLost k l))).length
  (m, s.modStack k fun x => { (x.modChan (chOf l) fun c => { c with
      corrected := Map.set 0 c.corrected (rowKey (bankOf l) (rowOf l)) (satAdd 255 (Map.get 0 c.corrected (rowKey (bankOf l) (rowOf l))) m) })
    with ce := satAdd (2 ^ 32 - 1) x.ce m })

/-- Foreground request i of a channel takes slot n. -/
def State.takeReq (s : State) (k ch i n : Nat) : State :=
  let c := (s.stack k).chan ch
  match c.queue[i]? with
  | none => s
  | some q =>
    let b := bankOf q.line
    let row := rowOf q.line
    let delay := (c.bank b).delay row
    let s := s.modStack k fun x => x.modChan ch fun c => c.touch b row n
    if q.needRead then
      let s := (s.corrected k q.line).2
      let s := match q.answer with
        | some a => s.modStack k fun x => { x with ready := x.ready ++ [a] }
        | none => s
      let s := if q.forAtomic then s.modStack k fun x => { x with
          buf := x.buf.map fun y => if y.line = q.line then { y with ready := true } else y } else s
      s.modStack k fun x => x.modChan ch fun c => { c with
        queue := if q.needWrite then spliceAt c.queue i [{ q with needRead := false, notBefore := n + delay + 18, bytes := BitVec.allOnes 64 }]
                 else dropAt c.queue i }
    else s.modStack k fun x => x.modChan ch fun c => { c with queue := dropAt c.queue i }

/-- Background item i of a channel takes slot n (R344-R346). -/
def State.takeBg (s : State) (k ch i n : Nat) : State :=
  let c := (s.stack k).chan ch
  match c.bg[i]? with
  | none => s
  | some b =>
    let s := s.modStack k fun x => x.modChan ch fun c => { c with bg := dropAt c.bg i }
    let s := if b.kind.usesBank then s.modStack k fun x => x.modChan ch fun c => c.touch b.bank b.row n else s
    match b.kind with
    | .patrol =>
      let buffered := ((s.stack k).buffered b.line).isSome
      let delay := (c.bank b.bank).delay b.row
      let r := (s.cellFaults k b.line).corrected k b.line
      let s := r.2.stkUe k b.line (r.2.lineLost k b.line) [] false 0
      let s := if r.1 = 0 ∨ buffered then s
        else s.modStack k fun x => x.modChan ch fun c => { c with
          bg := c.bg ++ [{ kind := .scrubWrite, created := n + delay + 2, bank := b.bank, row := b.row, line := b.line }] }
      if ch = 0 ∧ b.line / 32 + 1 = 2 ^ 26 then s.modStack k fun x => { x with passes := x.passes + 1 } else s
    | .scrubWrite => s.setLineBad k b.line (s.lineBad k b.line &&& 3)
    | .neighbour =>
      s.modStack k fun x => x.modChan ch fun c => { c with acts := Map.drop c.acts (rowKey b.bank b.row) }
    | .telemetry =>
      let d := s.draw
      d.2.modStack k fun x => { x with temp := d.1.toNat % 256 }
    | .phyCal => s

/-- One slot of a channel (R336). -/
def State.stkSlot (s : State) (k ch : Nat) : State :=
  let c := (s.stack k).chan ch
  let n := c.slotNo
  if refreshSlot n then s.modStack k fun x => x.modChan ch fun c => c.refresh n
  else
    let s := s.modStack k fun x => x.modChan ch fun c => { c with slotNo := n + 1 }
    match (if n % 32 = 31 then c.pickBg n true else none) with
    | some i => (s.modStack k fun x => { x with forced := x.forced + 1 }).takeBg k ch i n
    | none =>
      match c.pick n ((s.stack k).ready.length + (s.outb (nodeStack k)).length < 256) with
      | some i => s.takeReq k ch i n
      | none =>
        match c.pickBg n false with
        | some i => s.takeBg k ch i n
        | none => s

/-- The stack's clock runs and the stack is in service. -/
def Stack.inService (k : Stack) : Bool := k.phyLock && k.trained && !k.dead

def execStackSlot (stk : Nat) (ch : Fin 32) (s : State) : Out State :=
  onStack stk s fun s => if (s.stack stk).inService then s.stkSlot stk ch.val else s

/-- The slot that is due, when it is a refresh slot (R337). -/
def execStackRefresh (stk : Nat) (ch : Fin 32) (s : State) : Out State :=
  onStack stk s fun s =>
    let n := ((s.stack stk).chan ch.val).slotNo
    if (s.stack stk).inService && refreshSlot n then
      s.modStack stk fun x => x.modChan ch.val fun c => c.refresh n
    else s

/-! ## Background items (R344-R346) -/

/-- Create a background item in a channel of a stack in service. -/
def State.newBg (s : State) (k ch : Nat) (f : SChan → SChan) : State :=
  if (s.stack k).inService then s.modStack k fun x => x.modChan ch f else s

/-- The next patrol line of a channel, in order of l (R345). -/
def SChan.patrolItem (c : SChan) (ch : Nat) : BgItem :=
  let l := 32 * c.patrol + ch
  { kind := .patrol, created := c.slotNo, bank := bankOf l, row := rowOf l, line := l }

/-- One patrol item is created in 2048 slots (R344). -/
def execPatrolScrubCreate (stk : Nat) (ch : Fin 32) (s : State) : Out State :=
  onStack stk s fun s => s.newBg stk ch.val fun c =>
    if c.slotNo < 2048 * c.patrols then c
    else { c with bg := c.bg ++ [c.patrolItem ch.val], patrol := (c.patrol + 1) % 2 ^ 26, patrols := c.slotNo / 2048 + 1 }

/-- Rows beside a row. -/
def besides (row : Nat) : List Nat := (if row = 0 then [] else [row - 1]) ++ if row + 1 < 65536 then [row + 1] else []

/-- A row's count reaches 4096: its neighbours are to be refreshed, and its count is cleared (R344, R346). -/
def execNeighbourRefresh (stk : Nat) (ch bank : Fin 32) (row : Nat) (s : State) : Out State :=
  onStack stk s fun s => s.newBg stk ch.val fun c =>
    if 4096 ≤ Map.get 0 c.acts (rowKey bank.val row) then
      { c with bg := c.bg ++ (besides row).map fun r => { kind := .neighbour, created := c.slotNo, bank := bank.val, row := r }
               acts := Map.drop c.acts (rowKey bank.val row) }
    else c

def execPhyCalibration (stk : Nat) (ch : Fin 32) (s : State) : Out State :=
  onStack stk s fun s => s.newBg stk ch.val fun c => { c with bg := c.bg ++ [{ kind := .phyCal, created := c.slotNo }] }

def execTelemetryReadout (stk : Nat) (ch : Fin 32) (s : State) : Out State :=
  onStack stk s fun s => s.newBg stk ch.val fun c => { c with bg := c.bg ++ [{ kind := .telemetry, created := c.slotNo }] }

/-! ## Failing regions and failed stacks (R352, R437) -/

/-- Kind of a retirement: 1 the corrected count reached 16, 2 uncorrectable (R353). -/
def SChan.regionKind (c : SChan) (key : Nat) : Nat :=
  bit (16 ≤ Map.get 0 c.corrected key) + 2 * bit (Map.get false c.bad key)

/-- Log the row that holds in-stack offset q (R352, R353). -/
def State.regionLog (s : State) (k ch q : Nat) : State :=
  let l := q / 64
  let b := bankOf l
  let r := rowOf l
  let kind := ((s.stack k).chan ch).regionKind (rowKey b r)
  if chOf l ≠ ch ∨ kind = 0 then s
  else
    match (s.stack k).retire.findIdx? fun e => e.channel == ch && e.bank == b && e.row == r with
    | some i =>
      match (s.stack k).retire[i]? with
      | none => s
      | some e =>
        if e.kind = 1 ∧ 2 ≤ kind then
          (s.modStack k fun x => { x with retire := spliceAt x.retire i [{ e with kind := 3 }] }).report 3 [] (nodeStack k) false 0
        else s
    | none =>
      let s := s.modStack k fun x =>
        if x.retire.length < 16 then { x with retire := x.retire ++ [{ kind, channel := ch, block := q / 65536, bank := b, row := r }] }
        else { x with retOverflow := true }
      s.report 3 [] (nodeStack k) false 0

def execRegionLog (stk : Nat) (ch : Fin 32) (q : Nat) (s : State) : Out State :=
  onStack stk s fun s => s.regionLog stk ch.val q

/-- The constellations with a set in their reach on stack k (R435). -/
def State.consOn (s : State) (k : Nat) : List Nat :=
  allCons.filter fun c => s.chart.pkg.sets.any fun p => p.2.sizeGib != 0 && p.2.mask.getLsbD k && s.reaches c p.1 &&
    (s.con c).live

/-- A base die fails: what waits is answered with zero, and the fault is reported (R437). -/
def State.stkFail (s : State) (k : Nat) : State :=
  if !(s.stack k).inService then s
  else
    let x := s.stack k
    let answers := (x.chans.flatMap fun p => p.2.queue.filterMap (·.answer)).map fun a => { a with data := 0 }
    let atoms := x.atomQ
    let s := s.setStack k { x with dead := true, trained := false, ready := x.ready ++ answers, atomQ := [], buf := [], evicted := []
                                   chans := x.chans.map fun p => (p.1, { p.2 with queue := [], bg := [] }) }
    let s := overAll atoms (fun s p => (s.stkCount k p).stkZero k p) s
    s.report 6 (s.consOn k) (nodeStack k) false 0

def execStackFailure (stk : Nat) (s : State) : Out State := onStack stk s fun s => s.stkFail stk

/-! ## Training and registers (R353, R430) -/

/-- STK_TRAIN.TRAIN: ignored while the stack trains, is trained or has failed (R430, R437). -/
def State.train (s : State) (k : Nat) : State :=
  let x := s.stack k
  if x.training || x.trained || x.dead then s else s.setStack k { x with training := true, trainFailed := false }

def execTrain (stk : Nat) (s : State) : Out State := onStack stk s fun s => if s.firmware then s.train stk else s

/-- Training ends: it has zeroed every line with an Open tag, or the stack stays untrained (R430). -/
def State.trainingDone (s : State) (k : Nat) (ok : Bool) : State :=
  let x := s.stack k
  if !x.training then s
  else if ok then
    { s with mem := s.mem.filter fun p => p.1 / 2 ^ 37 != k, memTag := s.memTag.filter fun p => p.1 / 2 ^ 31 != k
             memBad := s.memBad.filter fun p => p.1 / 2 ^ 31 != k }.setStack k
      { x with training := false, trained := true, phyLock := true }
  else s.setStack k { x with training := false, trainFailed := true }

def execTrainingDone (stk : Nat) (ok : Bool) (s : State) : Out State := onStack stk s fun s => s.trainingDone stk ok

/-- STK_CLEAR (R353): bit 0 ERR, bit 1 RETIRE. -/
def State.stkClear (s : State) (k : Nat) (v : Word) : State :=
  s.modStack k fun x =>
    let x := if v.getLsbD 0 then { x with ue := 0, ce := 0 } else x
    if v.getLsbD 1 then { x with retire := [], retOverflow := false } else x

def execStkClearRetire (stk : Nat) (s : State) : Out State := onStack stk s fun s => s.stkClear stk 2
def execStkClearErr (stk : Nat) (s : State) : Out State := onStack stk s fun s => s.stkClear stk 1

/-- STK_STATUS, STK_ERR, STK_BG and STK_RETIRE (R353). -/
def Stack.statusWord (x : Stack) : Word := BitVec.ofNat 64 (65536 * (x.temp % 256) + bit x.trained * 2 + bit x.phyLock)
def Stack.errWord (x : Stack) : Word :=
  BitVec.ofNat 64 (2 ^ 48 * x.ue + 65536 * x.ce + bit x.retOverflow * 32 + x.retire.length)
def Stack.bgWord (x : Stack) : Word := BitVec.ofNat 64 (2 ^ 32 * x.forced.toNat + x.passes.toNat)
def Stack.retireWord (x : Stack) (e : Nat) : Word :=
  match x.retire[e]? with
  | none => 0
  | some r => BitVec.ofNat 64 (2 ^ 26 * r.kind + 2 ^ 21 * r.channel + r.block)

end Sys2Proof.Machine
end

