-- ==== Sys2Proof/Machine/Trust.lean ====
section
/-! DEFINITION. Sessions, identity and quotes (R401-R420): session slots, keying and its replication,
retirement, the session key pair, the identity engine and the quote engine. -/

namespace Sys2Proof.Machine

open Sys2Proof

def State.modTrust (s : State) (f : Trust → Trust) : State := { s with trust := f s.trust }

/-! ## Session slots (R401-R403) -/

/-- A slot that counts against its owner's quota (R402). -/
def Slot.held (x : Slot) : Bool := x.st != .free

/-- Slots that constellation c holds. -/
def State.heldSlots (s : State) (c : Nat) : Nat := (s.trust.slots.filter fun p => p.2.held && p.2.owner == c).length

/-- The constellation owns the slot; a free slot has no owner (log entry 27, DEDUCED). -/
def State.ownsSlot (s : State) (c n : Nat) : Bool := (s.slot n).held && (s.slot n).owner == c

/-- The end of a command of constellation c's area, with its code. -/
def State.sessDone (s : State) (c n code : Nat) : State :=
  (s.modArea c fun a => { a with slot := n, code, done := true, busy := false }).hwMark (.sessionDone c)

/-! ## Retirement (R412-R414) -/

/-- A store that waits in a store queue under a tag. -/
def QItem.under (tag : Tag) : QItem → Bool
  | .own _ _ _ t _ => t == tag
  | .cached _ _ _ _ t => t == tag
  | _ => false

/-- Drop what core n holds under a tag: cache lines without write-back, the fills and stores that would make others,
gather-buffer entries, pipe words, and its copy channels (R331, R412). -/
def State.dropTag (s : State) (n : Nat) (tag : Tag) : State :=
  let s := s.modCore n fun c =>
    let drop (o : Outst) : Outst := if o.tag = tag then { o with use := o.use.unfill } else o
    let c := { c with
      outst := c.outst.map drop, waitQ := c.waitQ.map fun w => (w.1, w.2.map drop)
      dcache := c.dcache.filter fun l => l.tag != tag, icache := c.icache.filter fun l => l.tag != tag
      pipes := (c.pipes.map fun p => (p.1, p.2.filter fun w => w.tag != tag)).filter fun p => p.2 != [] }
    (List.range 4).foldl (fun c i =>
      let x := c.chan i
      if x.tag = tag then
        if x.busy then c.setChan i { x with stopAs := 3, wipe := true } else c.setChan i {}
      else c) c
  overAll (List.range 4) (fun s k => s.modThr (4 * n + k) fun th => { th with
    gather := th.gather.filter fun e => !(e.tagLo == tag || e.tagHi == tag)
    storeQ := th.storeQ.filter fun q => !q.under tag }) s

/-- The stack lines of a slot are written back, each through a slot, and leave the atomic buffer; an atomic that waits for
one of them takes a place for it again (R343). -/
def State.dropBuffered (s : State) (tag : Tag) : State :=
  overAll ((s.stks.map (·.1)).filter fun k => k < s.member.stks) (fun s k =>
    let mine := ((s.stack k).buf.filter fun b => b.ready && (s.stkTag k b.line).tag == tag).map (·.line)
    let s := s.modStack k fun x => { x with
      evicted := x.evicted.filter fun l => !mine.contains l, buf := x.buf.filter fun b => !mine.contains b.line }
    (overAll mine (fun s l =>
      s.stkQueue k l { line := l, needRead := false, needWrite := true, bytes := BitVec.allOnes 64 }) s).placeAll k) s

/-- Translated ranges of the Sealed windows of constellation c for a slot (R412 step 5). -/
def State.sealedRanges (s : State) (c n : Nat) : List (Nat × Nat) :=
  (List.range (s.con c).wtcount.toNat).filterMap fun i =>
    let e := WEntry.of (s.tableEntry c i)
    if e.valid && e.sld && e.session.toNat == n && s.entryOk c e && s.tableOk c then
      some (e.target, e.target + (e.limit - e.base))
    else none

/-- Steps 1 to 3 of R412: the slot is retired, its threads are evicted, what the cores and the stacks hold of
it is dropped, its key is erased and GEN advances. -/
def State.retireSlot (s : State) (n : Nat) (fill : Bool) : State :=
  let x := s.slot n
  let tag : Tag := { sealed := true, session := BitVec.ofNat 12 n }
  let ranges := if fill then s.sealedRanges x.owner n else []
  let s := s.modSlot n fun x => { x with st := .retired, fill, ranges }
  let inside := (s.threads.map (·.1)).filter fun t => (s.thr t).world && (s.thr t).session.toNat == n
  let s := overAll inside State.evict s
  let s := overAll ((s.cores.map (·.1)).filter fun n => n < s.member.cores) (fun s n => s.dropTag n tag) s
  (s.dropBuffered tag).modSlot n fun x => { x with key := 0, pair := 0, gen := x.gen + 1, pos := 0 }

/-- Every slot that constellation c owns is retired (R57). -/
def State.retireOwned (s : State) (c : Nat) : State :=
  overAll ((s.trust.slots.filter fun p => p.2.owner == c && (p.2.st == .keyed || p.2.st == .bound)).map (·.1))
    (fun s n => s.retireSlot n false) s

/-- Local-store rows that hold a half with a tag, by core × 2^18 + row. -/
def State.taggedRows (s : State) (tag : Tag) : List Nat :=
  (s.lsTag.filter fun p => p.2 == tag).map fun p => p.1 / 2

/-- The local-store purge: rows that hold a half of the slot are zeroed and tagged Open (R412 step 4). -/
def State.purge (s : State) (tag : Tag) : State :=
  let rows := s.taggedRows tag
  { s with ls := s.ls.filter fun p => !(rows.contains (p.1 / 128))
           lsTag := s.lsTag.filter fun p => !(rows.contains (p.1 / 2))
           lsBad := s.lsBad.filter fun p => !(rows.contains p.1) }

/-- The fabric line of in-stack line l of stack k, by the inverse of R42. -/
def State.fabricLine (s : State) (k l : Nat) : Option Nat :=
  s.chart.pkg.sets.findSome? fun (_, m) =>
    let q := l * 64
    if m.sizeGib != 0 && m.mask.getLsbD k && decide (2 ^ 30 * m.offGib ≤ q) &&
        decide (q < 2 ^ 30 * m.offGib + 2 ^ 30 * (m.sizeGib / m.stks.length)) then
      let loc := q - 2 ^ 30 * m.offGib
      let g := 2 ^ m.granule
      let rank := (m.stks.filter fun i => decide (i < k)).length
      some ((2 ^ 30 * m.baseGib + (loc / g * m.stks.length + rank) * g + loc % g) / 64)
    else none

/-- The fill: the lines of the ranges are zeroed, with Open tags (R412 step 5). -/
def State.fillRanges (s : State) (rs : List (Nat × Nat)) : State :=
  let inside (k l : Nat) : Bool := match s.fabricLine k l with
    | none => false
    | some f => rs.any fun r => r.1 / 64 ≤ f && f ≤ r.2 / 64
  { s with mem := s.mem.filter fun p => !(inside (p.1 / 2 ^ 37) (p.1 % 2 ^ 37 / 64))
           memTag := s.memTag.filter fun p => !(inside (p.1 / 2 ^ 31) (p.1 % 2 ^ 31))
           memBad := s.memBad.filter fun p => !(inside (p.1 / 2 ^ 31) (p.1 % 2 ^ 31)) }

/-- The purge and any fill have ended, and the slot is free (R412 steps 4 to 6). -/
def execRetirementComplete (slot : Nat) (s : State) : Out State :=
  clocked s (if (s.slot slot).st = .retired then
    ((s.purge { sealed := true, session := BitVec.ofNat 12 slot }).fillRanges (s.slot slot).ranges).modSlot slot fun x =>
      { x with st := .free, owner := 0, fill := false, ranges := [] }
  else s)

/-! ## Commands of a constellation's area (R402) -/

def sessCmdAddr (c : Nat) : Nat := 0xF000B00010600 + 0x800 * c

/-- Perform command BIND, UNBIND or RETIRE of constellation c on slot n. -/
def State.slotCmd (s : State) (c n cmd : Nat) (fill : Bool) : State :=
  let st := (s.slot n).st
  if !s.ownsSlot c n then s.sessDone c n 3
  else if cmd = 2 ∧ st = .keyed then (s.modSlot n fun x => { x with st := .bound }).sessDone c n 0
  else if cmd = 3 ∧ st = .bound then (s.modSlot n fun x => { x with st := .keyed }).sessDone c n 0
  else if cmd = 4 ∧ (st = .keyed ∨ st = .bound) then (s.retireSlot n fill).sessDone c n 0
  else s.sessDone c n 1

/-- A write of SESS_CMD by an accessor: refused while a command of c is queued or running; a KEY waits for the
session engine (R402, R407). -/
def State.sessCmd (s : State) (acc : Accessor) (c : Nat) (v : Word) : State :=
  let cmd := field v 0 4
  let n := field v 16 12
  if (s.area c).busy then s.refuseAccessor acc (sessCmdAddr c)
  else if cmd = 1 then
    (s.modArea c fun a => { a with slot := n, busy := true, done := false }).modTrust fun t =>
      { t with keyQ := t.keyQ ++ [(c, n)] }
  else if 2 ≤ cmd ∧ cmd ≤ 4 then s.slotCmd c n cmd (v.getLsbD 28)
  else s

/-- SESS_CMD with a command and slot. -/
def sessWord (cmd n : Nat) (fill : Bool) : Word := BitVec.ofNat 64 (2 ^ 28 * bit fill + 65536 * (n % 4096) + cmd)

/-- A command by the supervisor of a live constellation. -/
def supCmd (c : Nat) (s : State) (k : State → State) : Out State :=
  clocked s (if c < 32 && (s.con c).live then k s else s)

def execKey (c slot : Nat) (s : State) : Out State :=
  supCmd c s fun s => s.sessCmd (.thread (s.supThread c)) c (sessWord 1 slot false)
def execBind (c slot : Nat) (s : State) : Out State :=
  supCmd c s fun s => s.sessCmd (.thread (s.supThread c)) c (sessWord 2 slot false)
def execUnbind (c slot : Nat) (s : State) : Out State :=
  supCmd c s fun s => s.sessCmd (.thread (s.supThread c)) c (sessWord 3 slot false)
def execRetire (c slot : Nat) (fill : Bool) (s : State) : Out State :=
  supCmd c s fun s => s.sessCmd (.thread (s.supThread c)) c (sessWord 4 slot fill)

/-! ## Keying (R405-R410) -/

/-- The session public key of the pair in use, by byte (R408). -/
def State.skey (s : State) : List Byte := (List.range 1184).map fun i =>
  Config.sessionPub s.trust.skeyNo (Fin.ofNat 1184 i)

/-- Bytes of a number of w bits, little-endian. -/
def bvBytes {w : Nat} (v : BitVec w) (n : Nat) : List Byte := natBytes n v.toNat

/-- The 90 info bytes of R409: ASCII "ouvte session v1" and what identifies the session. -/
def State.keyInfo (s : State) (c n : Nat) : List Byte :=
  [0x6F, 0x75, 0x76, 0x74, 0x65, 0x20, 0x73, 0x65, 0x73, 0x73, 0x69, 0x6F, 0x6E, 0x20, 0x76, 0x31] ++
    natBytes 1 c ++ natBytes 1 0 ++ natBytes 2 n ++ bvBytes (s.slot n).gen 4 ++ natBytes 2 s.chart.pkg.fleetId ++
    bvBytes (s.con c).cmeas 32 ++ bvBytes s.trust.skeyHash 32

/-- CT of constellation c. -/
def State.ciphertext (s : State) (c : Nat) : List Byte := readBytes (s.area c).ct 0 1088

/-- The next constellation with a waiting KEY, round robin after the last one served (R407). -/
def Trust.nextKeyCon (t : Trust) : Option (Nat × Nat) :=
  ((List.range 32).map fun i => (t.lastKey + 1 + i) % 32).findSome? fun c => t.keyQ.find? fun k => k.1 == c

/-- Code with which R407 turns a KEY away; 0 if it is accepted. -/
def State.keyCode (s : State) (c n : Nat) : Nat :=
  if (s.slot n).held then 1
  else if (s.con c).cfg.quota ≤ s.heldSlots c then 2
  else if !(s.con c).cfg.sealedCapable then 4
  else if !s.trust.skeyValid then 5
  else 0

/-- Start the keying of slot n for constellation c (R404, R406, R409). -/
def State.keyBegin (s : State) (c n : Nat) : State :=
  let out := Config.hkdf (Config.decapsulate s.trust.skeyNo (s.ciphertext c)) (Config.sha256 (s.ciphertext c)) (s.keyInfo c n)
  (s.modSlot n fun x => { x with pos := 0 }).modTrust fun t => { t with
    keyRun := some { cid := c, slot := n, pair := out.setWidth 512, confirm := out.extractLsb' 512 256
                     waiting := (List.range s.member.stks).map fun k => (k, 1)
                     sentAt := (List.range s.member.stks).foldl (fun m k => Map.set 0 m k s.fab) [] } }

/-- The session engine takes the next KEY (R407). -/
def State.keyStart (s : State) : State :=
  if s.trust.keyRun.isSome then s
  else
    match s.trust.nextKeyCon with
    | none => s
    | some (c, n) =>
      let s := s.modTrust fun t => { t with keyQ := t.keyQ.filter fun k => k.1 != c, lastKey := c }
      let code := s.keyCode c n
      if code = 0 then s.keyBegin c n else s.sessDone c n code

def execKeyStart (s : State) : Out State := clocked s s.keyStart

/-- Generate a session key pair (R408); a part without identity generates none (R417). -/
def State.newPair (s : State) : State :=
  if !s.trust.idReady then s
  else
    let s := s.modTrust fun t => { t with skeyNo := t.skeyNo + 1, skeyId := t.skeyId + 1, skeyValid := true }
    s.modTrust fun t => { t with skeyHash := Config.sha256 s.skey }

/-- ROTATE waits for a running KEY (R408). -/
def State.rotate (s : State) : State :=
  if s.trust.keyRun.isSome then s.modTrust fun t => { t with rotatePending := true } else s.newPair

def execRotate (s : State) : Out State := s.keeperDoes s.rotate

/-- The running KEY ends. -/
def State.keyEnd (s : State) : State :=
  let s := s.modTrust fun t => { t with keyRun := none }
  if s.trust.rotatePending then (s.modTrust fun t => { t with rotatePending := false }).newPair else s

/-- The hash that a stack computes over the replicated message (R406). -/
def State.keyHash (s : State) (r : KeyRun) : BitVec 256 :=
  Config.sha256 (natBytes 2 r.slot ++ bvBytes (s.slot r.slot).gen 4 ++ bvBytes r.pair 64)

/-- A stack that answered wrongly or not at all: the key is sent again, up to three times (R406). -/
def State.keyRetry (s : State) (k : Nat) : State :=
  match s.trust.keyRun with
  | none => s
  | some r =>
    let n := Map.get 0 r.waiting k
    if n = 0 then s
    else if n < 4 then s.modTrust fun t => { t with keyRun := some { r with
      waiting := Map.set 0 r.waiting k (n + 1), sentAt := Map.set 0 r.sentAt k s.fab } }
    else
      let s := s.modSlot r.slot fun x => { x with key := 0, pair := 0 }
      ((s.sessDone r.cid r.slot 6).report 11 [] (nodeStack k) false 0).keyEnd

def execKeyReplicationAnswer (stk : Nat) (hash : BitVec 256) (s : State) : Out State :=
  onStack stk s fun s =>
    match s.trust.keyRun with
    | none => s
    | some r =>
      if hash = s.keyHash r then
        s.modTrust fun t => { t with keyRun := some { r with waiting := Map.set 0 r.waiting stk 0 } }
      else s.keyRetry stk

/-- Fabric cycles in which a stack answers a replicated key: 2 µs (R406). -/
def replyCycles : Nat := 4400

/-- A stack has not answered within 2 µs of the last send (R406). -/
def execReplicationTimeout (stk : Nat) (s : State) : Out State :=
  onStack stk s fun s =>
    match s.trust.keyRun with
    | none => s
    | some r => if Map.get 0 r.sentAt stk + replyCycles ≤ s.fab then s.keyRetry stk else s

/-- Every stack holds the key (R402, R409). -/
def execKeyComplete (s : State) : Out State :=
  clocked s (match s.trust.keyRun with
    | none => s
    | some r =>
      if r.waiting ≠ [] then s
      else
        let s := s.modSlot r.slot fun x => { x with st := .keyed, owner := r.cid, key := s.trust.nextKey, pair := r.pair }
        let s := s.modTrust fun t => { t with nextKey := t.nextKey + 1 }
        let s := s.modArea r.cid fun a => { a with confirm := r.confirm, gen := (s.slot r.slot).gen }
        (s.sessDone r.cid r.slot 0).keyEnd)

/-- A commit, RESET or RELEASE of c zeroes its area, and its waiting or running KEY with it (ch. 17). -/
def State.clearArea (s : State) (c : Nat) : State :=
  let mine := match s.trust.keyRun with
    | some r => r.cid == c
    | none => false
  let s := s.modTrust fun t => { t with areas := Map.drop t.areas c, keyQ := t.keyQ.filter fun k => k.1 != c }
  if mine then s.keyEnd else s

/-! ## Identity (R416-R418) -/

def idCmdAddr : Nat := 0xF000C00000000

/-- The helper record as it stands in ID_HELPER. -/
def Trust.helperBytes (t : Trust) : List Byte := readBytes t.helper 0 4128

/-- ID_CMD: the first command since the cold reset; any later write is refused (R417). -/
def State.idCmd (s : State) (acc : Accessor) (v : Word) : State :=
  if s.trust.idUsed then s.refuseAccessor acc idCmdAddr
  else if v.getLsbD 0 || v.getLsbD 1 then
    s.modTrust fun t => { t with idUsed := true, idPending := true, idEnrol := v.getLsbD 1 && !v.getLsbD 0 }
  else s

def execRecon (s : State) : Out State := s.keeperDoes (s.idCmd .keeper 1)
def execEnrol (s : State) : Out State := s.keeperDoes (s.idCmd .keeper 2)

/-- The identity is derived from a seed, and with it the first session key pair (R408, R418). -/
def State.identify (s : State) (seed : BitVec 256) : State :=
  (s.modTrust fun t => { t with idReady := true, idPub := Config.identityPub seed }).newPair

/-- The identity command ends (R417, R418). -/
def execIdentityReady (s : State) : Out State :=
  clocked s (if !s.trust.idPending then s
  else
    let s := s.modTrust fun t => { t with idPending := false }
    if s.trust.idEnrol then
      let n := s.freeCtr
      let s := { s with freeCtr := n + 1 }
      (s.modTrust fun t => { t with
        enrolled := true
        helper := writeBytes [] 0 ((List.range 4128).map fun i => Config.enrolHelper n i) }).identify (Config.enrolSeed n)
    else
      match Config.reconSeed s.trust.helperBytes with
      | none => s.modTrust fun t => { t with idFail := true }
      | some seed => s.identify seed)

/-! ## Quotes (R419, R420) -/

def quoteCmdAddr : Nat := 0xF000D00000000

/-- Number of a member in a record: its compute dies (R34, R420). -/
def Member.code (m : Member) : Nat := m.dies

/-- State code of R53. -/
def CState.code : CState → Nat
  | .dark => 0
  | .committing => 1
  | .held => 2
  | .running => 3
  | .stopping => 4
  | .halted => 5
  | .resetting => 6

/-- The 512-byte body of a quote of constellation c, or of the package (R420). -/
def State.quoteBody (s : State) (c : Nat) (pkg : Bool) (seq : Word) : List Byte :=
  let x := s.con c
  let z {w : Nat} (v : BitVec w) (n : Nat) : List Byte := if pkg then natBytes n 0 else bvBytes v n
  let n0 (v n : Nat) : List Byte := natBytes n (if pkg then 0 else v)
  let flags := bit s.trust.enrolled * 8 +
    if pkg then 0 else bit x.cfg.resume * 4 + bit x.cfg.reference * 2 + bit x.cfg.sealedCapable
  natBytes 4 0x51544E4F ++ natBytes 2 1 ++ natBytes 1 s.member.code ++ natBytes 1 (if pkg then 0xFF else c) ++
    natBytes 2 s.chart.pkg.fleetId ++ n0 x.st.code 1 ++ natBytes 1 flags ++ n0 x.cfg.quota 2 ++ natBytes 2 0 ++
    bvBytes s.now 8 ++ bvBytes seq 8 ++ bvBytes s.trust.quoteNonce 32 ++ bvBytes Config.romMeas 32 ++
    bvBytes s.keeper.fwMeas 32 ++ bvBytes s.keeper.fwVersion 8 ++ natBytes 24 0 ++ bvBytes s.chart.keyHash 32 ++
    bvBytes s.chart.pkgMeas 32 ++ z x.cmeas 32 ++ bvBytes s.trust.skeyHash 32 ++ bvBytes s.trust.skeyId 4 ++
    natBytes 28 0 ++ z (s.area c).report 64 ++ bvBytes s.trust.idPub 32 ++ natBytes 96 0

/-- QUOTE_CMD.GO: refused while a quote is being signed; without an identity there is no quote (R417, R420;
log entry 28, DEDUCED). -/
def State.quoteGo (s : State) (acc : Accessor) (c : Nat) (pkg : Bool) : State :=
  if s.trust.quoteBusy then s.refuseAccessor acc quoteCmdAddr
  else if !s.trust.idReady then s
  else
    let seq := s.trust.quoteSeq + 1
    s.modTrust fun t => { t with quoteBusy := true, quoteSeq := seq, quoteBody := s.quoteBody c pkg seq }

def execQuoteGo (cid : Nat) (pkg : Bool) (s : State) : Out State := s.keeperDoes (s.quoteGo .keeper (cid % 32) pkg)

/-- The quote is signed (R420). -/
def State.quoteSigned (s : State) : State :=
  (s.hwMark .quoteDone).modTrust fun t => { t with
    quoteBusy := false, quoteDone := true
    quoteBuf := t.quoteBody ++ (List.range 17088).map fun i => Config.quoteSig t.idPub t.quoteBody i }

/-! ## Registers of the session block (ch. 17) -/

/-- SLOT[n]. -/
def Slot.word (x : Slot) : Word :=
  let st := match x.st with
    | .free => 0
    | .keyed => 1
    | .bound => 2
    | .retired => 3
  BitVec.ofNat 64 (65536 * x.gen.toNat + 2048 * x.owner + bit x.fill * 4 + st)

/-- SESS_RESULT. -/
def Area.word (a : Area) : Word :=
  BitVec.ofNat 64 (2 ^ 48 * a.slot + 65536 * a.gen.toNat + a.code * 16 + bit a.done * 2 + bit a.busy)

end Sys2Proof.Machine
end

