-- ==== Sys2Proof/Machine/ChartParse.lean ====
section
/-! DEFINITION. The layout of a chart and the checks of its load (R34-R50, R430, R484). Each check of a
section names the byte offset of its field; where a check concerns two fields, log entry 37, DEDUCED says which. -/

namespace Sys2Proof.Machine

open Sys2Proof

/-- `n` bytes from `off`, as a number; bytes beyond the end read zero. -/
def rdAt (bs : List Byte) (off n : Nat) : Nat := leNat ((bs.drop off).take n)

/-- A check: the offset of its field, and whether it passes. -/
abbrev Check := Nat × Bool

/-- The bytes from `lo` to `hi - 1` are zero, each a check of its own. -/
def zeroes (bs : List Byte) (lo hi : Nat) : List Check := (List.range (hi - lo)).map fun i => (lo + i, rdAt bs (lo + i) 1 == 0)

/-- The first failing check. -/
def firstBad (cs : List Check) : Option Nat := (cs.find? fun c => !c.2).map (·.1)

/-- A failure of a load: CODE, SECTION and OFFSET (R484). -/
structure LoadErr where
  code : Nat
  sect : Nat
  off : Nat
  deriving DecidableEq, Repr

/-! ## Header and directory (R34-R36, R50 step 1) -/

/-- Directory entry i: OFFSET, LENGTH. -/
def dirEntry (bs : List Byte) (i : Nat) : Nat × Nat := (rdAt bs (68 + 48 * i) 4, rdAt bs (72 + 48 * i) 4)

/-- End of the last non-empty section before entry i, and at least 8320. -/
def prevEnd (bs : List Byte) (i : Nat) : Nat :=
  (List.range i).foldl (fun e j => let d := dirEntry bs j; if d.2 = 0 then e else max e (d.1 + d.2)) 8320

/-- The checks of directory entry i. -/
def dirChecks (bs : List Byte) (i : Nat) : List Check :=
  let o := 64 + 48 * i
  let d := dirEntry bs i
  [(o, rdAt bs o 1 == i + 1), (o + 1, rdAt bs (o + 1) 3 == 0),
   (o + 4, if d.2 = 0 then d.1 == 0 else d.1 % 64 == 0 && prevEnd bs i ≤ d.1),
   (o + 12, rdAt bs (o + 12) 4 == 0), (o + 16, d.2 != 0 || rdAt bs (o + 16) 32 == 0)]

/-- Step 1, in the order of its table. Padding between sections is not checked: the spec names no code or offset for it
(log entry 108, DESIGN CHOICE). -/
def headerErr (m : Member) (bs : List Byte) : Option LoadErr :=
  let total := rdAt bs 16 4
  let reserved := zeroes bs 7 8 ++ zeroes bs 20 32 ++ zeroes bs 8304 8320
  if rdAt bs 0 4 ≠ 0x74726863 then some ⟨0x01, 0, 0⟩
  else if rdAt bs 4 2 ≠ 1 then some ⟨0x0D, 0, 4⟩
  else if rdAt bs 6 1 ≠ m.dies then some ⟨0x0E, 0, 6⟩
  else if total < 8320 || 1114112 < total || (List.range 8).any (fun i => let d := dirEntry bs i; d.2 != 0 && total < d.1 + d.2) then
    some ⟨0x02, 0, 16⟩
  else
    match firstBad reserved with
    | some o => some ⟨0x06, 0, o⟩
    | none => (firstBad ((List.range 8).flatMap (dirChecks bs))).map fun o => ⟨0x0F, 0, o⟩

/-- The bytes of section i. -/
def sectionBytes (bs : List Byte) (i : Nat) : List Byte := let d := dirEntry bs i; (bs.drop d.1).take d.2

/-! ## STRUCT (R38-R40) -/

/-- Length of the core bytes, padded. -/
def structPad (m : Member) : Nat := (m.cores + 63) / 64 * 64

def sPresent (m : Member) (b : List Byte) (c : Nat) : Bool := rdAt b (structPad m + 64 * c + 1) 1 % 2 == 1 && !b.isEmpty

/-- Constellation of core n, none if it is excluded. -/
def sCore (b : List Byte) (n : Nat) : Option Nat := let v := rdAt b n 1; if b.isEmpty || v == 0xFF then none else some v

/-- Member cores of constellation c. -/
def sMembers (m : Member) (b : List Byte) (c : Nat) : List Nat := (List.range m.cores).filter fun n => sCore b n == some c

/-- The checks of the record of constellation c. -/
def structRecord (m : Member) (b : List Byte) (c : Nat) : List Check :=
  let o := structPad m + 64 * c
  let n (i k : Nat) : Nat := rdAt b (o + i) k
  let p := sPresent m b c
  let mem := sMembers m b c
  [(o, n 0 1 == c), (o + 1, n 1 1 < 8 && (!p || !mem.isEmpty)), (o + 2, !p || mem.contains (n 2 2)), (o + 4, !p || n 4 2 ≤ 4096),
   (o + 6, !p || (n 6 1 ≤ 24 && n 6 1 % 4 == 0)), (o + 7, !p || (1 ≤ n 7 1 && n 7 1 ≤ 16)), (o + 8, !p || n 8 4 ≤ 1000000),
   (o + 12, !p || (1 ≤ n 12 1 && n 12 1 ≤ 64))] ++ zeroes b (o + 13) (o + 32) ++
  (List.range 4).map fun t => (o + 32 + 8 * t, !p || n (32 + 8 * t) 8 < 2 ^ 52)

def structChecks (m : Member) (b : List Byte) : List Check :=
  (List.range m.cores).map (fun n => (n, match sCore b n with
    | none => true
    | some c => c < 32 && sPresent m b c)) ++
  zeroes b m.cores (structPad m) ++ allCons.flatMap (structRecord m b)

/-! ## MEMSET (R41, R42, R430) -/

/-- Interleave-set record k. -/
def memRec (b : List Byte) (k : Nat) : MemSet :=
  let n (i j : Nat) : Nat := rdAt b (32 * k + i) j
  { granule := n 1 1, mask := BitVec.ofNat 24 (n 4 4), baseGib := n 8 4, sizeGib := n 12 4, offGib := n 16 4 }

/-- GiB of a set in each of its stacks. -/
def MemSet.share (m : MemSet) : Nat := m.sizeGib / m.stks.length

/-- Two ranges of GiB overlap. -/
def meets (a n b k : Nat) : Bool := a < b + k && b < a + n

/-- The checks of record k; `trained` says which stacks are trained. -/
def memChecks (m : Member) (trained : Nat → Bool) (b : List Byte) (k : Nat) : List Check :=
  let o := 32 * k
  let x := memRec b k
  let raw := rdAt b (o + 4) 4
  let used := x.sizeGib != 0
  let before := ((List.range k).map (memRec b)).filter fun y => y.sizeGib != 0
  let shared (y : MemSet) : Bool := x.mask &&& y.mask != 0
  [(o, rdAt b o 1 == k), (o + 1, 8 ≤ x.granule && x.granule ≤ 30)] ++ zeroes b (o + 2) (o + 4) ++
  [(o + 4, raw < 2 ^ m.stks && (!used || (raw != 0 && x.stks.all trained))),
   (o + 8, !used || (x.baseGib + x.sizeGib ≤ m.stackGib && before.all fun y => !meets x.baseGib x.sizeGib y.baseGib y.sizeGib)),
   (o + 12, !used || x.sizeGib % x.stks.length == 0),
   (o + 16, !used || (x.offGib + x.share ≤ 128 && before.all fun y => !(shared y && meets x.offGib x.share y.offGib y.share)))] ++
  zeroes b (o + 20) (o + 32)

/-- Reach mask of constellation c. -/
def reachOf (b : List Byte) (c : Nat) : BitVec 64 := BitVec.ofNat 64 (rdAt b (2048 + 8 * c) 8)

/-- The used sets. -/
def memSets (b : List Byte) : List (Nat × MemSet) :=
  if b.isEmpty then [] else ((List.range 64).map fun k => (k, memRec b k)).filter fun p => p.2.sizeGib != 0

/-- The addresses from a to b lie in one set of those admitted. -/
def inSets (sets : List (Nat × MemSet)) (ok : Nat → Bool) (a b : Nat) : Bool :=
  sets.any fun (k, m) => ok k && m.holds a && m.holds b

/-! ## WINDOW (R43) -/

def winBase (b : List Byte) (c : Nat) : Nat := rdAt b (16 * c) 8
def winCount (b : List Byte) (c : Nat) : Nat := rdAt b (16 * c + 8) 2

/-- First entry of constellation c in the section. -/
def winFirst (present : Nat → Bool) (b : List Byte) (c : Nat) : Nat :=
  (((List.range c).filter present).map (winCount b)).sum

/-- The headers of WINDOW. The entries are loaded as they stand: one whose reserved bits are not zero matches no address
(R347; log entry 109, DESIGN CHOICE). -/
def windowChecks (present : Nat → Bool) (sets : List (Nat × MemSet)) (mems : List Byte) (b : List Byte) : List Check :=
  allCons.flatMap fun c =>
    let o := 16 * c
    let a := winBase b c
    let n := winCount b c
    let p := present c
    let before := ((List.range c).filter fun d => present d && winCount b d != 0)
    [(o, !p || (a % 0x8000 == 0 && a < 2 ^ 52 &&
        (n == 0 || (inSets sets (fun k => (reachOf mems c).getLsbD k) a (a + 32 * n - 1) &&
          before.all fun d => !meets a (32 * n) (winBase b d) (32 * winCount b d))))),
     (o + 8, !p || n ≤ 1024)] ++ zeroes b (o + 10) (o + 16)

/-- The window entries of constellation c. -/
def winEntries (present : Nat → Bool) (b : List Byte) (c : Nat) : List (BitVec 256) :=
  (List.range (winCount b c)).map fun i => BitVec.ofNat 256 (rdAt b (512 + 32 * (winFirst present b c + i)) 32)

/-! ## WORLD, BEACON (R44, R45) -/

def worldChecks (present : Nat → Bool) (b : List Byte) : List Check :=
  allCons.flatMap fun c =>
    let o := 16 * c
    let q := rdAt b (o + 2) 2
    let total := (((List.range (c + 1)).filter present).map fun d => rdAt b (16 * d + 2) 2).sum
    ([(o, rdAt b o 1 < 2), (o + 1, rdAt b (o + 1) 1 == 0),
     (o + 2, q ≤ 4096 && (q == 0 || rdAt b o 1 % 2 == 1) && (!present c || total ≤ 4096))] : List Check) ++ zeroes b (o + 4) (o + 8) ++
    ([(o + 8, rdAt b (o + 8) 8 % 4 == 0 && rdAt b (o + 8) 8 < 2 ^ 52)] : List Check)

def barFirst (b : List Byte) (c : Nat) : Nat := rdAt b (4 * c) 2
def barCount (b : List Byte) (c : Nat) : Nat := rdAt b (4 * c + 2) 2

def beaconChecks (m : Member) (present : Nat → Bool) (b : List Byte) : List Check :=
  allCons.map (fun c =>
    let f := barFirst b c
    let n := barCount b c
    (4 * c, f + n ≤ 1024 && (!present c || n == 0 || ((List.range c).filter present).all fun d =>
      barCount b d == 0 || !meets f n (barFirst b d) (barCount b d)))) ++
  (List.range 1024).map fun i => (128 + i, decide (rdAt b (128 + i) 1 < m.dies))

/-! ## PORT (R46, R47) -/

/-- Record of port p: BOND_FIRST, BOND_WIDTH, ENABLE. -/
def portAt (b : List Byte) (p : Nat) : Nat × Nat × Nat :=
  (rdAt b (16 + 4 * p) 1, rdAt b (17 + 4 * p) 1, rdAt b (18 + 4 * p) 1)

/-- The checks of the record of port p: the other ports of its bond agree with its first. -/
def portChecks (m : Member) (b : List Byte) (p : Nat) : List Check :=
  let o := 16 + 4 * p
  let (first, w, en) := portAt b p
  if m.ports ≤ p then zeroes b o (o + 4)
  else
    let wOk := w == 1 || w == 2 || (w == 4 && m == .nv8)
    let lead := portAt b first
    let inside := (List.range p).all fun q => let r := portAt b q; !(r.1 ≤ p && p < r.1 + r.2.1) || r.1 == first
    [(o, (!wOk || first == p - p % w) && inside), (o + 1, wOk && (p ≤ first || lead.2.1 == w)),
     (o + 2, en ≤ 1 && (p ≤ first || lead.2.2 == en)), (o + 3, rdAt b (o + 3) 1 == 0)]

def portSection (m : Member) (sets : List (Nat × MemSet)) (b : List Byte) : List Check :=
  let base := rdAt b 4 4
  let size := rdAt b 8 4
  let up := rdAt b 3 1
  [(0, decide (rdAt b 0 2 ≤ 4095)), (2, decide (rdAt b 2 1 < 2)), (3, up == 0xFF || up < m.ports),
   (4, size == 0 || inSets sets (fun _ => true) (2 ^ 30 * base) (2 ^ 30 * (base + size) - 1)), (8, size ≤ 256)] ++
  zeroes b 12 16 ++ (List.range 16).flatMap (portChecks m b)

/-! ## CLOCK, FUNC (R48, R49) -/

def clockChecks (b : List Byte) : List Check :=
  [(0, decide (rdAt b 0 1 ≤ 2))] ++ zeroes b 1 4 ++ zeroes b 8 16

def funcChecks (present : Nat → Bool) (b : List Byte) : List Check :=
  (List.range 32).flatMap fun f =>
    let o := 4 * f
    let c := rdAt b o 1
    let v := rdAt b (o + 2) 2
    [(o, c == 0xFF || (f != 0 && c < 32 && present c)), (o + 1, rdAt b (o + 1) 1 == 0), (o + 2, v ≤ 2048 && (c != 0xFF || v == 0))]

/-! ## The load (R50) -/

/-- The sections of a chart, in directory order. -/
structure Sections where
  st : List Byte
  mem : List Byte
  win : List Byte
  world : List Byte
  beacon : List Byte
  port : List Byte
  clock : List Byte
  func : List Byte

def sectionsOf (bs : List Byte) : Sections :=
  { st := sectionBytes bs 0, mem := sectionBytes bs 1, win := sectionBytes bs 2, world := sectionBytes bs 3
    beacon := sectionBytes bs 4, port := sectionBytes bs 5, clock := sectionBytes bs 6, func := sectionBytes bs 7 }

/-- The exact length of each section (R37). -/
def Sections.lengths (x : Sections) (m : Member) : List Nat :=
  let entries := if x.win.length < 512 then 0 else (((List.range 32).filter (sPresent m x.st)).map (winCount x.win)).sum
  [structPad m + 2048, 2304, 512 + 32 * entries, 512, 1152, 656, 16, 128]

/-- The field checks of each section. -/
def Sections.checks (x : Sections) (m : Member) (trained : Nat → Bool) : List (List Check) :=
  let p := sPresent m x.st
  let sets := memSets x.mem
  [structChecks m x.st, (List.range 64).flatMap (memChecks m trained x.mem), windowChecks p sets x.mem x.win, worldChecks p x.world,
   beaconChecks m p x.beacon, portSection m sets x.port, clockChecks x.clock, funcChecks p x.func]

def Sections.list (x : Sections) : List (List Byte) := [x.st, x.mem, x.win, x.world, x.beacon, x.port, x.clock, x.func]

/-- Steps 4 and 5: digests, then lengths and fields section by section. -/
def Sections.err (x : Sections) (m : Member) (trained : Nat → Bool) (bs : List Byte) : Option LoadErr :=
  let digest (i : Nat) : Option LoadErr :=
    let b := x.list.getD i []
    if b.isEmpty || bvBytes (Config.sha256 b) 32 == ((bs.drop (80 + 48 * i)).take 32) then none else some ⟨0x05, i + 1, 0⟩
  let field (i : Nat) : Option LoadErr :=
    let b := x.list.getD i []
    if b.isEmpty then none
    else if b.length ≠ (x.lengths m).getD i 0 then some ⟨0x02, i + 1, 0⟩
    else (firstBad ((x.checks m trained).getD i [])).map fun o => ⟨0x06, i + 1, o⟩
  ((List.range 8).findSome? digest).or ((List.range 8).findSome? field)

/-- The configuration that the chart gives constellation c. -/
def Sections.cons (x : Sections) (m : Member) (c : Nat) : Option ConsCfg :=
  if !sPresent m x.st c then none
  else
    let o := structPad m + 64 * c
    let n (i k : Nat) : Nat := rdAt x.st (o + i) k
    let p := sPresent m x.st
    some {
      cores := sMembers m x.st c, resume := (n 1 1).testBit 1, reference := (n 1 1).testBit 2, supervisor := n 2 2
      niLimit := n 4 2, commonMib := n 6 1, injOcc := n 7 1, fogUs := if n 8 4 = 0 then 1000 else n 8 4, deflLimit := n 12 1
      starts := (List.range 4).map fun t => n (32 + 8 * t) 8, reach := reachOf x.mem c, tableBase := winBase x.win c
      entries := winEntries p x.win c, sealedCapable := rdAt x.world (16 * c) 1 % 2 == 1, quota := rdAt x.world (16 * c + 2) 2
      sealedEntry := rdAt x.world (16 * c + 8) 8, barFirst := barFirst x.beacon c, barCount := barCount x.beacon c
      portMask := BitVec.ofNat 16 (rdAt x.port (80 + 2 * c) 2)
      funcs := if x.func.isEmpty then [] else ((List.range 32).filter fun f => rdAt x.func (4 * f) 1 == c).map fun f => (f, rdAt x.func (4 * f + 2) 2) }

/-- The package-scope fields. -/
def Sections.pkg (x : Sections) (m : Member) : PkgCfg :=
  { sets := memSets x.mem
    homes := (List.range 1024).foldl (fun h i => Map.set 0 h i (rdAt x.beacon (128 + i) 1)) []
    fleetId := rdAt x.port 0 2, timeMaster := rdAt x.port 2 1 % 2 == 1
    upstream := if x.port.isEmpty then 0xFF else rdAt x.port 3 1
    exportBase := rdAt x.port 4 4, exportSize := rdAt x.port 8 4
    ports := (List.range m.ports).foldl (fun h p =>
      let r := portAt x.port p
      Map.set {} h p { bondFirst := r.1, bondWidth := r.2.1, enable := r.2.2 == 1 }) []
    admits := BitVec.ofNat 4096 (rdAt x.port 144 512), policy := rdAt x.clock 0 1, powerCap := rdAt x.clock 4 4 }

/-- Check a chart of TOTAL_LENGTH bytes and read it (R50). `keyHash` is CHART_KEY_HASH. -/
def readChart (m : Member) (trained : Nat → Bool) (keyHash : BitVec 256) (bs : List Byte) : LoadErr ⊕ Chart :=
  let key := (bs.drop 32).take 32
  let hash := Config.sha256 key
  match headerErr m bs with
  | some e => .inl e
  | none =>
    if !Config.slh128Verify key (bs.take 448) ((bs.drop 448).take 7856) then .inl ⟨0x03, 0, 448⟩
    else if keyHash ≠ 0 ∧ keyHash ≠ hash then .inl ⟨0x04, 0, 32⟩
    else
      let x := sectionsOf bs
      match x.err m trained bs with
      | some e => .inl e
      | none => .inr {
          pkg := x.pkg m, meas := Config.sha256 (bs.take 448), keyHash := hash
          cons := allCons.foldl (fun h c => Map.set none h c (x.cons m c)) [] }

end Sys2Proof.Machine
end

