-- ==== Sys2Proof/Machine/Formats.lean ====
section
/-! DEFINITION. Number formats and their arithmetic (R198-R234): exact values, one rounding, the two
rounding modes and the draws of stochastic rounding, conversion into a format, comparison, block
scales, quantisation, and the fixed functions of R240. -/

namespace Sys2Proof.Machine

open Sys2Proof

/-! ## Layouts (R198-R201, R231, R232) -/

/-- What the special codes of a format are. -/
inductive FKind where
  /-- One NaN, no infinity, no negative zero (R200). -/
  | narrow
  /-- Infinities, NaNs and signed zeros (R201). -/
  | wide
  /-- Signed zeros and no other special code (AS8, R231). -/
  | plain
  deriving DecidableEq, Repr

/-- A floating-point layout: exponent bits, fraction bits, bias (R198). -/
structure Fmt where
  e : Nat
  p : Nat
  bias : Int
  kind : FKind
  deriving DecidableEq, Repr

def nf4 : Fmt := ⟨2, 1, 1, .narrow⟩
def nf6 : Fmt := ⟨3, 2, 3, .narrow⟩
def nf8 : Fmt := ⟨4, 3, 7, .narrow⟩
def nw8 : Fmt := ⟨5, 2, 15, .narrow⟩
def nf16 : Fmt := ⟨6, 9, 31, .wide⟩
def nf32 : Fmt := ⟨9, 22, 255, .wide⟩
def nk40 : Fmt := ⟨10, 29, 511, .wide⟩
def as8 : Fmt := ⟨3, 4, 3, .plain⟩
def as16 : Fmt := ⟨7, 8, 63, .wide⟩
/-- The A-series accumulator value: 22 significant bits, exponents -126 to 127 (R232). -/
def asAcc : Fmt := ⟨8, 21, 127, .wide⟩

/-- The value of a code: (-1)^neg × n × 2^e, an infinity or NaN. -/
inductive Val where
  | nan
  | inf (neg : Bool)
  | fin (neg : Bool) (n : Nat) (e : Int)
  deriving DecidableEq, Repr

def Val.zero : Val := .fin false 0 0
def Val.one : Val := .fin false 1 0

/-- Value of a code (R198-R201, R231). -/
def Fmt.decode (f : Fmt) (code : Nat) : Val :=
  let s := code / 2 ^ (f.e + f.p) % 2 == 1
  let x := code / 2 ^ f.p % 2 ^ f.e
  let m := code % 2 ^ f.p
  if f.kind = .narrow ∧ s ∧ x = 0 ∧ m = 0 then .nan
  else if f.kind = .wide ∧ x = 2 ^ f.e - 1 then (if m = 0 then .inf s else .nan)
  else if x = 0 then .fin s m (1 - f.bias - f.p)
  else .fin s (2 ^ f.p + m) (x - f.bias - f.p)

/-- Magnitude code of the largest finite value. -/
def Fmt.maxCode (f : Fmt) : Nat :=
  match f.kind with
  | .wide => (2 ^ f.e - 1) * 2 ^ f.p - 1
  | _ => 2 ^ (f.e + f.p) - 1

/-! ## Rounding (R212, R213, R232) -/

/-- Rounding modes; `stoch u` is stochastic rounding with draw u. -/
inductive Rnd where
  | even
  | stoch (u : Nat)
  | away
  deriving DecidableEq, Repr

/-- k + r / 2^d rounded to an integer, for r below 2^d (R212). -/
def Rnd.apply (md : Rnd) (k r d : Nat) : Nat :=
  if r = 0 then k
  else
    match md with
    | .even => if 2 * r > 2 ^ d ∨ (2 * r = 2 ^ d ∧ k % 2 = 1) then k + 1 else k
    | .stoch u => if r * 2 ^ 32 > u * 2 ^ d then k + 1 else k
    | .away => if 2 * r ≥ 2 ^ d then k + 1 else k

/-- Magnitude code of n × 2^e rounded into a format whose exponent range is unbounded above. -/
def Fmt.roundMag (f : Fmt) (md : Rnd) (n : Nat) (e : Int) : Nat :=
  if n = 0 then 0
  else
    let q : Int := max (Nat.log2 n + e - f.p) (1 - f.bias - f.p)
    let k := if q ≤ e then n <<< (e - q).toNat
      else
        let d := (q - e).toNat
        md.apply (n >>> d) (n % 2 ^ d) d
    (q + f.p + f.bias - 1).toNat * 2 ^ f.p + k

/-- Compare n × 2^e with m × 2^d: the two numbers over a common exponent. -/
def alignNat (n : Nat) (e : Int) (m : Nat) (d : Int) : Nat × Nat :=
  let b := min e d
  (n <<< (e - b).toNat, m <<< (d - b).toNat)

def magLt (n : Nat) (e : Int) (m : Nat) (d : Int) : Bool := let r := alignNat n e m d; r.1 < r.2
def magLe (n : Nat) (e : Int) (m : Nat) (d : Int) : Bool := let r := alignNat n e m d; r.1 ≤ r.2

/-- The code of a sign and a magnitude code. -/
def Fmt.withSign (f : Fmt) (neg : Bool) (mag : Nat) : Nat := bit neg * 2 ^ (f.e + f.p) + mag

/-- The NaN that a format is given (R200, R201). -/
def Fmt.nan (f : Fmt) : Nat :=
  match f.kind with
  | .wide => (2 ^ f.e - 1) * 2 ^ f.p + 2 ^ (f.p - 1)
  | _ => 2 ^ (f.e + f.p)

/-- Conversion into a format (R217-R222). -/
def Fmt.encode (f : Fmt) (md : Rnd) (v : Val) : Nat :=
  match f.kind, v with
  | _, .nan => f.nan
  | .wide, .inf s => f.withSign s ((2 ^ f.e - 1) * 2 ^ f.p)
  | _, .inf s => f.withSign s f.maxCode
  | .wide, .fin s n e =>
    let c := f.roundMag md n e
    f.withSign s (if f.maxCode < c then (2 ^ f.e - 1) * 2 ^ f.p else c)
  | _, .fin s n e =>
    match f.decode f.maxCode with
    | .fin _ m d =>
      if magLe m d n e then f.withSign s f.maxCode
      else
        let c := f.roundMag md n e
        if c = 0 then 0 else f.withSign s c
    | _ => 0

/-- Draw i of a stream (R213). -/
def draw32 (seed i : Word) : Nat :=
  let x := seed ^^^ (i * 0xD1B54A32D192ED03)
  let x := (x ^^^ (x >>> 31)) * 0x7FB5D329728EA185
  let x := (x ^^^ (x >>> 27)) * 0x81DADEF4BC2DD44D
  let x := x ^^^ (x >>> 33)
  (x >>> 32).toNat

/-! ## Exact arithmetic (R209, R210, R239) -/

def Val.neg : Val → Val
  | .nan => .nan
  | .inf s => .inf (!s)
  | .fin s n e => .fin (!s) n e

/-- Signed integer of a sign and a magnitude. -/
def signed (s : Bool) (n : Nat) : Int := if s then -(n : Int) else n

/-- Exact product; NaN where ∞ meets zero. The sign of a zero is the product of the signs. -/
def Val.mul : Val → Val → Val
  | .nan, _ | _, .nan => .nan
  | .inf s, .inf t => .inf (s != t)
  | .inf s, .fin t n _ => if n = 0 then .nan else .inf (s != t)
  | .fin s n _, .inf t => if n = 0 then .nan else .inf (s != t)
  | .fin s n e, .fin t m d => .fin (s != t) (n * m) (e + d)

/-- Exact sum; NaN where infinities of opposite sign meet. An exact zero is +0. -/
def Val.add : Val → Val → Val
  | .nan, _ | _, .nan => .nan
  | .inf s, .inf t => if s = t then .inf s else .nan
  | .inf s, .fin .. => .inf s
  | .fin .., .inf t => .inf t
  | .fin s n e, .fin t m d =>
    let r := alignNat n e m d
    let z := signed s r.1 + signed t r.2
    .fin (z < 0) z.natAbs (min e d)

/-- x × 2^k. -/
def Val.scale (v : Val) (k : Int) : Val :=
  match v with
  | .fin s n e => .fin s n (e + k)
  | v => v

def Val.isNan : Val → Bool
  | .nan => true
  | _ => false

/-- A finite zero. -/
def Val.isZero : Val → Bool
  | .fin _ n _ => n == 0
  | _ => false

/-- A zero given the sign that the spec leaves open; every other value as it is (log entry 17, DESIGN CHOICE). -/
def Val.openZero (v : Val) (a b c : Nat) : Val := if v.isZero then .fin (Config.zeroSign a b c) 0 0 else v

/-! ## Comparison, MAX and MIN (R227, R228) -/

/-- a < b. -/
def Val.lt : Val → Val → Bool
  | .nan, _ | _, .nan => false
  | .inf s, .inf t => s && !t
  | .inf s, .fin .. => s
  | .fin .., .inf t => !t
  | .fin s n e, .fin t m d => let r := alignNat n e m d; signed s r.1 < signed t r.2

/-- a = b by value. -/
def Val.eqv (a b : Val) : Bool := !a.isNan && !b.isNan && !a.lt b && !b.lt a

/-- Zero of positive sign. -/
def Val.isNeg : Val → Bool
  | .nan => false
  | .inf s => s
  | .fin s _ _ => s

def Val.max (a b : Val) : Val :=
  if a.isNan then b else if b.isNan then a
  else if a.lt b then b else if b.lt a then a else if a.isNeg then b else a

def Val.min (a b : Val) : Val :=
  if a.isNan then b else if b.isNan then a
  else if a.lt b then a else if b.lt a then b else if a.isNeg then a else b

/-! ## Formats by code (R177, R199) -/

/-- The format of an operand code of R177; integer weight codes are not floating-point. -/
def fmtOf : Nat → Fmt
  | 0 => nf4
  | 1 => nf6
  | 2 => nf8
  | 3 => nw8
  | 4 => nf16
  | 5 => nf32
  | 0xC => as8
  | _ => as16

/-- Bits of an element in a tile (R177). -/
def fmtBits : Nat → Nat
  | 0 | 7 => 4
  | 1 | 2 | 3 | 8 | 0xC => 8
  | 4 | 0xD => 16
  | _ => 32

/-- The code held in an element of a format; NF6 ignores bits [7:6] (R177). -/
def codeOf (fmt raw : Nat) : Nat := if fmt = 1 then raw % 64 else raw

/-- Value of a BS8 byte: the exponent, none for NaN (R206). -/
def bs8 (b : Nat) : Option Int := if b = 0x80 then none else some (if b < 128 then b else (b : Int) - 256)

/-- A value under a block scale. -/
def Val.scaled (v : Val) (b : Nat) : Val :=
  match bs8 b with
  | none => .nan
  | some e => v.scale e

/-! ## Block scales (R225, R226) -/

/-- BS8 byte for a largest magnitude n × 2^e and a target of code tgt (0 to 3). -/
def scaleByte (tgt : Nat) (v : Val) : Nat :=
  match v, (fmtOf tgt).decode (fmtOf tgt).maxCode with
  | .inf _, _ => 127
  | .fin _ n e, .fin _ m d =>
    if n = 0 then 0x81
    else
      match (List.range 255).find? fun (i : Nat) => magLe n (e - ((i : Int) - 127)) m d with
      | some i => (i + 129) % 256
      | none => 127
  | _, _ => 0x81

/-! ## Quantisation (R229) -/

/-- n × 2^e rounded to an integer. -/
def roundInt (md : Rnd) (n : Nat) (e : Int) : Nat :=
  if 0 ≤ e then n <<< e.toNat
  else
    let d := (-e).toNat
    md.apply (n >>> d) (n % 2 ^ d) d

/-- A value times 2^k, rounded to an integer and clamped to lo … hi; NaN gives 0 (R229). -/
def Val.toIntIn (v : Val) (md : Rnd) (k lo hi : Int) : Int :=
  match v with
  | .nan => 0
  | .inf s => if s then lo else hi
  | .fin s n e =>
    let big := 128 < Nat.log2 n + (e + k)
    if n = 0 then 0
    else if big then (if s then lo else hi)
    else
      let z := signed s (roundInt md n (e + k))
      if z < lo then lo else if hi < z then hi else z

/-- An integer as a value. -/
def Val.ofInt (z : Int) : Val := .fin (z < 0) z.natAbs 0

/-! ## The fixed functions of R240 -/

/-- Integer square root, one bit at a time from bit b down. -/
def isqrtFrom (n : Nat) : Nat → Nat → Nat
  | 0, r => r
  | b + 1, r =>
    let r' := r + 2 ^ b
    isqrtFrom n b (if r' * r' ≤ n then r' else r)

/-- 2^f for a fraction f of 96 bits, in units of 2^-96: the product of the square roots of 2 that the
bits of f name, from bit i down; `c` is the root for bit i. -/
def exp2Frac (f : Nat) : Nat → Nat → Nat → Nat
  | 0, _, acc => acc
  | i + 1, c, acc =>
    let acc := if f.testBit i then acc * c / 2 ^ 96 else acc
    exp2Frac f i (isqrtFrom (c * 2 ^ 96) 98 0) acc

/-- 2^x to 96 fraction bits, or for x below any exponent a magnitude below any code: exact for an integer x, and otherwise nearer than any rounding of R240 can
tell apart (log entry 18, DESIGN CHOICE). -/
def exp2Val (v : Val) : Val :=
  match v with
  | .nan => .nan
  | .inf s => if s then .zero else .inf false
  | .fin s n e =>
    if n = 0 then .one
    else if 20 < Nat.log2 n + e then (if s then .fin false 1 (-400) else .inf false)
    else
      let m : Nat := if 0 ≤ e + 96 then n <<< (e + 96).toNat else n >>> (-(e + 96)).toNat
      let z : Int := signed s m
      let i : Int := z / 2 ^ 96
      let f : Nat := (z % 2 ^ 96).toNat
      .fin false (if f = 0 then 2 ^ 96 else exp2Frac f 96 (isqrtFrom (2 * 2 ^ 192) 98 0) (2 ^ 96)) (i - 96)

/-- 1/x to more bits than any format holds, with a last bit that says whether it is inexact. -/
def rcpVal (v : Val) : Val :=
  match v with
  | .nan => .nan
  | .inf s => .fin s 0 0
  | .fin s n e =>
    if n = 0 then .inf s
    else
      let k := Nat.log2 n + 96
      .fin s (2 * (2 ^ k / n) + bit (2 ^ k % n != 0)) (-e - k - 1)

/-- The NF32 code that a fixed function gives for exact value v, near the rounded code: the choice if it
lies within `ulps` units in the last place of v, and the rounded code otherwise (R240). -/
def pickNear (v : Val) (ulps pick : Nat) : Nat :=
  let c := nf32.encode .even v
  match v with
  | .fin s n e =>
    let mag := c % 2 ^ 31
    let cand := mag + pick % 9 - 4
    let ulp : Int := max ((Nat.log2 n : Int) + e - 22) (-276)
    match nf32.decode cand with
    | .fin _ m d =>
      let b := min e d
      let diff := (((n <<< (e - b).toNat : Nat) : Int) - (m <<< (d - b).toNat : Nat)).natAbs
      if mag ≤ nf32.maxCode ∧ cand ≤ nf32.maxCode ∧ magLe diff b ulps ulp then nf32.withSign s cand else c
    | _ => c
  | _ => c

/-- VEXP on a code of NF16 or NF32. -/
def vexpCode (wide32 : Bool) (v : Val) (pick : Nat) : Nat :=
  if wide32 then
    match v with
    | .fin _ n _ => if n = 0 then nf32.encode .even .one else pickNear (exp2Val v) 2 pick
    | _ => nf32.encode .even (exp2Val v)
  else nf16.encode .even (exp2Val v)

/-- VRCP on a code of NF16 or NF32. -/
def vrcpCode (wide32 : Bool) (v : Val) (pick : Nat) : Nat :=
  if wide32 then
    match v with
    | .fin _ n _ => if n = 0 then nf32.encode .even (rcpVal v) else pickNear (rcpVal v) 1 pick
    | _ => nf32.encode .even (rcpVal v)
  else nf16.encode .even (rcpVal v)

end Sys2Proof.Machine
end

