-- ==== Sys2Proof/Machine/Tally.lean ====
section
/-! DEFINITION. The tally engines (R390-R398): jobs, descriptors, the ring schedule, quantisation and
output, ONEBIT, and the ends of a job. Every memory access of a job is performed in the event that makes
it (log entry 9, DESIGN CHOICE). -/

namespace Sys2Proof.Machine

open Sys2Proof

/-! ## Memory accesses of a job (R390, R397) -/

/-- Where an access of the tally engine to a line goes, through constellation c's window table. -/
def State.tallyTo (s : State) (c a : Nat) (write : Bool) : EngTo :=
  if !s.tableOk c || isCtl a then .refused
  else
    match s.walkFrom c a 0 (s.con c).wtcount.toNat with
    | none => .refused
    | some w =>
      match useEntry w.raw {} { r := !write, w := write } a with
      | .refused | .absent => .refused
      | .ok pa tag _ =>
        match s.homeNode c pa with
        | none => .refused
        | some (node, host) => .line node pa tag host 0

/-- An access of die d's engine for constellation c is refused (R28, R30). -/
def State.tallyRefuse (s : State) (d c kind a : Nat) : State := s.refuseOut (some c) (nodeTally d) 0 kind a

/-- Read the line at an aligned address. -/
def State.tallyRead (s : State) (d c a : Nat) : Line × State :=
  match s.tallyTo c a false with
  | .line node pa tag host _ =>
    if farNode node then (s.farRead host).drawLine
    else
      let h := s.homeGet tag (pa / 64 * 64) [c]
      if h.2.1 then (0, s.tallyRefuse d c 0 a) else (h.1, h.2.2)
  | _ => (0, s.tallyRefuse d c 0 a)

/-- The lines that `n` bytes from address a touch. -/
def linesOf (a n : Nat) : List Nat := if n = 0 then [] else (List.range ((a + n - 1) / 64 - a / 64 + 1)).map (a / 64 + ·)

/-- Read `n` bytes from an address. -/
def State.tallyBytes (s : State) (d c a n : Nat) : List Byte × State :=
  (linesOf a n).foldl (fun r l =>
    let y := r.2.tallyRead d c (64 * l)
    let lo := max a (64 * l) - 64 * l
    let hi := min (a + n) (64 * l + 64) - 64 * l
    (r.1 ++ ((lineBytes y.1).drop lo).take (hi - lo), y.2)) ([], s)

/-- Write bytes `first` to `last` of the line at an aligned address. -/
def State.tallyWrite (s : State) (d c a first last : Nat) (data : Line) : State :=
  match s.tallyTo c (a + first) true with
  | .line node pa tag host _ =>
    if !s.tableFree none pa (pa + last - first) then s.tallyRefuse d c 1 (a + first)
    else
    match host with
    | some (f, h) => s.tlp f (.memWrite f (h / 64 * 64) first last data)
    | none =>
      if farNode node then
        s.setInb node (s.inb node ++ [s.addressed { typ := .wr, line := pa / 64, first, last, tag, data, src := nodeTally d, cid := c } node])
      else s.homePut tag (pa / 64 * 64) first last data [c]
  | _ => s.tallyRefuse d c 1 (a + first)

/-- Write bytes from an address. -/
def State.tallyPut (s : State) (d c a : Nat) (bs : List Byte) : State :=
  (linesOf a bs.length).foldl (fun s l =>
    let lo := max a (64 * l) - 64 * l
    let hi := min (a + bs.length) (64 * l + 64) - 64 * l
    s.tallyWrite d c (64 * l) lo (hi - 1) (lineSet 0 lo (hi - lo) (leNat ((bs.drop (64 * l + lo - a)).take (hi - lo))))) s

/-- Bytes as little-endian numbers of k bytes, `n` of them. -/
def numbers (k n : Nat) (bs : List Byte) : List Nat := (List.range n).map fun i => leNat ((bs.drop (k * i)).take k)

/-- Every constellation that reaches the set of an address has an inbound packet (R313). -/
def State.markInbound (s : State) (pa : Nat) : State :=
  match s.setAt pa with
  | none => s
  | some (k, _) => overAll (allCons.filter fun c => s.reaches c k) (fun s c => s.modCon c fun x => { x with inbound := true }) s

/-- A TALLY line of a job of constellation c counts as an inbound packet to DST (R313, R397). -/
def State.tallyInbound (s : State) (c dst : Nat) : State :=
  let s := s.modCon c fun x => { x with inbound := true }
  match s.tallyTo c dst true with
  | .line _ pa _ none _ => s.markInbound pa
  | _ => s

/-- A write of die d's engine through a remote window has not been acknowledged (R388, R397). -/
def State.tallyOwes (s : State) (d : Nat) : Bool :=
  (List.range s.member.ports).any fun p =>
    (s.inb (nodePort p)).any (fun q => q.src == nodeTally d) || (s.port p).reqs.any fun r => r.pkt.src == nodeTally d

/-! ## Submission (R390) -/

def tallyAddr (d : Nat) : Nat := 0xF000A00000000 + 0x1000 * d

/-- A submission by a thread, with the tag its store carried: refused from the Sealed world and while 8 jobs
wait. -/
def State.tallySubmit (s : State) (t : Tid) (tag : Tag) (d : Nat) (addr : Word) : State :=
  match (s.core (coreOf t)).member with
  | none => s
  | some c =>
    if tag.sealed || 8 ≤ (s.eng d).queue.length then s.refuse t 5 (tallyAddr d)
    else s.modEng d fun e => { e with queue := e.queue ++ [{ addr := field addr 7 45 * 128, cid := c, by_ := t }] }

/-- A command that names a tally engine. -/
def onEngine (die : Nat) (s : State) (k : State → State) : Out State :=
  if s.member.hasTally die && die < s.member.dies then clocked s (k s) else .next s

def execTallySubmit (t : Tid) (die : Nat) (addr : Word) (s : State) : Out State :=
  onEngine die s fun s => s.tallySubmit t (s.thr t).tag die addr

/-! ## Descriptors (R391, R392) -/

/-- The descriptor in 128 bytes. -/
def TDesc.of (bs : List Byte) : TDesc :=
  let n (off k : Nat) : Nat := leNat ((bs.drop off).take k)
  let f (i : Nat) : Bool := (n 1 1).testBit i
  { op := n 0 1, both := f 0, stoch := f 1, mean := f 2, srcHalf := f 3, outInt := f 4, group := n 2 2, rank := n 4 2
    txBond := n 6 1, rxBond := n 7 1, jobTag := BitVec.ofNat 32 (n 8 4), blog := n 12 1, count := n 16 8
    src := n 24 8, dst := n 32 8, maxrec := n 40 8, emem := n 48 8, seed := BitVec.ofNat 64 (n 56 8), timeout := n 64 4
    sigThread := n 68 2, sigFlags := BitVec.ofNat 16 (n 70 2), status := n 72 8 }

/-- The FLAGS byte. -/
def TDesc.flags (d : TDesc) : Nat := bit d.both + 2 * bit d.stoch + 4 * bit d.mean + 8 * bit d.srcHalf + 16 * bit d.outInt

/-- Bytes of a source element. -/
def TDesc.esz (d : TDesc) : Nat := if d.srcHalf then 2 else 4

/-- The die whose edge carries port p (R17). -/
def State.portDie (s : State) (p : Nat) : Nat :=
  let r := s.routerOf (nodePort p) 0
  s.member.dieOf (r.2.1 * s.member.width + r.1)

/-- A bond that a job of constellation c on die d's engine may use (R392). -/
def State.bondUsable (s : State) (d c b : Nat) : Bool :=
  b < s.member.ports && (s.portRec b).enable && (s.portRec b).bondFirst == b && s.portDie b == d &&
    (s.con c).cfg.portMask.getLsbD b && !(s.livePorts b).isEmpty

/-- The status address is one that a record can be written to (log entry 30, DEDUCED). -/
def TDesc.statusOk (d : TDesc) : Bool := d.status % 64 == 0 && d.status < 2 ^ 52

/-- The reserved bytes and bits of a descriptor are zero. -/
def reservedClear (bs : List Byte) : Bool :=
  (((bs.drop 13).take 3) ++ bs.drop 80).all (· == 0) && (bs.getD 1 0).toNat < 32

/-- R392; `bs` are the bytes of the descriptor. -/
def State.descOk (s : State) (die c : Nat) (d : TDesc) (bs : List Byte) : Bool :=
  let a := d.src
  let z := d.dst
  reservedClear bs && 1 ≤ d.op && d.op ≤ 3 && 2 ≤ d.group && d.group ≤ 4096 && d.rank < d.group && 8 ≤ d.blog &&
    d.blog ≤ 24 && d.count ≤ 2 ^ 32 && d.sigThread < 4 * s.member.cores && d.statusOk &&
    a % 64 == 0 && z % 64 == 0 && a < 2 ^ 52 && z < 2 ^ 52 &&
    (d.op == 3 || (d.maxrec % 8 == 0 && d.maxrec < 2 ^ 52)) && (d.op != 3 || (d.emem % 4 == 0 && d.emem < 2 ^ 52)) &&
    s.bondUsable die c d.txBond && s.bondUsable die c d.rxBond && !(d.op == 2 && d.both) && !(d.outInt && d.mean) &&
    (a == z || a + d.count * d.esz ≤ z || z + d.count * 4 ≤ a) && !(a == z && d.srcHalf && !d.outInt)

/-! ## Halves, chunks and lines (R393, R394) -/

/-- The elements of a half: first, number (R393). -/
def TDesc.span (d : TDesc) (half : Bool) : Nat × Nat :=
  let h := min d.count (16 * ((d.count + 31) / 32))
  if !d.both then (0, d.count) else if half then (h, d.count - h) else (0, h)

/-- The blocks that a half touches: first, number. -/
def TDesc.blocks (d : TDesc) (half : Bool) : Nat × Nat :=
  let x := d.span half
  if x.2 = 0 then (0, 0) else (x.1 / 2 ^ d.blog, (x.1 + x.2 - 1) / 2 ^ d.blog - x.1 / 2 ^ d.blog + 1)

/-- Rank on the ring of a half. -/
def TDesc.rankOf (d : TDesc) (half : Bool) : Nat := if half then d.group - 1 - d.rank else d.rank

/-- The bond that a half sends on. -/
def TDesc.sendOn (d : TDesc) (half : Bool) : Nat := if half then d.rxBond else d.txBond

/-- First element and number of elements of chunk k of n elements on a ring of g (R394). -/
def chunkOf (g n k : Nat) : Nat × Nat :=
  let c := 16 * ((n + 16 * g - 1) / (16 * g))
  (min (k * c) n, min ((k + 1) * c) n - min (k * c) n)

/-- Lines of an ONEBIT payload (R396). -/
def TDesc.rawLines (d : TDesc) (half : Bool) : Nat := (((d.span half).2 + 7) / 8 + 4 * (d.blocks half).2 + 63) / 64

/-- Number of elements that a phase combines: maxima in phase 2, elements in phase 3. -/
def TDesc.size (d : TDesc) (half : Bool) (phase : Nat) : Nat := if phase = 2 then (d.blocks half).2 else (d.span half).2

/-- The last step of phase 2 or 3. -/
def TDesc.lastStep (d : TDesc) (phase : Nat) : Nat :=
  if phase = 3 ∧ d.op ≠ 1 then d.group - 2 else 2 * d.group - 3

/-- The phase gathers the ranks' ONEBIT payloads. -/
def TDesc.gathers (d : TDesc) (phase : Nat) : Bool := d.op == 3 && phase == 3

/-- The chunk, or for ONEBIT the rank, that a step receives (R394). -/
def TDesc.recvChunk (d : TDesc) (half : Bool) (phase step : Nat) : Nat :=
  let g := d.group
  let r := d.rankOf half
  if d.gathers phase then (r + 2 * g - step - 1) % g
  else if step < g - 1 then (r + 2 * g - step - 2) % g
  else (r + 2 * g - (step - (g - 1)) - 1) % g

/-- Number of lines that a step receives. -/
def TDesc.recvLines (d : TDesc) (half : Bool) (phase step : Nat) : Nat :=
  if phase = 1 then 1
  else if d.gathers phase then d.rawLines half
  else ((chunkOf d.group (d.size half phase) (d.recvChunk half phase step)).2 + 15) / 16

/-- A TALLY line (R376). -/
def tallyLine (jobTag : BitVec 32) (step index : Nat) (abort : Bool) (data : Line) : MLine :=
  let f := step % 2048 * 2 + bit abort
  { typ := if 2048 ≤ step then 9 else 8, line := (if 2048 ≤ step then index * 4 + step / 2048 else index) % 2 ^ 32
    tag := jobTag.toNat % 2 ^ 14 * 4, first := f % 64, last := f / 64, data }

/-- JOB, STEP, INDEX and ABORT of a TALLY line. -/
def lineJob (l : MLine) : Nat := l.tag / 4
def lineStep (l : MLine) : Nat := (l.last * 64 + l.first) / 2 + (if l.typ = 9 then 2048 * (l.line % 4) else 0)
def lineIndex (l : MLine) : Nat := if l.typ = 9 then l.line / 4 else l.line
def lineAbort (l : MLine) : Bool := l.first % 2 == 1

/-- Queue a line for a bond. -/
def State.tallySend (s : State) (d bond : Nat) (l : MLine) : State :=
  s.modEng d fun e => { e with out := e.out ++ [(bond, l)] }

/-- Elements `start` to `start + n - 1` of a vector, up to 16 of them, as a line. -/
def vecLine (m : Map (BitVec 32)) (start n : Nat) : Line :=
  lineOf ((List.range (min n 16)).flatMap fun i => bvBytes32 (Map.get 0 m (start + i)))
where
  /-- The four bytes of a word. -/
  bvBytes32 (v : BitVec 32) : List Byte := natBytes 4 v.toNat

/-- Line i of what a half sends in a step: a part of a chunk, or of a rank's payload. -/
def THalf.sendData (h : THalf) (d : TDesc) (half : Bool) (k i : Nat) : Line :=
  if d.gathers h.phase then Map.get 0 h.raw (2 ^ 40 * k + i)
  else
    let c := chunkOf d.group (d.size half h.phase) k
    vecLine h.vals (c.1 + 16 * i) (c.2 - 16 * i)

/-! ## Values (R395) -/

/-- n / m × 2^e of a sign, with a last bit that says whether it is inexact. -/
def ratVal (neg : Bool) (n m : Nat) (e : Int) : Val :=
  let k := Nat.log2 m + 64
  .fin neg (2 * ((n <<< k) / m) + bit ((n <<< k) % m != 0)) (e - k - 1)

/-- h of R395: the least h with 2^h at least G. -/
def ringLog (g : Nat) : Nat := if g ≤ 1 then 0 else Nat.log2 (g - 1) + 1

/-- S_b for an agreed maximum; none where R395 states none, for a NaN and a negative maximum. -/
def tallyShift (g : Nat) (m : Val) : Option Int :=
  match m with
  | .fin neg n e =>
    if n = 0 then some 160
    else if neg then none
    else some (min 160 (30 - (ringLog g : Int) - (Nat.log2 n + 1 + e)))
  | _ => none

/-- An infinite maximum. -/
def Val.isInf : Val → Bool
  | .inf _ => true
  | _ => false

/-- The output of a sum (R395). -/
def TDesc.output (d : TDesc) (sum : BitVec 32) (shift : Int) : BitVec 32 :=
  if d.outInt then sum
  else BitVec.ofNat 32 (nf32.encode .even
    (ratVal (sum.toInt < 0) sum.toInt.natAbs (if d.mean then d.group else 1) (-shift)))

/-- Value of a source element. -/
def TDesc.value (d : TDesc) (raw : Nat) : Val := if d.srcHalf then nf16.decode raw else nf32.decode raw

/-- Rounding of element i (R395). -/
def TDesc.rnd (d : TDesc) (i : Nat) : Rnd := if d.stoch then .stoch (draw32 d.seed (BitVec.ofNat 64 i)) else .even

/-- int32 of a value under a shift (R229). -/
def quantise (v : Val) (md : Rnd) (shift : Int) : BitVec 32 :=
  BitVec.ofInt 32 (v.toIntIn md shift (-(2 ^ 31 - 1)) (2 ^ 31 - 1))

/-! ## Ends (R398) -/

/-- Apply a function to one half of a run. -/
def TRun.half (r : TRun) (half : Bool) : THalf := if half then r.half1 else r.half0
def TRun.setHalf (r : TRun) (half : Bool) (h : THalf) : TRun :=
  if half then { r with half1 := h } else { r with half0 := h }

def State.modRun (s : State) (d : Nat) (f : TRun → TRun) : State :=
  s.modEng d fun e => { e with run := e.run.map f }

/-- Abort lines to both neighbours of a job. -/
def State.tallySendAbort (s : State) (d : Nat) (x : TDesc) (step : Nat) : State :=
  overAll [x.txBond, x.rxBond] (fun s b =>
    if (s.livePorts b).isEmpty then s else s.tallySend d b (tallyLine x.jobTag step 0 true 0)) s

/-- The running job of die d ends with a code, which its neighbours learn of unless its descriptor was bad. -/
def State.tallyFail (s : State) (d code : Nat) : State :=
  match (s.eng d).run with
  | none => s
  | some r =>
    if r.ended.isSome then s
    else
      let s := s.modRun d fun r => { r with ended := some code }
      if code = 1 then s else s.tallySendAbort d r.desc r.half0.step

/-- What DST holds after a job that did not end in DONE is not defined (R398): where c may write it, its
lines take free values. -/
def State.tallyScramble (s : State) (c : Nat) (x : TDesc) : State :=
  overAll (linesOf x.dst (4 * min x.count (2 ^ 32))) (fun s l =>
    match s.tallyTo c (64 * l) true with
    | .line node pa tag none _ =>
      let v := s.drawLine
      if farNode node || !s.tableFree none pa (pa + 63) then s else v.2.homePut tag (pa / 64 * 64) 0 63 v.1 [c]
    | _ => s) s

/-- Send the signal of a job of constellation c (R309, R393). -/
def State.tallySignal (s : State) (d c : Nat) (x : TDesc) : State :=
  if x.sigThread < 4 * s.member.cores then
    s.setOutb (nodeTally d) (s.outb (nodeTally d) ++
      [s.addressed { typ := .signal, line := x.sigThread, src := nodeTally d, cid := c
                     data := BitVec.ofNat 512 x.sigFlags.toNat } (x.sigThread / 4)])
  else s

/-- Write the status record of a job (R393, R398). PHASE and STEP are free where R398
does not state them: for a job that did not start, before a first step, and where two halves differ. -/
def State.tallyRecord (s : State) (d : Nat) (job : TJob) (x : TDesc) (code : Nat) (run : Option TRun) : State :=
  let a := s.draw
  let s := a.2
  let free := a.1.toNat
  let phase := match run with
    | some r => if code = 1 ∨ (x.both ∧ r.half0.phase ≠ r.half1.phase) then free % 256 else r.half0.phase
    | none => free % 256
  let step := match run with
    | some r => if code = 1 ∨ r.half0.step = 0 ∨ (x.both ∧ r.half0.step ≠ r.half1.step) then free / 256 % 65536
      else r.half0.step - 1
    | none => free / 256 % 65536
  let start := match run with
    | some r => r.startTime.toNat
    | none => free
  if x.statusOk then
      s.tallyPut d job.cid x.status (natBytes 1 code ++ natBytes 1 phase ++ natBytes 2 step ++ natBytes 4 0 ++
        natBytes 8 start ++ natBytes 8 s.now.toNat ++ natBytes 40 0)
    else s

/-! ## Phases (R393) -/

/-- Bytes of the header line: OP, FLAGS, GROUP, COUNT, BLOG and JOB_TAG (log entry 31, DESIGN CHOICE). -/
def TDesc.header (x : TDesc) : Line :=
  lineOf (natBytes 1 x.op ++ natBytes 1 x.flags ++ natBytes 2 x.group ++ natBytes 8 x.count ++ natBytes 1 x.blog ++
    natBytes 4 x.jobTag.toNat)

/-- Update one half of the running job. -/
def State.modHalf (s : State) (d : Nat) (half : Bool) (f : THalf → THalf) : State :=
  s.modRun d fun r => r.setHalf half (f (r.half half))

/-- Send the lines of step 0 of a phase. -/
def State.tallyFirst (s : State) (d : Nat) (x : TDesc) (half : Bool) (h : THalf) : State :=
  let g := x.group
  let r := x.rankOf half
  let k := if x.gathers h.phase then r else (r + g - 1) % g
  let n := if x.gathers h.phase then x.rawLines half else ((chunkOf g (x.size half h.phase) k).2 + 15) / 16
  overAll (List.range n) (fun s i =>
    s.tallySend d (x.sendOn half) (tallyLine x.jobTag 0 i false (h.sendData x half k i))) s

/-- Source elements of a half. -/
def State.tallySource (s : State) (d c : Nat) (x : TDesc) (half : Bool) : List Nat × State :=
  let p := x.span half
  let r := s.tallyBytes d c (x.src + p.1 * x.esz) (p.2 * x.esz)
  (numbers x.esz p.2 r.1, r.2)

/-- The block of element i of a half, counted from the half's first block. -/
def TDesc.blockAt (x : TDesc) (half : Bool) (i : Nat) : Nat := ((x.span half).1 + i) / 2 ^ x.blog - (x.blocks half).1

/-- A vector of codes. -/
def vecOf (l : List Nat) : Map (BitVec 32) :=
  (l.zipIdx).foldl (fun m p => Map.set 0 m p.2 (BitVec.ofNat 32 p.1)) []

/-- The sum of values, in any order exact. -/
def Val.sum (l : List Val) : Val := l.foldl Val.add .zero

/-- The magnitude of a value. -/
def Val.abs : Val → Val
  | .nan => .nan
  | .inf _ => .inf false
  | .fin _ n e => .fin false n e

/-- ONEBIT's compression of a half (R396): x', m and the signs of each block, and the new error memory. -/
def State.tallyCompress (s : State) (d c : Nat) (x : TDesc) (half : Bool) : THalf × State :=
  let p := x.span half
  let src := s.tallySource d c x half
  let err := src.2.tallyBytes d c (x.emem + 4 * p.1) (4 * p.2)
  let s := err.2
  let clean (v : Val) : Val := if v.isNan then .zero else v
  let xs : List Val := (src.1.zip (numbers 4 p.2 err.1)).map fun q =>
    nf32.decode (nf32.encode .even ((clean (x.value q.1)).add (clean (nf32.decode q.2))))
  let mean (b : Nat) : Val :=
    let mine := (xs.zipIdx.filter fun q => x.blockAt half q.2 == b).map (·.1)
    match Val.sum (mine.map Val.abs) with
    | .fin _ n e => nf32.decode (nf32.encode .even (ratVal false n (max 1 mine.length) e))
    | v => v
  let ms := (List.range (x.blocks half).2).map mean
  let neg (v : Val) : Bool := v.lt .zero
  let fresh := xs.zipIdx.map fun q =>
    let m := ms.getD (x.blockAt half q.2) .zero
    nf32.encode .even (q.1.add (if neg q.1 then m else m.neg))
  let codes := vecOf (ms.map (nf32.encode .even))
  ({ active := true, phase := 2, vals := codes, means := codes
     signs := xs.zipIdx.foldl (fun m q => Map.set false m q.2 (neg q.1)) [] },
   s.tallyPut d c (x.emem + 4 * p.1) (fresh.flatMap (natBytes 4)))

/-- Phase 2 begins: the rank's records, or ONEBIT's means. -/
def State.tallyAgree (s : State) (d c : Nat) (x : TDesc) (half : Bool) : State :=
  let b := x.blocks half
  let r : THalf × State :=
    if x.op = 3 then s.tallyCompress d c x half
    else
      let r := s.tallyBytes d c (x.maxrec + 8 * b.1) (8 * b.2)
      ({ active := true, phase := 2, vals := vecOf ((numbers 8 b.2 r.1).map (· % 2 ^ 32)) }, r.2)
  (r.2.modHalf d half fun _ => r.1).tallyFirst d x half r.1

/-- S_b + 160 of every block, with a free shift where R395 states none, and whether any is below -160. -/
def State.tallyShifts (s : State) (x : TDesc) (half : Bool) (m : Map (BitVec 32)) : Map Nat × Bool × State :=
  (List.range (x.blocks half).2).foldl (fun a b =>
    match tallyShift x.group (nf32.decode (Map.get 0 m b).toNat) with
    | some k => (Map.set 0 a.1 b (k + 160).toNat, a.2.1 || decide (k < -160), a.2.2)
    | none =>
      let r := a.2.2.draw
      (Map.set 0 a.1 b (r.1.toNat % 321), a.2.1, r.2)) ([], false, s)

/-- The payload of an ONEBIT rank: its sign bits, then the quantised m of each block (R396; log entry 31, DESIGN CHOICE). -/
def onebitLines (x : TDesc) (half : Bool) (signs : Map Bool) (q : Map (BitVec 32)) : List Line :=
  let n := (x.span half).2
  let bits := (List.range ((n + 7) / 8)).flatMap fun j =>
    natBytes 1 ((List.range 8).foldl (fun v i => v + bit (Map.get false signs (8 * j + i)) * 2 ^ i) 0)
  let qs := (List.range (x.blocks half).2).flatMap fun b => natBytes 4 (Map.get 0 q b).toNat
  let bs := bits ++ qs
  (List.range (x.rawLines half)).map fun i => lineOf ((bs.drop (64 * i)).take 64)

/-- Phase 3 begins: R395's checks, the rank's own contributions, and step 0. -/
def State.tallyReduce (s : State) (d c : Nat) (x : TDesc) (half : Bool) (h : THalf) : State :=
  if (List.range (x.blocks half).2).any fun b => (nf32.decode (Map.get 0 h.vals b).toNat).isInf then s.tallyFail d 3
  else
    let sh := s.tallyShifts x half h.vals
    let s := sh.2.2
    let shift (b : Nat) : Int := ((Map.get 0 sh.1 b : Nat) : Int) - 160
    if sh.2.1 then s.tallyFail d 4
    else if x.op = 3 then
      let a := s.draw
      let q := (List.range (x.blocks half).2).foldl (fun m b =>
        let u := draw32 a.1 (BitVec.ofNat 64 b)
        Map.set 0 m b (quantise (nf32.decode (Map.get 0 h.means b).toNat) (if x.stoch then .stoch u else .even) (shift b))) []
      let raw := (onebitLines x half h.signs q).zipIdx.foldl (fun m p =>
        Map.set 0 m (2 ^ 40 * x.rankOf half + p.2) p.1) []
      let h := { h with phase := 3, step := 0, got := 0, shifts := sh.1, raw }
      (a.2.modHalf d half fun _ => h).tallyFirst d x half h
    else
      let src := s.tallySource d c x half
      let vals := src.1.zipIdx.foldl (fun m p =>
        Map.set 0 m p.2 (quantise (x.value p.1) (x.rnd ((x.span half).1 + p.2)) (shift (x.blockAt half p.2)))) []
      let h := { h with phase := 3, step := 0, got := 0, shifts := sh.1, vals }
      (src.2.modHalf d half fun _ => h).tallyFirst d x half h

/-- The sum of element i over the ranks of an ONEBIT job. -/
def THalf.onebitSum (h : THalf) (x : TDesc) (half : Bool) (i : Nat) : BitVec 32 :=
  let at_ (k j : Nat) : Nat := lineNat (Map.get 0 h.raw (2 ^ 40 * k + j / 64)) (j % 64) 1
  let nb := ((x.span half).2 + 7) / 8
  (List.range x.group).foldl (fun z k =>
    let o := nb + 4 * x.blockAt half i
    let q := BitVec.ofNat 32 (leNat ((List.range 4).map fun e => BitVec.ofNat 8 (at_ k (o + e))))
    if (at_ k (i / 8)).testBit (i % 8) then z - q else z + q) 0

/-- Phase 4: the half's part of DST is written (R393, R395). -/
def State.tallyOutput (s : State) (d c : Nat) (x : TDesc) (half : Bool) (h : THalf) : State :=
  let p := x.span half
  let own := chunkOf x.group p.2 (x.rankOf half)
  let part := if x.op = 2 then own else (0, p.2)
  let word (i : Nat) : BitVec 32 :=
    x.output (if x.op = 3 then h.onebitSum x half i else Map.get 0 h.vals i)
      (((Map.get 0 h.shifts (x.blockAt half i) : Nat) : Int) - 160)
  let s := s.tallyPut d c (x.dst + 4 * (p.1 + part.1))
    ((List.range part.2).flatMap fun i => natBytes 4 (word (part.1 + i)).toNat)
  s.modHalf d half fun h => { h with phase := 4, finished := true }

/-- The steps of a half that need no further line are complete, and phases follow one another (R393, R394). -/
def State.tallySettle (s : State) (d : Nat) (half : Bool) : Nat → State
  | 0 => s
  | fuel + 1 =>
    match (s.eng d).run with
    | none => s
    | some r =>
      let h := r.half half
      let x := r.desc
      if r.ended.isSome || !h.active || h.finished || h.got < x.recvLines half h.phase h.step then s
      else
        let c := r.job.cid
        let s :=
          if h.phase = 1 then
            if x.count = 0 then s.modHalf d half fun h => { h with finished := true } else s.tallyAgree d c x half
          else if h.step < x.lastStep h.phase then
            s.modHalf d half fun h => { h with step := h.step + 1, got := 0 }
          else
            let h' := { h with step := h.step + 1 }
            if h.phase = 2 then s.tallyReduce d c x half h else s.tallyOutput d c x half h'
        s.tallySettle d half fuel

/-- A bound on the steps that can follow one another without a line: two phases of 2G - 2 steps. -/
def settleFuel : Nat := 20000

/-- The job is done once every half is finished. -/
def State.tallyCheck (s : State) (d : Nat) : State :=
  s.modRun d fun r =>
    if r.ended.isNone && r.half0.finished && (!r.half1.active || r.half1.finished) then { r with ended := some 0 } else r

/-- What a received line leaves in the vector of its half. -/
def THalf.take (h : THalf) (x : TDesc) (half : Bool) (step index : Nat) (data : Line) : THalf :=
  let k := x.recvChunk half h.phase step
  if x.gathers h.phase then { h with got := h.got + 1, raw := Map.set 0 h.raw (2 ^ 40 * k + index) data }
  else
    let c := chunkOf x.group (x.size half h.phase) k
    let vals := (List.range (min 16 (c.2 - 16 * index))).foldl (fun m i =>
      let e := c.1 + 16 * index + i
      let v : BitVec 32 := BitVec.ofNat 32 (lineNat data (4 * i) 4)
      let old := Map.get 0 m e
      Map.set 0 m e
        (if x.group - 1 ≤ step then v
         else if h.phase = 2 then
           BitVec.ofNat 32 (nf32.encode .even ((nf32.decode old.toNat).max (nf32.decode v.toNat)))
         else old + v)) h.vals
    { h with got := h.got + 1, vals }

/-- A TALLY line of the running job arrives for a half: the next line that its step expects is taken, and the
line that depends on it is sent on (R394). -/
def State.tallyTake (s : State) (d : Nat) (half : Bool) (step index : Nat) (data : Line) : State :=
  match (s.eng d).run with
  | none => s
  | some r =>
    if r.ended.isSome then s
    else
      let x := r.desc
      let s := (s.tallyInbound r.job.cid x.dst).modRun d fun r => { r with heard := s.fab }
      let h := r.half half
      if !h.active || h.finished || h.step != step || h.got != index || x.recvLines half h.phase h.step ≤ index then s
      else
        let s :=
          if h.phase = 1 then
            if data = x.header then s.modHalf d half fun h => { h with got := 1 } else s.tallyFail d 2
          else
            let h := h.take x half step index data
            let s := s.modHalf d half fun _ => h
            if step < x.lastStep h.phase then
              s.tallySend d (x.sendOn half) (tallyLine x.jobTag (step + 1) index false
                (h.sendData x half (x.recvChunk half h.phase step) index))
            else s
        (s.tallySettle d half settleFuel).tallyCheck d

/-- A TALLY line reaches die d's engine on a bond. A line of a job that has not started here waits for it, an
ABORT line of one has no effect (log entry 29, DESIGN CHOICE). Where both rings use one bond, R376 does not tell their lines
apart. -/
def State.tallyInput (s : State) (d bond : Nat) (l : MLine) : State :=
  match (s.eng d).run with
  | none => if (lineAbort l) then s else s.modEng d fun e => { e with held := e.held ++ [(bond, l)] }
  | some r =>
    if r.desc.jobTag.toNat % 2 ^ 14 != (lineJob l) then
      if (lineAbort l) then s else s.modEng d fun e => { e with held := e.held ++ [(bond, l)] }
    else if (lineAbort l) then
      (s.tallyInbound r.job.cid r.desc.dst).tallyFail d 8
    else
      let a := s.draw
      let half := r.desc.both && (if r.desc.txBond = r.desc.rxBond then a.1.getLsbD 0 else bond == r.desc.txBond)
      a.2.tallyTake d half (lineStep l) (lineIndex l) l.data

def execTallyLineReceive (die : Nat) (half : Bool) (step index : Nat) (data : BitVec 512) (s : State) : Out State :=
  onEngine die s fun s => s.tallyTake die half step index data

def execTallyAbortLine (die : Nat) (s : State) : Out State :=
  onEngine die s fun s => match (s.eng die).run with
    | none => s
    | some r => (s.tallyInbound r.job.cid r.desc.dst).tallyFail die 8

/-! ## Start and end of a job -/

/-- The engine takes the oldest queued job (R390, R392, R393). -/
def State.tallyStart (s : State) (d : Nat) : State :=
  match (s.eng d).run, (s.eng d).queue with
  | none, job :: q =>
    let r := s.tallyBytes d job.cid job.addr 128
    let x := TDesc.of r.1
    let s := r.2
    let ok := s.descOk d job.cid x r.1
    let run : TRun := { job, desc := x, startTime := s.now, heard := s.fab, ended := if ok then none else some 1
                        half0 := { active := ok }, half1 := { active := ok && x.both } }
    let s := s.modEng d fun e => { e with queue := q, run := some run }
    if !ok then s
    else
      let send (s : State) (half : Bool) : State := s.tallySend d (x.sendOn half) (tallyLine x.jobTag 0 0 false x.header)
      let s := send s false
      let s := if x.both then send s true else s
      let early := (s.eng d).held.filter fun l => (lineJob l.2) == x.jobTag.toNat % 2 ^ 14
      let s := s.modEng d fun e => { e with held := e.held.filter fun l => (lineJob l.2) != x.jobTag.toNat % 2 ^ 14 }
      overAll early (fun s l => s.tallyInput d l.1 l.2) s
  | _, _ => s

def execTallyJobStart (die : Nat) (s : State) : Out State := onEngine die s fun s => s.tallyStart die

/-- TIMEOUT_US without a TALLY line (R398); zero selects 100 000 µs (R391). -/
def execTallyTimeout (die : Nat) (s : State) : Out State :=
  onEngine die s fun s => match (s.eng die).run with
    | none => s
    | some r =>
      let us := if r.desc.timeout = 0 then 100000 else r.desc.timeout
      if r.heard + 2200 * us ≤ s.fab then s.tallyFail die 5 else s

/-- The run leaves the engine, with lines of its tag that came too early for another job. -/
def State.tallyLeave (s : State) (d : Nat) (x : TDesc) : State :=
  s.modEng d fun e => { e with run := none, held := e.held.filter fun l => (lineJob l.2) != x.jobTag.toNat % 2 ^ 14 }

/-- A job that has ended writes its status record once its writes are performed, and sends its signal once the record is
(R397, R398). -/
def execTallyJobEnd (die : Nat) (s : State) : Out State :=
  onEngine die s fun s => match (s.eng die).run with
    | none => s
    | some r =>
      match r.ended with
      | none => s
      | some code =>
        if s.tallyOwes die then s
        else
          let s :=
            if r.recorded then s
            else (if code = 0 then s else s.tallyScramble r.job.cid r.desc).tallyRecord die r.job r.desc code (some r)
          if s.tallyOwes die then s.modRun die fun r => { r with recorded := true }
          else (s.tallySignal die r.job.cid r.desc).tallyLeave die r.desc

/-- The descriptor of a queued job, as the engine reads it. -/
def State.queuedDesc (s : State) (d : Nat) (j : TJob) : TDesc := TDesc.of (s.tallyBytes d j.cid j.addr 128).1

/-- A write of TALLY_ABORT by constellation c: its running job and its queued jobs with the tag end in ABORTED
(R398). -/
def State.tallyAbort (s : State) (d c : Nat) (tag : BitVec 32) : State :=
  let hit (j : TJob) : Bool := j.cid == c && (s.queuedDesc d j).jobTag == tag
  let gone := (s.eng d).queue.filter hit
  let s0 := s
  let s := match (s.eng d).run with
    | some r => if r.job.cid = c ∧ r.desc.jobTag = tag then s.tallyFail d 7 else s
    | none => s
  let s := s.modEng d fun e => { e with queue := e.queue.filter fun j => !hit j }
  overAll gone (fun s j =>
    let x := s0.queuedDesc d j
    (((s.tallySendAbort d x 0).tallyScramble c x).tallyRecord d j x 7 none).tallySignal d c x) s

def execTallyAbort (t : Tid) (die : Nat) (tag : BitVec 32) (s : State) : Out State :=
  onEngine die s fun s => s.regCmd (.thread t) (tallyAddr die + 0x10) fun s =>
    match (s.core (coreOf t)).member with
    | none => s
    | some c => s.tallyAbort die c tag

/-- RESET or RELEASE of constellation c: its running jobs end and its queued jobs go, without records or
signals (R398). -/
def State.tallyDrop (s : State) (c : Nat) : State :=
  overAll (List.range 8) (fun s d =>
    let s := s.modEng d fun e => { e with queue := e.queue.filter fun j => j.cid != c }
    match (s.eng d).run with
    | some r => if r.job.cid = c then ((s.tallyFail d 7).tallyScramble c r.desc).tallyLeave d r.desc else s
    | none => s) s

/-! ## Registers -/

/-- TALLY_STATUS of die d (ch. 16). -/
def State.tallyStatus (s : State) (d : Nat) : Word :=
  let q := 2 ^ 20 * (s.eng d).queue.length
  BitVec.ofNat 64 (match (s.eng d).run with
    | none => q
    | some r => 2 ^ 32 * r.desc.jobTag.toNat + 2 ^ 27 * (r.job.cid % 32) + 2 ^ 24 * r.half0.phase + q)

end Sys2Proof.Machine
end

