-- ==== Sys2Proof/Machine/Meridian.lean ====
section
/-! DEFINITION. The Meridian ports and bonds (R375-R389, R399, R400): port states, frames, replay and
credits, remote requests and their answers, digests, and the loss of a bond. -/

namespace Sys2Proof.Machine

open Sys2Proof

/-- Fabric cycles of a number of microseconds, at the nominal 2.2 GHz (R65). -/
def fabUs (us : Nat) : Nat := 2200 * us

/-- A command that names a Meridian port of the part. -/
def onPort (p : Nat) (s : State) (k : State → State) : Out State :=
  if p < s.member.ports then clocked s (k s) else .next s

/-- The bond of port p, named by its lowest port (R47). -/
def State.bondOf (s : State) (p : Nat) : Nat := (s.portRec p).bondFirst

/-- The port is a member of its bond and is up. -/
def State.portUp (s : State) (p : Nat) : Bool := (s.port p).st == PState.up

/-! ## Digests (R399, R400) -/

/-- The second to fourth lines of R213. -/
def mix (x : Word) : Word :=
  let x := (x ^^^ (x >>> 31)) * 0x7FB5D329728EA185
  let x := (x ^^^ (x >>> 27)) * 0x81DADEF4BC2DD44D
  x ^^^ (x >>> 33)

/-- The 64-bit line header (R376). -/
def lineHeader (l : MLine) : Word :=
  BitVec.ofNat 64 (2 ^ 32 * (l.line % 2 ^ 32) + 2 ^ 16 * (l.tag % 2 ^ 16) + 2 ^ 10 * (l.last % 64) + l.first % 64 * 16 + l.typ % 16)

/-- A line packet carries no data: RD and WACK. -/
def lineBare (l : MLine) : Bool := l.typ == 1 || l.typ == 4

/-- Hash of one line packet (R399). -/
def lineHash (src dst : Nat) (l : MLine) : Word :=
  let data (i : Nat) : Word := if lineBare l then 0 else BitVec.ofNat 64 (lineNat l.data (8 * i) 8)
  let w := BitVec.ofNat 64 (src + 4096 * dst) :: lineHeader l :: (List.range 8).map data
  w.foldl (fun h x => mix (h ^^^ x)) 0

/-- Digest of a list of lines. -/
def digest (src dst : Nat) (ls : List MLine) : BitVec 128 :=
  ls.foldl (fun z l => z + (lineHash src dst l).setWidth 128) 0

/-- The snapshot of R400. -/
def State.snap (s : State) : State :=
  { s with digSnapSent := s.digSent, digSnapRecv := s.digRecv
           bonds := s.bonds.map fun p => (p.1, { p.2 with snapSent := p.2.sent, snapRecv := p.2.recv }) }

def execSnap (s : State) : Out State := s.keeperDoes s.snap

/-- Every digest and snapshot is zero. -/
def State.digClear (s : State) : State :=
  overAll (List.range 16) (fun s b => s.modBond b fun x => { x with sent := 0, recv := 0, snapSent := 0, snapRecv := 0 })
    { s with digSent := 0, digRecv := 0, digSnapSent := 0, digSnapRecv := 0 }

def execDigClear (s : State) : Out State := s.keeperDoes s.digClear

/-! ## Port states (R380, R381, R389) -/

/-- The constellations that have a request on bond b: held at its ports, or on the way to them (R389). -/
def State.bondUsers (s : State) (b : Nat) : List Nat :=
  let mine (p : Packet) : Bool := 0xD00 ≤ p.dst && p.dst < 0xE00 && s.bondOf (p.dst - 0xD00) == b &&
    (p.typ == .rd || p.typ == .wr || p.typ == .atom)
  let cid (p : Packet) : Option Nat := if p.src < 0x480 then s.requester p else some p.cid
  let held := (s.bondPorts b).flatMap fun p => ((s.port p).reqs.map (·.pkt)) ++ s.inb (nodePort p)
  let coming := s.flits.map (·.pkt) ++ s.cores.flatMap fun c => c.2.injQ ++ c.2.waitQ.map (·.1)
  let all := (held ++ coming.filter mine).filterMap cid
  allCons.filter all.contains

/-- Complete a remote request at the source port: its answer goes to the core that waits (R389). -/
def State.finishRemote (s : State) (p : Nat) (pkt : Packet) (data : Line) : State :=
  if pkt.src < 0x480 then s.answer (nodePort p) pkt (answerType pkt.typ) data false else s

/-- The jobs that use a bond end in LINK (R398). -/
def State.tallyLink (s : State) (b : Nat) : State :=
  overAll (List.range 8) (fun s d =>
    match (s.eng d).run with
    | none => s
    | some r =>
      if r.ended.isNone && (r.desc.txBond == b || r.desc.rxBond == b) then
        (s.tallyFail d 6).report 8 [r.job.cid] (nodePort b) false 0
      else s) s

/-- Bond b leaves *up* (R389). -/
def State.bondDown (s : State) (b : Nat) : State :=
  let users := s.bondUsers b
  let s := overAll (s.bondPorts b) (fun s p =>
    let held := (s.port p).reqs.map (·.pkt) ++ s.inb (nodePort p)
    let s := s.setInb (nodePort p) []
    let s := s.modPort p fun q => { q with
      reqs := [], outQ := [], inQ := [], serving := q.serving.map fun x => (x.1, false) }
    overAll held (fun s pkt => s.finishRemote p pkt 0) s) s
  let s := s.modBond b fun x => { x with
    unacked := [], replay := [], nakOut := false, freed := 0, credits := 0, stalls := 0, txSeq := 1, rxSeq := 1 }
  let s := overAll (List.range 8) (fun s d => s.modEng d fun e => { e with out := e.out.filter fun l => l.1 != b }) s
  (s.report 8 users (nodePort b) false 0).tallyLink b

/-- Port p takes a state (R380); the firmware logs the change (R458). -/
def State.portTo (s : State) (p : Nat) (st : PState) (lanes : Nat) : State :=
  (s.modPort p fun q => { q with st, lanes, since := s.fab
                                 asks := false, owes := [], stamp := none
                                 peerMsg := if st = PState.training then none else q.peerMsg }).eventOpen 5 0xFF none

/-- Port p leaves *up* for another state: its bond goes on without it, replaying what is not acknowledged, or
leaves *up* too (R385, R389, R436). -/
def State.leaveUp (s : State) (p : Nat) (st : PState) : State :=
  let b := s.bondOf p
  let s := s.portTo p st 0
  if (s.livePorts b).isEmpty then s.bondDown b
  else (s.modBond b fun x => { x with replay := x.unacked, credits := x.credits - 2048 }).report 7 [] (nodePort p) false 0

/-- Port p becomes *up*: a bond that had no live member starts its streams anew (log entry 32, DEDUCED). -/
def State.joinUp (s : State) (p lanes : Nat) : State :=
  let b := s.bondOf p
  let first := (s.livePorts b).isEmpty
  let s := s.portTo p .up lanes
  s.modBond b fun x =>
    if first then { x with txSeq := 1, rxSeq := 1, unacked := [], replay := [], nakOut := false, freed := 0
                           credits := 2048, stalls := 0 }
    else { x with credits := x.credits + 2048 }

/-- The port enters *training* if it has a cable (R473). -/
def State.train_ (s : State) (p : Nat) : State :=
  if (s.port p).cable then s.portTo p .training 0 else s

/-- Put a port into *disabled* (R380). -/
def State.disablePort (s : State) (p : Nat) : State :=
  if s.portUp p then s.leaveUp p .disabled else s.portTo p .disabled 0

/-- A commit of a PORT section (R380, R79): enabled ports train from *disabled* and *refused*, and the others
are disabled; DISABLE no longer holds. -/
def State.portsCommitted (s : State) : State :=
  overAll (List.range s.member.ports) (fun s p =>
    let s := s.modPort p fun q => { q with heldDown := false }
    let st := (s.port p).st
    if !(s.portRec p).enable then (if st = .disabled then s else s.disablePort p)
    else if st = .disabled ∨ st = .refused then s.train_ p
    else s) s

def execLanesLocked (port : Nat) (s : State) : Out State :=
  onPort port s fun s => if (s.port port).st = .training then s.portTo port .identify 8 else s

/-- At 20 ms without all lanes (R380). -/
def execTrainingTimeout (port : Nat) (halfLocked : Bool) (s : State) : Out State :=
  onPort port s fun s =>
    if (s.port port).st = .training ∧ (s.port port).since + fabUs 20000 ≤ s.fab then
      (if halfLocked then s.portTo port .identify 4 else s.portTo port .down 0)
    else s

/-- After 1 s in *down* (R380). -/
def execDownRetry (port : Nat) (s : State) : Out State :=
  onPort port s fun s =>
    if (s.port port).st = .down ∧ (s.port port).since + fabUs 1000000 ≤ s.fab then s.train_ port else s

/-- The part accepts the identity that a peer sent (R381). -/
def State.acceptsPeer (s : State) (p : Nat) (m : Nat × Nat × Nat × Nat) : Bool :=
  let r := s.portRec p
  let (fleet, port, first, width) := m
  s.chart.pkg.admits.getLsbD fleet && fleet != s.chart.pkg.fleetId && width == r.bondWidth &&
    port == first + (p - r.bondFirst) &&
    (s.livePorts r.bondFirst).all fun q => match (s.port q).peerMsg with
      | some (f, _, b, _) => f == fleet && b == first
      | none => false

/-- The identity exchange ends: *up* if both ends accept, *refused* otherwise (R380, R381). -/
def execIdentify (port : Nat) (peerAccepts : Bool) (s : State) : Out State :=
  onPort port s fun s =>
    match (s.port port).st, (s.port port).peerMsg with
    | .identify, some m =>
      if s.acceptsPeer port m && peerAccepts then
        (s.modPort port fun q => { q with peerFleet := m.1, peerPort := m.2.1 }).joinUp port (s.port port).lanes
      else s.portTo port .refused 0
    | _, _ => s

/-- Eight replays without an advance of ACK, or a loss of lane lock (R380). -/
def execLinkFailure (port : Nat) (s : State) : Out State :=
  onPort port s fun s =>
    if s.portUp port then
      (s.modPort port fun q => { q with retrains := satAdd 65535 q.retrains 1, changed := false }).leaveUp port .retraining
    else s

/-- The lanes relock at 8 or 4 lanes with the same peer (R380). -/
def execRetrainDone (port : Nat) (lanes : Fin 9) (s : State) : Out State :=
  onPort port s fun s =>
    if (s.port port).st = .retraining ∧ !(s.port port).changed ∧ (lanes.val = 8 ∨ lanes.val = 4) then
      s.joinUp port lanes.val
    else s

/-- 2 ms in *retraining*, or a changed peer (R380). -/
def execRetrainTimeout (port : Nat) (s : State) : Out State :=
  onPort port s fun s =>
    if (s.port port).st = .retraining ∧ ((s.port port).changed ∨ (s.port port).since + fabUs 2000 ≤ s.fab) then
      s.portTo port .down 0
    else s

/-- RETRAIN (ch. 16), ignored where ENABLE is 0. -/
def State.retrainCmd (s : State) (p : Nat) : State :=
  if !(s.portRec p).enable then s
  else
    let s := s.modPort p fun q => { q with heldDown := false }
    match (s.port p).st with
    | .disabled | .refused | .down => s.train_ p
    | .up => (s.modPort p fun q => { q with retrains := satAdd 65535 q.retrains 1, changed := false }).leaveUp p .retraining
    | _ => s

/-- DISABLE (ch. 16). -/
def State.disableCmd (s : State) (p : Nat) : State := (s.disablePort p).modPort p fun q => { q with heldDown := true }

/-- A write of MER_CMD[p]; DISABLE in the same write as RETRAIN comes second (log entry 33, DEDUCED). -/
def State.merCmd (s : State) (p : Nat) (v : Word) : State :=
  let s := if v.getLsbD 1 then s.retrainCmd p else s
  if v.getLsbD 0 then s.disableCmd p else s

def execRetrain (port : Nat) (s : State) : Out State := onPort port s fun s => if s.firmware then s.retrainCmd port else s
def execDisable (port : Nat) (s : State) : Out State := onPort port s fun s => if s.firmware then s.disableCmd port else s

/-- CBL_PRSNT_N of a connector changes: a port without a cable is *disabled* whatever its ENABLE, and one whose
cable returns trains if it is enabled and no DISABLE holds (R473; log entry 34, DEDUCED). -/
def execCablePresenceChange (port : Nat) (present : Bool) (s : State) : Out State :=
  onPort port s fun s =>
    let s := s.modPort port fun q => { q with cable := present }
    if !present then (if (s.port port).st = .disabled then s else s.disablePort port)
    else if (s.port port).st = .disabled ∧ (s.portRec port).enable ∧ !(s.port port).heldDown then s.train_ port
    else s

/-! ## Transmission (R375, R376, R379, R382, R383, R385) -/

/-- Line types of requests. -/
def requestType : PType → Nat
  | .rd => 1
  | .wr => 3
  | _ => 5

/-- Atomic operations in a fixed order. -/
def atomOps : List AtomOp := [.swap, .cas, .fadd, .fand, .forA, .fxor, .fmax, .fmin, .fmaxu, .fminu, .aload]

/-- Payload of a request; that of an ATOM holds operand, compare value, operation and word, in the model's
own places (log entry 31, DESIGN CHOICE). -/
def requestData (p : Packet) : Line :=
  match p.typ with
  | .wr => p.data
  | .atom => lineOf (natBytes 8 p.opnd.toNat ++ natBytes 8 p.cmp.toNat ++ natBytes 1 (atomOps.idxOf p.op) ++ natBytes 1 p.word)
  | _ => 0

/-- A free TAG of port p: its own 8192, by its place in the bond (R388; log entry 35, DESIGN CHOICE). -/
def State.freeTag (s : State) (p : Nat) : Option Nat :=
  let base := 8192 * ((p - s.bondOf p) % 8)
  let q := s.port p
  ((List.range 8192).map fun i => base + (q.nextTag + i) % 8192).find? fun t => !(q.reqs.any fun r => r.tag == t)

/-- Take a waiting request of port p or of a member that is not up, and give it a TAG (R385, R388). -/
def State.takeRequest (s : State) (p : Nat) : Option (MLine × State) :=
  let from_ := p :: (s.bondPorts (s.bondOf p)).filter fun q => !s.portUp q
  match from_.find? fun q => !(s.inb (nodePort q)).isEmpty, s.freeTag p with
  | some q, some tag =>
    match s.inb (nodePort q) with
    | [] => none
    | pkt :: l =>
      let s := s.setInb (nodePort q) l
      let s := s.modPort p fun x => { x with reqs := x.reqs ++ [{ tag, pkt }], nextTag := (tag + 1) % 8192 }
      some ({ typ := requestType pkt.typ, line := pkt.line % 2 ^ 32, tag, first := pkt.first, last := pkt.last
              data := requestData pkt, bad := pkt.bad }, s)
  | _, _ => none

/-- Take a queued answer of port p or of a member that is not up. -/
def State.takeAnswer (s : State) (p : Nat) : Option (MLine × State) :=
  let from_ := p :: (s.bondPorts (s.bondOf p)).filter fun q => !s.portUp q
  match from_.find? fun q => !(s.port q).outQ.isEmpty with
  | none => none
  | some q =>
    match (s.port q).outQ with
    | [] => none
    | l :: r => some (l.2, s.modPort q fun x => { x with outQ := r })

/-- Take a TALLY line for the port's bond from the engine of its die. -/
def State.takeTally (s : State) (p : Nat) : Option (MLine × State) :=
  let d := s.portDie p
  match (s.eng d).out.findIdx? fun l => l.1 == s.bondOf p with
  | none => none
  | some i =>
    match (s.eng d).out[i]? with
    | none => none
    | some l => some (l.2, s.modEng d fun e => { e with out := dropAt e.out i })

/-- Fill up to `n` slots: answers first, then requests and TALLY lines in turn, a request first (R379; log
entry 33, DEDUCED). -/
def State.fillSlots (s : State) (p : Nat) (tallyTurn : Bool) : Nat → List MLine × State
  | 0 => ([], s)
  | n + 1 =>
    let a := if tallyTurn then s.takeTally p else s.takeRequest p
    let b := if tallyTurn then s.takeRequest p else s.takeTally p
    let r : Option (MLine × State × Bool) :=
      match s.takeAnswer p with
      | some (l, s) => some (l, s, tallyTurn)
      | none =>
        match a with
        | some (l, s) => some (l, s, !tallyTurn)
        | none => b.map fun x => (x.1, x.2, tallyTurn)
    match r with
    | none => ([], s)
    | some (l, s, turn) =>
      let x := s.fillSlots p turn n
      (l :: x.1, x.2)

/-- The header fields that every frame of a bond returns (R376, R382). -/
def Bond.stamp (x : Bond) (kind seq : Nat) (lines : List MLine) : Frame :=
  { kind, seq, ack := (x.rxSeq + 4095) % 4096, nak := x.nakOut, credit := min 4095 x.freed, good := true, lines }

/-- Frame times carry the port's next frame: a replayed one, new lines if there are credits and room in the
replay buffer, or an idle frame (R376, R382-R385). -/
def State.frameOut (s : State) (p : Nat) : Frame × State :=
  let b := s.bondOf p
  let x := s.bond b
  let returned (x : Bond) : Bond := { x with nakOut := false, freed := x.freed - min 4095 x.freed }
  match x.replay with
  | f :: l => (x.stamp f.kind f.seq f.lines, s.modBond b fun x => returned { x with replay := l })
  | [] =>
    let room := x.unacked.length < 512 * (s.livePorts b).length
    let r := s.fillSlots p false (if room then min 25 x.credits else 0)
    match r.1 with
    | [] => (x.stamp 0 0 [], s.modBond b returned)
    | lines =>
      let s := r.2
      let d := digest s.chart.pkg.fleetId (s.port p).peerFleet lines
      let f := x.stamp 1 x.txSeq lines
      ({ f with lines }, { s with digSent := s.digSent + d }.modBond b fun x => returned { x with
        txSeq := (x.txSeq + 1) % 4096, unacked := x.unacked ++ [f], credits := x.credits - lines.length
        ackAt := if x.unacked = [] then s.fab else x.ackAt, sent := x.sent + d })

/-- Port p sends a control frame (R384). -/
def State.putControl (s : State) (p : Nat) (m : ControlMsg) : State :=
  let ack := ((s.bond (s.bondOf p)).rxSeq + 4095) % 4096
  s.modPort p fun q => { q with
    wire := q.wire ++ [{ kind := 2, seq := 0, ack, nak := false, credit := 0, good := true, lines := [], ctl := some m }] }

/-- The identity message of port p (R381). -/
def State.identMsg (s : State) (p : Nat) : ControlMsg :=
  .ident s.chart.pkg.fleetId p (s.portRec p).bondFirst (s.portRec p).bondWidth

/-- A frame time of a port (R375, R384): a port that trains sends its training and its identity, and a port that is up the
timestamp messages that wait, each stamped as it leaves (R84), ahead of any other frame. The hop count of a message that
asks is zero (log entry 112, DESIGN CHOICE). -/
def State.sendFrame (s : State) (p : Nat) : State :=
  match (s.port p).st with
  | .up =>
    match (s.port p).owes with
    | e :: l => (s.modPort p fun q => { q with owes := l }).putControl p (.timestamp s.now s.clk.hops (some e))
    | [] =>
      if (s.port p).asks then (s.modPort p fun q => { q with asks := false }).putControl p (.timestamp s.now 0 none)
      else
        let r := s.frameOut p
        r.2.modPort p fun q => { q with wire := q.wire ++ [r.1] }
  | .training => s.putControl p .training
  | .identify | .retraining => s.putControl p (s.identMsg p)
  | _ => s

/-- Fifths of a fabric cycle from one frame of a port to its next: 18 ns, or 36 ns where a live member of its bond has four
lanes (R375, R385). -/
def State.frameTime (s : State) (p : Nat) : Nat :=
  if (s.livePorts (s.bondOf p)).any fun q => (s.port q).lanes == 4 then 396 else 198

/-- It is the turn of port p: the live members of a bond start their frames in ascending order (R385). -/
def State.txTurn (s : State) (p : Nat) : Bool :=
  let live := s.livePorts (s.bondOf p)
  !s.portUp p || match (s.bond (s.bondOf p)).lastTx with
    | none => live.head? == some p
    | some q => ((live.find? fun r => q < r).or live.head?) == some p

/-- A frame time of port p begins, if it has come and it is the port's turn (R375, R385). -/
def State.transmit (s : State) (p : Nat) : State :=
  if 5 * s.fab < (s.port p).nextTx || !s.txTurn p then s
  else
    let next := max (s.port p).nextTx (5 * s.fab - 5) + s.frameTime p
    let s := (s.sendFrame p).modPort p fun q => { q with nextTx := next }
    if s.portUp p then s.modBond (s.bondOf p) fun x => { x with lastTx := some p } else s

def execFrameTransmit (port : Nat) (s : State) : Out State := onPort port s fun s => s.transmit port

/-! ## Reception (R378, R382, R383) -/

/-- Replay every unacknowledged frame from the oldest (R382). -/
def State.startReplay (s : State) (p : Nat) : State :=
  let b := s.bondOf p
  if (s.bond b).unacked = [] then s
  else
    (s.modBond b fun x => { x with replay := x.unacked, stalls := x.stalls + 1, ackAt := s.fab }).modPort p fun q =>
      { q with replays := q.replays + 1 }

/-- A good header acknowledges frames, returns credits and may ask for a replay. -/
def State.takeHeader (s : State) (p : Nat) (f : Frame) : State :=
  let b := s.bondOf p
  let x := s.bond b
  let s :=
    match x.unacked.findIdx? fun u => u.seq == f.ack with
    | none => s
    | some i =>
      let done := x.unacked.take (i + 1)
      s.modBond b fun x => { x with
        unacked := x.unacked.drop (i + 1), replay := x.replay.filter fun u => !(done.any fun v => v.seq == u.seq)
        stalls := 0, ackAt := s.fab }
  let s := s.modBond b fun x => { x with credits := x.credits + f.credit }
  if f.nak then s.startReplay p else s

/-- A frame reaches port p: a good one in sequence is accepted, and any other data frame is discarded whole and
asked for again (R378, R382). -/
def State.receive (s : State) (p : Nat) (f : Frame) : State :=
  let b := s.bondOf p
  if !s.portUp p then s
  else if f.kind = 0 then (if f.good then s.takeHeader p f else s)
  else if f.kind ≠ 1 then s
  else if !f.good || (f.lines.any fun l => l.bad != 0) || f.seq != (s.bond b).rxSeq || 25 < f.lines.length then s.modBond b fun x => { x with nakOut := true }
  else
    let s := s.takeHeader p f
    let lines := f.lines.filter fun l => l.typ != 0
    let d := digest (s.port p).peerFleet s.chart.pkg.fleetId lines
    let n := (s.bond b).rxLines
    let s := { s with digRecv := s.digRecv + d }.modBond b fun x => { x with
      rxSeq := (x.rxSeq + 1) % 4096, rxLines := x.rxLines + lines.length, recv := x.recv + d }
    s.modPort p fun q => { q with inQ := q.inQ ++ lines.zipIdx.map fun l => (n + l.2, l.1) }

def execFrameReceive (port : Nat) (f : Frame) (s : State) : Out State := onPort port s fun s => s.receive port f

/-- ACK has not advanced for 16 µs while frames are unacknowledged (R382). -/
def execAckTimeoutReplay (port : Nat) (s : State) : Out State :=
  onPort port s fun s =>
    if s.portUp port ∧ (s.bond (s.bondOf port)).ackAt + fabUs 16 ≤ s.fab then s.startReplay port else s

/-! ## Hand-off (R379, R388) -/

/-- The request that a line carries, as the receiving port issues it (R388). -/
def State.inboundPacket (s : State) (p : Nat) (l : MLine) (node : Nat) : Packet :=
  s.addressed
    { typ := if l.typ = 1 then .rd else if l.typ = 3 then .wr else .atom, line := 2 ^ 24 * s.chart.pkg.exportBase + l.line
      first := if l.typ = 3 then l.first else 0, last := if l.typ = 3 then l.last else 63, seq := BitVec.ofNat 16 l.tag, src := nodePort p
      data := if l.typ = 3 then l.data else 0, bad := l.bad
      op := atomOps.getD (lineNat l.data 16 1) .aload, word := lineNat l.data 17 1 % 8
      opnd := BitVec.ofNat 64 (lineNat l.data 0 8), cmp := BitVec.ofNat 64 (lineNat l.data 8 8) } node

/-- An inbound request: checked against the export aperture, then injected into the part's own mesh, in order
with the port's earlier requests to its line (R274, R388). None while an earlier one is in service. -/
def State.serve (s : State) (p : Nat) (l : MLine) : Option State :=
  let pa := 2 ^ 30 * s.chart.pkg.exportBase + l.line * 64
  let line := pa / 64
  let refused : State :=
    let s := s.refuseOut none (nodePort p) 0 (if l.typ = 1 then 0 else if l.typ = 3 then 1 else 2) pa
    s.modPort p fun q => { q with outQ := q.outQ ++
      [(0, { typ := l.typ + 1, line := l.line, tag := l.tag, first := l.first, last := l.last, data := 0 })] }
  if 2 ^ 30 * s.chart.pkg.exportSize ≤ l.line * 64 then some refused
  else
    match s.target pa with
    | .stack k _ =>
      if (s.port p).serving.any fun x => x.1 == line then none
      else
        let pkt := s.inboundPacket p l (nodeStack k)
        let s := (s.markInbound pa).modPort p fun q => { q with serving := q.serving ++ [(line, true)] }
        some (s.setOutb (nodePort p) (s.outb (nodePort p) ++ [pkt]))
    | _ => some refused

/-- An answer completes the request that its TAG names, held by the port or by another member of its bond. -/
def State.takeBack (s : State) (p : Nat) (l : MLine) : State :=
  let ports := p :: (s.bondPorts (s.bondOf p)).filter (· != p)
  match ports.findSome? fun q => ((s.port q).reqs.find? fun r => r.tag == l.tag).map fun r => (q, r) with
  | none => s
  | some (q, r) =>
    if requestType r.pkt.typ + 1 ≠ l.typ then s
    else
      (s.modPort q fun x => { x with reqs := x.reqs.filter fun y => y.tag != l.tag }).finishRemote q r.pkt
        (if l.typ = 4 then 0 else l.data)

/-- The next line of a bond's stream is handed on, if it waits at port p (R379). -/
def State.handoff (s : State) (p : Nat) : State :=
  let b := s.bondOf p
  match (s.port p).inQ with
  | [] => s
  | (n, l) :: rest =>
    if (s.bondPorts b).any fun q => q != p && match (s.port q).inQ with
      | (m, _) :: _ => m < n
      | [] => false
    then s
    else
      let took := (s.modPort p fun q => { q with inQ := rest }).modBond b fun x => { x with freed := x.freed + 1 }
      if l.typ = 1 ∨ l.typ = 3 ∨ l.typ = 5 then (took.serve p l).getD s
      else if l.typ = 2 ∨ l.typ = 4 ∨ l.typ = 6 then took.takeBack p l
      else if l.typ = 8 ∨ l.typ = 9 then took.tallyInput (s.portDie p) b l
      else took

def execMeridianHandoff (port : Nat) (s : State) : Out State := onPort port s fun s => s.handoff port

/-! ## Registers -/

def PState.code : PState → Nat
  | .disabled => 0
  | .training => 1
  | .identify => 2
  | .up => 3
  | .retraining => 4
  | .down => 5
  | .refused => 6

/-- MER_STATUS[p] (ch. 16). -/
def State.merStatus (s : State) (p : Nat) : Word :=
  let q := s.port p
  let b := s.bondOf p
  let idle := (s.bond b).unacked == [] && q.reqs == [] && s.inb (nodePort p) == []
  BitVec.ofNat 64 (2 ^ 48 * q.retrains + 2 ^ 32 * q.replays.toNat + 2 ^ 20 * (q.peerFleet % 4096) + 65536 * (q.peerPort % 16) +
    (s.livePorts b).length * 512 + bit idle * 256 + q.lanes * 16 + q.st.code)

/-- Word i of a 128-bit digest. -/
def digWord (v : BitVec 128) (i : Nat) : Word := v.extractLsb' (64 * i) 64

/-- DIG[p] at byte offset o; members other than the first read zero. -/
def State.digRead (s : State) (p o : Nat) : Word :=
  let x := s.bond p
  let vs := if s.bondOf p = p then [x.sent, x.recv, x.snapSent, x.snapRecv] else []
  digWord (vs.getD (o / 16) 0) (o / 8 % 2)

/-- DIG_TOTAL at byte offset o. -/
def State.digTotal (s : State) (o : Nat) : Word :=
  digWord ([s.digSent, s.digRecv, s.digSnapSent, s.digSnapRecv].getD (o / 16) 0) (o / 8 % 2)

/-- A write of DIG_CTRL. -/
def State.digCtrl (s : State) (v : Word) : State :=
  let s := if v.getLsbD 0 then s.snap else s
  if v.getLsbD 1 then s.digClear else s

end Sys2Proof.Machine
end

