-- ==== Sys2Proof/Machine/Clock.lean ====
section
/-! DEFINITION. The clock unit (R64-R84): the root PLL, the sidereal counter, its setting and stepping,
and the fleet time servo. -/

namespace Sys2Proof.Machine

open Sys2Proof

def State.modClk (s : State) (f : Clock → Clock) : State := { s with clk := f s.clk }

/-! ## Lock and loss of lock (R69-R71) -/

/-- The root PLL locks: every divided clock and every CCYCLE starts. It needs the reference, power on every rail and
PERST_N high, and after a loss of lock a cold reset (R69, R70, R426). -/
def execRootLock (s : State) : Out State :=
  .next (if s.clk.refPresent && s.power.powerGood && s.power.railsOn && !s.power.perstLow && !s.clk.lost then
    s.modClk fun c => { c with rootLock := true }
  else s)

/-- The divided clocks stop and FAULT_N is asserted (R70). -/
def State.loseLock (s : State) : State :=
  if s.clk.rootLock then
    { (s.modClk fun c => { c with rootLock := false, lost := true }) with power := { s.power with faultN := true } }
  else s

def execRootLossOfLock (s : State) : Out State := .next s.loseLock

/-- Every PHY loses lock: the stacks', the Meridian ports' and the host port's (R67, R71). -/
def State.physLost (s : State) : State :=
  let s := overAll (List.range s.member.stks) (fun s k => s.modStack k fun x => { x with phyLock := false }) s
  let s := overAll (List.range s.member.ports) (fun s p => s.modPort p fun q => { q with lanes := 0 }) s
  { s with host := { s.host with linkUp := false } }

/-- The reference stops, and with it the sidereal counter and every PHY (R71). -/
def execReferenceLoss (s : State) : Out State :=
  .next ((s.loseLock).modClk fun c => { c with refPresent := false }).physLost

def execReferenceReturn (s : State) : Out State := .next (s.modClk fun c => { c with refPresent := true })

/-! ## The sidereal counter (R72-R77) -/

/-- The increment of one reference period, and the accumulator after it (R72, R80). -/
def Clock.increment (c : Clock) : Nat × Nat :=
  let z := (c.frac : Int) + c.trim
  if z < 0 then (10, (z + 2 ^ 32).toNat) else if 2 ^ 32 ≤ z then (12, (z - 2 ^ 32).toNat) else (11, z.toNat)

/-- A STEP for which the sum would reach 2^64 is ignored (ch. 3). -/
def addStep (v step : Word) : Word := if v.toNat + step.toNat < 2 ^ 64 then v + step else v

/-- The end of a reference period: TRIM reaches the accumulator, a load replaces the increment, and steps follow (R72, R76,
R80; log entry 36, DEDUCED). -/
def Clock.period (c : Clock) : Clock :=
  let base : Word × Nat := match c.pendLoad with
    | some v => (v, c.increment.2)
    | none => (c.sidereal + BitVec.ofNat 64 c.increment.1, c.increment.2)
  { c with sidereal := c.pendStep.foldl addStep base.1, frac := base.2, pendLoad := none, pendStep := [] }

/-- Every constellation is dark or held (R76, R77). -/
def State.allParked (s : State) : Bool :=
  allCons.all fun c => (s.con c).st == CState.dark || (s.con c).st == CState.held

/-- A reference period ends. A load that a START has overtaken is dropped, so that the counter does not decrease
(R77; log entry 36, DEDUCED). -/
def execSiderealIncrement (s : State) : Out State :=
  .next (if s.clk.refPresent && !s.power.perstLow && s.power.powerGood && !(s.power.tripped && s.power.perstSeen) then
    s.modClk fun c => (if s.allParked then c else { c with pendLoad := none }).period
  else s)

def clkAddr : Nat := 0xF000700000000

/-- A write of SIDEREAL_LOAD (R76). -/
def State.sidLoad (s : State) (acc : Accessor) (v : Word) : State :=
  if s.allParked then s.modClk fun c => { c with pendLoad := some v } else s.refuseAccessor acc (clkAddr + 0x18)

/-- A write of SIDEREAL_STEP, accepted only in *master* and *free* (ch. 3). -/
def State.sidStep (s : State) (v : Word) : State :=
  if s.clk.servo = .master ∨ s.clk.servo = .free then s.modClk fun c => { c with pendStep := c.pendStep ++ [v] } else s

def execSiderealLoad (v : Word) (s : State) : Out State := s.keeperDoes (s.sidLoad .keeper v)
def execSiderealStep (v : Word) (s : State) : Out State := s.keeperDoes (s.sidStep v)

/-- Core cycles of 10 µs, at the nominal rate: a rail makes one step in each (R445). -/
def rampCycles : Nat := 11000

/-- A rail on its way makes its next step, if that is due in core cycle `now` (R445). -/
def Ageing.rampRail (now : Nat) (a : Ageing) (x : Nat × Int × Nat) : Ageing :=
  if now < x.2.2 then { a with moves := a.moves ++ [x] }
  else
    let v := Map.get 0 a.offsets x.1
    let v := if v < x.2.1 then v + 1 else v - 1
    { a with offsets := Map.set 0 a.offsets x.1 v
             moves := if v = x.2.1 then a.moves else a.moves ++ [(x.1, x.2.1, now + rampCycles)] }

/-- Every rail on its way (R445). -/
def Ageing.ramp (a : Ageing) (now : Nat) : Ageing := a.moves.foldl (Ageing.rampRail now) { a with moves := [] }

/-- One fabric cycle passes (R69, R86; log entry 48, DESIGN CHOICE): while the root PLL is locked CCYCLE counts in every second
one, a rail on its way makes its steps (R445), and an Open demand on a Sealed thread is noted (R137). -/
def State.tick (s : State) : State :=
  if s.clk.rootLock then
    let s := s.modClk fun c => if c.odd then { c with ccycle := c.ccycle + 1, odd := false } else { c with odd := true }
    let s := { s with ageing := s.ageing.ramp s.clk.ccycle.toNat }
    overAll ((s.threads.map (·.1)).filter fun t => (s.thr t).world) State.noteDemand s
  else s

/-! ## The servo (R78-R82) -/

/-- TRIM as the servo chooses it from -2^23 to `hi`: R80 and R81 bound it and state no value (log entry 69, DESIGN CHOICE). -/
def State.chooseTrim (s : State) (hi : Int) : State :=
  let d := s.draw
  let v : Int := (d.1.toNat % 2 ^ 24 : Nat) - (2 ^ 23 : Int)
  d.2.modClk fun c => { c with trim := min hi v }

/-- The correction of an offset in *acquiring* (R81): the upstream time is the local one less the offset. -/
def State.acquire (s : State) (offset : Int) : State :=
  if offset = 0 then s.chooseTrim (2 ^ 23)
  else if s.allParked then s.modClk fun c => { c with pendLoad := some (s.now - BitVec.ofInt 64 offset) }
  else if offset < 0 then s.modClk fun c => { c with pendStep := c.pendStep ++ [BitVec.ofInt 64 (-offset)] }
  else s.chooseTrim 0

/-- One exchange with the upstream neighbour (R78-R81); `offset` is local minus upstream. The exchange that takes a locked
servo to *acquiring* corrects nothing yet (log entry 114, DESIGN CHOICE). -/
def State.exchange (s : State) (offset : Int) (upHops : Nat) : State :=
  let hops := upHops + 1
  let m := offset.natAbs
  let s := s.modClk fun c => { c with hops, lastX := c.sidereal
                                      offset := max (-(2 ^ 31 - 1)) (min (2 ^ 31 - 1) offset) }
  match s.clk.servo with
  | .acquiring =>
    let run := if m ≤ 4 * hops then s.clk.goodRun + 1 else 0
    if 16 ≤ run then (s.modClk fun c => { c with servo := .locked, goodRun := 0 }).chooseTrim (2 ^ 23)
    else (s.modClk fun c => { c with goodRun := run }).acquire offset
  | .locked | .holdover =>
    if m ≤ 64 then (s.modClk fun c => { c with servo := .locked }).chooseTrim (2 ^ 23)
    else s.modClk fun c => { c with servo := .acquiring, goodRun := 0 }
  | _ => s

/-- The servo follows an upstream port. -/
def Clock.follows (c : Clock) : Bool := c.servo == .acquiring || c.servo == .locked || c.servo == .holdover

/-- Ticks of 125 µs (R78). -/
def exchangeTicks : Nat := 137500

/-- Local minus upstream, by the four times of an exchange and equal delays each way (R78; log entry 112, DESIGN CHOICE:
half a tick is rounded down). -/
def TimeAnswer.offset (a : TimeAnswer) : Int := ((a.asked - a.heard).toInt + (a.got - a.sent).toInt) / 2

/-- An exchange of timestamps, at most one in each 125 µs, over the lowest live member of the upstream port's bond: the
answer to the last message is evaluated, and the next message waits to leave. Without an answer the exchange is
missed, which leaves the run of R79 as it is (R78, R79; log entries 112 and 114, DESIGN CHOICE). -/
def State.timeExchange (s : State) : State :=
  match s.livePorts (s.bondOf s.chart.pkg.upstream) with
  | [] => s.modClk fun c => { c with lastTry := c.sidereal }
  | p :: _ =>
    let a := (s.port p).stamp
    let s := (s.modPort p fun q => { q with asks := true, stamp := none }).modClk fun c => { c with lastTry := c.sidereal }
    match a with
    | none => s
    | some a => s.exchange a.offset a.hops

def execTimeExchange (s : State) : Out State :=
  clocked s (if s.clk.follows && decide (s.clk.lastTry.toNat + exchangeTicks ≤ s.clk.sidereal.toNat) then s.timeExchange else s)

/-- Ticks of eight exchanges of 125 µs (R78, R79). -/
def holdoverTicks : Nat := 8 * exchangeTicks

def execHoldoverEntry (s : State) : Out State :=
  .next (if s.clk.servo = .locked ∧ s.clk.lastX.toNat + holdoverTicks ≤ s.clk.sidereal.toNat then
    s.modClk fun c => { c with servo := .holdover }
  else s)

/-- The fields of the PORT section (R46). -/
def PkgCfg.portPart (p : PkgCfg) : PkgCfg :=
  { fleetId := p.fleetId, timeMaster := p.timeMaster, upstream := p.upstream, exportBase := p.exportBase
    exportSize := p.exportSize, ports := p.ports, admits := p.admits }

/-- A commit of a changed PORT section (R79, R80). The accumulator keeps its value (log entry 114, DESIGN CHOICE). -/
def State.servoCommit (s : State) : State :=
  let p := s.chart.pkg
  if p.timeMaster then s.modClk fun c => { c with servo := .master, trim := 0, hops := 0, goodRun := 0 }
  else if p.upstream = 0xFF then s.modClk fun c => { c with servo := .free, trim := 0, hops := 0, goodRun := 0 }
  else if (s.portRec p.upstream).enable then s.modClk fun c => { c with servo := .acquiring, goodRun := 0 }
  else s

/-! ## Control frames (R84, R381, R384) -/

/-- A control frame reaches port p. An identity message counts in *identify*, and in *retraining* shows whether
the peer is still the same; a timestamp message is stamped with the time of its arrival: one that asks is to be answered,
and an answer of 31 hops or more is discarded (R78, R84). -/
def State.controlFrame (s : State) (p : Nat) (m : ControlMsg) : State :=
  match m with
  | .training => s
  | .ident fleet port first width =>
    match (s.port p).st with
    | .identify => s.modPort p fun q => { q with peerMsg := some (fleet, port, first, width) }
    | .retraining => s.modPort p fun q => { q with changed := q.changed || q.peerMsg != some (fleet, port, first, width) }
    | _ => s
  | .timestamp time hops none =>
    if s.portUp p && hops < 31 then s.modPort p fun q => { q with owes := q.owes ++ [(time, s.now)] } else s
  | .timestamp time hops (some e) =>
    if s.portUp p && hops < 31 then s.modPort p fun q => { q with stamp := some ⟨e.1, e.2, time, s.now, hops⟩ } else s

def execControlFrameReceive (port : Nat) (m : ControlMsg) (s : State) : Out State :=
  onPort port s fun s => s.controlFrame port m

/-! ## Registers -/

/-- The member floor of the power cap, in W (R477). -/
def Member.floorW : Member → Nat
  | .nv2 => 640
  | .nv4 => 1180
  | .nv8 => 2150

/-- A write of CAP_W: a value above the one in force is ignored, and one below the floor is taken as the floor
(R476, R477). -/
def State.capWrite (s : State) (w : Nat) : State :=
  if s.power.capW < w then s else { s with power := { s.power with capW := max w s.member.floorW } }

/-- Throttle level of die d: the highest demand, and THR_MIN (R476). -/
def State.throttle (s : State) (d : Nat) : Nat :=
  if s.member.dies ≤ d then 0
  else max (max s.power.powerDemand s.power.thrMin) (max (Map.get 0 s.power.currentDemand d) (Map.get 0 s.power.tempDemand d))

/-- Every stack PHY and every enabled Meridian PHY has locked. -/
def State.phyLocked (s : State) : Bool :=
  (List.range s.member.stks).all (fun k => (s.stack k).phyLock) &&
    (List.range s.member.ports).all fun p => !(s.portRec p).enable || (s.port p).lanes != 0

/-- CLK_STATUS. -/
def State.clkStatus (s : State) : Word :=
  let thr := ((List.range 8).map fun d => s.throttle d % 8 * 2 ^ (3 * d + 8)).sum
  BitVec.ofNat 64 (thr + bit s.clk.rootLock * 4 + bit s.phyLocked * 2 + bit s.clk.rootLock)

def Servo.code : Servo → Nat
  | .master => 0
  | .free => 1
  | .acquiring => 2
  | .locked => 3
  | .holdover => 4

/-- TIME_STATUS. -/
def State.timeStatus (s : State) : Word :=
  (BitVec.ofInt 32 s.clk.offset).setWidth 64 <<< 32 ||| BitVec.ofNat 64 (s.clk.hops % 256 * 256 + s.clk.servo.code)

/-- FREQ_TRIM. -/
def State.freqTrim (s : State) : Word := (BitVec.ofInt 24 s.clk.trim).setWidth 64

end Sys2Proof.Machine
end

