-- ==== Sys2Proof/Machine/Host.lean ====
section
/-! DEFINITION. The host bridge (R355-R374, R421): inbound requests, doorbells and MSI-X, the host
windows' requests, completions and their errors, the link, Function Level Resets, IDE and DOE. -/

namespace Sys2Proof.Machine

open Sys2Proof

def State.modHost (s : State) (f : HostBridge → HostBridge) : State := { s with host := f s.host }

/-- Log an error to AER (R371). -/
def State.aer (s : State) (f : Nat) (e : AerErr) : State := s.modHost fun h => { h with aer := h.aer ++ [(f, e)] }

/-- The bridge takes what arrives over the link: it is up, and the bridge's clocks run (R69, R70). -/
def State.bridgeUp (s : State) : Bool := s.clocksOn && s.host.linkUp

/-- A host request reaches function f: the function exists and accepts requests (R356, R368, R426). -/
def State.hostSees (s : State) (f : Nat) : Bool :=
  s.bridgeUp && s.host.ready && f < 32 && (if f = 0 then !s.host.d3hot else s.host.vfEnable)

/-- Report class HOST to the constellations that had requests pending, and to the Keeper (R436). -/
def State.hostFault (s : State) (cs : List Nat) : State := s.report 12 (allCons.filter cs.contains) nodeHost false 0

/-! ## Inbound requests (R358, R359, R365) -/

/-- INB_MAP[i] as TARGET in GiB, W, R, EN. -/
def Func.inbEntry (f : Func) (i : Nat) : Nat × Bool × Bool × Bool :=
  let v := Map.get 0 f.inb i
  (field v 30 22, v.getLsbD 2, v.getLsbD 1, v.getLsbD 0)

/-- The fabric address that INB_MAP gives an offset of function f's inbound aperture (R359). -/
def State.inbAddr (s : State) (f off : Nat) : Nat := 2 ^ 30 * ((s.func f).inbEntry (off / 2 ^ 30)).1 + off % 2 ^ 30

/-- The same, if the access is admitted (R359). -/
def State.inbound (s : State) (f off : Nat) (write : Bool) : Option Nat :=
  let x := s.func f
  let e := x.inbEntry (off / 2 ^ 30)
  match x.bound with
  | none => none
  | some c =>
    let a := s.inbAddr f off
    let own : Bool := match s.target a with
      | .ls n _ => (s.core n).member == some c
      | _ => false
    if f ≠ 0 && off < 63 * 2 ^ 30 && e.2.2.2 && (if write then e.2.1 else e.2.2.1) && (s.inReach c a a || own) then some a
    else none

/-- Code words of the line at a home that cannot be corrected (R160, R342). -/
def State.lostWords (s : State) (pa : Nat) : Nat :=
  match s.target pa with
  | .ls n off => s.halfBad n (off / 64)
  | .stack k q => s.lineLost k (q / 64)
  | _ => 0

/-- What a host request has read so far: its bytes, whether a line was refused, whether one held a code word that could not be
corrected, and the state. -/
structure InboundGot where
  bytes : List Byte
  refused : Bool
  poisoned : Bool
  s : State

/-- Read the bytes of one host request, line by line at their homes (R359, R371). -/
def State.inboundBytes (s : State) (f off len : Nat) : InboundGot :=
  (linesOf off len).foldl (fun (r : InboundGot) l =>
    let lo := max off (64 * l) - 64 * l
    let hi := min (off + len) (64 * l + 64) - 64 * l
    match r.s.inbound f (64 * l + lo) false with
    | none => { r with bytes := r.bytes ++ natBytes (hi - lo) 0, refused := true }
    | some a =>
      let v := r.s.homeGet {} (a / 64 * 64) (s.func f).bound.toList
      let lost := !v.2.1 && r.s.lostWords (a / 64 * 64) &&& touchedWords (spanMask lo (hi - 1)) != 0
      { bytes := r.bytes ++ ((lineBytes v.1).drop lo).take (hi - lo), refused := r.refused || v.2.1
        poisoned := r.poisoned || lost, s := v.2.2 }) { bytes := [], refused := false, poisoned := false, s := s }

/-- A refused host request counts once, with the fabric address of its first byte (R28, R29). -/
def State.refuseHost (s : State) (f kind a : Nat) : State :=
  s.refuseOut (if f = 0 then none else (s.func f).bound) nodeHost f kind a

/-- Queue the completion of a host read; one with data that could not be corrected is sent poisoned (R371). -/
def State.hostReply (s : State) (f : Nat) (bs : List Byte) (poisoned : Bool := false) : State :=
  s.tlp f (.completion f bs poisoned)

/-- A host read of a VF's inbound aperture (R27, R359). -/
def State.hostRead (s : State) (f off len : Nat) : State :=
  if !s.hostSees f || s.ideBroken f then s
  else if (s.func f).flr then s.hostReply f (natBytes len 0)
  else
    let r := s.inboundBytes f off len
    let s := match r.s.inbound f off false with
      | some a => r.s.markInbound a
      | none => r.s
    (if r.refused then s.refuseHost f 0 (s.inbAddr f off) else s).hostReply f r.bytes r.poisoned

/-- Where a host write of a line is admitted: in the aperture, and in no window table (R58, R123, R359). -/
def State.inboundPut (s : State) (f off len : Nat) : Option Nat :=
  match s.inbound f off true with
  | some a => if s.tableFree none a (a + len - 1) then some a else none
  | none => none

/-- A host write of a VF's inbound aperture: its lines are written at their homes, and the lines that are not
admitted are dropped (R27, R359). -/
def State.hostWrite (s : State) (f off : Nat) (data : List Byte) : State :=
  if !s.hostSees f || s.ideBroken f || (s.func f).flr then s
  else
    let bad := (linesOf off data.length).any fun l =>
      (s.inboundPut f (max off (64 * l)) (min (off + data.length) (64 * l + 64) - max off (64 * l))).isNone
    let s := (linesOf off data.length).foldl (fun s l =>
      let lo := max off (64 * l) - 64 * l
      let hi := min (off + data.length) (64 * l + 64) - 64 * l
      match s.inboundPut f (64 * l + lo) (hi - lo) with
      | none => s
      | some a =>
        (s.markInbound a).homePut {} (a / 64 * 64) lo (hi - 1)
          (lineSet 0 lo (hi - lo) (leNat ((data.drop (64 * l + lo - off)).take (hi - lo)))) (s.func f).bound.toList) s
    if bad then s.refuseHost f 1 (s.inbAddr f off) else s

/-- A poisoned write is discarded (R371). -/
def execPoisonedWrite (f off : Nat) (s : State) : Out State :=
  .next (if s.hostSees f && !(s.func f).flr && off < 2 ^ 36 then s.aer f .poisonedTlp else s)

/-! ## Doorbells and MSI-X (R360-R362) -/

/-- Offset of function f's block in control space. -/
def funcAddr (f r : Nat) : Nat := 0xF000800000000 + 0x20000 * f + r

/-- Host offset of a VF's function block (R358). -/
def vfBlock : Nat := 0xFC0000000

/-- A host write to DOORBELL[i]: only one of 8 bytes to a bound function takes effect (R360). -/
def State.doorbell (s : State) (f i size : Nat) (v : Word) : State :=
  if !s.hostSees f || s.ideBroken f || (s.func f).flr then s
  else if f = 0 ∨ (s.func f).bound = none ∨ size ≠ 8 then s.refuseHost f 1 (funcAddr f (0x1000 + 8 * i))
  else (s.modFunc f fun x => { x with doorbell := Map.set 0 x.doorbell i v, dbPend := x.dbPend ||| BitVec.ofNat 64 (1 <<< i) }).hwMark
    (.doorbell f i)

def execDoorbell (f : Nat) (i : Fin 64) (size : Nat) (v : Word) (s : State) : Out State :=
  .next (s.doorbell f i.val size v)

/-- A W1C write of DB_PEND (R361). -/
def State.dbPendWrite (s : State) (f : Nat) (v : Word) : State :=
  s.modFunc f fun x => { x with dbPend := x.dbPend &&& (~~~ v ||| s.hwBits 64 (.doorbell f)) }

def execDbPendClear (acc : Accessor) (f : Nat) (v : Word) (s : State) : Out State :=
  clocked s (s.regCmd acc (funcAddr f 0x1400) fun s => s.dbPendWrite f v)

/-- Entry v of the MSI-X table. -/
def Func.msixEntry (f : Func) (v : Nat) : BitVec 128 := Map.get 0 f.msixTable v

/-- Vector v is masked: by the function or by bit 0 of its Vector Control. -/
def Func.msixMasked (f : Func) (v : Nat) : Bool := f.msixMask || (f.msixEntry v).getLsbD 96

/-- Issue the message of vector v, or leave it pending while it is masked (R362). -/
def State.msix (s : State) (f v : Nat) : State :=
  let x := s.func f
  if !x.msixEnable || !x.busMaster then s
  else if x.msixMasked v then s.modFunc f fun x => { x with msixPba := Map.set false x.msixPba v true }
  else s.tlp f (.msix f v (x.msixEntry v))

/-- Messages that were pending leave once they are no longer masked, and the function may send. -/
def State.msixFlush (s : State) (f : Nat) : State :=
  let x := s.func f
  let go := (x.msixPba.map (·.1)).filter fun v => x.msixEnable && x.busMaster && !x.msixMasked v
  overAll go (fun s v => (s.modFunc f fun x => { x with msixPba := Map.set false x.msixPba v false }).msix f v)
    s

/-- A write of MSIX_SEND by an accessor (R362). -/
def State.msixSend (s : State) (acc : Accessor) (f : Nat) (v : Word) : State :=
  let n := field v 0 11
  if (s.func f).vectors ≤ n then s.refuseAccessor acc (funcAddr f 0x2000) else s.msix f n

def execMsixSend (t : Tid) (f : Nat) (v : Word) (s : State) : Out State :=
  clocked s (s.regCmd (.thread t) (funcAddr f 0x2000) fun s => s.msixSend (.thread t) f v)

/-! ## Outbound requests (R363, R364, R366, R370) -/

/-- A line read or write of a host window is performed at the bridge: a write when it enters the queue, a read
when its completion arrives. While the link is down, and on an Insecure stream, both end at once (R364, R370,
R373). -/
def State.hostPacket (s : State) (i : Nat) (p : Packet) : State :=
  let gone := !s.host.linkUp
  match p.host, p.typ with
  | some (f, a), .wr =>
    ((s.setInb nodeHost (dropAt (s.inb nodeHost) i)).tlp f (.memWrite f (a / 64 * 64) p.first p.last p.data)).answer nodeHost p .wack 0 false
  | some (f, a), .rd =>
    if gone || s.ideLost f a then (s.setInb nodeHost (dropAt (s.inb nodeHost) i)).answer nodeHost p .rdata 0 false
    else if 4096 ≤ s.host.reads.length then s
    else
      let tag := s.host.nextTag
      ((s.setInb nodeHost (dropAt (s.inb nodeHost) i)).modHost fun h => { h with
        nextTag := (tag + 1) % 16384, reads := h.reads ++ [{ tag, func := f, pkt := some p, since := s.fab, addr := a }] }).tlp f (.memRead f tag (a / 64 * 64))
  | _, _ => s

/-- The bridge performs the i-th packet that waits there, if it is of a type. -/
def State.hostPerform (s : State) (i : Nat) (typ : PType) : State :=
  match (s.inb nodeHost)[i]? with
  | none => s
  | some p => if p.typ = typ ∧ !p.control then s.hostPacket i p else s

/-- No read of PF0's fetch is left to issue or to return. -/
def HostBridge.pf0Done (h : HostBridge) : Bool := h.pf0Fetch.isNone && !h.reads.any fun r => r.pkt.isNone

/-- The first n bytes that a fetch of PF0 has returned. -/
def HostBridge.pf0Bytes (h : HostBridge) (n : Nat) : List Byte :=
  ((List.range ((n + 63) / 64)).flatMap fun i => lineBytes (Map.get 0 h.pf0Buf i)).take n

/-- Lines of a chart's header, directory and signature (R34). -/
def chartHeaderLines : Nat := 130

/-- TOTAL_LENGTH of the chart whose header a fetch has returned (R34). -/
def HostBridge.chartTotal (h : HostBridge) : Nat := lineNat (Map.get 0 h.pf0Buf 0) 16 4

/-- Once a load has read the header it goes on with the sections, up to TOTAL_LENGTH if that is in its range (R50, R484;
log entry 107, DESIGN CHOICE). -/
def State.pf0Extend (s : State) : State :=
  let h := s.host
  let total := h.chartTotal
  if s.chart.busy = some .load ∧ h.pf0Done ∧ h.pf0Lines = chartHeaderLines ∧ 8320 < total ∧ total ≤ 1114112 then
    let n := (total + 63) / 64
    s.modHost fun h => { h with pf0Lines := n, pf0Fetch := some (s.chart.src.toNat + 64 * chartHeaderLines, n - chartHeaderLines) }
  else s

/-- End an outbound read with data: the engine that waits is answered, and PF0's fetch keeps its line (R50, R428). -/
def State.endRead (s : State) (r : HostRead) (data : Line) : State :=
  match r.pkt with
  | none => (s.modHost fun h => { h with pf0Buf := Map.set 0 h.pf0Buf r.line data }).pf0Extend
  | some p => s.answer nodeHost p .rdata data false

/-- The constellation that an outbound read was issued for. -/
def State.readOwner (s : State) (r : HostRead) : Option Nat :=
  match r.pkt with
  | none => none
  | some p => (s.func r.func).bound.or (s.requester p)

/-- A Function Level Reset of c's functions discards the completions of c's reads (R368). -/
def State.flrOf (s : State) (c : Nat) : Bool := s.funcs.any fun p => p.2.bound == some c && p.2.flr

/-- Take the read with a tag. -/
def State.takeRead (s : State) (tag : Nat) : Option (HostRead × State) :=
  (s.host.reads.find? fun r => r.tag == tag).map fun r =>
    (r, s.modHost fun h => { h with reads := h.reads.filter fun x => x.tag != tag })

def execHostCompletion (tag : Nat) (data : BitVec 512) (s : State) : Out State :=
  .next (if !s.bridgeUp then s
  else match s.takeRead tag with
    | none => s.aer 0 .unexpectedCompletion
    | some (r, s) =>
      let lost : Bool := match s.readOwner r with
        | none => false
        | some c => s.flrOf c
      if lost then s else s.endRead r data)

/-- A read that ends with zero data and an error (R371). -/
def State.failRead (s : State) (tag : Nat) (e : AerErr) : State :=
  match s.takeRead tag with
  | none => s
  | some (r, s) => ((s.endRead r 0).aer r.func e).hostFault (s.readOwner r).toList

/-- Least fabric cycles of the completion timeout: 50 ms after reset, and the lower end of the subrange that ranges A to D
give otherwise (R372; log entry 113, PRESUMED). -/
def HostBridge.timeoutFab (h : HostBridge) : Nat :=
  match h.timeoutRange with
  | 1 => fabUs 50
  | 2 => fabUs 1000
  | 5 => fabUs 16000
  | 6 => fabUs 65000
  | 9 => fabUs 260000
  | 10 => fabUs 1000000
  | 13 => fabUs 4000000
  | 14 => fabUs 17000000
  | _ => fabUs 50000

/-- The outbound read with a tag has waited for the completion timeout, which is not disabled (R372). -/
def State.timedOut (s : State) (tag : Nat) : Bool :=
  !s.host.timeoutOff && s.host.reads.any fun r => r.tag == tag && decide (r.since + s.host.timeoutFab ≤ s.fab)

def execCompletionTimeout (tag : Nat) (s : State) : Out State :=
  clocked s (if s.timedOut tag then s.failRead tag .completionTimeout else s)
def execPoisonedCompletion (tag : Nat) (s : State) : Out State := .next (if s.bridgeUp then s.failRead tag .poisonedTlp else s)
def execUnexpectedCompletion (s : State) : Out State := .next (if s.bridgeUp then s.aer 0 .unexpectedCompletion else s)
def execUnsupportedRequest (f : Nat) (s : State) : Out State :=
  .next (if s.bridgeUp && f < 32 then s.aer f .unsupportedRequest else s)

/-- Every read that a predicate names ends with zero data. -/
def State.endReads (s : State) (which : HostRead → Bool) : State :=
  let gone := s.host.reads.filter which
  overAll gone (fun s r => s.endRead r 0) (s.modHost fun h => { h with reads := h.reads.filter fun r => !which r })

/-- The outbound requests that wait at the bridge, as constellations. -/
def State.hostPending' (s : State) (which : Nat → Nat → Bool) : List Nat :=
  (s.host.reads.filter fun r => which r.func r.addr).filterMap s.readOwner ++
    ((s.inb nodeHost).filter fun p => match p.host with
      | some (f, a) => which f a
      | none => false).filterMap s.requester

/-- Complete with zero every outbound request of the functions and host addresses named, those that wait at the bridge
included, and report HOST if there was one (R370, R371, R373). -/
def State.dropOutbound (s : State) (which : Nat → Nat → Bool) : State :=
  let cs := s.hostPending' which
  let hit (p : Packet) : Bool := !p.control && match p.host with
    | some (f, a) => which f a
    | none => false
  let waiting := (s.inb nodeHost).filter hit
  let some_ := !waiting.isEmpty || s.host.reads.any fun r => which r.func r.addr
  let s := s.setInb nodeHost ((s.inb nodeHost).filter fun p => !hit p)
  let s := overAll waiting (fun s p => s.answer nodeHost p (answerType p.typ) 0 false) s
  let s := s.endReads fun r => which r.func r.addr
  if some_ then s.hostFault cs else s

/-- The data link goes down (R370). -/
def State.linkDrop (s : State) : State :=
  if s.host.linkUp then (s.dropOutbound fun _ _ => true).modHost fun h => { h with linkUp := false } else s

/-- A link that goes down outside a reset is a surprise down (R371; log entry 122, DESIGN CHOICE). -/
def execLinkDown (s : State) : Out State := clocked s (if s.host.linkUp then s.linkDrop.aer 0 .surpriseDown else s)

/-- The data link is up after training: the part is out of reset, and its clocks run (R69, R426). -/
def execDataLinkUp (s : State) : Out State :=
  clocked s (if s.power.perstLow || !s.power.powerGood then s else s.modHost fun h => { h with linkUp := true })

/-- An uncorrectable error in the bridge's queues (R371). -/
def execBridgeInternalError (s : State) : Out State :=
  clocked s ((s.dropOutbound fun _ _ => true).aer 0 .internalError)

/-! ## PF0's outbound traffic (R366) -/

/-- Lines that PF0 may issue now: one for each 32 ns, at most 64 (70.4 fabric cycles a line). -/
def State.pf0Lines (s : State) : Nat := min 64 (s.host.pf0Tokens + (s.fab - s.host.pf0At) * 5 / 352)

/-- PF0's fetch pauses between two lines while a reset that a Function Level Reset requested runs beside a LOAD (R54). -/
def State.pf0Paused (s : State) : Bool := s.chart.busy == some .load && s.chart.flr.isSome

/-- Issue the next line of PF0's fetch, if the limit allows one: a line outside PF0's window is refused, and reads zero. -/
def State.pf0Issue (s : State) : State :=
  match s.host.pf0Fetch with
  | none => s
  | some (a, n) =>
    if s.pf0Lines = 0 ∨ s.pf0Paused then s
    else
      let x := s.func 0
      let tokens := s.pf0Lines - 1
      let since := if s.pf0Lines = 64 then s.fab else s.host.pf0At + ((s.pf0Lines - s.host.pf0Tokens) * 352 + 4) / 5
      let s := s.modHost fun h => { h with
        pf0Fetch := if n ≤ 1 then none else some (a + 64, n - 1), pf0Tokens := tokens, pf0At := since }
      if x.hwHolds a && x.busMaster then
        let tag := s.host.nextTag
        (s.modHost fun h => { h with nextTag := (tag + 1) % 16384, reads := h.reads ++ [{ tag, func := 0, pkt := none, line := h.pf0Lines - n, since := s.fab, addr := x.hwAddr a }] }).tlp 0
          (.memRead 0 tag (x.hwAddr a / 64 * 64))
      else (s.refuseHost 0 0 a).pf0Extend

/-- Begin a fetch of PF0: what the burst allowance permits is issued at once. -/
def State.pf0Begin (s : State) (a n : Nat) : State :=
  overAll (List.range 64) (fun s _ => s.pf0Issue) (s.modHost fun h => { h with
    pf0Fetch := if n = 0 then none else some (a, n), pf0Lines := n, pf0Buf := [] })

/-- A fetch of PF0 is given up, with the reads in progress. -/
def State.pf0Drop (s : State) : State :=
  s.modHost fun h => { h with pf0Fetch := none, pf0Lines := 0, pf0Buf := [], reads := h.reads.filter fun r => r.pkt.isSome }

def execPf0RateRelease (s : State) : Out State := clocked s s.pf0Issue

/-! ## Function Level Resets (R367-R369) -/

/-- A function's block at its reset values; MSI-X table and pending bits are the host's (R367). -/
def Func.blockReset (f : Func) : Func :=
  { f with hwbase := 0, hwlimit := 0, hwhost := 0, inb := [], doorbell := [], dbPend := 0, dbRoute := [] }

/-- A function's configuration state at reset. -/
def Func.configReset (f : Func) : Func :=
  { f with busMaster := false, msixEnable := false, msixMask := false, msixTable := [], msixPba := [] }

/-- The reset of a VF's block and configuration, and of DB_PEND and DB_ROUTE of the other functions of its
constellation (R368 step 3). -/
def State.vfReset (s : State) (f : Nat) : State :=
  let s := s.modFunc f fun x => x.blockReset.configReset
  match (s.func f).bound with
  | none => s
  | some c =>
    overAll ((s.funcs.filter fun p => p.1 != f && p.2.bound == some c).map (·.1))
      (fun s g => s.modFunc g fun x => { x with dbPend := 0, dbRoute := [] }) s

/-- A Function Level Reset of VF f begins: a bound one requests a RESET of its constellation (R54, R368). -/
def State.vfFlr (s : State) (f : Nat) : State :=
  let s := s.modFunc f fun x => { x with flr := true }
  match (s.func f).bound with
  | none => s
  | some c =>
    if (s.con c).st = .dark ∨ (s.con c).flrWaiting.contains f then s
    else s.modCon c fun x => { x with flrWaiting := x.flrWaiting ++ [f] }

def execVfFlr (f : Nat) (s : State) : Out State :=
  .next (if f ≠ 0 && s.hostSees f then s.vfFlr f else s)

/-- The constellation's reset has been made, or the VF is unbound: FLR clears (R368). -/
def execVfFlrComplete (f : Nat) (s : State) : Out State :=
  clocked s (if f = 0 || !(s.func f).flr then s
  else match (s.func f).bound with
    | none => (s.vfReset f).modFunc f fun x => { x with flr := false }
    | some c =>
      if (s.con c).flrWaiting.contains f then s
      else (if (s.con c).st = .dark then s.vfReset f else s).modFunc f fun x => { x with flr := false })

/-- Every VF disappears, with the effect of R368 on its constellation. -/
def State.vfsGone (s : State) : State :=
  overAll ((List.range 31).map (· + 1)) State.vfFlr (s.modHost fun h => { h with vfEnable := false })

/-- The mailbox at its reset values (ch. 20). -/
def State.mailboxReset (s : State) : State :=
  { s with keeper := { s.keeper with mbBusy := false, mbDone := false, mbSeq := 0, mbWait := none, request := [], response := [] } }

/-- A reset of PF0 (R369). -/
def State.pf0Reset (s : State) : State :=
  let s := (s.mailboxReset).modFunc 0 fun x => x.blockReset.configReset
  let s := s.modHost fun h => { h with d3hot := false, doe := none, timeoutRange := 0, timeoutOff := false }
  if s.host.vfEnable then s.vfsGone else s

def execPf0Flr (s : State) : Out State := .next (if s.bridgeUp then s.pf0Reset else s)
def execHotReset (s : State) : Out State := clocked s s.pf0Reset
def execD3hot (s : State) : Out State := .next (if s.bridgeUp then s.modHost fun h => { h with d3hot := true } else s)

/-- The identifiers that configuration space gives: the Vendor and Device ID in the first word, and the Class Code above the
revision (R356; log entry 122, DESIGN CHOICE). -/
def State.configWord (s : State) (f off : Nat) : Word :=
  let open_ := Config.configWord f off
  if off = 0 then BitVec.ofNat 64 (65536 * (if f = 0 then 0x4E00 + s.member.dies else 0x4E80) + 0x1F3C)
  else if off = 8 then BitVec.ofNat 64 (0x120000 * 256 + open_.toNat % 256)
  else open_

/-- A field of an IDE stream's ranges is written (R373). -/
def State.ideWrite (s : State) (k : Fin 8) (put : IdeRange → IdeRange) : State :=
  s.modHost fun h => { h with ideRange := Map.set {} h.ideRange k.val (put (h.ide k.val)) }

/-- A configuration request: before readiness it is answered with Request Retry Status (R426), and afterwards it
sets its field (R356, R362, R363, R369, R372). -/
def State.configure (s : State) (f : Nat) (fld : ConfigField) (v : Word) : State :=
  let on := v.getLsbD 0
  let s := s.tlp f (.configDone f (!s.host.ready) (if s.host.ready && fld == .read then s.configWord f v.toNat else 0))
  if !s.host.ready then s
  else
    match fld with
    | .read => s
    | .busMaster => (s.modFunc f fun x => { x with busMaster := on }).msixFlush f
    | .msixEnable => (s.modFunc f fun x => { x with msixEnable := on }).msixFlush f
    | .msixMask => (s.modFunc f fun x => { x with msixMask := on }).msixFlush f
    | .vfEnable =>
      if f ≠ 0 then s
      else if on then s.modHost fun h => { h with vfEnable := true }
      else if s.host.vfEnable then s.vfsGone else s
    | .completionTimeout => if f ≠ 0 then s else s.modHost fun h => { h with timeoutRange := field v 0 4, timeoutOff := v.getLsbD 4 }
    | .ideRid k => if f ≠ 0 then s else s.ideWrite k fun r => { r with ridFirst := field v 0 16, ridLast := field v 16 16 }
    | .ideBase k j => if f ≠ 0 then s else s.ideWrite k fun r => if j = 0 then { r with base0 := v.toNat } else { r with base1 := v.toNat }
    | .ideLimit k j => if f ≠ 0 then s else s.ideWrite k fun r => if j = 0 then { r with limit0 := v.toNat } else { r with limit1 := v.toNat }
    | .powerState => if f ≠ 0 then s else s.modHost fun h => { h with d3hot := field v 0 2 == 3 }

def execConfigurationRequest (f : Nat) (fld : ConfigField) (v : Word) (s : State) : Out State :=
  .next (if s.bridgeUp && f < 32 && (f = 0 || s.host.vfEnable) then s.configure f fld v else s)

/-! ## IDE and DOE (R373, R374, R421) -/

/-- A check failure (R373). -/
def execIdeCheckFailure (stream : Fin 8) (s : State) : Out State :=
  clocked s (
    let s := s.modHost fun h => { h with
      ideSecure := Map.set false h.ideSecure stream.val false, ideInsecure := Map.set false h.ideInsecure stream.val true }
    s.dropOutbound fun f a => (s.host.ide stream.val).covers f a)

/-- Keys arrive in a secured session, and the stream is secure (R373; log entry 38, DESIGN CHOICE). -/
def execIdeKm (stream : Fin 8) (key : BitVec 256) (s : State) : Out State :=
  .next (if s.bridgeUp then s.modHost fun h => { h with
    ideKey := Map.set 0 h.ideKey stream.val key, ideSecure := Map.set false h.ideSecure stream.val true
    ideInsecure := Map.set false h.ideInsecure stream.val false } else s)

/-- The firmware carries DOE traffic (R374). -/
def State.doeOpen (s : State) : Bool := s.bridgeUp && s.host.ready && s.firmware

/-- Answer the object in progress. -/
def State.doeAnswer (s : State) (bs : List Byte) : State :=
  s.modHost fun h => { h with doe := none, doeOut := h.doeOut ++ [bs] }

/-- A DOE object of at most 64 KiB arrives; one of type Discovery is answered at once, and the others by the
commands that follow from their content (R374). -/
def execDoeObject (obj : List Byte) (s : State) : Out State :=
  .next (if !s.doeOpen || 65536 < obj.length then s
  else if obj.take 3 = [1, 0, 0] then
    s.doeAnswer ((List.range (Config.doeLength obj)).map (Config.doeByte obj))
  else s.modHost fun h => { h with doe := some obj })

def execDoeAbort (s : State) : Out State :=
  .next (if s.bridgeUp && s.host.ready then s.modHost fun h => { h with doe := none, doeQuote := false } else s)

/-- QUOTE_REQ: the firmware writes the nonce and GO, and the quote is the answer (R421). -/
def execQuoteReq (cid : BitVec 8) (nonce : BitVec 256) (s : State) : Out State :=
  .next (if !s.doeOpen || s.trust.quoteBusy || !s.trust.idReady || (32 ≤ cid.toNat && cid != 0xFF) then s
  else
    let s := s.modTrust fun t => { t with quoteNonce := nonce, quoteDone := false }
    (s.quoteGo .keeper (cid.toNat % 32) (cid == 0xFF)).modHost fun h => { h with doeQuote := true })

/-- The quote is signed, and answers the DOE object that asked for it (R420, R421). -/
def execQuoteDone (s : State) : Out State :=
  clocked s (if !s.trust.quoteBusy then s
  else
    let s := s.quoteSigned
    if s.host.doeQuote then (s.doeAnswer (2 :: s.trust.quoteBuf)).modHost fun h => { h with doeQuote := false } else s)

/-- SKEY_REQ is answered with SKEY_ID and SKEY (R421). -/
def execSkeyReq (s : State) : Out State :=
  .next (if s.doeOpen then
    s.doeAnswer (4 :: (bvBytes s.trust.skeyId 4 ++ if s.trust.skeyValid then s.skey else natBytes 1184 0))
  else s)

/-- The SPDM responder answers a message (R421). -/
def execSpdmMessage (msg : List Byte) (s : State) : Out State :=
  .next (if s.doeOpen then
    let log := s.host.spdm ++ msg
    (s.modHost fun h => { h with spdm := log }).doeAnswer ((List.range (Config.spdmLength log)).map (Config.spdmByte log))
  else s)

/-! ## Registers of a function block (ch. 15) -/

/-- A secure IDE stream covers function f. -/
def State.ideSecured (s : State) (f : Nat) : Bool :=
  (List.finRange 8).any fun k => Map.get false s.host.ideSecure k.val && (s.host.ide k.val).serves f

/-- FN_STATUS. -/
def State.fnStatus (s : State) (f : Nat) : Word :=
  let x := s.func f
  BitVec.ofNat 64 (x.bound.getD 0 * 2 ^ 27 + 2 ^ 26 * bit x.bound.isSome + 2 ^ 25 * bit x.flr + 2 ^ 24 * bit (s.ideSecured f) +
    x.vectors % 4096 * 4096)

/-! ## Packets at their homes (R262, R269, R291) -/

/-- A packet of a type that waits at a node is performed there, after code words of its line that `ue` names have gone bad: at a core in its turn at P7, at a stack when
its channel accepts it, at the bridge in any order (R150, R335, R364). -/
def State.atHome (s : State) (node i ue : Nat) (typ : PType) : State :=
  match (s.inb node)[i]? with
  | none => s
  | some p =>
    if p.typ ≠ typ ∨ p.control then s
    else if node < 0x480 then
      if s.p7Head node (subStore (p.line * 64 % 0x2000000)) = some i then
        s.p7Perform node i (BitVec.ofNat 8 (ue % 4 * 4 ^ (p.line % 2)))
      else s
    else if 0x800 ≤ node ∧ node < 0xC00 then s.stkAccept (node - 0x800) i (BitVec.ofNat 4 (ue % 4))
    else if node = nodeHost then s.hostPerform i typ
    else s

def execRdAtHome (node i : Nat) (ue : BitVec 2) (s : State) : Out State := clocked s (s.atHome node i ue.toNat .rd)
def execWrAtHome (node i : Nat) (ue : BitVec 2) (s : State) : Out State := clocked s (s.atHome node i ue.toNat .wr)
def execAtomAtHome (node i : Nat) (ue : BitVec 2) (s : State) : Out State := clocked s (s.atHome node i ue.toNat .atom)
def execAddAtHome (node i : Nat) (ue : BitVec 2) (s : State) : Out State := clocked s (s.atHome node i ue.toNat .add)

end Sys2Proof.Machine
end

