-- ==== Sys2Proof/Machine/Cache.lean ====
section
/-! DEFINITION. Cache maintenance (R108-R112): CWB, CINV, CWBA, CINVA, IINV. -/

namespace Sys2Proof.Machine

open Sys2Proof

/-- The cached lines of core n in the order in which a scan meets them, set by set (R111). -/
def Core.scan (c : Core) : List CLine := (List.range 128).flatMap fun k => c.dcache.filter fun l => dcSet l.line == k

/-- Write back every dirty line of a list of core n's, and drop those lines if `inv` (R111). -/
def State.scanLines (s : State) (t : Tid) (eng : Engine) (inv : Bool) (p : CLine → Bool) : State :=
  let n := coreOf t
  let ls := (s.core n).scan.filter p
  let s := s.modCore n fun c => { c with dcache :=
    if inv then (c.dcache.filter fun l => !p l) else c.dcache.map fun l => if p l then { l with dirty := 0 } else l }
  overAll ls (fun s l => s.writeBack n t eng l) s

/-- The same of every line of the core (R286). -/
def State.scanCache (s : State) (t : Tid) (eng : Engine) (inv : Bool) : State := s.scanLines t eng inv fun _ => true

/-- No write-back that thread t sent is unacknowledged (R111). -/
def State.wbDone (s : State) (t : Tid) : Bool :=
  let isWb (o : Outst) : Bool := match o.use with
    | .writeBack u => u == t
    | _ => false
  let c := s.core (coreOf t)
  !(c.outst.any isWb) && !(c.waitQ.any fun w => match w.2 with
    | some o => isWb o
    | none => false)

/-- An instruction that blocks: it takes the state of its completion, or the thread is blocked in it
(R88, R114). -/
def State.orBlock (s : State) (t : Tid) (op : BlockOp) (r : Option State) : State :=
  match r with
  | some s' => s'
  | none => s.modThr t fun th => { th with blocked := some op }

/-- A maintenance instruction retires once its write-backs are acknowledged (R111). -/
def State.tryMaint (s : State) (t : Tid) : Option State := if s.wbDone t then some (s.past t 4) else none

def execCwb (t : Tid) (ra : Reg) (pg : PgReg) (s : State) : Out State :=
  accessInstr s t [gk ra] (fun _ => .maint false) fun th => th.eaA ra pg

def execCinv (t : Tid) (ra : Reg) (pg : PgReg) (s : State) : Out State :=
  accessInstr s t [gk ra] (fun _ => .maint true) fun th => th.eaA ra pg

/-- What FENCE waits for before it drops clean entries: the store queue and the P4 write items are performed (R156, R283). -/
def State.writesDone (s : State) (t : Tid) : Bool :=
  let th := s.thr t
  th.storeQ.isEmpty && (th.gather.all fun e => e.dirty == 0) && th.p4.all fun i => match i.kind with
    | .ringPush _ _ => false
    | _ => true

/-- Packets that wait to be presented for stream k of thread t. -/
def State.unsent (s : State) (t : Tid) (k : Nat) : Nat :=
  ((s.core (coreOf t)).waitQ.filter fun w => match w.2 with
    | some o => o.thread == tnum t && o.stream == k
    | none => false).length

/-- Packets of stream k of thread t that its store queue holds. -/
def Thread.queuedPackets (th : Thread) (k : Nat) : Nat :=
  (th.storeQ.filter fun q => match q with
    | .packet p => p.typ == .wr && p.stream == k
    | _ => false).length

/-- Stream k of thread t is quiet: nothing is outstanding, waits to be presented or stands in the store queue (R282, R285,
R295). -/
def State.quietStream (s : State) (t : Tid) (k : Nat) : Bool :=
  (s.thr t).outstanding k == 0 && s.unsent t k == 0 && (s.thr t).queuedPackets k == 0

/-- What FENCE waits for: the store queue and the P4 items are empty, every write item of the gather buffer
is performed, and stream 0 is quiet (R283). -/
def State.fenceDone (s : State) (t : Tid) : Bool :=
  decide ((s.thr t).queued = 0) && s.writesDone t && s.quietStream t 0

/-- The clean entries that remain are dropped (R156). -/
def Thread.dropClean (th : Thread) : Thread := { th with gather := th.gather.filter fun e => e.dirty != 0 }

/-- FENCE as far as it comes now: once the write items are performed the clean entries go, which stays so if the fence is
left, and it retires when all that it waits for is done (R156, R283, R284). -/
def State.fenceOn (s : State) (t : Tid) : State :=
  let s := if s.writesDone t then s.modThr t Thread.dropClean else s
  if s.fenceDone t then s.past t 4 else s.modThr t fun th => { th with blocked := some .fence }

/-- A cached store of the thread waits in its store queue, so the scan that follows it has not begun (R108, R111, R294; log
entry 115, DEDUCED). -/
def Thread.cachedWaits (th : Thread) : Bool := th.storeQ.any fun q => match q with
  | .cached .. => true
  | _ => false

/-- Sets of a scan that began in a core cycle, one for each cycle since (R111). -/
def State.setsDue (s : State) (start : Word) : Nat := min 128 (s.clk.ccycle.toNat - start.toNat)

/-- The scan of CWBA or CINVA as far as it comes now, from set `sets` on: it takes the sets in order, one in each core cycle,
and ends when every set is scanned and its write-backs are acknowledged (R111). -/
def State.scanOn (s : State) (t : Tid) (inv thenFence : Bool) (start : Option Word) (sets : Nat) : State :=
  if start.isNone && (s.thr t).cachedWaits then s.modThr t fun th => { th with blocked := some (.scan inv thenFence none 0) }
  else
    let start := start.getD s.clk.ccycle
    let upto := max sets (s.setsDue start)
    let s := s.scanLines t (.thread t) inv fun l => decide (sets ≤ dcSet l.line) && decide (dcSet l.line < upto)
    if upto = 128 ∧ s.wbDone t then (if thenFence then s.fenceOn t else s.past t 4)
    else s.modThr t fun th => { th with blocked := some (.scan inv thenFence (some start) upto) }

/-- CWBA and CINVA scan every set and act on lines of every tag. -/
def execCwba (t : Tid) (s : State) : Out State := issue s t [] fun s => s.scanOn t false false none 0
def execCinva (t : Tid) (s : State) : Out State := issue s t [] fun s => s.scanOn t true false none 0

def execIinv (t : Tid) (s : State) : Out State :=
  issue s t [] fun s => (s.modCore (coreOf t) fun c => { c with icache := [] }).past t 4

end Sys2Proof.Machine
end

