-- ==== Sys2Proof/Machine/Flags.lean ====
section
/-! DEFINITION. Status words: the layouts of the words that instructions and control-space reads return
about pipes, rings, streams, copy channels, barriers, signals and first offenders. -/

namespace Sys2Proof.Machine

open Sys2Proof

/-! ## Pipes (R113, R116) -/

/-- Committed words of a pipe. -/
def rxAvail (l : List PipeWord) : Nat := (l.filter (·.committed)).length
/-- Words of the open message of a pipe. -/
def txOpen (l : List PipeWord) : Nat := (l.filter fun w => !w.committed).length
/-- Words left of the oldest committed message. -/
def rxLeft (l : List PipeWord) : Nat :=
  match (l.filter (·.committed)).findIdx? (·.last) with
  | some i => i + 1
  | none => 0

/-- The PTST status word for the pipes to and from a peer. -/
def ptstWord (tx rx : List PipeWord) : Word :=
  let sealedRx := match rx.filter (·.committed) with
    | w :: _ => w.tag.sealed
    | [] => false
  BitVec.ofNat 64 (65536 * bit sealedRx + txOpen tx * 4096 + (8 - tx.length) * 256 + rxLeft rx * 16 + rxAvail rx)

/-! ## Rings (R165, R167) -/

/-- The ring status word of a ring whose fields agree, from its size and the states of the slots at TAIL
and HEAD; an empty ring of size zero has state 0 in both (R167; log entry 16, DEDUCED). -/
def ringWord (size tailSt headSt : Nat) (done : Bool) : Word :=
  BitVec.ofNat 64 (1024 * tailSt + headSt * 256 + bit done * 16 + bit (size == 0) * 8 + bit (tailSt != 0) * 4 +
    bit (headSt != 2) * 2 + 1)

/-! ## First offenders (ch. 4, R452) -/

/-- FOE_INFO of a core. -/
def Foe.info (e : Foe) : Word :=
  BitVec.ofNat 64 (e.kind * 256 + bit e.level * 64 + bit e.world * 32 + e.issuer * 2 + bit e.valid)

/-! ## Streams (R282) -/

/-- The word that CRD returns: ISSUED in [63:32], DONE in [31:0]. -/
def streamWord (th : Thread) (k : Nat) : Word :=
  (Map.get 0 th.issued k : BitVec 32) ++ (Map.get 0 th.done k : BitVec 32)

end Sys2Proof.Machine
end

