-- ==== Sys2Proof/Machine/Fences.lean ====
section
/-! DEFINITION. Fences, completion-count waits and atomic operations (R282-R285, R291-R293). -/

namespace Sys2Proof.Machine

open Sys2Proof

/-- CWAIT: it waits until at most n packets of the stream are unanswered, of which 4096 or more never block; a wait for 0
waits for every packet of the stream that the thread has issued (R282, R285, R295; log entry 21, DEDUCED). -/
def State.tryCwait (s : State) (t k : Nat) (n : Word) : Option State :=
  if (if n = 0 then s.quietStream t k else decide (4096 ≤ n.toNat ∨ (s.thr t).outstanding k ≤ n.toNat)) then some (s.past t 4) else none

/-- All 16 streams of the thread are quiet. -/
def State.streamsQuiet (s : State) (t : Tid) : Bool := (List.range 16).all fun k => s.quietStream t k

/-- CWAITA (R282). -/
def State.tryCwaita (s : State) (t : Tid) : Option State := if s.streamsQuiet t then some (s.past t 4) else none

def execFence (t : Tid) (s : State) : Out State := issue s t [] fun s => s.fenceOn t

/-- FENCER: the scan of CWBA, then FENCE (R282). -/
def execFencer (t : Tid) (s : State) : Out State := issue s t [] fun s => s.scanOn t false true none 0

/-- FENCEA: the scan of CINVA, then FENCE (R282). -/
def execFencea (t : Tid) (s : State) : Out State := issue s t [] fun s => s.scanOn t true true none 0

def execCwait (t : Tid) (ra : Reg) (k : Fin 16) (s : State) : Out State :=
  issue s t [gk ra] fun s =>
    let n := (s.thr t).greg ra
    s.orBlock t (.cwait k.val n) (s.tryCwait t k.val n)

def execCwaita (t : Tid) (s : State) : Out State :=
  issue s t [] fun s => s.orBlock t .cwaita (s.tryCwaita t)

def execCrd (t : Tid) (rd : Reg) (k : Fin 16) (s : State) : Out State :=
  issue s t [] fun s => (s.setG t rd (streamWord (s.thr t) k.val)).past t 4

/-- An ATOM answered by ATOMR: b is g[RB], and CAS compares with g[RD] (R291). -/
def atomic (op : AtomOp) (t : Tid) (rd ra rb : Reg) (pg : PgReg) (s : State) : Out State :=
  accessInstr s t ([gk ra, gk rb] ++ if op = AtomOp.cas then [gk rd] else [])
    (fun th => .atom op rd (th.greg rb) (th.greg rd)) fun th => th.eaA ra pg

def execSwap (t : Tid) (rd ra rb : Reg) (pg : PgReg) (s : State) : Out State := atomic .swap t rd ra rb pg s
def execCas (t : Tid) (rd ra rb : Reg) (pg : PgReg) (s : State) : Out State := atomic .cas t rd ra rb pg s
def execFadd (t : Tid) (rd ra rb : Reg) (pg : PgReg) (s : State) : Out State := atomic .fadd t rd ra rb pg s
def execFand (t : Tid) (rd ra rb : Reg) (pg : PgReg) (s : State) : Out State := atomic .fand t rd ra rb pg s
def execForA (t : Tid) (rd ra rb : Reg) (pg : PgReg) (s : State) : Out State := atomic .forA t rd ra rb pg s
def execFxor (t : Tid) (rd ra rb : Reg) (pg : PgReg) (s : State) : Out State := atomic .fxor t rd ra rb pg s
def execFmax (t : Tid) (rd ra rb : Reg) (pg : PgReg) (s : State) : Out State := atomic .fmax t rd ra rb pg s
def execFmin (t : Tid) (rd ra rb : Reg) (pg : PgReg) (s : State) : Out State := atomic .fmin t rd ra rb pg s
def execFmaxu (t : Tid) (rd ra rb : Reg) (pg : PgReg) (s : State) : Out State := atomic .fmaxu t rd ra rb pg s
def execFminu (t : Tid) (rd ra rb : Reg) (pg : PgReg) (s : State) : Out State := atomic .fminu t rd ra rb pg s

/-- ALOAD has RB zero (R291). -/
def execAload (t : Tid) (rd ra : Reg) (pg : PgReg) (s : State) : Out State := atomic .aload t rd ra 0 pg s

def execAddn32 (t : Tid) (ra rb : Reg) (pg : PgReg) (rtag : Fin 8) (s : State) : Out State :=
  accessInstr s t [gk ra, gk rb] (fun th => .addn false rtag.val (th.greg rb)) fun th => th.eaA ra pg

def execAddn64 (t : Tid) (ra rb : Reg) (pg : PgReg) (rtag : Fin 8) (s : State) : Out State :=
  accessInstr s t [gk ra, gk rb] (fun th => .addn true rtag.val (th.greg rb)) fun th => th.eaA ra pg

end Sys2Proof.Machine
end

