-- ==== Sys2Proof/Machine/Sync.lean ====
section
/-! DEFINITION. Barriers, signals and the fog alarm (R296-R317), and the kernel boundary of R286. -/

namespace Sys2Proof.Machine

open Sys2Proof

/-! ## Barriers at a core (R296-R303, R307) -/

/-- Control-space address of BARRIER[b] (R297). -/
def barrierAddr (b : Nat) : Nat := 0xF000200001000 + 8 * b

/-- Barrier b lies in the range of thread t's constellation (R297). -/
def State.usable (s : State) (t b : Nat) : Bool :=
  match (s.core (coreOf t)).member with
  | none => false
  | some c => (s.con c).cfg.barFirst ≤ b && b < (s.con c).cfg.barFirst + (s.con c).cfg.barCount

/-- A use of a barrier that the thread may not make (R297). -/
def State.refuseBarrier (s : State) (t b : Nat) : State := s.refuse t 2 (barrierAddr b)

/-- Barrier number in a register (R299). -/
def barNo (w : Word) : Nat := w.toNat % 1024

/-- The ARRIVE packet of a thread: kind 0 ARRIVE, 1 DECLARE, 2 FREE (R304). -/
def State.arrivePkt (s : State) (t b kind : Nat) (data : Line) : Packet :=
  s.addressed { typ := .arrive, line := b, first := kind, tag := (s.thr t).tag, thread := tnum t, src := coreOf t
                cnt := 1, cid := (s.core (coreOf t)).member.getD 0, data }
    (nodeBeacon (Map.get 0 s.chart.pkg.homes b))

/-- Post a packet through the store queue (R303, R309). -/
def State.post (s : State) (t : Tid) (p : Packet) : State := s.modThr t fun th => th.push (.packet p)

/-- BARRIER layout of a replica, with COUNT and ARRIVED zero (R299). -/
def Replica.word (r : Replica) : Word :=
  BitVec.ofNat 64 (2 ^ 48 * r.gen.toNat + 2 ^ 20 * (r.last % 4) + 2 ^ 18 * bit r.kernel + 2 ^ 17 * bit r.declared)

/-- BARRIER layout of a barrier at its home. -/
def Barrier.word (b : Barrier) : Word :=
  BitVec.ofNat 64 (2 ^ 48 * b.gen.toNat + 2 ^ 32 * (b.arrived % 65536) + 2 ^ 20 * (b.last % 4) + 2 ^ 18 * bit b.kernel +
    bit b.declared * 2 ^ 17 + b.count % 8192)

/-- The token of an admitted BARR; the token of an undeclared barrier names it too (R303; log entry 22, DEDUCED). -/
def barToken (r : Replica) (b : Nat) : Word :=
  BitVec.ofNat 64 (2 ^ 31 + 2 ^ 30 * bit (!r.declared) + 65536 * b + r.gen.toNat)

/-- Every copy channel of the thread is idle or stopped (R286, R320). -/
def State.channelsQuiet (s : State) (t : Tid) : Bool :=
  let c := s.core (coreOf t)
  (List.range 4).all fun k => !(c.ownerOf k == tnum t && (c.chan k).st == 1)

/-- BARR of an entitled thread: for a KERNEL barrier, none until step 1 of R286 is complete (R303). -/
def State.tryBarr (s : State) (t : Tid) (rd : Reg) (b : Nat) : Option State :=
  let r := s.replica b
  if !r.declared then some ((s.setG t rd (barToken r b)).past t 4)
  else if r.kernel && !(s.fenceDone t && s.streamsQuiet t && s.channelsQuiet t) then none
  else
    let s := if r.kernel then s.modThr t Thread.dropClean else s
    some (((s.post t (s.arrivePkt t b 0 0)).setG t rd (barToken r b)).past t 4)

def execBarr (t : Tid) (rd ra : Reg) (s : State) : Out State :=
  issue s t [gk ra] fun s =>
    let b := barNo ((s.thr t).greg ra)
    if s.usable t b then s.orBlock t (.barrKernel rd b) (s.tryBarr t rd b)
    else ((s.refuseBarrier t b).setG t rd 0).past t 4

/-- BDECL: COUNT 0 and COUNT above 4608 are refused (R300). -/
def execBdecl (t : Tid) (ra rb : Reg) (s : State) : Out State :=
  issue s t [gk ra, gk rb] fun s =>
    let th := s.thr t
    let b := barNo (th.greg ra)
    let count := (th.greg rb).toNat % 8192
    if !s.usable t b || count == 0 || decide (4608 < count) then (s.refuseBarrier t b).past t 4
    else
      let d : Line := BitVec.ofNat 512 (count + 65536 * bit ((th.greg rb).getLsbD 16))
      (s.post t (s.arrivePkt t b 1 d)).modThr t fun th => { th with blocked := some (.bdecl b) }

/-- BFREE: an undeclared replica sends nothing (R301). -/
def execBfree (t : Tid) (ra : Reg) (s : State) : Out State :=
  issue s t [gk ra] fun s =>
    let b := barNo ((s.thr t).greg ra)
    if !s.usable t b then (s.refuseBarrier t b).past t 4
    else if !(s.replica b).declared then s.past t 4
    else (s.post t (s.arrivePkt t b 2 0)).modThr t fun th => { th with blocked := some (.bfree b) }

def execBstat (t : Tid) (rd ra : Reg) (s : State) : Out State :=
  issue s t [gk ra] fun s =>
    let b := barNo ((s.thr t).greg ra)
    if s.usable t b then (s.setG t rd (s.replica b).word).past t 4
    else ((s.refuseBarrier t b).setG t rd 0).past t 4

/-- BSTATUS of a WAIT on a token: 0 while its barrier condition does not hold (R307). -/
def State.barStatus (s : State) (token : Word) : Nat :=
  let r := s.replica (field token 16 10)
  if !token.getLsbD 31 then 0
  else if token.getLsbD 30 || !r.declared then 2
  else if r.gen != token.setWidth 16 then r.last
  else 0

/-- The barrier condition of R307. -/
def State.barMet (s : State) (token : Word) : Bool :=
  let r := s.replica (field token 16 10)
  token.getLsbD 31 && (token.getLsbD 30 || !r.declared || r.gen != token.setWidth 16)

/-- WAIT completes in the first slot in which one of its conditions holds (R307). -/
def State.tryWait (s : State) (t : Tid) (rd : Reg) (mask : BitVec 16) (token : Word) : Option State :=
  let f := (s.thr t).flags &&& mask
  if f != 0 || s.barMet token || (mask == 0 && !token.getLsbD 31) then
    let s' := s.modThr t fun th => { th with flags := th.flags &&& ~~~ mask }
    some ((s'.setG t rd (BitVec.ofNat 64 (s.barStatus token * 65536 + f.toNat))).past t 4)
  else none

def execWait (t : Tid) (rd ra rb : Reg) (s : State) : Out State :=
  issue s t [gk ra, gk rb] fun s =>
    let th := s.thr t
    let mask := (th.greg ra).setWidth 16
    let token := th.greg rb
    let b := field token 16 10
    if token.getLsbD 31 && !s.usable t b then ((s.refuseBarrier t b).setG t rd 0).past t 4
    else s.orBlock t (.wait rd mask token) (s.tryWait t rd mask token)

/-! ## Signals (R309-R311) -/

def execSig (t : Tid) (ra rb : Reg) (s : State) : Out State :=
  issue s t [gk ra, gk rb] fun s =>
    let th := s.thr t
    let tgt := (th.greg ra).toNat % 8192
    if 4 * s.member.cores ≤ tgt then (s.refuse t 1 0).past t 4
    else
      let p : Packet := { typ := .signal, line := tgt, tag := th.tag, thread := tnum t, src := coreOf t
                          cid := (s.core (coreOf t)).member.getD 0
                          data := BitVec.ofNat 512 ((th.greg rb).toNat % 65536) }
      (s.post t (s.addressed p (coreOf tgt))).past t 4

def execSpoll (t : Tid) (rd ra : Reg) (s : State) : Out State :=
  issue s t [gk ra] fun s =>
    let th := s.thr t
    let mask : BitVec 16 := (th.greg ra).setWidth 16
    (s.setThr t ({ th with flags := th.flags &&& ~~~ mask }.setG rd ((th.flags &&& mask).setWidth 64))).past t 4

def execSigcfg (t : Tid) (ra : Reg) (s : State) : Out State :=
  issue s t [gk ra] fun s =>
    let v := (s.thr t).greg ra
    (s.modThr t fun th => { th with sigie := v.setWidth 16, sigopen := v.extractLsb' 16 16 }).past t 4

/-- The signal word (R311). -/
def Thread.signalWord (th : Thread) : Word :=
  BitVec.ofNat 64 (2 ^ 32 * th.sigopen.toNat + 2 ^ 16 * th.sigie.toNat + th.flags.toNat)

def execSigrd (t : Tid) (rd : Reg) (s : State) : Out State :=
  issue s t [] fun s => (s.setG t rd (s.thr t).signalWord).past t 4

/-- A SIGNAL packet reaches its thread: a sender of another constellation passes only flags of SIGOPEN, and
a packet that sets no flag counts in the package tally (R310). -/
def State.signal (s : State) (core : Nat) (p : Packet) : State :=
  let t := 4 * core + p.line % 4
  let f : BitVec 16 := p.data.setWidth 16
  match (s.core core).member with
  | none => s.tallyUp none
  | some c =>
    let f := if c = p.cid then f else f &&& (s.thr t).sigopen
    if f = 0 then s.tallyUp none else s.modThr t fun th => { th with flags := th.flags ||| f }

def execSignalArrive (core i : Nat) (s : State) : Out State :=
  clocked s (match (s.inb core)[i]? with
    | none => s
    | some p => if p.typ = .signal then (s.setInb core (dropAt (s.inb core) i)).signal core p else s)

/-! ## Barriers at their home (R300, R301, R305) -/

/-- What the replicas learn of a barrier. -/
def Barrier.replica (b : Barrier) : Replica := { declared := b.declared, kernel := b.kernel, gen := b.gen, last := b.last }

/-- The home creates a beacon event, after those it created before (R298). -/
def State.emit (s : State) (die : Nat) (e : BEvent) : State :=
  { s with beacon := Map.set [] s.beacon die (Map.get [] s.beacon die ++ [e]) }

/-- Thread that sent a packet. -/
def Packet.sender (p : Packet) : Tid := 4 * p.src + p.thread

/-- A generation change at the home (R296). -/
def Barrier.advance (b : Barrier) (last : Nat) : Barrier := { b with gen := b.gen + 1, last, arrived := 0 }

/-- Releases that still wait for a flush follow a later event of their barrier, so that no replica falls back (R298, R305). -/
def Barrier.follow (b : Barrier) : Barrier := { b with flushing := b.flushing.map fun x => (x.1, b.replica) }

/-- A DECLARE packet at the home (R300). -/
def State.declare (s : State) (die : Nat) (p : Packet) : State :=
  let b := p.line % 1024
  let x := s.barrier b
  let x := if x.declared && x.arrived != 0 then (x.advance 3) else x
  let x := { x with declared := true, kernel := lineNat p.data 2 1 % 2 == 1, count := lineNat p.data 0 2 % 8192, arrived := 0 }
  (s.modBarrier b fun _ => x.follow).emit die
    { kind := .declare, barrier := b, replica := x.replica, cid := p.cid, by_ := some p.sender }

/-- A FREE packet at the home; freeing an undeclared barrier changes nothing there (R301). -/
def State.free (s : State) (die : Nat) (p : Packet) : State :=
  let b := p.line % 1024
  let x := s.barrier b
  let x := if x.declared then { (x.advance 2) with declared := false }.follow else x
  (s.modBarrier b fun _ => x).emit die
    { kind := .free, barrier := b, replica := x.replica, cid := p.cid, by_ := some p.sender }

/-- One generation of a barrier is complete (R305). -/
def State.release (s : State) (die b cid : Nat) : State :=
  let x := s.barrier b
  let x := { x with arrived := x.arrived - x.count, gen := x.gen + 1, last := 1 }
  if x.kernel then
    (s.modBarrier b fun _ => { x with flushing := x.flushing ++ [(cid, x.replica)] }).emit die
      { kind := .flush, barrier := b, replica := x.replica, cid }
  else (s.modBarrier b fun _ => x.follow).emit die { kind := .release, barrier := b, replica := x.replica, cid }

/-- An ARRIVE packet at the home; one at an undeclared barrier is discarded (R303, R305). -/
def State.arriveHome (s : State) (die : Nat) (p : Packet) : State :=
  let b := p.line % 1024
  if !(s.barrier b).declared then s
  else
    let s := s.modBarrier b fun x => { x with arrived := x.arrived + p.cnt }
    overAll (List.range ((s.barrier b).arrived / (s.barrier b).count)) (fun s _ => s.release die b p.cid) s

/-- The i-th packet at a beacon unit, if it is an ARRIVE of a kind, is performed. -/
def State.beaconPkt (s : State) (die i kind : Nat) (k : State → Packet → State) : State :=
  match (s.inb (nodeBeacon die))[i]? with
  | none => s
  | some p =>
    if p.typ = .arrive ∧ p.first = kind then
      k (s.setInb (nodeBeacon die) (dropAt (s.inb (nodeBeacon die)) i)) p
    else s

def execDeclareAtHome (die i : Nat) (s : State) : Out State :=
  clocked s (s.beaconPkt die i 1 fun s p => s.declare die p)

def execFreeAtHome (die i : Nat) (s : State) : Out State :=
  clocked s (s.beaconPkt die i 2 fun s p => s.free die p)

def execArriveAtHome (die i : Nat) (s : State) : Out State :=
  clocked s (s.beaconPkt die i 0 fun s p => s.arriveHome die p)

/-! ## Events on the beacon tree (R298) -/

/-- The home that the root serves next, round robin in die order, and its oldest event (R298). -/
def State.nextBeacon (s : State) : Option (Nat × BEvent × List BEvent) :=
  ((List.range 8).map fun i => (s.lastBeacon + 1 + i) % 8).findSome? fun d =>
    match Map.get [] s.beacon d with
    | [] => none
    | e :: l => some (d, e, l)

/-- The replicas take an event, and the instruction that waits for it retires (R300, R301). -/
def State.applyEvent (s : State) (e : BEvent) : State :=
  let s := { s with replicas := Map.set {} s.replicas e.barrier e.replica }
  match e.by_ with
  | none => s
  | some t =>
    let waits : Bool := match (s.thr t).blocked with
      | some (.bdecl b) => e.kind == .declare && b == e.barrier
      | some (.bfree b) => e.kind == .free && b == e.barrier
      | _ => false
    if waits then (s.modThr t fun th => { th with blocked := none }).past t 4 else s

/-- Work of constellation c that is no thread's ends in this sampling interval (R313, R314). -/
def State.busied (s : State) (c : Nat) : State := s.modCon c fun x => { x with inbound := true }

/-- The next event reaches every core, if it is of a kind; on a wire that has stopped working it is lost (R439). -/
def State.deliverEvent (s : State) (kind : BKind) (k : State → BEvent → State) : State :=
  match s.nextBeacon with
  | none => s
  | some (d, e, l) =>
    let s' := { s with beacon := Map.set [] s.beacon d l, lastBeacon := d }.busied e.cid
    if e.kind ≠ kind then s else if s.failed.contains (.beacon d) then s' else k s' e

def execDeclareEvent (s : State) : Out State := clocked s (s.deliverEvent .declare State.applyEvent)
def execFreeEvent (s : State) : Out State := clocked s (s.deliverEvent .free State.applyEvent)
def execReleaseEvent (s : State) : Out State := clocked s (s.deliverEvent .release State.applyEvent)

/-- Core n performs and drops the gather-buffer entries of every thread, as CINVA does for the data cache
and IINV for the instruction cache (R156, R286). -/
def State.flushCore (s : State) (n : Nat) : State :=
  let s := overAll (List.range 4) (fun s k =>
    let t := 4 * n + k
    let s := overAll (((s.thr t).gather.filter fun e => e.dirty != 0).map (·.line)) (fun s l => (s.p4Meet t l false).p4Write t l) s
    s.modThr t fun th => { th with gather := [] }) s
  let s := s.scanCache (4 * n) (.cache n) true
  s.modCore n fun c => { c with icache := [] }

def execFlushEvent (s : State) : Out State :=
  clocked s (s.deliverEvent .flush fun s e => overAll (s.members e.cid) State.flushCore s)

/-- Core n has a write-back of a flush whose acknowledgement has not returned. -/
def State.flushing (s : State) (n : Nat) : Bool :=
  let f (o : Outst) : Bool := o.engine == .cache n
  (s.core n).outst.any f || (s.core n).waitQ.any fun w => match w.2 with
    | some o => f o
    | none => false

/-- Flush events of barrier b that have not left the root. -/
def State.flushQueued (s : State) (b : Nat) : Nat :=
  (s.beacon.flatMap fun p => p.2.filter fun e => e.kind == .flush && e.barrier == b).length

/-- Every member core has reported, and the home emits RELEASE (R286, R305). -/
def execFlushReportComplete (b : Nat) (s : State) : Out State :=
  let x := s.barrier b
  clocked s (match x.flushing with
    | [] => s
    | (cid, r) :: l =>
      if s.flushQueued b ≤ l.length ∧ !((s.members cid).any s.flushing) then
        ((s.busied cid).modBarrier b fun x => { x with flushing := l }).emit (Map.get 0 s.chart.pkg.homes b)
          { kind := .release, barrier := b, replica := r, cid }
      else s)

/-- A parity error on the next event is reported to the Keeper as class BEACON, at die 0, which holds the
root. The event stays the next one of the tree: the resent copy is what reaches the replicas (R438; log
entry 23, DEDUCED). -/
def execBeaconParityResend (s : State) : Out State :=
  clocked s (if s.nextBeacon.isSome then s.report 10 [] (nodeBeacon 0) false 0 else s)

/-- A commit, RESET or RELEASE of constellation c frees its barriers, with GEN zero; events of them that
have not left are dropped (ch. 12; log entry 24, DEDUCED). -/
def State.clearBarriers (s : State) (c : Nat) : State :=
  let g := (s.con c).cfg
  let mine (b : Nat) : Bool := g.barFirst ≤ b && b < g.barFirst + g.barCount
  { s with
    barriers := s.barriers.filter fun p => !mine p.1
    replicas := s.replicas.filter fun p => !mine p.1
    beacon := (s.beacon.map fun p => (p.1, p.2.filter fun e => !mine e.barrier)).filter fun p => p.2 != [] }

/-! ## The fog alarm (R312-R315) -/

/-- The instruction in which a thread is blocked counts as a wait, a ring, a fence or a completion count
(run state 2), or as a pipe instruction (3); a cache-maintenance instruction is stalled (1). -/
def BlockOp.runState : BlockOp → Nat
  | .pwr .. | .prd .. => 3
  | .maint | .scan _ false _ _ => 1
  | _ => 2

/-- Run state of thread t in CCB_STATE; `open_` decides where it depends on which register the next
instruction reads (ch. 4; log entry 25, DESIGN CHOICE). -/
def State.runState (s : State) (t : Tid) (open_ : Bool) : Nat :=
  let th := s.thr t
  match (s.core (coreOf t)).member with
  | none => if th.stopped then 4 else 0
  | some c =>
    if th.stopped then 4
    else if (s.core (coreOf t)).locked || (s.con c).st != .running then 5
    else
      match th.blocked with
      | some op => op.runState
      | none =>
        if th.long.isSome || th.walk.isSome || th.pcWait || 8 ≤ th.queued then 1
        else if th.busy != [] && open_ then 1
        else 0

/-- The number of fabric cycles after which a packet that has not returned is lost (R313). -/
def fogLost : Nat := 2 ^ 22

/-- A long instruction is presenting lines (R313). -/
def Long.presents (l : Long) : Bool :=
  l.started && match l.op with
    | .twait => false
    | _ => true

/-- Work in flight of thread t; `recent` is true of an event less than a sampling interval ago. -/
def State.threadBusy (s : State) (t : Tid) : Bool :=
  let th := s.thr t
  let at_ (k : Nat) : Nat := Map.get 0 th.progress k
  let stream (k : Nat) : Bool := (th.outstanding k != 0 && s.fab < at_ k + fogLost) || (at_ k != 0 && s.fab < at_ k + 2200)
  (List.range 16).any stream || !th.p4.isEmpty || (th.gather.any fun e => e.dirty != 0) || !th.unitQ.isEmpty ||
    !th.storeQ.isEmpty || (match th.long with
      | some l => l.presents
      | none => false)

/-- Work in flight of core n beside its threads (R313). -/
def State.coreBusy (s : State) (n : Nat) : Bool :=
  let c := s.core n
  let chan (k : Nat) : Bool :=
    let x := c.chan k
    (x.st == 1 && s.fab < x.progress + fogLost) || (x.progress != 0 && s.fab < x.progress + 2200)
  (List.range 4).any chan || c.arrayBusy.isSome || (c.posted != 0 && s.fab < c.posted + fogLost)

/-- Work is in flight for constellation c (R313). -/
def State.workInFlight (s : State) (c : Nat) : Bool :=
  ((s.members c).any fun n => s.coreBusy n || (List.range 4).any fun k => s.threadBusy (4 * n + k)) ||
    (s.beacon.any fun p => p.2.any fun e => e.cid == c) ||
    (s.barriers.any fun p => p.2.flushing.any fun f => f.1 == c) || (s.con c).inbound

/-- The constellation was quiet throughout the interval that ends now (R312, R314). -/
def State.quiet (s : State) (c : Nat) (open_ : Bool) : Bool :=
  (s.con c).st == .running && !s.workInFlight c &&
    (s.members c).all fun n => (List.range 4).all fun k =>
      let r := s.runState (4 * n + k) open_
      !(s.thr (4 * n + k)).ran && 1 ≤ r && r ≤ 3

/-- A member thread is stopped by the debugger. -/
def State.anyStopped (s : State) (c : Nat) : Bool :=
  (s.members c).any fun n => (List.range 4).any fun k => (s.thr (4 * n + k)).stopped

/-- Escalation to the Keeper (R315). -/
def State.escalate (s : State) (c : Nat) : State :=
  ((s.modCon c fun x => { x with fogKeeper := true, fogSince := none }).hwMark (.fogKeeper c)).eventOpen 2 c none

/-- The alarm is raised (R315). -/
def State.fogRaise (s : State) (c : Nat) : State :=
  let t := s.supThread c
  let s := s.modCon c fun x => { x with
    fogAlarm := true, fogCount := x.fogCount + 1, fogTime := s.now, fogArmed := false, fogSince := some 0 }
  let s := s.hwMark (.fogAlarm c)
  let s := s.modThr t fun th => { th with tookFog := false }
  if s.isSup t c then s.escalate c else s

/-- The start of the next sampling interval: what the last one recorded is forgotten. -/
def State.fogClear (s : State) (c : Nat) : State :=
  let s := s.modCon c fun x => { x with inbound := false }
  overAll (s.members c) (fun s n => overAll (List.range 4) (fun s k =>
    s.modThr (4 * n + k) fun th => { th with ran := false }) s) s

/-- The end of a sampling interval of constellation c; a new FOG_US counts from the next one on (R314, R317). -/
def State.fogSample (s : State) (c : Nat) : State :=
  let d := s.draw
  let s := d.2
  let live := (s.con c).fogLive
  let q := s.quiet c (d.1.getLsbD 0)
  let s := s.fogClear c
  let s := s.modCon c fun x => { x with
    fogAt := s.now, fogLive := x.fogUs, fogQuiet := q, quietRun := if q then x.quietRun + 1 else 0, fogArmed := x.fogArmed || !q
    fogSince := x.fogSince.map (· + 1) }
  if (s.con c).fogArmed && q && live ≤ (s.con c).quietRun then s.fogRaise c else s

/-- A sampling interval ends when it has lasted 1100 sidereal ticks (R314). -/
def execFogSample (c : Nat) (s : State) : Out State :=
  clocked s (if 1100 ≤ (s.now - (s.con c).fogAt).toNat then s.fogSample c else s)

/-- FOG_US intervals after an alarm that the supervisor thread has not taken, it escalates (R315). -/
def execFogEscalation (c : Nat) (s : State) : Out State :=
  clocked s (match (s.con c).fogSince with
    | none => s
    | some k =>
      if (s.con c).fogLive ≤ k then
        if (s.thr (s.supThread c)).tookFog then s.modCon c fun x => { x with fogSince := none } else s.escalate c
      else s)

/-- A write of FOG_STATUS[c]: ALARM and KEEPER are W1C, KEEPER for the Keeper only (ch. 12). -/
def State.fogStatusWrite (s : State) (acc : Accessor) (c : Nat) (v : Word) : State :=
  s.modCon c fun x => { x with
    fogAlarm := s.w1c (.fogAlarm c) x.fogAlarm (v.getLsbD 0)
    fogKeeper := s.w1c (.fogKeeper c) x.fogKeeper (v.getLsbD 2 && acc == .keeper) }

def fogStatusAddr (c : Nat) : Nat := 0xF000200000000 + 16 * c

def execFogAlarmClear (acc : Accessor) (c : Nat) (s : State) : Out State :=
  clocked s (if c < 32 then s.regCmd acc (fogStatusAddr c) fun s => s.fogStatusWrite acc c 1 else s)

/-- FOG_STATUS[c] (ch. 12). -/
def State.fogStatus (s : State) (c : Nat) : Word :=
  let x := s.con c
  BitVec.ofNat 64 (2 ^ 32 * x.fogCount.toNat + bit (s.anyStopped c) * 16 + bit x.fogQuiet * 8 + bit x.fogKeeper * 4 +
    bit x.fogAlarm)

/-! ## Live limits (R317) -/

/-- LIVE_LIMITS[c]: the two fields take written values independently (R317). -/
def State.liveLimits (s : State) (c : Nat) (v : Word) : State :=
  s.modCon c fun x => { x with
    fogUs := if 1 ≤ field v 0 20 ∧ field v 0 20 ≤ 1000000 then field v 0 20 else x.fogUs
    niLimit := if field v 32 13 ≤ x.cfg.niLimit then field v 32 13 else x.niLimit }

def State.liveLimitsWord (s : State) (c : Nat) : Word :=
  BitVec.ofNat 64 (2 ^ 32 * ((s.con c).niLimit % 8192) + (s.con c).fogUs % 2 ^ 20)

def execLiveLimitsWrite (acc : Accessor) (c : Nat) (v : Word) (s : State) : Out State :=
  clocked s (if c < 32 then s.regCmd acc (0xF000200000400 + 8 * c) fun s => s.liveLimits c v else s)

end Sys2Proof.Machine
end

