-- ==== Sys2Proof/Machine/Windows.lean ====
section
/-! DEFINITION. The window control block (R350, R354): WTBASE, WTCOUNT and WINV. -/

namespace Sys2Proof.Machine

open Sys2Proof

/-- Control-space address of the window block of constellation c (R354). -/
def windowAddr (c : Nat) : Nat := 0xF000500000000 + 64 * c

/-- Every member core of c drops the cached entries that `p` names, and starts its walks again (R350). -/
def State.dropEntries (s : State) (c : Nat) (p : WCached → Bool) : State :=
  overAll (s.members c) (fun s n =>
    let again (w : Walk) : Walk := { w with nextLine := 0, got := [], failed := false }
    let s := s.modCore n fun x => { x with
      wcache := x.wcache.filter fun w => !p w, walks := x.walks.map fun w => (w.1, again w.2) }
    overAll (List.range 4) (fun s k =>
      s.modThr (4 * n + k) fun th => { th with walk := th.walk.map again }) s) s

/-- A write of WTBASE, WTCOUNT or WINV of constellation c, by offset (R350, R354). -/
def State.windowWrite (s : State) (c off : Nat) (v : Word) : State :=
  match off with
  | 0x00 => (s.modCon c fun x => { x with wtbase := BitVec.ofNat 64 (v.toNat % 2 ^ 52) }).dropEntries c fun _ => true
  | 0x08 => (s.modCon c fun x => { x with wtcount := BitVec.ofNat 64 (v.toNat % 2 ^ 11) }).dropEntries c fun _ => true
  | 0x10 =>
    if v.getLsbD 11 then s.dropEntries c fun _ => true
    else if field v 0 11 < 1024 then s.dropEntries c fun w => w.index == field v 0 11
    else s
  | _ => s

/-- The write completes at once: a WINV of an entry that cannot exist (R354). -/
def windowAtOnce (off : Nat) (v : Word) : Bool := off == 0x10 && !v.getLsbD 11 && decide (1024 ≤ field v 0 11)

/-- A command that writes a register of the window block of a constellation. -/
def windowCmd (acc : Accessor) (c off : Nat) (v : Word) (s : State) : Out State :=
  clocked s (if c < 32 then s.regCmd acc (windowAddr c + off) fun s => s.windowWrite c off v else s)

def execWtbaseWrite (acc : Accessor) (c : Nat) (v : Word) (s : State) : Out State := windowCmd acc c 0x00 v s
def execWtcountWrite (acc : Accessor) (c : Nat) (v : Word) (s : State) : Out State := windowCmd acc c 0x08 v s
def execWinvAll (acc : Accessor) (c : Nat) (s : State) : Out State := windowCmd acc c 0x10 0x800 s
def execWinvEntry (acc : Accessor) (c e : Nat) (s : State) : Out State :=
  windowCmd acc c 0x10 (BitVec.ofNat 64 (e % 2048)) s

/-- Every member core has reported, and the writes that wait return their WACK (R350). -/
def execWinvDone (c : Nat) (s : State) : Out State :=
  clocked s (overAll (s.con c).winv (fun s p => s.answer nodeControl p .wack 0 false)
    (s.modCon c fun x => { x with winv := [] }))

end Sys2Proof.Machine
end

