-- ==== Sys2Proof/Machine/Chart.lean ====
section
/-! DEFINITION. The chart engine (R50-R62, R431): loads, commits, the lifecycle of a constellation, the
clearing of cores, the start of threads, and resets that a Function Level Reset requests. -/

namespace Sys2Proof.Machine

open Sys2Proof

def State.modChart (s : State) (f : ChartEngine → ChartEngine) : State := { s with chart := f s.chart }

/-! ## Clearing (R56, R434) -/

/-- A core as clearing leaves it: its membership, its lock, its first-offender entry, the RCOUNT of other
constellations, the scrub state and any request of a core reset remain. -/
def Core.cleared (c : Core) : Core :=
  { member := c.member, locked := c.locked, lockCause := c.lockCause, lockSealed := c.lockSealed, lockThread := c.lockThread
    lockPc := c.lockPc, lockTime := c.lockTime, foe := c.foe, rcount := c.rcount, clears := c.clears + 1, scrubRow := c.scrubRow
    scrubLast := c.scrubLast, scrubQ := c.scrubQ, resetPending := c.resetPending, gatedTo := c.gatedTo }

/-- A thread as clearing leaves it: what the debugger holds remains (R461). -/
def Thread.cleared (th : Thread) : Thread := { stopped := th.stopped, reason := th.reason, brkStop := th.brkStop }

/-- The local store of core n is zero, Open and empty. -/
def State.clearLs (s : State) (n : Nat) : State :=
  let out (w k : Nat) : Bool := !(decide (n * w ≤ k) && decide (k < (n + 1) * w))
  { s with ls := s.ls.filter fun p => out 0x2000000 p.1, lsTag := s.lsTag.filter fun p => out (2 ^ 19) p.1
           lsSlot := s.lsSlot.filter fun p => out (2 ^ 19) p.1, lsBad := s.lsBad.filter fun p => out (2 ^ 18) p.1 }

/-- Core n is cleared as in step 2 of R56. -/
def State.clearCore (s : State) (n : Nat) : State :=
  overAll (List.range 4) (fun s k => s.modThr (4 * n + k) Thread.cleared) ((s.clearLs n).modCore n Core.cleared)

/-- Core n is powered down: nothing but its first-offender entry, its CCB_LOCKUP and its count of clears remains (R61,
R143). -/
def State.powerDown (s : State) (n : Nat) : State :=
  overAll (List.range 4) (fun s k => s.setThr (4 * n + k) {})
    ((s.clearLs n).modCore n fun c =>
      { foe := c.foe, clears := c.clears + 1, locked := c.locked, lockCause := c.lockCause, lockSealed := c.lockSealed
        lockThread := c.lockThread, lockPc := c.lockPc, lockTime := c.lockTime })

/-- CCB_LOCKUP of core n is cleared (R143). -/
def Core.unlock (c : Core) : Core :=
  { c with locked := false, lockCause := 0, lockSealed := false, lockThread := 0, lockPc := 0, lockTime := 0 }

/-- The RCOUNT entries of constellation c, at every home, are zero (R272, R354). -/
def State.clearRcount (s : State) (c : Nat) : State :=
  let out (m : Map (BitVec 32)) : Map (BitVec 32) := m.filter fun p => p.1 / 8 != c
  { s with cores := s.cores.map fun p => (p.1, { p.2 with rcount := out p.2.rcount })
           stks := s.stks.map fun p => (p.1, { p.2 with rcount := out p.2.rcount }) }

/-- What a commit, RESET or RELEASE of c drops beside its cores: its barriers, its session area, its RCOUNT
(R57, R272, R354, ch. 12, ch. 17). -/
def State.dropCons (s : State) (c : Nat) : State := ((s.clearBarriers c).clearArea c).clearRcount c

/-! ## Start of threads (R40, R431) -/

/-- Thread t as START from *held* leaves it. -/
def State.startThread (s : State) (t : Tid) : State :=
  match (s.core (coreOf t)).member with
  | none => s
  | some c =>
    let g := (s.con c).cfg
    let start : Word := BitVec.ofNat 64 (g.starts.getD (tnum t) 0)
    let S := s.sliceBytes (coreOf t)
    let last := lsBase (coreOf t) + (tnum t + 1) * S - 1
    let rs := lsBase (coreOf t) + s.rstackBase t
    s.modThr t fun th =>
      { th.cleared with
        pc := pcOf start, level := t == s.supThread c
        pg := Map.set 0 (Map.set 0 [] 0 (start &&& 0xFFFFFFFFFF000000#64)) 1 (BitVec.ofNat 64 (2 ^ 24 * (last / 2 ^ 24)))
        g := Map.set 0 [] 2 (BitVec.ofNat 64 rs)
        flags := th.flags, sigie := th.sigie, sigopen := th.sigopen }

/-! ## Ends of commands (R53, R484) -/

/-- The constellation of a command. -/
def ChartCmd.cid : ChartCmd → Nat
  | .load => 0
  | .commit c | .start c | .stop c | .reset c | .release c => c

/-- CHART_STATUS. -/
def State.chartStatus (s : State) : Word :=
  let x := s.chart
  BitVec.ofNat 64 (bit x.flrDone * 32 + bit x.dropped * 16 + bit x.error * 8 + bit x.done * 4 + bit x.shadow.isSome * 2 + bit x.busy.isSome)

/-- CHART_ERR. -/
def State.chartErr (s : State) : Word :=
  let x := s.chart
  BitVec.ofNat 64 (2 ^ 40 * (x.cid % 32) + 65536 * (x.offset % 2 ^ 24) + x.sect * 256 + x.code)

/-- CSTATE[c]. -/
def State.cstate (s : State) (c : Nat) : Word := BitVec.ofNat 64 ((s.members c).length * 8 + (s.con c).st.code)

/-- The firmware answers the mailbox request in progress: the response, DONE, and MSI-X vector 1 of PF0 (R453, R454). -/
def State.mbReply (s : State) (status : Nat) (payload : List Byte) : State :=
  let k := s.keeper
  let r := readBytes k.request 0 2 ++ natBytes 2 status ++ natBytes 4 payload.length ++ payload
  { s with keeper := { k with mbBusy := false, mbDone := true, mbWait := none, mbSeq := k.mbSeq + 1, response := r } }.hwMark
    .mailboxDone |>.msix 0 1

/-- The answer that a chart command's mailbox request waits for (R455; log entry 46, DEDUCED). -/
def State.mbChart (s : State) : State :=
  if !s.firmware then s
  else
    let status := if s.chart.error then 4 else 0
    match s.keeper.mbWait with
    | none => s
    | some none => s.mbReply status (bvBytes s.chartStatus 8 ++ bvBytes s.chartErr 8)
    | some (some c) => s.mbReply status (bvBytes s.chartErr 8 ++ bvBytes (s.cstate c) 8)

/-- A command ends with CODE, SECTION and OFFSET; the firmware logs it, and answers a mailbox request that waits for
it (R53, R454, R458). -/
def State.chartEnd (s : State) (cid : Nat) (e : LoadErr) : State :=
  let s := s.hwMark .chartDone
  let s := if e.code = 0 then s else s.hwMark .chartError
  ((s.modChart fun x => { x with busy := none, waits := false, done := true, error := e.code != 0, code := e.code, sect := e.sect
                                 offset := e.off, cid }).eventOpen 3 cid (some e.code)).mbChart

/-- A command ends without a failure. -/
def noErr : LoadErr := ⟨0, 0, 0⟩

/-- A command fails with a code. -/
def State.chartFail (s : State) (cid code : Nat) : State := s.chartEnd cid ⟨code, 0, 0⟩

/-! ## Loads (R50) -/

/-- LOAD empties the shadow store and begins to read through PF0's window, the header first (R50, R366, R484). -/
def State.loadBegin (s : State) : State :=
  (s.modChart fun x => { x with busy := some .load, shadow := none }).pf0Begin s.chart.src.toNat chartHeaderLines

/-- The load ends, with the bytes that its reads returned (R50, R484). -/
def State.loadEnd (s : State) : State :=
  let h := s.host
  let bs := h.pf0Bytes (if h.pf0Lines = chartHeaderLines then 8320 else h.chartTotal)
  let s := s.pf0Drop
  match readChart s.member (fun k => (s.stack k).trained) s.chart.keyHash bs with
  | .inl e => s.chartEnd 0 e
  | .inr ch =>
    (s.modChart fun x => { x with shadow := some ch, keyHash := if x.keyHash = 0 then ch.keyHash else x.keyHash }).chartEnd 0 noErr

/-- The load of a chart ends once its reads have returned; a reset that a Function Level Reset requested pauses it (R50,
R54, R484). -/
def execChartLoadComplete (s : State) : Out State :=
  clocked s (if s.chart.busy = some .load ∧ s.chart.flr = none ∧ s.host.pf0Done then s.loadEnd else s)

/-! ## Commit (R55, R56, R367) -/

/-- What the shadow gives constellation c. -/
def Chart.cfg (x : Chart) (c : Nat) : Option ConsCfg := Map.get none x.cons c

/-- Two ranges overlap; an empty one overlaps nothing. -/
def overlaps (a n b k : Nat) : Bool := n != 0 && k != 0 && a < b + k && b < a + n

/-- Check 4 of R55 against constellation d. -/
def State.conflicts (s : State) (c d : Nat) (g : ConsCfg) : Bool :=
  let x := s.con d
  d != c && x.live &&
    (g.cores.any (fun n => (s.core n).member == some d) ||
      overlaps g.barFirst g.barCount x.cfg.barFirst x.cfg.barCount ||
      g.funcs.any (fun f => (s.func f.1).bound == some d) ||
      overlaps g.tableBase (32 * g.entries.length) x.wtbase.toNat (32 * x.wtcount.toNat))

/-- The quotas of c and of the other live constellations exceed 4096 (R55). -/
def State.quotaOver (s : State) (c : Nat) (g : ConsCfg) : Bool :=
  4096 < g.quota + ((allCons.filter fun d => d != c && (s.con d).live).map fun d => (s.con d).cfg.quota).sum

/-- Checks 2 to 4 of R55: the code of the first that fails, 0 if all pass. A core that joins c must not be marked
faulted (log entry 39, DEDUCED). -/
def State.commitCode (s : State) (c : Nat) (sh : Chart) (g : ConsCfg) : Nat :=
  if sh.pkg ≠ s.chart.pkg ∧ !s.allParked then 0x0A
  else if g.cores.any fun n => Map.get false s.chart.faulted n && (s.core n).member != some c then 0x0C
  else if (allCons.any fun d => s.conflicts c d g) || s.quotaOver c g then 0x0B
  else 0

/-- The cores of c leave or are cleared, and the new ones join (R56 steps 1 and 2). -/
def State.commitCores (s : State) (c : Nat) (g : ConsCfg) : State :=
  let s := overAll ((s.members c).filter fun n => !g.cores.contains n) State.powerDown s
  overAll g.cores (fun s n => (s.modCore n fun x => { x with member := some c }).clearCore n) s

/-- Bind the functions of c: a block whose binding changes is reset (R367). -/
def State.bindFuncs (s : State) (c : Nat) (fs : List (Nat × Nat)) : State :=
  let old := (s.funcs.filter fun p => p.2.bound == some c).map (·.1)
  let s := overAll (old.filter fun f => !(fs.map (·.1)).contains f) (fun s f =>
    s.modFunc f fun x => { x.blockReset with bound := none, vectors := 0 }) s
  overAll fs (fun s f => s.modFunc f.1 fun x =>
    if x.bound = some c then { x with vectors := f.2 } else { x.blockReset with bound := some c, vectors := f.2 }) s

/-- Write c's committed window entries to its table (R56 step 3). -/
def State.writeTable (s : State) (c : Nat) (g : ConsCfg) : State :=
  overAll (g.entries.zipIdx) (fun s e =>
    let a := g.tableBase + 32 * e.2
    s.homePut {} (a / 64 * 64) (a % 64) (a % 64 + 31) (lineSet 0 (a % 64) 32 e.1.toNat) [c]) s

/-- A constellation as its committed values make it, *held*. -/
def heldCons (g : ConsCfg) (cmeas : BitVec 256) (flr : List Nat) : Cons :=
  { st := .held, cfg := g, cmeas, wtbase := BitVec.ofNat 64 g.tableBase, wtcount := BitVec.ofNat 64 g.entries.length, fogUs := g.fogUs
    fogLive := g.fogUs
    niLimit := g.niLimit, injOcc := g.injOcc, deflLimit := g.deflLimit, flrWaiting := flr }

/-- Set the package-scope fields, if they change (R56 steps 4 and 5, R79, R380, R477). -/
def State.commitPkg (s : State) (sh : Chart) : State :=
  if sh.pkg = s.chart.pkg then s
  else
    let old := s.chart.pkg
    let s := s.modChart fun x => { x with pkg := sh.pkg, pkgMeas := sh.meas }
    let s := s.portsCommitted
    (if sh.pkg.portPart = old.portPart then s else s.servoCommit).capWrite (if sh.pkg.powerCap = 0 then s.member.maxW else min s.member.maxW sh.pkg.powerCap)

/-- COMMIT(c) (R55). -/
def State.commitBegin (s : State) (c : Nat) (release : State → State) : State :=
  let st := (s.con c).st
  if st ≠ .dark ∧ st ≠ .held then s.chartFail c 0x09
  else
    match s.chart.shadow with
    | none => s.chartFail c 0x08
    | some sh =>
      match sh.cfg c with
      | none => if st = .held then release s else s.chartEnd c noErr
      | some g =>
        let e := s.commitCode c sh g
        if e ≠ 0 then s.chartFail c e
        else ((s.commitCores c g).modCon c fun x => { x with st := .committing }).modChart fun x => { x with busy := some (.commit c) }

/-- The commit finishes (R56). The package-scope fields are set first, since the table lies in a set of the chart that is
committed (log entry 110, DEDUCED). -/
def State.commitEnd (s : State) (c : Nat) : State :=
  match s.chart.shadow with
  | none => s
  | some sh =>
    match sh.cfg c with
    | none => s
    | some g =>
      let flr := (s.con c).flrWaiting
      let s := (s.dropCons c).commitPkg sh
      let s := (s.bindFuncs c g.funcs).setCon c (heldCons g sh.meas flr)
      ((s.clearBarriers c).writeTable c g).chartEnd c noErr

def execCommitComplete (c : Nat) (s : State) : Out State :=
  clocked s (if s.chart.busy = some (.commit c) ∧ (s.con c).st = .committing then s.commitEnd c else s)

/-! ## START, STOP, RESET, RELEASE (R53, R57) -/

/-- A core reset of one of c's cores is in progress (R432). -/
def State.coreResetOn (s : State) (c : Nat) : Bool := (s.members c).any fun n => (s.core n).resetPending

/-- START(c). -/
def State.startGo (s : State) (c : Nat) : State :=
  match (s.con c).st with
  | .held =>
    let s := s.modCon c fun x => { x with st := .running }
    (overAll (s.members c) (fun s n => overAll (List.range 4) (fun s k => s.startThread (4 * n + k)) s) s).chartEnd c noErr
  | .halted =>
    if (s.members c).any fun n => (s.core n).locked then s.chartFail c 0x10
    else (s.modCon c fun x => { x with st := .running, inbound := true }).chartEnd c noErr
  | _ => s.chartFail c 0x09

/-- STOP(c). -/
def State.stopGo (s : State) (c : Nat) : State :=
  if (s.con c).st = .running then
    (s.modCon c fun x => { x with st := .stopping }).modChart fun x => { x with busy := some (.stop c) }
  else s.chartFail c 0x09

/-- Every thread of core n has stopped: a locked-up core has stopped all of them (R53, R142). -/
def State.coreAtPoint (s : State) (n : Nat) : Bool :=
  (s.core n).locked || (List.range 4).all fun k => (s.thr (4 * n + k)).atPoint

/-- Constellation c is *halted* once each of its threads stands where it can stop (R53). -/
def execStopComplete (c : Nat) (s : State) : Out State :=
  clocked s (if (s.con c).st = .stopping ∧ (s.members c).all s.coreAtPoint then
    let s := s.modCon c fun x => { x with st := .halted }
    if s.chart.busy = some (.stop c) then s.chartEnd c noErr else s
  else s)

/-- A RESET or RELEASE of c begins: its slots are retired, its tally jobs end, its member cores are cleared (R57,
R398). -/
def State.resetCores (s : State) (c : Nat) : State :=
  let s := ((s.retireOwned c).tallyDrop c).modCon c fun x => { x with st := .resetting, winv := [] }
  overAll (s.members c) State.clearCore s

/-- A RESET of c begins: it clears CCB_LOCKUP too, which RELEASE does not (R143, R434). -/
def State.resetBegin (s : State) (c : Nat) : State :=
  overAll (s.members c) (fun s n => s.modCore n Core.unlock) (s.resetCores c)

/-- RESET(c), from *held*, *running* or *halted*. -/
def State.resetGo (s : State) (c : Nat) : State :=
  let st := (s.con c).st
  if st = .held ∨ st = .running ∨ st = .halted then (s.resetBegin c).modChart fun x => { x with busy := some (.reset c) }
  else s.chartFail c 0x09

/-- RELEASE(c), from *held* or *halted*. -/
def State.releaseGo (s : State) (c : Nat) : State :=
  let st := (s.con c).st
  if st = .held ∨ st = .halted then (s.resetCores c).modChart fun x => { x with busy := some (.release c) }
  else s.chartFail c 0x09

/-- Constellation c is *held* again, restored from the committed store; requested Function Level Resets that
waited for it are served (R54, R56, R368). -/
def State.resetEnd (s : State) (c : Nat) : State :=
  let x := s.con c
  let waiting := x.flrWaiting
  let s := ((s.dropCons c).setCon c (heldCons x.cfg x.cmeas [])).writeTable c x.cfg
  let s := overAll waiting State.vfReset s
  let s := if waiting.isEmpty then s else (s.modChart fun x => { x with flrDone := true }).hwMark .chartFlrDone
  let s := if s.chart.flr = some c then s.modChart fun x => { x with flr := none } else s
  if s.chart.busy = some (.reset c) then s.chartEnd c noErr else s

def execResetComplete (c : Nat) (s : State) : Out State :=
  clocked s (if (s.con c).st = .resetting ∧ s.chart.busy ≠ some (.release c) then s.resetEnd c else s)

/-- Constellation c is *dark* (R57); a Function Level Reset that joined the release resets its function. -/
def State.releaseEnd (s : State) (c : Nat) : State :=
  let waiting := (s.con c).flrWaiting
  let s := overAll waiting State.vfReset s
  let s := (s.dropCons c).bindFuncs c []
  (overAll (s.members c) State.powerDown (s.setCon c {})).chartEnd c noErr

def execReleaseComplete (c : Nat) (s : State) : Out State :=
  clocked s (if (s.con c).st = .resetting ∧ s.chart.busy = some (.release c) then s.releaseEnd c else s)

/-- A reset that a Function Level Reset requested begins once the chart engine and c allow it (R54). -/
def execFlrReset (c : Nat) (s : State) : Out State :=
  let st := (s.con c).st
  clocked s (if !(s.con c).flrWaiting.isEmpty && s.chart.flr.isNone && (s.chart.busy.isNone || s.chart.busy == some .load) &&
      (st == .held || st == .running || st == .halted) && !s.coreResetOn c then
    (s.resetBegin c).modChart fun x => { x with flr := some c }
  else s)

/-! ## CHART_CTRL (R53) -/

/-- Perform a command; START, RESET and RELEASE wait for a core reset of c (R432). -/
def State.chartPerform (s : State) (cmd c : Nat) : State :=
  let held (k : ChartCmd) (go : State → State) : State :=
    if s.coreResetOn c then s.modChart fun x => { x with busy := some k, waits := true } else go s
  match cmd with
  | 1 => s.loadBegin
  | 2 => s.commitBegin c fun s => s.releaseGo c
  | 3 => held (.start c) fun s => s.startGo c
  | 4 => s.stopGo c
  | 5 => held (.reset c) fun s => s.resetGo c
  | 6 => held (.release c) fun s => s.releaseGo c
  | _ => (s.modChart fun x => { x with shadow := none }).chartEnd 0 noErr

/-- A write of CHART_CTRL (R53): other values of CMD are ignored, and a command written while BUSY is dropped. A command
written while a Function Level Reset's reset runs, with BUSY 0, is performed beside it (log entry 111, DESIGN CHOICE). -/
def State.chartCtrl (s : State) (cmd c : Nat) : State :=
  if cmd = 0 ∨ 7 < cmd then s
  else if s.chart.busy.isSome then (s.modChart fun x => { x with dropped := true }).hwMark .chartDropped
  else (s.modChart fun x => { x with done := false, error := false }).chartPerform cmd c

/-- A core reset has ended, and the command that waited for it begins (R432). -/
def State.chartResume (s : State) : State :=
  if !s.chart.waits then s
  else
    match s.chart.busy with
    | some (.start c) => if s.coreResetOn c then s else (s.modChart fun x => { x with waits := false }).startGo c
    | some (.reset c) => if s.coreResetOn c then s else (s.modChart fun x => { x with waits := false }).resetGo c
    | some (.release c) => if s.coreResetOn c then s else (s.modChart fun x => { x with waits := false }).releaseGo c
    | _ => s

/-- A command by the firmware, which runs (R440). -/
def State.firmwareCmd (s : State) (cmd c : Nat) : State := if s.firmware && c < 32 then s.chartCtrl cmd c else s

def execLoad (s : State) : Out State := .next (s.firmwareCmd 1 0)
def execDiscard (s : State) : Out State := .next (s.firmwareCmd 7 0)
def execCommit (c : Nat) (s : State) : Out State := .next (s.firmwareCmd 2 c)
def execStart (c : Nat) (s : State) : Out State := .next (s.firmwareCmd 3 c)
def execStop (c : Nat) (s : State) : Out State := .next (s.firmwareCmd 4 c)
def execReset (c : Nat) (s : State) : Out State := .next (s.firmwareCmd 5 c)
def execRelease (c : Nat) (s : State) : Out State := .next (s.firmwareCmd 6 c)

/-! ## Registers (ch. 2) -/

def State.chartStatusWrite (s : State) (v : Word) : State :=
  s.modChart fun x => { x with
    flrDone := s.w1c .chartFlrDone x.flrDone (v.getLsbD 5), dropped := s.w1c .chartDropped x.dropped (v.getLsbD 4)
    error := s.w1c .chartError x.error (v.getLsbD 3), done := s.w1c .chartDone x.done (v.getLsbD 2) }

/-- SHADOW_MEAS. -/
def ChartEngine.shadowMeas (x : ChartEngine) : BitVec 256 := (x.shadow.map (·.meas)).getD 0

/-- Word i of a 256-bit register. -/
def measWord (v : BitVec 256) (i : Nat) : Word := v.extractLsb' (64 * i) 64

/-- Word i of FAULTED. -/
def State.faultedWord (s : State) (i : Nat) : Word :=
  BitVec.ofNat 64 ((List.range 64).foldl (fun v j => v + bit (Map.get false s.chart.faulted (64 * i + j)) * 2 ^ j) 0)

/-- A write of word i of FAULTED: bits above the member's core count are ignored. -/
def State.faultedWrite (s : State) (i : Nat) (v : Word) : State :=
  overAll ((List.range 64).filter fun j => 64 * i + j < s.member.cores)
    (fun s j => s.modChart fun x => { x with faulted := Map.set false x.faulted (64 * i + j) (v.getLsbD j) }) s

end Sys2Proof.Machine
end

