-- ==== Sys2Proof/Machine/Boot.lean ====
section
/-! DEFINITION. Resets (R424, R425, R429, R434), the boot ROM (R426-R428), and the resets of one core and of
one thread (R432, R433). -/

namespace Sys2Proof.Machine

open Sys2Proof

def State.modKeeper (s : State) (f : Keeper → Keeper) : State := { s with keeper := f s.keeper }
def State.modPower (s : State) (f : Power → Power) : State := { s with power := f s.power }
def State.modAgeing (s : State) (f : Ageing → Ageing) : State := { s with ageing := f s.ageing }

/-! ## The logbook's current record (R446, R448) -/

/-- Byte i of page p of the logbook. -/
def State.logByte (s : State) (p i : Nat) : Byte :=
  match Map.find s.ageing.pages p with
  | some bs => bs.getD i 0
  | none => Config.logbookInit p i

/-- The 256 bytes of page p. -/
def State.logPage (s : State) (p : Nat) : List Byte := (List.range 256).map (s.logByte p)

/-- Page of the record ring that holds record n, counted from 1. -/
def recordPage (n : Nat) : Nat := 128 + (n - 1) % 256
/-- First page of plan n, counted from 0. -/
def planPage (n : Nat) : Nat := 384 + 2 * (n % 128)

/-- Field of `n` bytes at byte `off` of the current record; zero before the first record. -/
def State.recordField (s : State) (off n : Nat) : Nat :=
  if s.ageing.recSeq = 0 then 0 else leNat (((s.logPage (recordPage s.ageing.recSeq)).drop off).take n)

/-- The counts of a boot, as the current record gives them (R448). -/
def State.restored (s : State) : Ageing :=
  let a := s.ageing
  { minutes := s.recordField 8 4, lastWrite := s.recordField 8 4, planMin := s.recordField 8 4, pages := a.pages, recSeq := a.recSeq
    planNo := a.planNo, faultNo := a.faultNo, faultsDropped := s.recordField 36 4, boots := s.recordField 12 4 + 1
    energyWh := s.recordField 40 8
    lifeCounts := (List.range 4).foldl (fun m i => Map.set 0 m i (s.recordField (48 + 4 * i) 4)) [] }

/-! ## Cold reset (R425, R434) -/

/-- What a cold reset leaves of the power unit: the supplies and the trip; what the telemetry registers show and the limits
take their reset values (R11, R456, R477, R478). -/
def State.coldPower (s : State) : Power :=
  let p := s.power
  { vinOn := p.vinOn, powerGood := p.powerGood, perstLow := p.perstLow, railsOn := p.railsOn, tripped := p.tripped
    perstSeen := p.perstSeen, capW := s.member.maxW
    jtagIr := p.jtagIr, jtagDr := p.jtagDr, scan := p.scan }

/-- A cold reset: every class of state as the table of R434 says; the reference, the cables, the failed wires and
the logbook are no state of the reset. -/
def State.coldReset (s : State) : State :=
  { pending := s.pending, member := s.member, freeCtr := s.freeCtr, clk := { refPresent := s.clk.refPresent }, failed := s.failed
    ports := (s.ports.map fun p => (p.1, ({ cable := p.2.cable } : MPort))).filter fun p => p.2 != {}
    ageing := s.restored, power := s.coldPower }

def execPerstNAssert (s : State) : Out State :=
  .next ((s.coldReset).modPower fun p => { p with perstLow := true, perstSeen := p.tripped })

/-- PERST_N rises: the boot sequence starts, with the lock of the root PLL once power is good and no trip holds the
rails off; no pin is driven from scan any more (R426, R460, R478, R480). -/
def execPerstNRelease (s : State) : Out State := .next (s.modPower fun p => { p with perstLow := false, scan := 0 })

/-! ## States of the boot ROM (R427) -/

/-- A change of BOOT_STATUS.STATE sends MSI-X vector 0 of PF0. -/
def State.bootTo (s : State) (st : BootSt) : State := (s.modKeeper fun k => { k with boot := st }).msix 0 0

/-- The ROM waits again, with ERR; `rejected` counts an attempt, and saturates. -/
def State.bootWait (s : State) (err : Nat) (rejected : Bool) : State :=
  (s.modKeeper fun k => { k with
    bootErr := err, attempts := if rejected then min 65535 (k.attempts + 1) else k.attempts, image := [] }).bootTo .waiting

/-- The self-check passes: configuration requests are answered, and the ROM waits (R426 step 4, R429 step 4). -/
def execRomSelfCheck (s : State) : Out State :=
  clocked s (
    let go (s : State) : State := ((s.modHost fun h => { h with ready := true }).modKeeper fun k => { k with
      image := [], fwMeas := 0, fwVersion := 0, stopped := false }).bootTo .waiting
    match s.keeper.boot with
    | .reset => go s
    | .warm => go (s.bootTo .reset)
    | _ => s)

/-- BAR0 offset of BOOT_CTRL. -/
def bootCtrl : Nat := 0x18

/-- A LENGTH that GO takes. -/
def imageLengthOk (n : Nat) : Bool := n % 64 == 0 && 32768 ≤ n && n ≤ 0x1000000

/-- GO (R427): refused in any state other than *waiting*. -/
def State.bootGo (s : State) (acc : Accessor) : State :=
  let n := s.keeper.bootLen
  if s.keeper.boot ≠ .waiting then s.refuseAccessor acc bootCtrl
  else if imageLengthOk n then
    ((s.modKeeper fun k => { k with bootErr := 0 }).bootTo .loading).pf0Begin s.keeper.bootSrc.toNat (n / 64)
  else s.modKeeper fun k => { k with bootErr := 1, attempts := min 65535 (k.attempts + 1) }

/-- The host driver writes GO. -/
def execBootGo (s : State) : Out State := clocked s (if s.hostSees 0 then s.bootGo (.host 0) else s)

/-- ABORT abandons a fetch or a verification (R427). -/
def State.bootAbort (s : State) : State :=
  if s.keeper.boot = .loading ∨ s.keeper.boot = .verifying then
    s.pf0Drop.bootWait 7 false
  else s

def execBootAbort (s : State) : Out State := clocked s (if s.hostSees 0 then s.bootAbort else s)

/-- The last byte is fetched; a fetch that is refused reads zero (R428). -/
def execImageFetched (s : State) : Out State :=
  clocked s (if s.keeper.boot = .loading ∧ s.host.pf0Done then
    let image := s.host.pf0Bytes s.keeper.bootLen
    (s.pf0Drop.modKeeper fun k => { k with image }).bootTo .verifying
  else s)

/-- Bit of MEMBERS for a member (R427). -/
def Member.imageBit : Member → Nat
  | .nv2 => 0
  | .nv4 => 1
  | .nv8 => 2

/-- Bytes of an image. -/
def imgBytes (im : List Byte) (off n : Nat) : List Byte := (im.drop off).take n
/-- A little-endian field of an image. -/
def imgNat (im : List Byte) (off n : Nat) : Nat := leNat (imgBytes im off n)

/-- The header is well formed: MAGIC and HEADER_FORMAT, and the fields of R427. -/
def imageHeaderOk (im : List Byte) : Bool :=
  let body := imgNat im 16 4
  let zero (off n : Nat) : Bool := (imgBytes im off n).all (· == 0)
  imgNat im 0 4 == 0x6E777248 && imgNat im 4 2 == 1 && imgNat im 6 1 < 8 && body % 64 == 0 && body ≤ 16744448 &&
    im.length == 32768 + body && imgNat im 20 4 % 4 == 0 && imgNat im 20 4 < body && zero 7 1 && zero 24 8 && zero 96 40 &&
    zero 29960 2808

/-- The checks of an image in the order of R428: the ERR of the first that fails, 0 if none does (R422). -/
def imageErr (m : Member) (im : List Byte) : Nat :=
  if !imageHeaderOk im then 2
  else if !(im.getD 6 0).getLsbD m.imageBit then 3
  else if Config.sha256 (imgBytes im 32 64) ≠ Config.romKeyHash then 4
  else if !Config.slh256Verify (imgBytes im 32 64) (imgBytes im 0 168) (imgBytes im 168 29792) then 5
  else if Config.sha256 (im.drop 32768) ≠ BitVec.ofNat 256 (imgNat im 136 32) then 6
  else 0

/-- Offset of rail r in the last plan of the logbook, in steps; zero while there is none (R426 step 8, R449). -/
def State.lastPlan (s : State) (r : Nat) : Int :=
  if s.ageing.planNo = 0 then 0
  else
    let i := 10 + 2 * r
    (s.logByte (planPage (s.ageing.planNo - 1) + i / 256) (i % 256)).toInt

/-- A rail's voltage starts towards an offset, one step in each 10 µs (R445). -/
def State.setOffset (s : State) (r : Nat) (v : Int) : State :=
  s.modAgeing fun a =>
    let rest := a.moves.filter fun x => x.1 != r
    { a with moves := if v = Map.get 0 a.offsets r then rest else rest ++ [(r, v, s.clk.ccycle.toNat + rampCycles)] }

/-- Rails of a member, in order: core groups, fabric, management, stack PHY (R444). -/
def Member.rails (m : Member) : Nat := 21 * m.dies

/-- The firmware sets the FAULTED bits that FAULTED_MAP of the current record marks (R62, R426 step 8, R448). -/
def State.restoreFaulted (s : State) : State :=
  let map := s.recordField 104 144
  overAll ((List.range s.member.cores).filter map.testBit)
    (fun s n => s.modChart fun x => { x with faulted := Map.set false x.faulted n true }) s

/-- The image runs: FW_MEAS and FW_VERSION are written, and the firmware restores FAULTED, applies the last plan and logs
the boot (R62, R419, R427, R445, R458). -/
def State.runImage (s : State) : State :=
  let s := s.restoreFaulted
  let im := s.keeper.image
  let s := (s.modKeeper fun k => { k with
    fwMeas := Config.sha256 (imgBytes im 0 168), fwVersion := BitVec.ofNat 64 (imgNat im 8 8), stopped := false, kickAt := s.clk.ccycle.toNat }).bootTo .running
  (overAll (List.range s.member.rails) (fun s r => s.setOffset r (s.lastPlan r)) s).eventOpen 4 0xFF none

def execVerifyDone (s : State) : Out State :=
  clocked s (if s.keeper.boot = .verifying then
    let e := imageErr s.member s.keeper.image
    if e = 0 then s.runImage else s.bootWait e true
  else s)

/-! ## Warm reset (R429, R434) -/

/-- Slots after a warm reset: retired and then free, their GEN advanced and their keys gone. -/
def Trust.warm (t : Trust) : Trust :=
  { t with
    slots := (t.slots.map fun p => (p.1, ({ gen := if p.2.st = .free ∨ p.2.st = .retired then p.2.gen else p.2.gen + 1 } : Slot))).filter
      fun p => p.2 != {}
    areas := [], keyQ := [], keyRun := none, lastKey := 31, rotatePending := false
    quoteBusy := false, quoteDone := false, quoteNonce := 0, quoteBody := [], quoteBuf := [] }

/-- A bond keeps only its digests. -/
def Bond.warm (b : Bond) : Bond := { sent := b.sent, recv := b.recv, snapSent := b.snapSent, snapRecv := b.snapRecv }

/-- The chart engine keeps CHART_KEY_HASH and FAULTED. -/
def ChartEngine.warm (x : ChartEngine) : ChartEngine := { keyHash := x.keyHash, faulted := x.faulted }

/-- The Keeper keeps the event log, whose SEQ counts from the cold reset, the wall time of the boot and the package
tally. -/
def Keeper.warm (k : Keeper) : Keeper :=
  { boot := .warm, fwMeas := k.fwMeas, fwVersion := k.fwVersion, events := k.events, eventSeq := k.eventSeq, wall := k.wall, violPkg := k.violPkg }

/-- Every core is cleared and powered down, and its first-offender entry goes with it. -/
def State.warmCores (s : State) : State :=
  let s := overAll (List.range s.member.cores) State.powerDown s
  { s with cores := s.cores.map fun p => (p.1, { p.2.unlock with foe := {} }) }

/-- Steps 1 to 3 of R429, with the state of R434. -/
def State.warmReset (s : State) : State :=
  let s := s.warmCores
  let s : State := { s with
    trust := s.trust.warm, chart := s.chart.warm, keeper := s.keeper.warm, cons := [], dies := [], dcFoe := {}, lantern := [], barriers := []
    replicas := [], beacon := [], lastBeacon := 7, tally := [], dbgSel := []
    stks := s.stks.map fun p => (p.1, { p.2 with rcount := [] })
    funcs := s.funcs.map fun p => (p.1, { p.2.blockReset with bound := none, vectors := 0 })
    ports := (s.ports.map fun p => (p.1, ({ cable := p.2.cable } : MPort))).filter fun p => p.2 != {}
    bonds := s.bonds.map fun p => (p.1, p.2.warm)
    clk := { s.clk with servo := .free, trim := 0, hops := 0, offset := 0, goodRun := 0 }
    ageing := { s.ageing with offsets := [], moves := [], planAtBoot := true }
    power := { s.power with faultN := false, capW := s.member.maxW, tjLimit := 95, thrMin := 0 } }
  let s := s.pf0Drop.modHost fun h => { h with doe := none, doeQuote := false, spdm := [] }
  s.msix 0 0

/-- WARM: ignored during *warm* (R427, R429). -/
def State.warmGo (s : State) : State := if s.keeper.boot = .warm then s else s.warmReset

/-- The host driver, or the firmware, writes WARM (R424). -/
def execWarm (s : State) : Out State := clocked s (if s.hostSees 0 || s.firmware then s.warmGo else s)

/-! ## Core reset (R432) -/

/-- The core with an index within a die. -/
def State.dieCore (s : State) (d i : Nat) : Nat := s.member.coreAt d (i % 12) (i / 12)

/-- Address of DC_CORE_RESET. -/
def coreResetAddr (d : Nat) : Nat := 0xF000100000200 + 0x10000 * d

/-- The core may be reset: its constellation is *held* or *halted*, it is not locked up, and no core reset of the die
is busy. -/
def State.mayResetCore (s : State) (d n : Nat) : Bool :=
  !(s.core n).locked && !(s.die d).resetBusy &&
  match (s.core n).member with
  | none => false
  | some c => (s.con c).st == CState.held || (s.con c).st == CState.halted

/-- A core reset starts: the core's copy channels are aborted. -/
def State.coreResetGo (s : State) (d i : Nat) : State :=
  let n := s.dieCore d i
  if i < 144 && s.mayResetCore d n then
    (s.modDie d fun x => { x with resetBusy := true, resetIndex := i, resetCore := i }).modCore n fun c =>
      { (List.range 4).foldl (fun c k => c.setChan k (c.chan k).abort) c with resetPending := true }
  else s.refuseAccessor .keeper (coreResetAddr d)

def execCoreResetGo (die index : Nat) (s : State) : Out State :=
  onDie die s fun s => if s.firmware then s.coreResetGo die (index % 256) else s

/-- The core's streams are quiet, and its channels have no burst in flight. -/
def State.coreQuiet (s : State) (n : Nat) : Bool :=
  (List.range 4).all fun k => s.streamsQuiet (4 * n + k) && ((s.core n).chan k).bursts.isEmpty

/-- The core is cleared, and its threads are in the state of R431. -/
def State.coreResetEnd (s : State) (d n : Nat) : State :=
  let s := overAll (List.range 4) (fun s k => s.startThread (4 * n + k)) (s.clearCore n)
  ((s.modCore n fun c => { c with resetPending := false }).modDie d fun x => { x with resetBusy := false }).chartResume

def execCoreResetDone (die : Nat) (s : State) : Out State :=
  onDie die s fun s =>
    let n := s.dieCore die (s.die die).resetCore
    if (s.die die).resetBusy && (s.core n).resetPending && s.coreQuiet n then s.coreResetEnd die n else s

/-! ## Debugger thread reset (R433) -/

/-- The reset of a stopped thread begins: it is scrubbed out of the Sealed world, and its copy channels are
aborted. -/
def State.tresetGo (s : State) (t : Tid) : State :=
  if !(s.thr t).stopped then s
  else
    let s := if (s.thr t).world then s.leaveSealed t true else s
    let s := s.dropLong t
    (s.modCore (coreOf t) fun c =>
      (List.range 4).foldl (fun c k => if c.ownerOf k = tnum t then c.setChan k (c.chan k).abort else c) c).modThr t fun th =>
        { th with treset := true, blocked := none, walk := none, pcWait := false, p4 := [], refusals := [] }

def execTreset (t : Tid) (s : State) : Out State := clocked s (s.tresetGo t)

/-- The thread's packets have returned: what is buffered is performed, and the thread takes the state of R431 and
stays stopped. -/
def State.tresetEnd (s : State) (t : Tid) : State :=
  let s := overAll (((s.thr t).gather.filter fun e => e.dirty != 0).map (·.line)) (fun s l => (s.p4Meet t l false).p4Write t l) s
  let s := s.modCore (coreOf t) fun c =>
    let c := (c.dropOpen (tnum t)).freeLong (tnum t)
    { c with arrayBusy := if c.arrayBusy = some (tnum t) then none else c.arrayBusy }
  (s.modThr t Thread.cleared).startThread t

def execThreadResetDone (t : Tid) (s : State) : Out State :=
  clocked s (if (s.thr t).treset && (s.thr t).storeQ.isEmpty && s.streamsQuiet t then s.tresetEnd t else s)

end Sys2Proof.Machine
end

