-- ==== Sys2Proof/Machine/Flow.lean ====
section
/-! DEFINITION. Control flow of the scalar core (R95, R100, R101, R105, R106): branches, jumps, calls and
returns, the page registers, UNDEF, and the scalar loads and stores (R96, R98). -/

namespace Sys2Proof.Machine

open Sys2Proof

/-! ## Branches and jumps (R101) -/

/-- A conditional branch. -/
def branch (t : Tid) (ra rb : Reg) (disp : BitVec 16) (p : Word → Word → Bool) (s : State) : Out State :=
  issue s t [gk ra, gk rb] fun s =>
    if p ((s.thr t).greg ra) ((s.thr t).greg rb) then
      s.modThr t fun th => { th with pc := branchTarget th.pc 16 disp }
    else s.past t 4

def execBeq (t : Tid) (ra rb : Reg) (disp : BitVec 16) (s : State) : Out State := branch t ra rb disp (· == ·) s
def execBne (t : Tid) (ra rb : Reg) (disp : BitVec 16) (s : State) : Out State := branch t ra rb disp (· != ·) s
def execBlt (t : Tid) (ra rb : Reg) (disp : BitVec 16) (s : State) : Out State := branch t ra rb disp BitVec.slt s
def execBge (t : Tid) (ra rb : Reg) (disp : BitVec 16) (s : State) : Out State :=
  branch t ra rb disp (fun a b => !a.slt b) s
def execBltu (t : Tid) (ra rb : Reg) (disp : BitVec 16) (s : State) : Out State := branch t ra rb disp BitVec.ult s
def execBgeu (t : Tid) (ra rb : Reg) (disp : BitVec 16) (s : State) : Out State :=
  branch t ra rb disp (fun a b => !a.ult b) s

def execJmp (t : Tid) (disp : BitVec 26) (s : State) : Out State :=
  issue s t [] fun s => s.modThr t fun th => { th with pc := branchTarget th.pc 26 disp }

def execJr (t : Tid) (ra : Reg) (s : State) : Out State :=
  issue s t [gk ra] fun s => s.modThr t fun th => { th with pc := pcOf (th.greg ra) }

/-! ## Calls (R105) -/

/-- Push the return address through the store queue and go to a target, or raise RSTACK. -/
def State.doCall (s : State) (t : Tid) (target : Thread → Word) : State :=
  let th := s.thr t
  if 2048 ≤ th.rsp then s.raise t causeRstack 0 0
  else s.setThr t { th.push (.own (s.rstackBase t + 8 * th.rsp) 8 (th.pc + 4) th.tag th.nextId) with
                    nextId := th.nextId + 1, rsp := th.rsp + 1, pc := target th }

def execCall (t : Tid) (disp : BitVec 26) (s : State) : Out State :=
  issue s t [] fun s => s.doCall t fun th => branchTarget th.pc 26 disp

def execCallr (t : Tid) (ra : Reg) (s : State) : Out State :=
  issue s t [gk ra] fun s => s.doCall t fun th => pcOf (th.greg ra)

/-- RET raises RSTACK: the stack is empty, or a sealed thread is at its entry depth (R105, R135). -/
def Thread.retBad (th : Thread) : Bool := th.rsp == 0 || (th.world && th.rsp == th.bankS.gretRsp.toNat)

/-- Byte offset of the entry that RET pops. -/
def State.retOff (s : State) (t : Tid) : Nat := s.rstackBase t + 8 * ((s.thr t).rsp - 1)

/-- Pop PC (R89, R105, R154): at once from the gather buffer, or through a read item. -/
def State.doRet (s : State) (t : Tid) : State :=
  let th := s.thr t
  let off := s.retOff t
  if th.retBad then s.raise t causeRstack 0 0
  else
    match th.gatherHit off 8 with
    | some v => s.setThr t { th.useEntry (off / 128) with rsp := th.rsp - 1, pc := pcOf (BitVec.ofNat 64 v) }
    | none =>
      let f := th.fresh
      s.setThr t { f.2 with
        rsp := th.rsp - 1, pcWait := true
        p4 := f.2.p4 ++ [{ line := off / 128, kind := .read .pc off 8 false, tag := th.tag, level := th.level,
                            born := f.1 }] }

/-- RET reads its entry as a load does, and so waits for a store to its line (R88). -/
def execRet (t : Tid) (s : State) : Out State :=
  if !(s.thr t).retBad && s.conflict t ((lsBase (coreOf t) + s.retOff t) / 64) then .next s
  else issue s t [] fun s => s.doRet t

/-! ## Page registers, RSP and UNDEF (R95, R100, R101, R106) -/

/-- What SETPG leaves of its source: bits [51:24]. -/
def pageOf (v : Word) : Word := v &&& 0x000FFFFFFF000000#64

def execSetpg (t : Tid) (pg : PgReg) (ra : Reg) (s : State) : Out State :=
  issue s t [gk ra] fun s =>
    (s.modThr t fun th => { th with pg := Map.set 0 th.pg pg.val (pageOf (th.greg ra)) }).past t 4

def execGetpg (t : Tid) (rd : Reg) (pg : PgReg) (s : State) : Out State :=
  issue s t [] fun s => (s.setG t rd ((s.thr t).pgreg pg.val)).past t 4

/-- WRRSP at user level is refused as a register access (R106). -/
def execWrrsp (t : Tid) (ra : Reg) (s : State) : Out State :=
  issue s t [gk ra] fun s =>
    let th := s.thr t
    if th.level then (s.setThr t { th with rsp := min (th.greg ra).toNat 2048 }).past t 4
    else (s.refuse t 5 0).past t 4

/-- Thread t may fetch the word at an address: the window, the slices and the tag of the line permit it (R94, R123,
R158, R348). -/
def State.fetchable (s : State) (t : Tid) (a : Nat) : Bool :=
  let own (off : Nat) := s.ownOk t off false && mayRead (s.thr t).tag (s.halfTag (coreOf t) (off / 64))
  match ownOffset (coreOf t) a with
  | some off => own off
  | none =>
    match s.translateNow (coreOf t) (s.thr t).tag { x := true } a with
    | .ok pa tag _ =>
      match ownOffset (coreOf t) pa with
      | some off => own off
      | none => (s.homeNode ((s.core (coreOf t)).member.getD 0) pa).isSome && !(s.homeRead tag pa).2
    | _ => false

/-- The refused word of an instruction: its second where its first may be fetched (R31, R100; log entry 102, DEDUCED). -/
def State.fetchRefusedAt (s : State) (t : Tid) : Nat :=
  let pc := (s.thr t).pc.toNat
  if s.fetchable t pc then (pc + 4) % 2 ^ 52 else pc

/-- UNDEF; a refused fetch counts as a refused access first (R25, R31, R100). -/
def execUndef (t : Tid) (fetchRefused : Bool) (s : State) : Out State :=
  issue s t [] fun s =>
    let s := if fetchRefused then s.refuse t 3 (s.fetchRefusedAt t) else s
    s.raise t causeUndef 0 0

/-! ## Loads and stores (R96, R98, R101) -/

/-- A load in M form. -/
def loadM (t : Tid) (rd ra : Reg) (pg : PgReg) (imm : BitVec 13) (size : Nat) (sx : Bool) (s : State) : Out State :=
  accessInstr s t [gk ra] (fun _ => .load size sx rd) fun th => th.eaM ra pg imm

/-- A store in M form. -/
def storeM (t : Tid) (rs ra : Reg) (pg : PgReg) (imm : BitVec 13) (size : Nat) (s : State) : Out State :=
  accessInstr s t [gk rs, gk ra] (fun th => .store size (th.greg rs)) fun th => th.eaM ra pg imm

def execLdb (t : Tid) (rd ra : Reg) (pg : PgReg) (imm : BitVec 13) (s : State) : Out State := loadM t rd ra pg imm 1 false s
def execLdbs (t : Tid) (rd ra : Reg) (pg : PgReg) (imm : BitVec 13) (s : State) : Out State := loadM t rd ra pg imm 1 true s
def execLdh (t : Tid) (rd ra : Reg) (pg : PgReg) (imm : BitVec 13) (s : State) : Out State := loadM t rd ra pg imm 2 false s
def execLdhs (t : Tid) (rd ra : Reg) (pg : PgReg) (imm : BitVec 13) (s : State) : Out State := loadM t rd ra pg imm 2 true s
def execLdw (t : Tid) (rd ra : Reg) (pg : PgReg) (imm : BitVec 13) (s : State) : Out State := loadM t rd ra pg imm 4 false s
def execLdws (t : Tid) (rd ra : Reg) (pg : PgReg) (imm : BitVec 13) (s : State) : Out State := loadM t rd ra pg imm 4 true s
def execLdd (t : Tid) (rd ra : Reg) (pg : PgReg) (imm : BitVec 13) (s : State) : Out State := loadM t rd ra pg imm 8 false s
def execStb (t : Tid) (rs ra : Reg) (pg : PgReg) (imm : BitVec 13) (s : State) : Out State := storeM t rs ra pg imm 1 s
def execSth (t : Tid) (rs ra : Reg) (pg : PgReg) (imm : BitVec 13) (s : State) : Out State := storeM t rs ra pg imm 2 s
def execStw (t : Tid) (rs ra : Reg) (pg : PgReg) (imm : BitVec 13) (s : State) : Out State := storeM t rs ra pg imm 4 s
def execStd (t : Tid) (rs ra : Reg) (pg : PgReg) (imm : BitVec 13) (s : State) : Out State := storeM t rs ra pg imm 8 s

def execLdx (t : Tid) (rd ra rb : Reg) (pg : PgReg) (scale size : Fin 4) (sx : Bool) (s : State) : Out State :=
  accessInstr s t [gk ra, gk rb] (fun _ => .load (sizeOf' size.val) sx rd) fun th => th.eaX ra rb pg scale.val

def execStx (t : Tid) (rs ra rb : Reg) (pg : PgReg) (scale size : Fin 4) (s : State) : Out State :=
  accessInstr s t [gk rs, gk ra, gk rb] (fun th => .store (sizeOf' size.val) (th.greg rs))
    fun th => th.eaX ra rb pg scale.val

/-- A posted store leaves the store queue (R88, R108, R154, R256). -/
def execStoreDrain (t : Tid) (s : State) : Out State := clocked s (s.drain t)

/-- A line of the window table returns to the core of a walking thread (R349). -/
def execWalkLineReturn (core : Nat) (by_ : Fin 64) (k : Fin 8) (s : State) : Out State :=
  clocked s (if by_.val < 4 then s.walkLine (4 * core + by_.val) k.val else s.engineWalk core (by_.val - 4) k.val)

/-- An access refused at its source completes (R260). -/
def execSourceRefusalComplete (t : Tid) (s : State) : Out State := clocked s (s.refusalDone t)

end Sys2Proof.Machine
end

