-- ==== Sys2Proof/Machine/Pipes.lean ====
section
/-! DEFINITION. Pipes (R113-R118): PWR, PWRL, PRD, PTST. -/

namespace Sys2Proof.Machine

open Sys2Proof

/-- PWR and PWRL: none while the pipe is full. A word that would be the eighth of an open message
raises PIPE (R114, R115; log entry 15, DEDUCED). -/
def State.tryPwr (s : State) (t : Tid) (last : Bool) (peer : Nat) (v : Word) : Option State :=
  let n := coreOf t
  let k := tnum t
  let p := (s.core n).pipe k peer
  if peer = k then some ((s.refuse t 4 0).past t 4)
  else if !last ∧ 7 ≤ txOpen p then some (s.raise t causePipe 0 0)
  else if 8 ≤ p.length then none
  else
    let w : PipeWord := { data := v, tag := (s.thr t).tag, committed := false, last }
    let p := p ++ [w]
    let p := if last then p.map fun w => { w with committed := true } else p
    some ((s.modCore n fun c => c.setPipe k peer p).past t 4)

/-- The oldest committed word of a pipe and the pipe without it. -/
def popPipe (l : List PipeWord) : Option (PipeWord × List PipeWord) :=
  match l with
  | w :: r => if w.committed then some (w, r) else none
  | [] => none

/-- PRD: none while the pipe holds no committed word; refused on another tag (R114, R117). -/
def State.tryPrd (s : State) (t : Tid) (rd : Reg) (peer : Nat) : Option State :=
  let n := coreOf t
  let k := tnum t
  if peer = k then some (((s.refuse t 4 0).setG t rd 0).past t 4)
  else
    match popPipe ((s.core n).pipe peer k) with
    | none => none
    | some (w, r) =>
      if w.tag = (s.thr t).tag then some (((s.modCore n fun c => c.setPipe peer k r).setG t rd w.data).past t 4)
      else some (((s.refuse t 4 0).setG t rd 0).past t 4)

def execPwr (t : Tid) (peer : Fin 4) (ra : Reg) (s : State) : Out State :=
  issue s t [gk ra] fun s =>
    let v := (s.thr t).greg ra
    s.orBlock t (.pwr false peer.val v) (s.tryPwr t false peer.val v)

def execPwrl (t : Tid) (peer : Fin 4) (ra : Reg) (s : State) : Out State :=
  issue s t [gk ra] fun s =>
    let v := (s.thr t).greg ra
    s.orBlock t (.pwr true peer.val v) (s.tryPwr t true peer.val v)

def execPrd (t : Tid) (rd : Reg) (peer : Fin 4) (s : State) : Out State :=
  issue s t [] fun s => s.orBlock t (.prd rd peer.val) (s.tryPrd t rd peer.val)

/-- PTST never blocks; naming the thread itself is refused and returns zero (R113, R117). -/
def execPtst (t : Tid) (rd : Reg) (peer : Fin 4) (s : State) : Out State :=
  issue s t [] fun s =>
    let c := s.core (coreOf t)
    let k := tnum t
    if peer.val = k then ((s.refuse t 4 0).setG t rd 0).past t 4
    else (s.setG t rd (ptstWord (c.pipe k peer.val) (c.pipe peer.val k))).past t 4

end Sys2Proof.Machine
end

