-- ==== Sys2Proof/Machine/LocalStore.lean ====
section
/-! DEFINITION. The local store: slots of ports P4 and P7 (R150, R155), scrub (R162) and the rings
(R163-R169). -/

namespace Sys2Proof.Machine

open Sys2Proof

/-! ## Slots (R150, R155, R162) -/

/-- In a slot that thread t owns at a sub-store, its oldest item there is performed (R155). `bad` names the code words of the
line in which symbols have gone bad: bits [3:0] two or three, bits [7:4] one (R160). -/
def execP4ItemPerform (t : Tid) (sub : Fin 8) (bad : BitVec 8) (s : State) : Out State := clocked s (s.p4Slot t sub.val bad)

/-- Port P7 performs the oldest inbound request of a sub-store (R150). -/
def execP7InboundPerform (core : Nat) (sub : Fin 8) (bad : BitVec 8) (s : State) : Out State :=
  clocked s (match s.p7Head core sub.val with
    | none => s
    | some i => s.p7Perform core i bad)

/-- Rotation frame of the present core cycle (R147, R153). -/
def State.frame (s : State) : Nat := s.clk.ccycle.toNat / 8

/-- The row that scrub takes next at a sub-store, as a line of the local store, and the core with it taken: a row that a read
has queued, and otherwise the next in order of k (R162). -/
def Core.nextScrub (c : Core) (sub : Nat) : Nat × Core :=
  match Map.get [] c.scrubQ sub with
  | l :: q => (l, { c with scrubQ := Map.set [] c.scrubQ sub q })
  | [] =>
    let k := Map.get 0 c.scrubRow sub
    (8 * k + sub, { c with scrubRow := Map.set 0 c.scrubRow sub ((k + 1) % 28672) })

/-- A scrub slot at a sub-store, after symbols of the row have gone bad: the row is read and corrected, and written back if a
symbol was; a code word that cannot be corrected is reported (R161, R162; log entry 91, DEDUCED). -/
def State.scrub (s : State) (core sub : Nat) (bad : BitVec 8) : State :=
  let r := (s.core core).nextScrub sub
  let s := (s.modCore core fun _ => { r.2 with scrubLast := Map.set 0 r.2.scrubLast sub s.frame }).strikeLs core r.1 bad
  let s := overAll (wordBits ((s.rowBad core r.1).toNat % 16)) (fun s _ =>
    s.report 1 (s.core core).member.toList core false (BitVec.ofNat 64 (lsBase core + 128 * r.1))) s
  s.setRowBad core r.1 (s.rowBad core r.1 &&& 15)

/-- Scrub takes a P7 slot at which no request is queued (R162). -/
def execScrubSlot (core : Nat) (sub : Fin 8) (bad : BitVec 8) (s : State) : Out State :=
  clocked s (if (s.core core).member.isSome && (s.p7Head core sub.val).isNone then s.scrub core sub.val bad else s)

/-- After 4095 frames without one, scrub takes the slot of the next frame (R162). -/
def execScrubForced (core : Nat) (sub : Fin 8) (bad : BitVec 8) (s : State) : Out State :=
  clocked s (if (s.core core).member.isSome && Map.get 0 (s.core core).scrubLast sub.val + 4096 ≤ s.frame then
    s.scrub core sub.val bad else s)

/-! ## Ring registers (R59, R163) -/

def Core.ring (c : Core) (r : Nat) : Ring := Map.get {} c.rings r
def State.ring (s : State) (n r : Nat) : Ring := (s.core n).ring r
def State.modRing (s : State) (n r : Nat) (f : Ring → Ring) : State :=
  s.modCore n fun c => { c with rings := Map.set {} c.rings r (f (c.ring r)) }

/-- The ring's fields agree (R59, R167). -/
def State.ringOk (s : State) (n r : Nat) : Bool :=
  let g := s.ring n r
  if g.size = 0 then g.head == 0 && g.tail == 0
  else
    let S := s.sliceBytes n
    let k := r / 4
    match ownOffset n g.base.toNat with
    | none => false
    | some off =>
      let e := off + 64 * g.size
      g.head < g.size && g.tail < g.size &&
        ((k * S ≤ off && e ≤ (k + 1) * S) || (4 * S ≤ off && e ≤ lsBytes))

/-- Half number of slot i of ring r. -/
def State.ringHalf (s : State) (n r i : Nat) : Nat := (s.ring n r).base.toNat % 0x2000000 / 64 + i

/-- Thread t may write the registers of ring r: its owner, or any thread of the core at O.s (R163). -/
def State.ringWriter (s : State) (t r : Nat) : Bool :=
  tnum t == r / 4 || (!(s.thr t).world && (s.thr t).level)

/-- A refused ring access: kind 6 (R163, R166, R167). -/
def State.refuseRing (s : State) (t : Tid) : State := s.refuse t 6 0

/-- The status of ring r as it stands; zero while its fields disagree (R165, R167). -/
def State.ringStatus (s : State) (n r : Nat) (done : Bool) : Word :=
  let g := s.ring n r
  if !s.ringOk n r then 0
  else if g.size = 0 then ringWord 0 0 0 false
  else ringWord g.size (s.slotSt n (s.ringHalf n r g.tail)) (s.slotSt n (s.ringHalf n r g.head)) done

/-! ## Push and pop (R164-R167) -/

/-- What a push or a pop meets. -/
inductive RingMeet where
  /-- The fields disagree: kind 6 (R167). -/
  | disagree
  /-- Size zero (R167). -/
  | null
  /-- The slot's half may not be read: kind 6 (R166). -/
  | sealedHalf
  /-- The slot is not in the state that the operation needs. -/
  | wait
  /-- Accepted, at a half. -/
  | take (half : Nat)
  deriving DecidableEq, Repr

/-- What a push by thread t to ring r meets. A push needs room for its transfer (R154). -/
def State.meetPush (s : State) (t r : Nat) : RingMeet :=
  let n := coreOf t
  let h := s.ringHalf n r (s.ring n r).tail
  if !s.ringOk n r then .disagree
  else if (s.ring n r).size = 0 then .null
  else if s.slotSt n h = 0 ∧ (s.thr t).queued < 8 then .take h
  else .wait

/-- What a pop by thread t of ring r meets. -/
def State.meetPop (s : State) (t r : Nat) : RingMeet :=
  let n := coreOf t
  let h := s.ringHalf n r (s.ring n r).head
  if !s.ringOk n r then .disagree
  else if (s.ring n r).size = 0 then .null
  else if !mayRead (s.thr t).tag (s.halfTag n h) then .sealedHalf
  else if s.slotSt n h = 2 ∧ (s.thr t).queued < 8 then .take h
  else .wait

/-- A P4 item of thread t at a half. -/
def State.addItem (s : State) (t half : Nat) (k : P4Kind) : State :=
  s.modThr t fun th =>
    let f := th.fresh
    { f.2 with p4 := f.2.p4 ++ [{ line := half / 2, kind := k, tag := th.tag, level := th.level, born := f.1 }] }

/-- An accepted push. -/
def State.ringPush (s : State) (t r half : Nat) (data : Line) : State :=
  let n := coreOf t
  let s := (s.setSlotSt n half 1).modRing n r fun g => { g with tail := (g.tail + 1) % g.size }
  s.addItem t half (.ringPush half data)

/-- The destination of a pop: v[r] or g[r]; it waits for the data. -/
def Thread.popDest (th : Thread) (toV : Bool) (r : Reg) : Dst × Thread := if toV then th.destV r else th.dest r

/-- An accepted pop. -/
def State.ringPop (s : State) (t r half : Nat) (toV : Bool) (rd : Reg) : State :=
  let n := coreOf t
  let s := (s.setSlotSt n half 3).modRing n r fun g => { g with head := (g.head + 1) % g.size }
  let d := (s.thr t).popDest toV rd
  (s.setThr t d.2).addItem t half (.ringPop half d.1)

/-- A pop that yields zero. -/
def State.popZero (s : State) (t : Tid) (toV : Bool) (rd : Reg) : State :=
  if toV then s.setV t rd 0 else s.setG t rd 0

/-- A blocking push (R164, R166, R167). -/
def State.tryPush (s : State) (t r : Nat) (data : Line) : Option State :=
  match s.meetPush t r with
  | .disagree | .sealedHalf => some ((s.refuseRing t).past t 4)
  | .null => some (s.past t 4)
  | .wait => none
  | .take h => some ((s.ringPush t r h data).past t 4)

/-- A blocking pop. -/
def State.tryPop (s : State) (t r : Nat) (toV : Bool) (rd : Reg) : Option State :=
  match s.meetPop t r with
  | .disagree | .sealedHalf => some (((s.refuseRing t).popZero t toV rd).past t 4)
  | .null => some ((s.popZero t toV rd).past t 4)
  | .wait => none
  | .take h => some ((s.ringPop t r h toV rd).past t 4)

/-- A non-blocking push: the status describes the ring before it (R165). -/
def State.testPush (s : State) (t r : Nat) (data : Line) (rd : Reg) : State :=
  let n := coreOf t
  (match s.meetPush t r with
   | .disagree | .sealedHalf => (s.refuseRing t).setG t rd 0
   | .null | .wait => s.setG t rd (s.ringStatus n r false)
   | .take h => (s.ringPush t r h data).setG t rd (s.ringStatus n r true)).past t 4

/-- A non-blocking pop, with data to `dst`: one that is not accepted writes zero there (R165, R166). In a register named for both,
the data stands (log entry 94, DESIGN CHOICE). -/
def State.testPop (s : State) (t r : Nat) (toV : Bool) (dst rd : Reg) : State :=
  let n := coreOf t
  (match s.meetPop t r with
   | .disagree | .sealedHalf => ((s.refuseRing t).setG t rd 0).popZero t toV dst
   | .null | .wait => (s.setG t rd (s.ringStatus n r false)).popZero t toV dst
   | .take h => (s.setG t rd (s.ringStatus n r true)).ringPop t r h toV dst).past t 4

/-- g[ra] as bytes 0-7 of a slot. -/
def wideOf (v : Word) : Line := v.setWidth 512

def execRpush (t : Tid) (ring : Fin 16) (va : Reg) (s : State) : Out State :=
  issue s t [vk va] fun s =>
    let d := (s.thr t).vreg va
    s.orBlock t (.rpush ring.val d) (s.tryPush t ring.val d)

def execRpushg (t : Tid) (ring : Fin 16) (ra : Reg) (s : State) : Out State :=
  issue s t [gk ra] fun s =>
    let d := wideOf ((s.thr t).greg ra)
    s.orBlock t (.rpush ring.val d) (s.tryPush t ring.val d)

def execRpop (t : Tid) (vd : Reg) (ring : Fin 16) (s : State) : Out State :=
  issue s t [] fun s => s.orBlock t (.rpop ring.val true vd) (s.tryPop t ring.val true vd)

def execRpopg (t : Tid) (rd : Reg) (ring : Fin 16) (s : State) : Out State :=
  issue s t [] fun s => s.orBlock t (.rpop ring.val false rd) (s.tryPop t ring.val false rd)

def execRtpush (t : Tid) (rd : Reg) (ring : Fin 16) (va : Reg) (s : State) : Out State :=
  issue s t [vk va] fun s => s.testPush t ring.val ((s.thr t).vreg va) rd

def execRtpushg (t : Tid) (rd : Reg) (ring : Fin 16) (ra : Reg) (s : State) : Out State :=
  issue s t [gk ra] fun s => s.testPush t ring.val (wideOf ((s.thr t).greg ra)) rd

def execRtpop (t : Tid) (rd : Reg) (ring : Fin 16) (va : Reg) (s : State) : Out State :=
  issue s t [] fun s => s.testPop t ring.val true va rd

def execRtpopg (t : Tid) (rd : Reg) (ring : Fin 16) (ra : Reg) (s : State) : Out State :=
  issue s t [] fun s => s.testPop t ring.val false ra rd

/-- RSTAT; the read of a ring whose fields disagree counts as a refused access (R59, R167). -/
def execRstat (t : Tid) (rd : Reg) (ring : Fin 16) (s : State) : Out State :=
  issue s t [] fun s =>
    let n := coreOf t
    let s' := if s.ringOk n ring.val then s else s.refuseRing t
    (s'.setG t rd (s.ringStatus n ring.val false)).past t 4

/-- Ring field f: base, size, head, tail (R163). -/
def Ring.read (g : Ring) : Nat → Word
  | 0 => g.base
  | 1 => BitVec.ofNat 64 g.size
  | 2 => BitVec.ofNat 64 g.head
  | _ => BitVec.ofNat 64 g.tail

def execRrd (t : Tid) (rd : Reg) (ring : Fin 16) (f : Fin 4) (s : State) : Out State :=
  issue s t [] fun s => (s.setG t rd ((s.ring (coreOf t) ring.val).read f.val)).past t 4

/-- The fields that a ring register holds of a written word (R163). -/
def Ring.write (g : Ring) (f : Nat) (v : Word) : Ring :=
  match f with
  | 0 => { g with base := v &&& 0x000FFFFFFFFFFFC0#64 }
  | 1 => { g with size := v.toNat % 2 ^ 20 }
  | 2 => { g with head := v.toNat % 2 ^ 20 }
  | _ => { g with tail := v.toNat % 2 ^ 20 }

/-- A write of a ring register, by its writers only (R163). -/
def ringWrite (t : Tid) (ring : Fin 16) (ra : Reg) (f : Nat) (s : State) : Out State :=
  issue s t [gk ra] fun s =>
    (if s.ringWriter t ring.val then s.modRing (coreOf t) ring.val fun g => g.write f ((s.thr t).greg ra)
     else s.refuseRing t).past t 4

def execRwbase (t : Tid) (ring : Fin 16) (ra : Reg) (s : State) : Out State := ringWrite t ring ra 0 s
def execRwsize (t : Tid) (ring : Fin 16) (ra : Reg) (s : State) : Out State := ringWrite t ring ra 1 s
def execRwhead (t : Tid) (ring : Fin 16) (ra : Reg) (s : State) : Out State := ringWrite t ring ra 2 s
def execRwtail (t : Tid) (ring : Fin 16) (ra : Reg) (s : State) : Out State := ringWrite t ring ra 3 s

/-- RCLR: none while a slot of the ring is in transfer (R169). -/
def State.tryRclr (s : State) (t r : Nat) : Option State :=
  let n := coreOf t
  let g := s.ring n r
  let first := 2 ^ 19 * n + s.ringHalf n r 0
  let inRing (k : Nat) : Bool := first ≤ k && k < first + g.size
  if !s.ringWriter t r || !s.ringOk n r then some ((s.refuseRing t).past t 4)
  else if s.lsSlot.any fun p => inRing p.1 && p.2 % 2 == 1 then none
  else
    let s := { s with lsSlot := s.lsSlot.filter fun p => !inRing p.1 }
    some ((s.modRing n r fun g => { g with head := 0, tail := 0 }).past t 4)

def execRclr (t : Tid) (ring : Fin 16) (s : State) : Out State :=
  issue s t [] fun s => s.orBlock t (.rclr ring.val) (s.tryRclr t ring.val)

end Sys2Proof.Machine
end

