-- ==== Sys2Proof/Machine/Matrix.lean ====
section
/-! DEFINITION. The matrix unit (R170-R197): tile registers, unit instructions, long tile instructions,
the shape checks, the arithmetic of MMA, the fused tile store, RANGE and the context records. -/

namespace Sys2Proof.Machine

open Sys2Proof

/-! ## Tile registers (R170-R172, R182) -/

/-- World tag of tile 0 ta, 1 tb, 2 z0, 3 z1. -/
def Thread.tileTag (th : Thread) : Nat → Tag
  | 0 => th.ta.tag
  | 1 => th.tb.tag
  | 2 => th.z0.tag
  | _ => th.z1.tag

/-- State of a tile: 0 empty, 1 partial, 2 full. -/
def Thread.tileSt (th : Thread) : Nat → Nat
  | 0 => th.ta.st
  | 1 => th.tb.st
  | 2 => th.z0.st
  | _ => th.z1.st

def Thread.acc (th : Thread) (z : Nat) : AccTile := if z = 0 then th.z0 else th.z1
def Thread.setAcc (th : Thread) (z : Nat) (a : AccTile) : Thread :=
  if z = 0 then { th with z0 := a } else { th with z1 := a }
def Thread.opnd (th : Thread) (b : Bool) : OpTile := if b then th.tb else th.ta
def Thread.setOpnd (th : Thread) (b : Bool) (x : OpTile) : Thread :=
  if b then { th with tb := x } else { th with ta := x }

/-- A tile becomes empty. -/
def Thread.emptyTile (th : Thread) (i : Nat) : Thread :=
  if i < 2 then th.setOpnd (i == 1) {} else th.setAcc (i - 2) {}

/-- A tile becomes partial (R171, R194). -/
def Thread.partialTile (th : Thread) (i : Nat) : Thread :=
  if i < 2 then th.setOpnd (i == 1) { th.opnd (i == 1) with st := 1 }
  else th.setAcc (i - 2) { th.acc (i - 2) with st := 1 }

/-- TSTATE (R182). -/
def Thread.tstate (th : Thread) : Word :=
  let f (g : Nat → Nat) (k : Nat) : Nat := ((List.range 4).map fun i => g i * 2 ^ (k * i)).sum
  BitVec.ofNat 64 (65536 * th.why.toNat + 4096 * th.unitQ.length + f (fun i => bit (th.tileTag i).sealed) 1 * 256 +
    f th.tileSt 2)

/-! ## Fields of TSHAPE (R177) -/

def shM (w : Word) : Nat := field w 0 6 + 1
def shN (w : Word) : Nat := field w 6 6 + 1
def shK (w : Word) : Nat := field w 12 7
def shFmtA (w : Word) : Nat := field w 20 4
def shFmtB (w : Word) : Nat := field w 24 4
def shClear (w : Word) : Bool := w.getLsbD 28
def shTA (w : Word) : Bool := w.getLsbD 29
def shTB (w : Word) : Bool := w.getLsbD 30
def shBSA (w : Word) : Bool := w.getLsbD 31
def shBSB (w : Word) : Bool := w.getLsbD 32
def shXsrc (w : Word) : Nat := field w 33 2
def shRef (w : Word) : Bool := w.getLsbD 35

/-- Writable bits of TSHAPE and TSTART. -/
def tshapeMask : Word := 0x0000000FFFF7FFFF
def tstartMask : Word := 0xFFFFFFFF01FFFFFF

/-! ## The checks of R180 -/

/-- Bytes that K elements of a width take. -/
def packedBytes (k w : Nat) : Nat := (k * w + 7) / 8

/-- An operand fits (WHY 4 and 5). -/
def fits (x : OpTile) (tr sc : Bool) (w k ext : Nat) : Bool :=
  x.st == 2 &&
  (if tr then k ≤ x.rows && ext ≤ x.bytes
   else ext ≤ x.rows && packedBytes k w + (if sc then (k + 31) / 32 else 0) ≤ x.bytes) &&
  !(tr && (sc || w != 8))

/-- The pairs of the rate table of R183. -/
def ratePair (a b : Nat) : Bool :=
  (a < 4 && (b < 4 || b == 7 || b == 8)) || (a == b && (a == 4 || a == 5 || a == 0xC || a == 0xD))

/-- The first failing condition of R180 for an MMA on z, or none. -/
def mmaWhy (w : Word) (refOk : Bool) (a b : OpTile) (z : AccTile) (clear : Bool) : Option Nat :=
  let fa := shFmtA w
  let fb := shFmtB w
  let as (f : Nat) : Bool := f == 0xC || f == 0xD
  if 64 < shK w || shXsrc w == 3 || !(fa < 6 || as fa) || !(fb < 6 || fb == 7 || fb == 8 || as fb) then some 1
  else if (shRef w && !refOk) || (shRef w && !(as fa && as fb)) || (!shRef w && (as fa || as fb)) then some 2
  else if !ratePair fa fb then some 3
  else if 0 < shK w && !fits a (shTA w) (shBSA w) (fmtBits fa) (shK w) (shM w) then some 4
  else if (0 < shK w && !fits b (shTB w) (shBSB w) (fmtBits fb) (shK w) (shN w)) || (fb == 7 && shXsrc w == 0) ||
    (fb == 8 && shXsrc w != 2) then some 5
  else if !clear && (z.st != 2 || z.m < shM w || z.n < shN w) then some 6
  else none

/-! ## Arithmetic of MMA (R206, R207, R209, R210, R232) -/

/-- Element of a tile at bit position `pos` of row r, w bits wide. -/
def tileBits (d : Map Line) (r pos w : Nat) : Nat := ((Map.get 0 d r).toNat >>> pos) % 2 ^ w
def tileByte (d : Map Line) (r i : Nat) : Nat := tileBits d r (8 * i) 8

/-- The raw element (ext, k) of an operand (R179). -/
def opndRaw (d : Map Line) (tr : Bool) (w ext k : Nat) : Nat :=
  if tr then tileByte d k ext else tileBits d ext (k * w) w

/-- The block scale of an element, if scales are in use (R179, R206). -/
def opndScale (d : Map Line) (sc : Bool) (w ext k depth : Nat) (v : Val) : Val :=
  if sc then v.scaled (tileByte d ext (packedBytes depth w + k / 32)) else v

/-- Two's complement value of n bits. -/
def sext (n v : Nat) : Int := if v < 2 ^ (n - 1) then v else (v : Int) - 2 ^ n

def xsByte (x : Map Byte) (i : Nat) : Nat := (Map.get 0 x i).toNat
def xsHalf (x : Map Byte) (i : Nat) : Nat := xsByte x i + 256 * xsByte x (i + 1)

/-- Expansion of an integer weight code in column n to NF8 (R190, R207). -/
def expand (x : Map Byte) (xsrc w n c : Nat) : Val :=
  let v :=
    if xsrc = 1 then
      let j := xsByte x (512 + n / 2) / 16 ^ (n % 2) % 16
      nf16.decode (xsHalf x (32 * j + 2 * c))
    else
      let d := sext w c - sext 8 (xsByte x (672 + n))
      let s := nf16.decode (xsHalf x (544 + 2 * n))
      match s with
      | .inf t => .inf (if d = 0 then Config.zeroSign c n 0 else t != decide (d < 0))
      | s => s.mul (Val.ofInt d)
  nf8.decode (nf8.encode .even v)

/-- A[m][k]. -/
def elemA (w : Word) (d : Map Line) (m k : Nat) : Val :=
  let f := shFmtA w
  opndScale d (shBSA w) (fmtBits f) m k (shK w) ((fmtOf f).decode (codeOf f (opndRaw d (shTA w) (fmtBits f) m k)))

/-- B[k][n]. -/
def elemB (w : Word) (d : Map Line) (x : Map Byte) (n k : Nat) : Val :=
  let f := shFmtB w
  let raw := opndRaw d (shTB w) (fmtBits f) n k
  let v := if f = 7 then expand x (shXsrc w) 4 n raw
    else if f = 8 then expand x (shXsrc w) 8 n raw
    else (fmtOf f).decode (codeOf f raw)
  opndScale d (shBSB w) (fmtBits f) n k (shK w) v

/-- A zero result is +0 (R209, R232). -/
def Val.plusZero (v : Val) : Val := if v.isZero then .zero else v

/-- One step of the A-series accumulator (R232). -/
def asStep (acc p : Val) : Val := (asAcc.decode (asAcc.encode .away (acc.add p))).plusZero

/-- The new NK40 code of an element from its products and its old value (R209, R232). -/
def mmaElem (ref : Bool) (start : Val) (ps : List Val) : BitVec 40 :=
  let v := if ref then ps.foldl asStep start else (ps.foldl Val.add (Val.zero)).add start
  BitVec.ofNat 40 (nk40.encode .even v.plusZero)

/-- The accumulator's elements after an MMA with K > 0; `a`, `b` are the operand bytes as the issuer may
read them. -/
def mmaData (w : Word) (clear : Bool) (a b : Map Line) (x : Map Byte) (z : Map (BitVec 40)) : Map (BitVec 40) :=
  let z := if clear then [] else z
  (List.range (shM w)).foldl (fun z m => (List.range (shN w)).foldl (fun z n =>
    let ps := (List.range (shK w)).map fun k => (elemA w a m k).mul (elemB w b x n k)
    let old := nk40.decode (Map.get 0 z (64 * m + n)).toNat
    Map.set 0 z (64 * m + n) (mmaElem (shRef w) old ps)) z) z

/-- What the issuer reads of a tile (R172). -/
def tileSeen (tag : Tag) (x : OpTile) : Map Line := if mayRead tag x.tag then x.data else []

/-! ## Unit instructions (R174, R178, R183, R184) -/

/-- Word 1 of a matrix instruction is fetched with word 0: 8 bytes. -/
def longBytes : Nat := 8

/-- A unit instruction issues: it enters the queue and the thread goes on (R174). -/
def unitInstr (t : Tid) (k : State → State) (s : State) : Out State :=
  if 4 ≤ (s.thr t).unitQ.length then .next s else issue s t [] k

def Thread.enqueue (th : Thread) (op : UnitOp) : Thread := { th with unitQ := th.unitQ ++ [{ op, tag := th.tag }] }

/-- FW1.REFERENCE of thread t's core (R107). -/
def State.refOk (s : State) (t : Tid) : Bool :=
  match (s.core (coreOf t)).member with
  | none => false
  | some c => (s.con c).cfg.reference

/-- MMA's clear: CM 0 as TSHAPE.CLEAR, 1 clear, 2 accumulate (R181). -/
def mmaClear (w : Word) (cm : Nat) : Bool := if cm = 0 then shClear w else cm == 1

/-- MMA: an accumulator that the issuer may not read is read as zero (R172). -/
def execMma (t : Tid) (z : Fin 2) (cm : Fin 3) (s : State) : Out State :=
  unitInstr t (fun s =>
    let th := s.thr t
    let w := th.tshape
    let clear := mmaClear w cm.val
    match mmaWhy w (s.refOk t) th.ta th.tb (th.acc z.val) clear with
    | some y => s.tileFault t y
    | none =>
      let a := th.acc z.val
      let fresh := clear || !mayRead th.tag a.tag
      let a := if clear then { a with st := 2, m := shM w, n := shN w, tag := th.tag } else { a with tag := th.tag }
      (s.setThr t ((th.enqueue (.mma z.val fresh w th.ta th.tb th.xstate)).setAcc z.val a)).past t longBytes) s

def execTclr (t : Tid) (z : Fin 2) (s : State) : Out State :=
  unitInstr t (fun s =>
    let th := s.thr t
    let w := th.tshape
    let a := { th.acc z.val with st := 2, m := shM w, n := shN w, tag := th.tag }
    (s.setThr t ((th.enqueue (.tclr z.val (shM w) (shN w))).setAcc z.val a)).past t longBytes) s

/-- TREL: the states become empty at once (R171); the accumulators' elements go when it completes. -/
def execTrel (t : Tid) (mask : BitVec 4) (s : State) : Out State :=
  unitInstr t (fun s =>
    let th := (s.thr t).enqueue (.trel mask)
    let th := if mask.getLsbD 0 then th.setOpnd false {} else th
    let th := if mask.getLsbD 1 then th.setOpnd true {} else th
    let th := if mask.getLsbD 2 then { th with z0 := { data := th.z0.data } } else th
    let th := if mask.getLsbD 3 then { th with z1 := { data := th.z1.data } } else th
    (s.setThr t th).past t longBytes) s

/-- The accumulators after a unit instruction. -/
def Thread.complete (th : Thread) (i : UnitItem) : Thread :=
  match i.op with
  | .mma z clear w a b x =>
    let acc := th.acc z
    let d := if shK w = 0 then (if clear then [] else acc.data)
      else mmaData w clear (tileSeen i.tag a) (tileSeen i.tag b) x acc.data
    th.setAcc z { acc with data := d }
  | .tclr z _ _ => th.setAcc z { th.acc z with data := [] }
  | .trel mask =>
    let th := if mask.getLsbD 2 then th.setAcc 0 { th.acc 0 with data := [] } else th
    if mask.getLsbD 3 then th.setAcc 1 { th.acc 1 with data := [] } else th

/-- The running unit instruction of a core finishes (R183, R184). -/
def execUnitInstructionComplete (core : Nat) (s : State) : Out State :=
  clocked s (match (s.core core).arrayBusy with
    | none => s
    | some k =>
      let t := 4 * core + k
      let s := s.modCore core fun c => { c with arrayBusy := none }
      match (s.thr t).unitQ with
      | [] => s
      | i :: q => s.modThr t fun th => { th with unitQ := q, ran := true }.complete i)

/-! ## MFT and MTT (R182) -/

def execMft (t : Tid) (rd : Reg) (n : Fin 16) (s : State) : Out State :=
  issue s t [] fun s =>
    let th := s.thr t
    let v := match n.val with
      | 0 => th.tshape
      | 1 => th.tstart
      | 2 => th.tstate
      | _ => 0
    (s.setG t rd v).past t longBytes

def execMtt (t : Tid) (ra : Reg) (n : Fin 16) (s : State) : Out State :=
  issue s t [gk ra] fun s =>
    (s.modThr t fun th => match n.val with
      | 0 => { th with tshape := th.greg ra &&& tshapeMask }
      | 1 => { th with tstart := th.greg ra &&& tstartMask }
      | _ => th).past t longBytes

/-! ## Long tile instructions: issue (R174, R181) -/

/-- A long instruction issues and blocks its thread. -/
def State.startLong (s : State) (t : Tid) (op : LongOp) : State :=
  s.modThr t fun th => { th with long := some { op, id := th.nextId }, nextId := th.nextId + 1 }

def execTlda (t : Tid) (ra rc : Reg) (pg : PgReg) (rowsM1 bytesM1 : Fin 64) (s : State) : Out State :=
  issue s t [gk ra, gk rc] fun s =>
    let th := s.thr t
    s.startLong t (.tld true false (th.greg ra).toNat 0 (th.greg rc).toNat (th.pgreg pg.val).toNat 0
      (rowsM1.val + 1) (bytesM1.val + 1) 0 0)

def execTldb (t : Tid) (rb rc : Reg) (pg : PgReg) (rowsM1 bytesM1 : Fin 64) (s : State) : Out State :=
  issue s t [gk rb, gk rc] fun s =>
    let th := s.thr t
    s.startLong t (.tld false true 0 (th.greg rb).toNat (th.greg rc).toNat 0 (th.pgreg pg.val).toNat
      0 0 (rowsM1.val + 1) (bytesM1.val + 1))

def execTldab (t : Tid) (ra rb rc : Reg) (pga : PgReg) (rowsA bytesA : Fin 64) (pgb : PgReg) (rowsB bytesB : Fin 64)
    (s : State) : Out State :=
  issue s t [gk ra, gk rb, gk rc] fun s =>
    let th := s.thr t
    s.startLong t (.tld true true (th.greg ra).toNat (th.greg rb).toNat (th.greg rc).toNat (th.pgreg pga.val).toNat
      (th.pgreg pgb.val).toNat (rowsA.val + 1) (bytesA.val + 1) (rowsB.val + 1) (bytesB.val + 1))

/-- Keys of the vector registers that TST reads: scales, biases (R187). -/
def tstSrcs (sc bi : Bool) (vs : Nat) : List Nat :=
  (if sc then (List.range 4).map fun i => 32 + 8 * vs + i else []) ++
    (if bi then (List.range 4).map fun i => 32 + 8 * vs + 4 + i else [])

/-- TST: a reserved FMT code raises UNDEF, and a z that is not full TILE (R181, R187, R194). -/
def execTst (t : Tid) (z : Fin 2) (ra rb rc : Reg) (pg : PgReg) (fmt : Fin 8) (sc bi cl sr : Bool) (vs : Fin 4)
    (s : State) : Out State :=
  issue s t ([gk ra, gk rb, gk rc] ++ tstSrcs sc bi vs.val) fun s =>
    let th := s.thr t
    if 5 < fmt.val then s.raise t causeUndef 0 0
    else if (th.acc z.val).st ≠ 2 then s.tileFault t 7
    else s.startLong t (.tst z.val (th.pgreg pg.val).toNat (th.greg ra).toNat (th.greg rc).toNat fmt.val sc bi cl sr
      vs.val ((th.greg rb).extractLsb' 0 32) ((th.greg rb).extractLsb' 32 32))

/-- RANGE: SRC is NF6 to NF32 and TGT a narrow format (R177, R189). -/
def execRange (t : Tid) (ra rb rc : Reg) (pgs pgd : PgReg) (src tgt : Fin 16) (mode : Bool) (s : State) : Out State :=
  issue s t [gk ra, gk rb, gk rc] fun s =>
    let th := s.thr t
    if src.val = 0 ∨ 5 < src.val ∨ 3 < tgt.val then s.raise t causeUndef 0 0
    else s.startLong t (.range (th.eaA ra pgs) (th.eaA rc pgd) ((th.greg rb).toNat % 2 ^ 24) src.val tgt.val mode)

/-- TXLD, TSAVE and TRESTORE need a 64-byte-aligned address (R190, R195). -/
def State.startAligned (s : State) (t addr acc : Nat) (op : LongOp) : State :=
  if addr % 64 = 0 then s.startLong t op else s.raise t causeAlign acc (BitVec.ofNat 64 addr)

def execTxld (t : Tid) (ra : Reg) (pg : PgReg) (s : State) : Out State :=
  issue s t [gk ra] fun s => let a := (s.thr t).eaA ra pg; s.startAligned t a 0 (.txld a)

def execTsave (t : Tid) (ra : Reg) (pg : PgReg) (tile : Fin 4) (s : State) : Out State :=
  issue s t [gk ra] fun s => let a := (s.thr t).eaA ra pg; s.startAligned t a 1 (.tsave a tile.val)

def execTrestore (t : Tid) (ra : Reg) (pg : PgReg) (tile : Fin 4) (s : State) : Out State :=
  issue s t [gk ra] fun s => let a := (s.thr t).eaA ra pg; s.startAligned t a 0 (.trestore a tile.val)

def execTwait (t : Tid) (s : State) : Out State := issue s t [] fun s => s.startLong t .twait

/-! ## What a long tile instruction does to its rows -/

/-- The engine of port p acting for thread t on stream 1 (R175, R263). -/
def State.tileWho (s : State) (t p : Nat) : EngWho := 
  { t, port := p, tag := (s.thr t).tag, stream := 1, level := (s.thr t).level }

/-- What the complete rows of a long tile instruction have given: lines of ta or tb, elements of an accumulator, the largest
magnitude of RANGE, the weight-expansion state, and the header that TRESTORE has read. -/
structure TileGain where
  a : Map Line := []
  b : Map Line := []
  z : Map (BitVec 40) := []
  rmax : Nat := 0
  xs : Map Byte := []
  head : Option (List Byte) := none

/-- A run of a long tile instruction: its lines, what its complete rows have given, the first row that is not complete, and
whether it raises TILE. -/
structure TileRun where
  x : EngRun
  g : TileGain
  first : Option Nat
  tile : Bool := false

/-- The run over rows lo to hi - 1. -/
def tileRows (f : TileGain → EngRun → Nat → TileGain × EngRun) (lo hi : Nat) (g : TileGain) (x : EngRun) : TileRun :=
  let r := eachRow f (rowsFrom lo hi) g x
  { x := r.2.1, g := r.1, first := r.2.2 }

/-- A row of a tile load (R185). -/
def EngRun.loadRow (x : EngRun) (w : EngWho) (page base stride n i : Nat) : Line × EngRun :=
  let r := x.bytes w (rowAddr page base stride i) n
  (lineOf r.1, r.2)

/-- Rows of a tile load; TLDAB reads those of ta on port 0 and those of tb on port 1 (R185, R186). -/
def State.runTld (s : State) (t : Tid) (toA toB : Bool) (baseA baseB stride pgA pgB rowsA bytesA rowsB bytesB : Nat) (lo hi : Nat)
    (g : TileGain) (x : EngRun) : TileRun :=
  tileRows (fun g x i =>
    let onA := toA && i < rowsA
    let onB := toB && i < rowsB
    let ra := if onA then x.loadRow (s.tileWho t 0) pgA baseA stride bytesA i else (0, x)
    let rb := if onB then ra.2.loadRow (s.tileWho t 1) pgB baseB stride bytesB i else (0, ra.2)
    ({ g with a := if onA then Map.set 0 g.a i ra.1 else g.a, b := if onB then Map.set 0 g.b i rb.1 else g.b }, rb.2)) lo hi g x

/-- Elements of w bits packed from bit 0 up. -/
def packBits (w : Nat) : List Nat → Nat
  | [] => 0
  | c :: l => c % 2 ^ w + 2 ^ w * packBits w l

/-- Seed and counter of the stream of thread t's present world (R214). -/
def Thread.seed (th : Thread) (t : Tid) : Word := if th.world then th.seedS else th.seedO.getD (BitVec.ofNat 64 t)
def Thread.ctr (th : Thread) : Word := if th.world then th.ctrS else th.ctrO
def Thread.addCtr (th : Thread) (n : Nat) : Thread :=
  if th.world then { th with ctrS := th.ctrS + BitVec.ofNat 64 n } else { th with ctrO := th.ctrO + BitVec.ofNat 64 n }

/-- NF32 lane n of the vector registers from v[r] on. -/
def Thread.lane32 (th : Thread) (r n : Nat) : Nat := lineNat (Map.get 0 th.v (r + n / 16)) (4 * (n % 16)) 4

/-- Element (m, n) that TST writes (R187). -/
def Thread.tstElem (th : Thread) (t z fmt : Nat) (sc bi cl sr : Bool) (vs : Nat) (lo hi : BitVec 32) (m n : Nat) : Nat :=
  let a := th.acc z
  let v := if mayRead th.tag a.tag then nk40.decode (Map.get 0 a.data (64 * m + n)).toNat else .zero
  let r := v.mul (if sc then nf32.decode (th.lane32 (8 * vs) n) else .one)
  let r := (r.add (if bi then nf32.decode (th.lane32 (8 * vs + 4) n) else .zero)).plusZero
  let r := if cl then (r.max (nf32.decode lo.toNat)).min (nf32.decode hi.toNat) else r
  let md := if sr then Rnd.stoch (draw32 (th.seed t) (th.ctr + BitVec.ofNat 64 (64 * m + n))) else .even
  (fmtOf fmt).encode md r

/-- Line in which a row of TST ends. -/
def EngWho.rowEnd (w : EngWho) (page base stride len m : Nat) : Nat := w.lineId (rowAddr page base stride m + len - 1)

/-- The bytes that TST writes with row m: nothing while the next row ends in the same line, and otherwise the rows since that
began, which are presented together (R188). -/
def EngWho.rowGroup (w : EngWho) (page base stride len lo hi m : Nat) : List Nat :=
  let e := w.rowEnd page base stride len
  if m + 1 < hi ∧ e (m + 1) = e m then []
  else (((rowsFrom lo (m + 1)).reverse.takeWhile fun i => e i == e m)).reverse

/-- Rows of a TST (R187, R188). -/
def State.runTst (s : State) (t z page base stride fmt : Nat) (sc bi cl sr : Bool) (vs : Nat) (l u : BitVec 32) (lo hi : Nat)
    (g : TileGain) (x : EngRun) : TileRun :=
  let th := s.thr t
  let n := (th.acc z).n
  let w := fmtBits fmt
  let who := s.tileWho t 2
  let row (m : Nat) : List (Nat × Byte) := bytesAt (rowAddr page base stride m)
    (natBytes (packedBytes n w) (packBits w ((List.range n).map (th.tstElem t z fmt sc bi cl sr vs l u m))))
  let r := tileRows (fun g x m =>
    (g, x.put who ((who.rowGroup page base stride (packedBytes n w) lo hi m).flatMap row))) lo hi g x
  { r with first := r.first.map fun m => (who.rowGroup page base stride (packedBytes n w) lo hi m).headD m }

/-- NF32 magnitude code of an element; none for NaN (R225). -/
def magCode (fmt raw : Nat) : Nat :=
  match (fmtOf fmt).decode (codeOf fmt raw) with
  | .nan => 0
  | .inf _ => nf32.encode .even (.inf false)
  | .fin _ n e => nf32.encode .even (.fin false n e)

/-- Largest magnitude of the elements in a run of bytes. -/
def magMax (fmt : Nat) (bs : List Byte) (n : Nat) : Nat :=
  let v := leNat bs
  let w := fmtBits fmt
  (List.range n).foldl (fun m i => max m (magCode fmt ((v >>> (w * i)) % 2 ^ w))) 0

/-- The bytes that RANGE writes with a block: its scale, or with the last block of a tensor the largest magnitude and its
scale (R189). -/
def rangeOut (dst tgt : Nat) (mode : Bool) (i hi y rmax : Nat) : List (Nat × Byte) :=
  let sc (v : Nat) : Nat := scaleByte tgt (nf32.decode v)
  if !mode then bytesAt (dst + i) [BitVec.ofNat 8 (sc y)]
  else if i + 1 = hi then bytesAt dst (natBytes 4 rmax ++ natBytes 4 (sc rmax))
  else []

/-- Blocks of a RANGE, read on port 0 and written on port 1; nothing is written from a block whose data is missing (R189). -/
def State.runRange (s : State) (t src dst n fmt tgt : Nat) (mode : Bool) (lo hi : Nat) (g : TileGain) (x : EngRun) : TileRun :=
  let w := fmtBits fmt / 8
  tileRows (fun g x i =>
    let k := min 32 (n - 32 * i)
    let b := x.bytes (s.tileWho t 0) (src + 32 * i * w) (k * w)
    let y := magMax fmt b.1 k
    let g := if mode then { g with rmax := max g.rmax y } else g
    if b.2.hole || (mode && b.2.gap) then (g, b.2.halt 1)
    else (g, b.2.put (s.tileWho t 1) (rangeOut dst tgt mode i hi y g.rmax))) lo hi g x

/-- Lines of a TXLD (R190). -/
def State.runTxld (s : State) (t addr lo hi : Nat) (g : TileGain) (x : EngRun) : TileRun :=
  tileRows (fun g x i =>
    let b := x.bytes (s.tileWho t 1) (addr + 64 * i) 64
    ({ g with xs := writeBytes g.xs (64 * i) b.1 }, b.2)) lo hi g x

/-! ### Context records (R195, R196) -/

/-- KIND of a tile. -/
def tileKind (tile : Nat) : Nat := if tile < 2 then tile else 2

/-- Port of a tile's engine (R175). -/
def tilePort (tile : Nat) : Nat := min tile 2

/-- The header that TSAVE writes. -/
def Thread.header (th : Thread) (tile : Nat) : List Byte :=
  let e : Nat × Nat := if tile < 2 then ((th.opnd (tile == 1)).rows, (th.opnd (tile == 1)).bytes)
    else ((th.acc (tile - 2)).m, (th.acc (tile - 2)).n)
  let st := if (th.tileTag tile).sealed then 0 else th.tileSt tile
  let e := if st = 0 then (1, 1) else e
  (natBytes 4 (st + 256 * tileKind tile + 65536 * (e.1 - 1) + 16777216 * (e.2 - 1))) ++ List.replicate 60 0

/-- The register has data to save. -/
def Thread.saves (th : Thread) (tile : Nat) : Bool := th.tileSt tile != 0 && !(th.tileTag tile).sealed

/-- Bytes of row i of a record. -/
def Thread.recRow (th : Thread) (tile i : Nat) : List Byte :=
  if tile < 2 then lineBytes (Map.get 0 (th.opnd (tile == 1)).data i)
  else (List.range 64).flatMap fun n => natBytes 5 (Map.get 0 (th.acc (tile - 2)).data (64 * i + n)).toNat

/-- Bytes of a row of a record. -/
def recBytes (tile : Nat) : Nat := if tile < 2 then 64 else 320

/-- Rows of a TSAVE; the header goes before row 0. -/
def State.runTsave (s : State) (t addr tile lo hi : Nat) (g : TileGain) (x : EngRun) : TileRun :=
  let th := s.thr t
  let w := s.tileWho t (tilePort tile)
  tileRows (fun g x i =>
    let x := if i = 0 then x.put w (bytesAt addr (th.header tile)) else x
    (g, if th.saves tile then x.put w (bytesAt (addr + 64 + recBytes tile * i) (th.recRow tile i)) else x)) lo hi g x

/-- A header that TRESTORE refuses: a state of 3, another kind, a non-zero reserved byte (R195). -/
def headerBad (h : List Byte) (tile : Nat) : Bool :=
  2 < leNat (h.take 1) || leNat ((h.drop 1).take 1) != tileKind tile || leNat (h.drop 4) != 0

/-- An extent byte of a header. A value above 63 names no extent: the extent is then free (log entry 3, DESIGN CHOICE). -/
def State.extentOf (s : State) (b : Nat) : Nat × State :=
  if b < 64 then (b + 1, s) else let d := s.draw; (d.1.toNat % 64 + 1, d.2)

/-- A row of a record goes where the tile keeps it. -/
def TileGain.recRow (g : TileGain) (tile i : Nat) (bs : List Byte) : TileGain :=
  if tile < 2 then { g with a := Map.set 0 g.a i (lineOf bs) }
  else { g with z := (List.range 64).foldl (fun d n =>
    Map.set 0 d (64 * i + n) (BitVec.ofNat 40 (leNat ((bs.drop (5 * n)).take 5)))) g.z }

/-- Rows of a TRESTORE. It reads the header first, and waits for it; a record of an empty register has no rows (R195,
R196). -/
def State.runTrestore (s : State) (t addr tile lo hi : Nat) (g : TileGain) (x : EngRun) : TileRun :=
  let w := s.tileWho t (tilePort tile)
  let h := { x with hole := false }.bytes w addr 64
  if h.2.hole then { x := h.2, g, first := some lo }
  else if headerBad h.1 tile then { x := h.2, g, first := some lo, tile := true }
  else
    tileRows (fun g x i =>
      let b := x.bytes w (addr + 64 + recBytes tile * i) (recBytes tile)
      (g.recRow tile i b.1, b.2)) lo (if leNat (h.1.take 1) = 0 then 0 else hi) { g with head := some h.1 } h.2

/-! ### All long tile instructions -/

/-- Number of rows, blocks or lines of a long tile instruction; TXLD counts 64-byte lines (R191; log
entry 19, DEDUCED). -/
def Thread.units (th : Thread) : LongOp → Nat
  | .tld toA toB _ _ _ _ _ rowsA _ rowsB _ => max (if toA then rowsA else 0) (if toB then rowsB else 0)
  | .tst z .. => (th.acc z).m
  | .range _ _ n .. => (n + 31) / 32
  | .txld _ => 16
  | .tsave _ tile => if th.saves tile then 64 else 1
  | .trestore .. => 64
  | _ => 0

/-- What a long tile instruction starts from: a load that starts at row 0 has zeroed its buffer (R173, R191, R194). -/
def Thread.tileBase (th : Thread) (op : LongOp) (lo : Nat) : TileGain :=
  let old (b : Bool) : Map Line := if lo = 0 then [] else (th.opnd b).data
  match op with
  | .tld .. => { a := old false, b := old true }
  | .trestore _ tile => if tile < 2 then { a := old (tile == 1) } else { z := if lo = 0 then [] else (th.acc (tile - 2)).data }
  | .range .. => { rmax := if lo = 0 then 0 else field th.tstart 32 32 }
  | .txld _ => { xs := th.xstate }
  | _ => {}

/-- Row at which a long tile instruction starts (R191). -/
def Thread.tileStart (th : Thread) : Nat := if th.tstart.getLsbD 24 then field th.tstart 0 24 else 0

/-- Run a long tile instruction of thread t from its log, with up to `limit` lines presented. -/
def State.tileRun (s : State) (t : Tid) (l : Long) (limit : Nat) : TileRun :=
  let lo := (s.thr t).tileStart
  let hi := (s.thr t).units l.op
  let g := (s.thr t).tileBase l.op lo
  let x := engRun s l limit
  match l.op with
  | .tld toA toB baseA baseB stride pgA pgB rowsA bytesA rowsB bytesB =>
    s.runTld t toA toB baseA baseB stride pgA pgB rowsA bytesA rowsB bytesB lo hi g x
  | .tst z pg base stride fmt sc bi cl sr vs l u => s.runTst t z pg base stride fmt sc bi cl sr vs l u lo hi g x
  | .range src dst n fmt tgt mode => s.runRange t src dst n fmt tgt mode lo hi g x
  | .txld a => s.runTxld t a lo hi g x
  | .tsave a tile => s.runTsave t a tile lo hi g x
  | .trestore a tile => s.runTrestore t a tile lo hi g x
  | _ => { x, g, first := none }

/-- Some queued MMA reads the buffer of operand register b (R173). -/
def Thread.bufferHeld (th : Thread) (b buf : Bool) : Bool :=
  th.unitQ.any fun i => match i.op with
    | .mma _ _ w x y _ => shK w != 0 && (if b then y else x).buf == buf
    | _ => false

/-- The buffer that a load of operand register b writes: its own, or the other one while an MMA still reads that (R173). -/
def Thread.loadBuffer (th : Thread) (b : Bool) : Bool := xor (th.opnd b).buf (th.bufferHeld b (th.opnd b).buf)

/-- The register that TRESTORE fills, from the header and the rows that it has read (R171, R195, R196). -/
def Thread.restored (th : Thread) (tile st e1 e2 : Nat) (g : TileGain) : Thread :=
  let e1 := if st = 0 then 0 else e1
  let e2 := if st = 0 then 0 else e2
  if tile < 2 then th.setOpnd (tile == 1) { buf := (th.opnd (tile == 1)).buf, st, rows := e1, bytes := e2, tag := th.tag, data := g.a }
  else th.setAcc (tile - 2) { st, m := e1, n := e2, tag := th.tag, data := g.z }

/-- What a long tile instruction has read reaches its registers (R171, R185, R190, R194, R195). -/
def State.tileGain (s : State) (t : Tid) (op : LongOp) (g : TileGain) : State :=
  match op with
  | .tld toA toB _ _ _ _ _ rowsA bytesA rowsB bytesB => s.modThr t fun th =>
    let a : OpTile := { buf := th.loadBuffer false, st := 2, rows := rowsA, bytes := bytesA, tag := th.tag, data := g.a }
    let b : OpTile := { buf := th.loadBuffer true, st := 2, rows := rowsB, bytes := bytesB, tag := th.tag, data := g.b }
    { th with ta := if toA then a else th.ta, tb := if toB then b else th.tb }
  | .txld _ => s.modThr t fun th => { th with xstate := g.xs }
  | .trestore _ tile =>
    match g.head with
    | none => s
    | some h =>
      let e1 := s.extentOf (leNat ((h.drop 2).take 1))
      let e2 := e1.2.extentOf (leNat ((h.drop 3).take 1))
      e2.2.modThr t fun th => th.restored tile (leNat (h.take 1)) e1.1 e2.1
        { g with a := if leNat (h.take 1) = 0 then [] else g.a, z := if leNat (h.take 1) = 0 then [] else g.z }
  | _ => s

/-- The tiles that a long tile instruction writes. -/
def LongOp.tiles : LongOp → List Nat
  | .tld toA toB .. => (if toA then [0] else []) ++ (if toB then [1] else [])
  | .trestore _ tile => [tile]
  | _ => []

/-- The registers of a long tile instruction that is left at row `pos`, with what its complete rows gave (R193, R194). -/
def State.leaveTile (s : State) (t : Tid) (op : LongOp) (g : TileGain) (pos : Nat) : State :=
  let resume := match (s.core (coreOf t)).member with
    | none => false
    | some c => (s.con c).cfg.resume
  let rmax : Nat := match op with
    | .range _ _ _ _ _ true => g.rmax
    | _ => 0
  (s.tileGain t op g).modThr t fun th =>
    let th := op.tiles.foldl (fun th i => if resume then th.partialTile i else th.emptyTile i) th
    { th with tstart := if resume then BitVec.ofNat 64 (2 ^ 32 * rmax + 2 ^ 24 + pos) else 0 }

/-- What a retiring long tile instruction does beside its rows: the emptied register of a sealed TSAVE, the counter of a
stochastic TST that had rows to write (R191, R196, R215). -/
def State.tileEnd (s : State) (t : Tid) (op : LongOp) : State :=
  let th := s.thr t
  match op with
  | .tsave _ tile => if th.saves tile then s else s.modThr t fun th => th.emptyTile tile
  | .tst z _ _ _ _ _ _ _ true _ _ _ => if th.tileStart < (th.acc z).m then s.modThr t fun th => th.addCtr 4096 else s
  | _ => s

/-- A long tile instruction retires (R186, R191). -/
def State.tileRetire (s : State) (t : Tid) (op : LongOp) (g : TileGain) : State :=
  ((((s.tileEnd t op).tileGain t op g).dropLong t).modThr t fun th => { th with tstart := 0 }).past t longBytes

/-- How a run of a long instruction ends. -/
inductive LongEnd where
  /-- Lines are left to present, or answers are owed. -/
  | goes
  | retires
  | raises
  deriving DecidableEq, Repr

/-- How a run of a long tile instruction ends, and the state after it. It raises TILE, or WINDOW at its first row that is not
complete, or retires once every row is complete, or goes on (R186, R191, R192, R195). -/
def State.tileStep (s : State) (t : Tid) (l : Long) (limit : Nat) : LongEnd × State :=
  let r := s.tileRun t l limit
  let s := r.x.close t
  if r.tile then (.raises, s.tileFault t 7)
  else
    match r.first, r.x.bad with
    | none, _ => (.retires, s.tileRetire t l.op r.g)
    | some _, none => (.goes, s)
    | some pos, some (a, k) =>
      if r.x.log.owed.isEmpty then
        (.raises, (s.leaveTile t l.op r.g pos).raiseAt t causeWindow k true (BitVec.ofNat 64 a) (s.thr t).pc)
      else (.goes, s)

/-- A started long tile instruction that an interrupt leaves: nothing more of it is presented, and what it has not received is
discarded (R192). -/
def State.tileLeave (s : State) (t : Tid) (l : Long) : State :=
  let r := s.tileRun t l 0
  (s.leaveTile t l.op r.g (r.first.getD 0)).dropLong t

/-- A long tile instruction goes on, with up to `upto` lines presented in all, and retires once its last line has been performed
or has arrived; a TWAIT retires when no unit instruction is pending (R176, R186). -/
def execLongTileRetire (t : Tid) (upto : Nat) (s : State) : Out State :=
  .next (if !s.works t then s
    else
      match (s.thr t).long with
      | none => s
      | some l =>
        match l.op with
        | .twait => if (s.thr t).unitQ.isEmpty then s.tileRetire t l.op {} else s
        | .tld .. | .tst .. | .range .. | .txld _ | .tsave .. | .trestore .. => if l.started then (s.tileStep t l upto).2 else s
        | _ => s)

/-! ## Engines (R173, R175, R176) -/

/-- A queued unit instruction writes accumulator z. -/
def UnitItem.writesZ (i : UnitItem) (z : Nat) : Bool :=
  match i.op with
  | .mma y .. | .tclr y _ _ => y == z
  | .trel mask => mask.getLsbD (2 + z)

/-- A queued MMA reads an operand register. -/
def UnitItem.readsOp (i : UnitItem) : Bool :=
  match i.op with
  | .mma _ _ w _ _ _ => shK w != 0
  | _ => false

/-- A buffer of operand register b is free for a load (R173). -/
def Thread.freeBuffer (th : Thread) (b : Bool) : Bool := !(th.bufferHeld b false && th.bufferHeld b true)

/-- Every unit instruction that a long tile instruction depends on has completed, and a load has a free
buffer (R173, R176). -/
def Thread.eligible (th : Thread) : LongOp → Bool
  | .tld toA toB .. => (!toA || th.freeBuffer false) && (!toB || th.freeBuffer true)
  | .tst z .. => !th.unitQ.any fun i => i.writesZ z
  | .tsave _ tile => tile < 2 || !th.unitQ.any fun i => i.writesZ (tile - 2)
  | .trestore _ tile => if tile < 2 then !th.unitQ.any (·.readsOp) else !th.unitQ.any fun i => i.writesZ (tile - 2)
  | .txld _ => th.unitQ.isEmpty
  | _ => true

/-- The engines that a long tile instruction occupies: A load, B load, output (R175). -/
def LongOp.engines : LongOp → Bool × Bool × Bool
  | .tld toA toB .. => (toA, toB, false)
  | .range .. => (true, true, false)
  | .txld _ => (false, true, false)
  | .tsave _ tile | .trestore _ tile => (tile == 0, tile == 1, 2 ≤ tile)
  | .tst .. => (false, false, true)
  | _ => (false, false, false)

/-- The threads of a core in the order in which an engine that served thread `last` meets them. -/
def roundRobin (last : Nat) : List Nat := (List.range 4).map fun i => (last + 1 + i) % 4

/-- Thread k of a core has a long tile instruction that an engine can start now. -/
def State.canStart (s : State) (n k : Nat) (e : TileEngine) : Bool :=
  let c := s.core n
  match (s.thr (4 * n + k)).long with
  | none => false
  | some l =>
    let u := l.op.engines
    let mine := match e with
      | .array => false
      | .aLoad => u.1
      | .bLoad => u.2.1
      | .output => u.2.2
    mine && !l.started && s.runs (4 * n + k) && (s.thr (4 * n + k)).eligible l.op && (!u.1 || c.aBusy.isNone) && (!u.2.1 || c.bBusy.isNone) &&
      (!u.2.2 || c.outBusy.isNone)

/-- The engines take thread k's instruction. -/
def Core.takeEngines (c : Core) (k : Nat) (u : Bool × Bool × Bool) : Core :=
  let c := if u.1 then { c with aBusy := some k, lastA := k } else c
  let c := if u.2.1 then { c with bBusy := some k, lastB := k } else c
  if u.2.2 then { c with outBusy := some k, lastOut := k } else c

/-- An engine starts the waiting instruction of the next thread in round robin (R175). -/
def execTileEngineStart (core : Nat) (e : TileEngine) (s : State) : Out State :=
  let c := s.core core
  .next (if !s.clocksOn || c.locked || decide (s.clk.ccycle.toNat < c.gatedTo.toNat) then s
    else
      match e with
      | .array =>
        if c.arrayBusy.isSome then s
        else
          match (roundRobin c.lastArray).find? fun k => !(s.thr (4 * core + k)).unitQ.isEmpty with
          | none => s
          | some k => s.modCore core fun c => { c with arrayBusy := some k, lastArray := k }
      | e =>
        let last := match e with
          | .aLoad => c.lastA
          | .bLoad => c.lastB
          | _ => c.lastOut
        match (roundRobin last).find? fun k => s.canStart core k e with
        | none => s
        | some k =>
          let t := 4 * core + k
          match (s.thr t).long with
          | none => s
          | some l => (s.modCore core fun c => c.takeEngines k l.op.engines).modThr t fun th =>
              { th with long := some { l with started := true } })

end Sys2Proof.Machine
end

