-- ==== Sys2Proof/Machine/Vector.lean ====
section
/-! DEFINITION. The vector unit (R235-R245): register instructions, conversions, reductions, and the
memory instructions of the stream engine. -/

namespace Sys2Proof

open Sys2Proof.Machine

/-! ## Element types (R235) -/

def EType.bits : EType → Nat
  | .nf4 => 4
  | .nf6 | .nf8 | .nw8 | .i8 => 8
  | .nf16 | .i16 => 16
  | .nf32 | .i32 => 32
  | .i64 => 64

/-- Format of a floating-point type, none for an integer. -/
def EType.fmt : EType → Option Fmt
  | .nf4 => some Machine.nf4
  | .nf6 => some Machine.nf6
  | .nf8 => some Machine.nf8
  | .nw8 => some Machine.nw8
  | .nf16 => some Machine.nf16
  | .nf32 => some Machine.nf32
  | _ => none

def EType.isInt (et : EType) : Bool := et.fmt.isNone
def EType.isWide (et : EType) : Bool := et == .nf16 || et == .nf32

/-- Accepted by the register instructions that take "all" types: NF16, NF32 and the integers. -/
def EType.isAll (et : EType) : Bool := et.isInt || et.isWide

/-- Lanes of a register. -/
def EType.lanes (et : EType) : Nat := 512 / et.bits

/-- Bytes of an element, 1 for NF4. -/
def EType.bytes (et : EType) : Nat := (et.bits + 7) / 8

/-- Types of gathers and scatters: one byte or more, and not I64. -/
def EType.gathers (et : EType) : Bool := et != .nf4 && et != .i64

end Sys2Proof

namespace Sys2Proof.Machine

open Sys2Proof

/-- Lane i of a register, raw. -/
def laneOf (et : EType) (v : Line) (i : Nat) : Nat := (v.toNat >>> (et.bits * i)) % 2 ^ et.bits

/-- A register from its lanes. -/
def lanesLine (et : EType) (f : Nat → Nat) : Line := BitVec.ofNat 512 (packBits et.bits ((List.range et.lanes).map f))

/-- Value of a floating-point element; NF6 ignores bits [7:6]. -/
def floatVal (et : EType) (raw : Nat) : Val :=
  match et.fmt with
  | some f => f.decode (if et = .nf6 then raw % 64 else raw)
  | none => .nan

/-- Integer of an element, unsigned if u. -/
def intVal (et : EType) (u : Bool) (raw : Nat) : Int := if u then raw else sext et.bits raw

/-- Raw element of an integer. -/
def rawInt (et : EType) (z : Int) : Nat := (z % (2 : Int) ^ et.bits).toNat

/-- Raw element of a value, rounded to nearest even. -/
def rawFloat (et : EType) (v : Val) : Nat :=
  match et.fmt with
  | some f => f.encode .even v
  | none => 0

/-! ## Lane operations (R236, R238-R240) -/

/-- Sum, difference, product or fused product of lanes, with the open sign of an exact zero (R239; log
entry 17, DESIGN CHOICE). -/
def laneAdd (et : EType) (a b : Nat) : Nat :=
  if et.isInt then (a + b) % 2 ^ et.bits
  else rawFloat et (((floatVal et a).add (floatVal et b)).openZero a b 0)

def laneSub (et : EType) (a b : Nat) : Nat :=
  if et.isInt then (a + 2 ^ et.bits - b % 2 ^ et.bits) % 2 ^ et.bits
  else rawFloat et (((floatVal et a).add (floatVal et b).neg).openZero a b 1)

def laneMul (et : EType) (a b : Nat) : Nat :=
  if et.isInt then (a * b) % 2 ^ et.bits
  else rawFloat et (((floatVal et a).mul (floatVal et b)).openZero a b 2)

def laneFma (et : EType) (a b c : Nat) : Nat :=
  if et.isInt then (a * b + c) % 2 ^ et.bits
  else rawFloat et ((((floatVal et a).mul (floatVal et b)).add (floatVal et c)).openZero (a * 2 ^ et.bits + b) c 3)

/-- VMAX: for floats R228. -/
def laneMax (et : EType) (u : Bool) (a b : Nat) : Nat :=
  if et.isInt then (if intVal et u a < intVal et u b then b else a)
  else rawFloat et ((floatVal et a).max (floatVal et b))

def laneMin (et : EType) (u : Bool) (a b : Nat) : Nat :=
  if et.isInt then (if intVal et u b < intVal et u a then b else a)
  else rawFloat et ((floatVal et a).min (floatVal et b))

/-- Shift amount: the low log2(w) bits of the lane. -/
def laneShl (et : EType) (a b : Nat) : Nat := (a <<< (b % et.bits)) % 2 ^ et.bits
def laneShr (et : EType) (u : Bool) (a b : Nat) : Nat := rawInt et (intVal et u a >>> (b % et.bits))

/-- VCMP: all ones if true (R227). -/
def laneCmp (et : EType) (sub : CmpOp) (u : Bool) (a b : Nat) : Nat :=
  let lt := if et.isInt then decide (intVal et u a < intVal et u b) else (floatVal et a).lt (floatVal et b)
  let eq := if et.isInt then a == b else (floatVal et a).eqv (floatVal et b)
  let r := match sub with
    | .eq => eq
    | .ne => !eq
    | .lt => lt
    | .le => lt || eq
  if r then 2 ^ et.bits - 1 else 0

/-- VEXP and VRCP of one lane; NF32 takes one of the values within its bound (R240). -/
def laneExp (et : EType) (a : Nat) : Nat := vexpCode (et == EType.nf32) (floatVal et a) (Config.vexpPick (BitVec.ofNat 32 a))
def laneRcp (et : EType) (a : Nat) : Nat := vrcpCode (et == EType.nf32) (floatVal et a) (Config.vrcpPick (BitVec.ofNat 32 a))

/-! ## Conversion (R241) -/

/-- The shift of a conversion: the signed value of a register, held to -160 … 160. -/
def shiftOf (v : Word) : Int := let z := v.toInt; if z < -160 then -160 else if 160 < z then 160 else z

/-- The range of an integer target (R229, R241; log entry 20, DEDUCED). -/
def intRange (et : EType) (u : Bool) : Int × Int :=
  match et with
  | .i64 => (-(2 ^ 63 - 1), 2 ^ 63 - 1)
  | _ =>
    if u then (0, 2 ^ et.bits - 1)
    else if et = .i32 then (-(2 ^ 31 - 1), 2 ^ 31 - 1)
    else (-(2 ^ (et.bits - 1)), 2 ^ (et.bits - 1) - 1)

/-- The range that an integer-to-integer conversion saturates to. -/
def satRange (et : EType) (u : Bool) : Int × Int :=
  if et = .i64 then intRange et u
  else if u then (0, 2 ^ et.bits - 1) else (-(2 ^ (et.bits - 1)), 2 ^ (et.bits - 1) - 1)

/-- Convert one element from et to et2 with shift k (R241). -/
def convert (et et2 : EType) (k : Int) (md : Rnd) (u : Bool) (a : Nat) : Nat :=
  match et.fmt, et2.fmt with
  | some f, some g => g.encode md ((f.decode (if et = .nf6 then a % 64 else a)).scale k)
  | some f, none =>
    let r := intRange et2 u
    rawInt et2 ((f.decode (if et = .nf6 then a % 64 else a)).toIntIn md k r.1 r.2)
  | none, some g => g.encode .even ((Val.ofInt (intVal et u a)).scale k)
  | none, none =>
    let z := intVal et u a
    let r := satRange et2 u
    rawInt et2 (if z < r.1 then r.1 else if r.2 < z then r.2 else z)

/-- The rounding mode of element i: nearest even, or draw CTR + i of the thread's stream. -/
def Thread.rnd (th : Thread) (t : Tid) (sr : Bool) (i : Nat) : Rnd :=
  if sr then .stoch (draw32 (th.seed t) (th.ctr + BitVec.ofNat 64 i)) else .even

/-! ## Reductions (R242) -/

/-- The type and operation are accepted. -/
def redOk (et : EType) (sub : RedOp) : Bool := !(et.isInt && sub == .ssq)

/-- The starting accumulator. -/
def redStart (et : EType) (sub : RedOp) (u : Bool) : Word :=
  if et.isInt then
    match sub with
    | .max => if u then 0 else BitVec.ofInt 64 (-(2 ^ (et.bits - 1)))
    | .min => if u then BitVec.ofNat 64 (2 ^ et.bits - 1) else BitVec.ofInt 64 (2 ^ (et.bits - 1) - 1)
    | _ => 0
  else
    match sub with
    | .max | .min => BitVec.ofNat 64 nk40.nan
    | _ => 0

/-- The accumulator after one group of elements. -/
def redGroup (et : EType) (sub : RedOp) (u : Bool) (a : Word) (xs : List Nat) : Word :=
  if et.isInt then
    xs.foldl (fun a x =>
      let z := BitVec.ofInt 64 (intVal et u x)
      match sub with
      | .max => if (if u then a.ult z else a.slt z) then z else a
      | .min => if (if u then z.ult a else z.slt a) then z else a
      | _ => a + z) a
  else
    let v := nk40.decode a.toNat
    let vs := xs.map (floatVal et)
    let r := match sub with
      | .max => vs.foldl Val.max v
      | .min => vs.foldl Val.min v
      | .sum => (v.add (vs.foldl Val.add .zero)).openZero a.toNat 0 4
      | .ssq => (v.add ((vs.map fun x => x.mul x).foldl Val.add .zero)).openZero a.toNat 0 5
    BitVec.ofNat 64 (nk40.encode .even r)

/-- The result that goes to g[RD]. -/
def redEnd (et : EType) (a : Word) : Word :=
  if et.isInt then a else BitVec.ofNat 64 (nf32.encode .even (nk40.decode a.toNat))

/-! ## Register instructions (R238) -/

/-- A vector register instruction: a type that it does not accept raises UNDEF (R235). -/
def vec (t : Tid) (srcs : List Nat) (ok : Bool) (k : State → State) (s : State) : Out State :=
  issue s t srcs fun s => if ok then (k s).past t longBytes else s.raise t causeUndef 0 0

/-- vd = f of the lanes of va and vb. -/
def vec2 (t : Tid) (vd va vb : Reg) (et : EType) (ok : Bool) (f : Nat → Nat → Nat) (s : State) : Out State :=
  vec t [vk va, vk vb] ok (fun s =>
    let th := s.thr t
    s.setV t vd (lanesLine et fun i => f (laneOf et (th.vreg va) i) (laneOf et (th.vreg vb) i))) s

def execVadd (t : Tid) (vd va vb : Reg) (et : EType) (s : State) : Out State := vec2 t vd va vb et et.isAll (laneAdd et) s
def execVsub (t : Tid) (vd va vb : Reg) (et : EType) (s : State) : Out State := vec2 t vd va vb et et.isAll (laneSub et) s
def execVmul (t : Tid) (vd va vb : Reg) (et : EType) (s : State) : Out State := vec2 t vd va vb et et.isAll (laneMul et) s

def execVfma (t : Tid) (vd va vb vc : Reg) (et : EType) (s : State) : Out State :=
  vec t [vk va, vk vb, vk vc] et.isAll (fun s =>
    let th := s.thr t
    s.setV t vd (lanesLine et fun i =>
      laneFma et (laneOf et (th.vreg va) i) (laneOf et (th.vreg vb) i) (laneOf et (th.vreg vc) i))) s

def execVmax (t : Tid) (vd va vb : Reg) (et : EType) (u : Bool) (s : State) : Out State :=
  vec2 t vd va vb et et.isAll (laneMax et u) s
def execVmin (t : Tid) (vd va vb : Reg) (et : EType) (u : Bool) (s : State) : Out State :=
  vec2 t vd va vb et et.isAll (laneMin et u) s

/-- A bitwise operation on all 512 bits; ET must be an integer code. -/
def vecBits (t : Tid) (vd va vb : Reg) (et : EType) (f : Line → Line → Line) (s : State) : Out State :=
  vec t [vk va, vk vb] et.isInt (fun s => s.setV t vd (f ((s.thr t).vreg va) ((s.thr t).vreg vb))) s

def execVand (t : Tid) (vd va vb : Reg) (et : EType) (s : State) : Out State := vecBits t vd va vb et (· &&& ·) s
def execVor (t : Tid) (vd va vb : Reg) (et : EType) (s : State) : Out State := vecBits t vd va vb et (· ||| ·) s
def execVxor (t : Tid) (vd va vb : Reg) (et : EType) (s : State) : Out State := vecBits t vd va vb et (· ^^^ ·) s

def execVshl (t : Tid) (vd va vb : Reg) (et : EType) (s : State) : Out State := vec2 t vd va vb et et.isAll (laneShl et) s
def execVshr (t : Tid) (vd va vb : Reg) (et : EType) (u : Bool) (s : State) : Out State :=
  vec2 t vd va vb et et.isAll (laneShr et u) s
def execVcmp (t : Tid) (vd va vb : Reg) (et : EType) (sub : CmpOp) (u : Bool) (s : State) : Out State :=
  vec2 t vd va vb et et.isAll (laneCmp et sub u) s

def execVsel (t : Tid) (vd va vb vc : Reg) (et : EType) (s : State) : Out State :=
  vec t [vk va, vk vb, vk vc] et.isAll (fun s =>
    let th := s.thr t
    s.setV t vd (lanesLine et fun i =>
      if laneOf et (th.vreg vc) i ≠ 0 then laneOf et (th.vreg va) i else laneOf et (th.vreg vb) i)) s

/-- vd = f of the lanes of va, in NF16 or NF32. -/
def vec1 (t : Tid) (vd va : Reg) (et : EType) (f : Nat → Nat) (s : State) : Out State :=
  vec t [vk va] et.isWide (fun s => s.setV t vd (lanesLine et fun i => f (laneOf et ((s.thr t).vreg va) i))) s

def execVexp (t : Tid) (vd va : Reg) (et : EType) (s : State) : Out State := vec1 t vd va et (laneExp et) s
def execVrcp (t : Tid) (vd va : Reg) (et : EType) (s : State) : Out State := vec1 t vd va et (laneRcp et) s

/-- VCVT: with stochastic rounding the counter grows by the number of destination lanes (R241). -/
def execVcvt (t : Tid) (vd va rb : Reg) (et et2 : EType) (rm u : Bool) (s : State) : Out State :=
  vec t [vk va, gk rb] true (fun s =>
    let th := s.thr t
    let k := shiftOf (th.greg rb)
    let s' := s.setV t vd (lanesLine et2 fun i =>
      if i < et.lanes then convert et et2 k (th.rnd t rm i) u (laneOf et (th.vreg va) i) else 0)
    if rm then s'.modThr t fun th => th.addCtr et2.lanes else s') s

def execVred (t : Tid) (rd va : Reg) (et : EType) (sub : RedOp) (u : Bool) (s : State) : Out State :=
  vec t [vk va] (et.isAll && redOk et sub) (fun s =>
    let v := (s.thr t).vreg va
    s.setG t rd (redEnd et (redGroup et sub u (redStart et sub u) ((List.range et.lanes).map (laneOf et v))))) s

def execVbcast (t : Tid) (vd ra : Reg) (et : EType) (s : State) : Out State :=
  vec t [gk ra] et.isAll (fun s => s.setV t vd (lanesLine et fun _ => ((s.thr t).greg ra).toNat)) s

def execVext (t : Tid) (rd va rb : Reg) (et : EType) (s : State) : Out State :=
  vec t [vk va, gk rb] et.isAll (fun s =>
    let th := s.thr t
    s.setG t rd (BitVec.ofNat 64 (laneOf et (th.vreg va) ((th.greg rb).toNat % et.lanes)))) s

/-- VINS keeps the other lanes of vd, which it therefore reads. -/
def execVins (t : Tid) (vd ra rb : Reg) (et : EType) (s : State) : Out State :=
  vec t [vk vd, gk ra, gk rb] et.isAll (fun s =>
    let th := s.thr t
    let j := (th.greg rb).toNat % et.lanes
    s.setV t vd (lanesLine et fun i => if i = j then (th.greg ra).toNat else laneOf et (th.vreg vd) i)) s

/-- Bits of VPROG.POS that hold fields. -/
def vposMask : Word := 0x101FFFF

/-- Vector control register n (R214, R245). -/
def Thread.vctl (th : Thread) (t n : Nat) : Word :=
  match n with
  | 0 => th.vpos
  | 1 => th.vacc
  | 2 => th.seed t
  | 3 => th.ctr
  | _ => 0

def Thread.setVctl (th : Thread) (n : Nat) (v : Word) : Thread :=
  match n with
  | 0 => { th with vpos := v &&& vposMask }
  | 1 => { th with vacc := v }
  | 2 => if th.world then { th with seedS := v } else { th with seedO := some v }
  | 3 => if th.world then { th with ctrS := v } else { th with ctrO := v }
  | _ => th

def execVmfc (t : Tid) (rd : Reg) (n : Fin 32) (s : State) : Out State :=
  vec t [] true (fun s => s.setG t rd ((s.thr t).vctl t n.val)) s

def execVmtc (t : Tid) (n : Fin 32) (ra : Reg) (s : State) : Out State :=
  vec t [gk ra] true (fun s => s.modThr t fun th => th.setVctl n.val (th.greg ra)) s

/-! ## Memory instructions: issue (R243) -/

/-- A vector memory instruction issues: UNDEF on a type it does not accept, ALIGN on an address that is
not aligned, given as (address, unit, access code). -/
def vecLong (t : Tid) (srcs : List Nat) (ok : Bool) (addrs : Thread → List (Nat × Nat × Nat)) (op : Thread → LongOp)
    (s : State) : Out State :=
  issue s t srcs fun s =>
    let th := s.thr t
    if !ok then s.raise t causeUndef 0 0
    else
      match (addrs th).find? fun a => a.1 % a.2.1 != 0 with
      | some a => s.raise t causeAlign a.2.2 (BitVec.ofNat 64 a.1)
      | none => s.startLong t (op th)

def execVld (t : Tid) (vd ra : Reg) (pg : PgReg) (s : State) : Out State :=
  vecLong t [gk ra] true (fun th => [(th.eaA ra pg, 64, 0)]) (fun th => .vld vd (th.eaA ra pg)) s

def execVst (t : Tid) (va rd : Reg) (pg : PgReg) (s : State) : Out State :=
  vecLong t [vk va, gk rd] true (fun th => [(th.eaA rd pg, 64, 1)]) (fun th => .vst (th.vreg va) (th.eaA rd pg)) s

/-- An odd vd raises UNDEF. -/
def execVldc (t : Tid) (vd ra : Reg) (pg : PgReg) (s : State) : Out State :=
  vecLong t [gk ra] (vd.val % 2 == 0) (fun th => [(th.eaA ra pg, 4, 0)]) (fun th => .vldc vd (th.eaA ra pg)) s

/-- The page and the register offset of a gather are kept apart: each lane's offset wraps by itself. -/
def execVgth (t : Tid) (vd ra vb : Reg) (et : EType) (pg : PgReg) (s : State) : Out State :=
  vecLong t [gk ra, vk vb] et.gathers (fun th => [(th.eaA ra pg, et.bytes, 0)])
    (fun th => .vgth vd (th.pgreg pg.val).toNat (th.greg ra).toNat (th.vreg vb) et) s

def execVsct (t : Tid) (vc ra vb : Reg) (et : EType) (pg : PgReg) (s : State) : Out State :=
  vecLong t [vk vc, gk ra, vk vb] et.gathers (fun th => [(th.eaA ra pg, et.bytes, 1)])
    (fun th => .vsct (th.vreg vc) (th.pgreg pg.val).toNat (th.greg ra).toNat (th.vreg vb) et) s

/-- A count: g[RB], at most 65 536. -/
def countOf (v : Word) : Nat := min v.toNat 65536

def execVlop (t : Tid) (rd ra rb vc : Reg) (et : EType) (sub : LopOp) (u : Bool) (pg : PgReg) (s : State) : Out State :=
  vecLong t [gk rd, gk ra, gk rb, vk vc] (et != .nf4)
    (fun th => [(th.eaA ra pg, et.bytes, 0), (th.eaA rd pg, et.bytes, 1)])
    (fun th => .vlop (th.pgreg pg.val).toNat (th.greg rd).toNat (th.greg ra).toNat (countOf (th.greg rb)) (th.vreg vc) et
      sub u) s

def execVlcvt (t : Tid) (rd ra rb rc : Reg) (et et2 : EType) (rm u : Bool) (pg : PgReg) (s : State) : Out State :=
  vecLong t [gk rd, gk ra, gk rb, gk rc] true
    (fun th => [(th.eaA ra pg, et.bytes, 0), (th.eaA rd pg, et2.bytes, 1)])
    (fun th => .vlcvt (th.pgreg pg.val).toNat (th.greg rd).toNat (th.greg ra).toNat (countOf (th.greg rb))
      (shiftOf (th.greg rc)) et et2 rm u) s

def execVlred (t : Tid) (rd ra rb : Reg) (et : EType) (sub : RedOp) (u : Bool) (pg : PgReg) (s : State) : Out State :=
  vecLong t [gk ra, gk rb] (et != .nf4 && redOk et sub) (fun th => [(th.eaA ra pg, et.bytes, 0)])
    (fun th => .vlred rd (th.pgreg pg.val).toNat (th.greg ra).toNat (countOf (th.greg rb)) et sub u) s

/-! ## The stream engine (R243, R244) -/

/-- The stream engine acting for thread t, on port P3. -/
def State.vecWho (s : State) (t : Tid) : EngWho := 
  { t, port := 3, tag := (s.thr t).tag, stream := 0, level := (s.thr t).level }

/-- The address of lane i of a gather or scatter. -/
def laneAddr (pg off : Nat) (idx : Line) (et : EType) (i : Nat) : Nat :=
  pg + (off + lineNat idx (4 * i) 4 * et.bytes) % 2 ^ 24

/-- The addresses of the sixteen lanes. -/
def laneAddrs (pg off : Nat) (idx : Line) (et : EType) : List Nat := (List.range 16).map (laneAddr pg off idx et)

/-- The first address in each distinct line, in the order of the lowest lane (R244). -/
def EngWho.firsts (w : EngWho) (as : List Nat) : List Nat :=
  as.foldl (fun l a => if l.any fun b => w.lineId b = w.lineId a then l else l ++ [a]) []

/-- VGTH: sixteen elements by index, from lines that are each presented once. -/
def EngRun.gather (x : EngRun) (w : EngWho) (as : List Nat) (n : Nat) : List Nat × EngRun :=
  let lines := w.firsts as
  let x := lines.foldl (fun x a => (x.meetNext w a).2) x
  as.foldl (fun r a =>
    let i := lines.findIdx fun b => w.lineId b = w.lineId a
    let y := r.2.readIn w (4 * i + w.port) a n
    (r.1 ++ [y.1], y.2)) ([], x)

/-- VSCT: one write for each distinct line; of two lanes that name one address the higher is stored. -/
def EngRun.scatter (x : EngRun) (w : EngWho) (as : List Nat) (n : Nat) (val : Nat → Nat) : EngRun :=
  let all := as.zipIdx.flatMap fun p => bytesAt p.1 (natBytes n (val p.2))
  (w.firsts as).foldl (fun x a => x.meetWrite w a (all.filter fun b => w.lineId b.1 = w.lineId a)) x

/-! ### The column form (R152, R161) -/

/-- Element i of a column read of thread t at address a: its offset in the local store, none where the read of it is refused
(R94, R152, R158). -/
def State.columnAt (s : State) (w : EngWho) (a i : Nat) : Option Nat :=
  match ownOffset (coreOf w.t) (a + 1024 * i) with
  | none => none
  | some off =>
    if off < lsBytes ∧ s.ownOkAt w.t w.level off false ∧ mayRead w.tag (s.halfTag (coreOf w.t) (off / 64)) then some off else none

/-- The code word of the element at an offset holds bad symbols. -/
def State.wordBad (s : State) (n off : Nat) : Bool :=
  (s.halfBad n (off / 64) ||| s.halfWeak n (off / 64)).testBit (off / 32 % 2)

/-- The column read of R152, as its 32 elements. If a byte fails its parity, it is replayed as 32 row-form reads; a free value
says whether one does. Where none fails, an element of a code word with bad symbols is delivered unchecked, which a free value
gives (R161). -/
def State.column (s : State) (w : EngWho) (a : Nat) : List Nat × State :=
  let n := coreOf w.t
  let at_ := s.columnAt w a
  let s := overAll (List.range 32) (fun s i =>
    if (at_ i).isNone then s.refuseAt n (8 + w.port) w.tag w.level 0 (a + 1024 * i) else s) s
  let marked := (List.range 32).any fun i => (at_ i).any (s.wordBad n)
  if !marked then
    ((List.range 32).map fun i => match at_ i with
      | some off => lineNat (s.half n (off / 64)) (off % 64) 4
      | none => 0, s)
  else
    let d := s.draw
    if d.1.getLsbD 0 then
      ((List.range 32).map fun i => match at_ i with
        | some off => lineNat (d.2.halfRead n (off / 64)) (off % 64) 4
        | none => 0,
       overAll (List.range 32) (fun s i => match at_ i with
        | some off => s.meetHalf n (off / 64) (2 ^ (off / 32 % 2)) (s.core n).member.toList w.tag.sealed (a + 1024 * i)
        | none => s) d.2)
    else
      (List.range 32).foldl (fun r i => match at_ i with
        | none => (r.1 ++ [0], r.2)
        | some off =>
          if r.2.wordBad n off then (r.1 ++ [r.2.draw.1.toNat % 2 ^ 32], r.2.draw.2)
          else (r.1 ++ [lineNat (r.2.half n (off / 64)) (off % 64) 4], r.2)) ([], d.2)

/-- VLDC presents its one access: elements 0 to 15 and 16 to 31 of the column become the two halves of a line. -/
def EngRun.meetColumn (x : EngRun) (w : EngWho) (a : Nat) : Line × Line × EngRun :=
  let k := x.key w.port
  let got (x : EngRun) : Line × Line × EngRun := (Map.get 0 x.log.got (2 * k), Map.get 0 x.log.got (2 * k + 1), x.pass w.port none)
  if x.past w.port then got x
  else if x.halted w.port then (0, 0, x.halt w.port)
  else
    let c := x.s.column w a
    let line (l : List Nat) : Line := BitVec.ofNat 512 (packBits 32 l)
    let g := Map.set 0 (Map.set 0 x.log.got (2 * k) (line (c.1.take 16))) (2 * k + 1) (line (c.1.drop 16))
    got ({ x with s := c.2, log := { x.log with got := g } }.shown w.port)

/-! ### Runs of elements -/

/-- Address of element i of a run of elements; NF4 elements share bytes. -/
def elemAddr (pg base : Nat) (et : EType) (i : Nat) : Nat := pg + (base + et.bits * i / 8) % 2 ^ 24

/-- Read element i. -/
def EngRun.getElem (x : EngRun) (w : EngWho) (pg base : Nat) (et : EType) (i : Nat) : Nat × EngRun :=
  let r := x.piece w (elemAddr pg base et i) et.bytes
  (if et = .nf4 then r.1 / 16 ^ (i % 2) % 16 else r.1, r.2)

/-- Elements from i on that the same 128-byte line holds, up to `hi`. -/
def lineRun (pg base : Nat) (et : EType) (i hi : Nat) : Nat :=
  ((List.range 256).takeWhile fun k =>
    i + k < hi && elemAddr pg base et (i + k) / 128 == elemAddr pg base et i / 128).length

/-- The elements from lo to hi in blocks of the elements of 8 consecutive source lines (R244): pairs
(first, end). The fuel is the number of elements. -/
def blocksOf (pg base : Nat) (et : EType) : Nat → Nat → Nat → List (Nat × Nat)
  | 0, _, _ => []
  | fuel + 1, lo, hi =>
    if hi ≤ lo then []
    else
      let e := (List.range 8).foldl (fun e _ => e + lineRun pg base et e hi) lo
      (lo, e) :: blocksOf pg base et fuel e hi

/-- Read elements in order, up to the first whose line cannot be presented. -/
def EngRun.getElems (w : EngWho) (pg base : Nat) (et : EType) : List Nat → EngRun → List Nat × EngRun
  | [], x => ([], x)
  | i :: l, x =>
    let r := x.getElem w pg base et i
    if r.2.hole then ([], r.2)
    else
      let t := EngRun.getElems w pg base et l r.2
      (r.1 :: t.1, t.2)

/-- The low nibble of a byte of the own slot as it stands, which a write of its high nibble keeps (R243). -/
def EngRun.lowNibble (x : EngRun) (w : EngWho) (a : Nat) : Nat :=
  let n := coreOf w.t
  match ownOffset n a with
  | some off => if x.s.halfTag n (off / 64) = w.tag then lineNat (x.s.halfRead n (off / 64)) (off % 64) 1 % 16 else 0
  | none => 0

/-- The bytes of destination elements from the i-th on. An NF4 element shares its byte with the element of lower index, which
comes from the same elements or stands in the store; the high bits of the last byte are zero when the count is odd (R243). -/
def EngRun.elemBytes (x : EngRun) (w : EngWho) (pg base : Nat) (et : EType) (i : Nat) (vs : List Nat) : List (Nat × Byte) :=
  vs.zipIdx.flatMap fun p =>
    let j := i + p.2
    let a := elemAddr pg base et j
    if et = .nf4 then
      let low := if j % 2 = 0 then p.1 else if p.2 = 0 then x.lowNibble w a else vs.getD (p.2 - 1) 0
      [(a, BitVec.ofNat 8 (low + if j % 2 = 0 then 0 else 16 * p.1))]
    else bytesAt a (natBytes et.bytes p.1)

/-- Write elements from the i-th on, line by line. The fuel is the number of elements. The first element of the first line that
cannot be presented, if there is one. -/
def EngRun.putElems (w : EngWho) (pg base : Nat) (et : EType) : Nat → Nat → List Nat → EngRun → Option Nat × EngRun
  | 0, _, _, x => (none, x)
  | fuel + 1, i, vs, x =>
    if vs.isEmpty then (none, x)
    else
      let k := max 1 (lineRun pg base et i (i + vs.length))
      let y := x.meetWrite w (elemAddr pg base et i) (byAddr (x.elemBytes w pg base et i (vs.take k)))
      if y.hole then (some i, y) else EngRun.putElems w pg base et fuel (i + k) (vs.drop k) y

/-- Blocks in the order R(0), R(1), W(0), R(2), W(1), …: `held` is the block read and not yet written (R244). The first element
of the first destination line that is not presented, if there is one (R245; log entry 117, DEDUCED). -/
def blockLoop (rd : EngRun → Nat × Nat → List Nat × EngRun) (wr : EngRun → Nat × Nat → List Nat → Option Nat × EngRun) :
    List (Nat × Nat) → Option ((Nat × Nat) × List Nat) → EngRun → Option Nat × EngRun
  | [], none, x => (none, x)
  | [], some h, x => wr x h.1 h.2
  | b :: bs, held, x =>
    let r := rd x b
    match held with
    | none => if r.2.hole then (some b.1, r.2) else blockLoop rd wr bs (some (b, r.1)) r.2
    | some h =>
      if r.2.hole then (some h.1.1, r.2)
      else
        let y := wr r.2 h.1 h.2
        if y.1.isSome then y else blockLoop rd wr bs (some (b, r.1)) y.2

/-- EXP2 and RCP of VLOP in an 8-bit format: the edges of R240, converted into the format, and otherwise a value that the spec
does not state (log entry 119, DESIGN CHOICE). -/
def narrowLop (et : EType) (exp : Bool) (a c : Nat) : Nat :=
  let x := floatVal et a
  let y := floatVal et c
  let v := if exp then exp2Val (x.mul y) else (rcpVal x).mul y
  match v with
  | .fin _ n _ =>
    if n == 0 || exp && (x.mul y).isZero then rawFloat et v
    else (Config.narrowFn exp a c).toNat % 2 ^ (if et = .nf6 then 6 else et.bits)
  | v => rawFloat et v

/-- One element of VLOP (R239, R240, R243). EXP2 and RCP of integers run, with a value that the spec does not state (log entry
119, DESIGN CHOICE). -/
def lopElem (et : EType) (sub : LopOp) (u : Bool) (a c : Nat) : Nat :=
  match sub with
  | .add => laneAdd et a c
  | .mul => laneMul et a c
  | .max => laneMax et u a c
  | .min => laneMin et u a c
  | .exp2 =>
    if et.isWide then
      vexpCode (et == EType.nf32) ((floatVal et a).mul (floatVal et c)) (Config.vexpPick (BitVec.ofNat 32 (laneMul et a c)))
    else if et.isInt then (Config.narrowFn true a c).toNat % 2 ^ et.bits
    else narrowLop et true a c
  | .rcp =>
    if et.isWide then laneMul et c (laneRcp et a)
    else if et.isInt then (Config.narrowFn false a c).toNat % 2 ^ et.bits
    else narrowLop et false a c

/-- Element and accumulator at which it starts (R245). -/
def Thread.vecStart (th : Thread) (op : LongOp) : Nat × Word :=
  if th.vpos.getLsbD 24 then (field th.vpos 0 17, th.vacc)
  else
    match op with
    | .vlred _ _ _ _ et sub u => (0, redStart et sub u)
    | _ => (0, 0)

/-- Count of elements of an instruction with progress points. -/
def LongOp.count : LongOp → Nat
  | .vlop _ _ _ n .. => n
  | .vlcvt _ _ _ n .. => n
  | .vlred _ _ _ n .. => n
  | _ => 0

/-- A run of a vector memory instruction: its lines, the value that it writes to registers, and where it stands if lines are
left: the first element to do and the accumulator of those below. -/
structure VecRun where
  x : EngRun
  out : Line := 0
  out2 : Line := 0
  acc : Word := 0
  left : Option (Nat × Word) := none

/-- VLOP and VLCVT: elements lo to hi - 1, each given by `f` from its index and its source (R243, R244). -/
def vecBlocks (w : EngWho) (pg dst src : Nat) (et et2 : EType) (f : Nat → Nat → Nat) (lo hi : Nat) (x : EngRun) : VecRun :=
  let r := blockLoop (fun x b => x.getElems w pg src et (rowsFrom b.1 b.2))
    (fun x b l => EngRun.putElems w pg dst et2 l.length b.1 (l.zipIdx.map fun p => f (b.1 + p.2) p.1) x)
    (blocksOf pg src et hi lo hi) none x
  { x := r.2, left := r.1.map fun i => (i, 0) }

/-- Fold elements from the lo-th on into an accumulator, group by group (R242). -/
def redElems (et : EType) (sub : RedOp) (u : Bool) (lo : Nat) (vs : List Nat) (a : Word) : Word :=
  ((List.range ((lo + vs.length) / et.lanes + 1)).map fun g =>
    (vs.zipIdx.filter fun p => (lo + p.2) / et.lanes == g).map (·.1)).foldl
      (fun a g => if g.isEmpty then a else redGroup et sub u a g) a

/-- Where a reduction is left that has read the elements below i: a floating sum keeps whole groups only, since its
accumulator is rounded at their ends (R242, R245; log entry 117, DEDUCED). -/
def redPoint (et : EType) (sub : RedOp) (lo i : Nat) : Nat :=
  if !et.isInt && (sub == .sum || sub == .ssq) then max lo (i / et.lanes * et.lanes) else i

/-- VLRED: elements lo to hi - 1 (R242, R244). -/
def vecRed (w : EngWho) (pg src : Nat) (et : EType) (sub : RedOp) (u : Bool) (lo hi : Nat) (a : Word) (x : EngRun) : VecRun :=
  let r := EngRun.getElems w pg src et (rowsFrom lo hi) x
  if r.2.hole then
    let p := redPoint et sub lo (lo + r.1.length)
    { x := r.2, left := some (p, redElems et sub u lo (r.1.take (p - lo)) a) }
  else { x := r.2, acc := redElems et sub u lo r.1 a }

/-- Run a vector memory instruction of thread t from its log, with up to `limit` lines presented (R243, R244). -/
def State.vecRun (s : State) (t : Tid) (l : Long) (limit : Nat) : VecRun :=
  let w := s.vecWho t
  let th := s.thr t
  let x := engRun s l limit
  let st := th.vecStart l.op
  match l.op with
  | .vld _ a => let r := x.bytes w a 64; { x := r.2, out := lineOf r.1 }
  | .vst d a => { x := x.meetWrite w a (bytesAt a (lineBytes d)) }
  | .vldc _ a => let r := x.meetColumn w a; { x := r.2.2, out := r.1, out2 := r.2.1 }
  | .vgth _ pg off idx et =>
    let r := x.gather w (laneAddrs pg off idx et) et.bytes
    { x := r.2, out := BitVec.ofNat 512 (packBits et.bits r.1) }
  | .vsct d pg off idx et => { x := x.scatter w (laneAddrs pg off idx et) et.bytes (laneOf et d) }
  | .vlop pg dst src n c et sub u => vecBlocks w pg dst src et et (fun i a => lopElem et sub u a (laneOf et c (i % et.lanes))) st.1 n x
  | .vlcvt pg dst src n k et et2 sr u => vecBlocks w pg dst src et et2 (fun i a => convert et et2 k (th.rnd t sr i) u a) st.1 n x
  | .vlred _ pg src n et sub u => vecRed w pg src et sub u st.1 n st.2 x
  | _ => { x }

/-- The registers that a retiring vector memory instruction writes, and the counter of a stochastic one (R243, R245). -/
def State.vecOut (s : State) (t : Tid) (op : LongOp) (r : VecRun) : State :=
  match op with
  | .vld vd _ | .vgth vd _ _ _ _ => s.setV t vd r.out
  | .vldc vd _ => (s.setV t vd r.out).setV t ⟨(vd.val + 1) % 32, by omega⟩ r.out2
  | .vlred rd _ _ _ et _ _ => s.setG t rd (redEnd et r.acc)
  | .vlcvt _ _ _ n _ _ _ true _ => s.modThr t fun th => th.addCtr n
  | _ => s

/-- A vector memory instruction retires (R244, R245). -/
def State.vecRetire (s : State) (t : Tid) (op : LongOp) (r : VecRun) : State :=
  let s := s.vecOut t op r
  ((s.modThr t fun th => if op.hasPoints then { th with vpos := 0, vacc := 0 } else th).dropLong t).past t longBytes

/-- A vector memory instruction goes on, with up to `limit` lines presented in all: it retires once all of them are, and it
waits otherwise. -/
def State.vecStep (s : State) (t : Tid) (l : Long) (limit : Nat) : LongEnd × State :=
  let r := s.vecRun t l limit
  let s := r.x.close t
  if r.x.hole then (.goes, s) else (.retires, s.vecRetire t l.op r)

/-- A started VLOP, VLCVT or VLRED that an interrupt leaves (R245). -/
def State.vecLeave (s : State) (t : Tid) (l : Long) : State :=
  let p := ((s.vecRun t l 0).left).getD (0, 0)
  let resume := match (s.core (coreOf t)).member with
    | none => false
    | some c => (s.con c).cfg.resume
  (s.modThr t fun th => { th with vpos := if resume then BitVec.ofNat 64 (2 ^ 24 + p.1) else 0
                                  vacc := if resume then p.2 else 0 }).dropLong t

/-- Thread t has a vector memory instruction that waits for the stream engine. -/
def State.vecWaits (s : State) (t : Tid) : Bool :=
  match (s.thr t).long with
  | some l => l.op.isVec && !l.started
  | none => false

/-- The free stream engine starts the instruction of the next thread in round robin (R244). -/
def execStreamEngineStart (core : Nat) (s : State) : Out State :=
  let c := s.core core
  clocked s (if c.streamBusy.isSome || c.locked then s
    else
      match (roundRobin c.lastStream).find? fun k => s.vecWaits (4 * core + k) && s.runs (4 * core + k) with
      | none => s
      | some k => (s.modCore core fun c => { c with streamBusy := some k, lastStream := k }).modThr (4 * core + k)
          fun th => { th with long := th.long.map fun l => { l with started := true } })

/-- A vector memory instruction goes on, with up to `upto` lines presented in all, and retires after its last access is
performed (R244). -/
def execVectorMemoryRetire (t : Tid) (upto : Nat) (s : State) : Out State :=
  .next (if !s.works t then s
    else
      match (s.thr t).long with
      | some l => if l.op.isVec && l.started then (s.vecStep t l upto).2 else s
      | none => s)

end Sys2Proof.Machine
end

