-- ==== Sys2Proof/Machine/Interrupt.lean ====
section
/-! DEFINITION. Interrupts (R128, R129, R140, R141, R192, R245): leaving a blocked or long instruction, the
entry, and the retry of a blocked instruction. -/

namespace Sys2Proof.Machine

open Sys2Proof

/-! ## Blocked instructions (R88, R114, R284) -/

/-- A blocked instruction once more: none while it still waits. BDECL and BFREE end with their event. -/
def State.retry (s : State) (t : Tid) (op : BlockOp) : Option State :=
  let s := s.modThr t fun th => { th with blocked := none }
  match op with
  | .pwr last peer v => s.tryPwr t last peer v
  | .prd rd peer => s.tryPrd t rd peer
  | .rpush r d => s.tryPush t r d
  | .rpop r toV rd => s.tryPop t r toV rd
  | .rclr r => s.tryRclr t r
  | .fence => some (s.fenceOn t)
  | .scan inv f start sets => some (s.scanOn t inv f start sets)
  | .cwait k n => s.tryCwait t k n
  | .cwaita => s.tryCwaita t
  | .cpwait ch => s.tryCpwait t ch
  | .wait rd mask token => s.tryWait t rd mask token
  | .barrKernel rd b => s.tryBarr t rd b
  | .bdecl _ | .bfree _ => none
  | .maint => s.tryMaint t

/-- A thread retries its blocked instruction in its slots; one that cannot be left runs on while its constellation stops, and
in a step (R53, R88, R166, R462). -/
def execBlockedRetry (t : Tid) (s : State) : Out State :=
  .next (match (s.thr t).blocked with
    | none => s
    | some op =>
      if (if op.leaves then s.runs t && !(s.thr t).stopped else s.works t && (!(s.thr t).stopped || (s.thr t).step == 2)) then (s.retry t op).getD s
      else s)

/-! ## Leaving an instruction (R140, R192, R245) -/

/-- What leaving an instruction gives: the state, whether it is left at a progress point, and whether an exception
was taken in its place. -/
structure Left where
  s : State
  progress : Bool := false
  raised : Bool := false

/-- A started long instruction with progress points meets an interrupt when `pos` lines have been presented in all. It has
retired by then, or it raises its exception, or it is left at its progress point (R140, R192, R245). -/
def State.leaveLong (s : State) (t : Tid) (l : Long) (pos : Nat) : Left :=
  let r := if l.op.isVec then s.vecStep t l pos else s.tileStep t l pos
  match r.1 with
  | .raises => { s := r.2, raised := true }
  | .retires => { s := r.2 }
  | .goes =>
    let l' := ((r.2.thr t).long).getD l
    { s := if l.op.isVec then r.2.vecLeave t l' else r.2.tileLeave t l', progress := true }

/-- Leave the instruction in which thread t stands, a started long one when `pos` of its lines have been presented; none
while it cannot be left. -/
def State.leave (s : State) (t : Tid) (pos : Nat) : Option Left :=
  let th := s.thr t
  if th.walk.isSome || th.pcWait || th.treset then none
  else
    match th.blocked, th.long with
    | some op, _ => if op.leaves then some { s := s.modThr t fun th => { th with blocked := none } } else none
    | none, none => some { s }
    | none, some l =>
      if !l.started || l.op == .twait then some { s := s.dropLong t }
      else if !l.op.isVec || l.op.hasPoints then some (s.leaveLong t l pos)
      else none

/-! ## Entry (R128-R130) -/

/-- The interrupt with code 0x20 + i is taken: YIELD is delivered once per demand, and an entry for FOG is noted
(R137, R315). -/
def State.takeIrq (s : State) (t : Tid) (i : Nat) (progress : Bool) : State :=
  let th := s.thr t
  let th := if i = 1 then { th with bankS := { th.bankS with ipend := th.bankS.ipend &&& ~~~ 2#64 } } else th
  let th := { th with tookFog := th.tookFog || (i == 3 && !th.world), step := if th.stopped then 2 else th.step }
  s.setThr t (th.enter th.world (0x20 + i) 0 progress 0 th.pc th.status (s.issueCycle t))

/-- The lowest deliverable code is taken in place of the instruction that would have issued; an exception that the
instruction met wins (R129). -/
def State.interrupt (s : State) (t : Tid) (pos : Nat) : State :=
  match lowestBit (s.deliverable t) with
  | none => s
  | some i =>
    if !s.runs t || ((s.thr t).stopped && (s.thr t).step != 1) then s
    else
      match s.leave t pos with
      | none => s
      | some l => if l.raised then l.s else l.s.takeIrq t i l.progress

def execInterruptEntry (t : Tid) (pos : Nat) (s : State) : Out State := clocked s (s.interrupt t pos)

end Sys2Proof.Machine
end

