-- ==== Sys2Proof/Machine/Health.lean ====
section
/-! DEFINITION. Health of the part: the Keeper watchdog and the lantern ring (R438, R440), failed wires (R439),
the ageing monitors and the margin plan (R443-R445), and the logbook (R446-R449). -/

namespace Sys2Proof.Machine

open Sys2Proof

/-- Core cycles of one second, at the nominal rate. -/
def second : Nat := 1100000000

/-! ## Watchdog (R440) -/

/-- A write of KICK. -/
def State.kick (s : State) : State := s.modKeeper fun k => { k with kickAt := s.clk.ccycle.toNat }

def execKick (s : State) : Out State := s.keeperDoes s.kick

/-- A second has passed without KICK: the Keeper stops. -/
def State.watchdog (s : State) : State :=
  ((s.modKeeper fun k => { k with stopped := true }).modPower fun p => { p with faultN := true }).report 13 [] nodeControl false 0

def execWatchdogExpiry (s : State) : Out State :=
  s.keeperDoes (if s.keeper.kickAt + second ≤ s.clk.ccycle.toNat then s.watchdog else s)

/-! ## Lantern ring (R438) -/

/-- Failures in a row of messages to a node: those of the last 2 µs. -/
def State.lanternFails (s : State) (node : Nat) : Nat × Nat :=
  let x := Map.get (0, 0) s.lantern node
  if x.1 ≠ 0 ∧ s.fab ≤ x.2 + fabUs 2 then x else (0, s.fab)

/-- A message is not acknowledged: it is sent again, and the third failure is reported. -/
def State.lanternRetry (s : State) (node : Nat) : State :=
  let x := s.lanternFails node
  if x.1 = 2 then { s with lantern := Map.set (0, 0) s.lantern node (0, 0) }.report 11 [] node false 0
  else { s with lantern := Map.set (0, 0) s.lantern node (x.1 + 1, x.2) }

def execLanternRetry (node : Nat) (s : State) : Out State := clocked s (s.lanternRetry node)

/-! ## Failed wires (R439) -/

/-- What a failed unit holds is lost. -/
def State.loseTraffic (s : State) (u : FabricUnit) : State :=
  match u with
  | .router x y => { s with flits := s.flits.filter fun f => !(f.x == x && f.y == y) }
  | .link _ _ _ => s
  | .beacon d => { s with beacon := Map.set [] s.beacon d [] }

def execFabricWireFailure (unit : FabricUnit) (s : State) : Out State :=
  .next ({ (s.loseTraffic unit) with failed := s.failed ++ [unit] }.modPower fun p => { p with faultN := true })

/-! ## Rails (R444) -/

/-- A rail's guard band in steps, its slack target and floor, and its slack per step, in ps. -/
structure Rail where
  lo : Int
  hi : Int
  target : Int
  floor : Int
  k : Int

/-- Rail r of a member, in the order of the rail table. -/
def Member.rail (m : Member) (r : Nat) : Rail :=
  if r < 16 * m.dies then ⟨-6, 12, 50, 20, 6⟩
  else if r < 17 * m.dies then ⟨-4, 8, 30, 12, 4⟩
  else if r < 18 * m.dies then ⟨-4, 4, 200, 100, 20⟩
  else ⟨-6, 12, 8, 3, 1⟩

/-- A value within the guard band. -/
def Rail.clamp (x : Rail) (v : Int) : Int := max x.lo (min x.hi v)

/-- Offset of rail r. -/
def State.offset (s : State) (r : Nat) : Int := Map.get 0 s.ageing.offsets r

/-- The die controller raises rail r by one step at once; a move that goes further up goes on (R445). -/
def State.raiseRail (s : State) (r : Nat) : State :=
  let v := s.offset r + 1
  s.modAgeing fun a => { a with
    offsets := Map.set 0 a.offsets r v, moves := a.moves.filter fun x => x.1 != r || decide (v < x.2.1)
    raisedAt := Map.set 0 a.raisedAt r s.clk.ccycle.toNat }

/-- Report MARGIN for rail r. R444 gives rails other than those of the stacks no node number (log entry 3, DESIGN CHOICE). -/
def State.margin (s : State) (r : Nat) : State :=
  let d := s.draw
  let node := if 18 * s.member.dies ≤ r then nodeStack (r - 18 * s.member.dies) else d.1.toNat % 65536
  d.2.report 14 [] node false 0

/-- A sample shows rail r at a slack: below its floor it is raised by one step, or reports MARGIN at the maximum of
its guard band (R445). -/
def State.railFloor (s : State) (r : Nat) (slack : Int) : State :=
  let x := s.member.rail r
  if x.floor ≤ slack then s
  else if s.offset r < x.hi then s.raiseRail r
  else s.margin r

/-! ## Samples (R443) -/

/-- Samples in 168 powered hours. -/
def sampleWindow : Nat := 1008

/-- A sample is due: 600 s after the last, and at boot once a stack training has ended. -/
def State.sampleDue (s : State) : Bool :=
  match s.ageing.sampleAt with
  | none => (List.range s.member.stks).any fun k => (s.stack k).trained || (s.stack k).trainFailed
  | some t => t.toNat + 660000000000 ≤ s.now.toNat

/-- Every monitor is read; `slacks` are the least of each rail. -/
def State.sample (s : State) (slacks : List Int) : State :=
  let s := s.modAgeing fun a => { a with
    slacks, sampleAt := some s.now, history := (a.history ++ [slacks]).drop (a.history.length + 1 - sampleWindow) }
  overAll slacks.zipIdx (fun s x => s.railFloor x.2 x.1) s

def execAgeingSample (slacks : List Int) (s : State) : Out State :=
  clocked s (if slacks.length = s.member.rails ∧ s.sampleDue = true then s.sample slacks else s)

/-- The matrix unit of a core does not issue for 64 core cycles (R443). -/
def execMonitorGate (core : Nat) (s : State) : Out State :=
  clocked s (if core < s.member.cores then s.modCore core fun c => { c with gatedTo := s.clk.ccycle + 64 } else s)

/-- The slack of rail r in the latest sample. -/
def State.slack (s : State) (r : Nat) : Int := s.ageing.slacks.getD r 0

/-- A rail that the latest sample showed below its floor is sampled again, 1 s after it was raised (R445). -/
def execFloorRaise (rail : Nat) (slack : Int) (s : State) : Out State :=
  clocked s (if rail < s.ageing.slacks.length ∧ s.slack rail < (s.member.rail rail).floor ∧
      Map.get 0 s.ageing.raisedAt rail + second ≤ s.clk.ccycle.toNat then
    (s.modAgeing fun a => { a with slacks := a.slacks.set rail slack }).railFloor rail slack
  else s)

/-! ## The plan (R445) -/

/-- `ceil` of x over a positive y. -/
def ceilDiv (x y : Int) : Int := -((-x) / y)

/-- The new offset of rail r by the formula of R445, with the policy of R48. -/
def State.newOffset (s : State) (r : Nat) : Int :=
  let x := s.member.rail r
  let hist := s.ageing.history.map fun l => l.getD r 0
  let den : Int := (Config.slopeDen hist : Int) + 1
  let d := max 0 (-(Config.slopeNum hist)) * 24
  let v := x.clamp (s.offset r + ceilDiv ((x.target - s.slack r) * den + d) (x.k * den))
  if s.chart.pkg.policy = 1 then x.clamp (v + 1) else v

/-- Every rail's offset and worst slack, as a plan records them. -/
def State.plan (s : State) (new : List Int) (boot : Bool) : Plan :=
  let raised := new.zipIdx.all fun x => s.offset x.2 ≤ x.1
  { boot, applied := boot || raised, minutes := s.poweredMin, offsets := new, slacks := s.ageing.slacks }

/-- Apply a plan: in full at boot, and in service upward only. -/
def State.applyPlan (s : State) (new : List Int) (boot : Bool) : State :=
  overAll new.zipIdx (fun s x => if boot || s.offset x.2 < x.1 then s.setOffset x.2 x.1 else s) s

/-- A plan is due: at boot from the boot sample, and after every 24 powered hours. -/
def State.planDue (s : State) : Bool :=
  !s.ageing.slacks.isEmpty && (s.ageing.planAtBoot || decide (s.ageing.planMin + 1440 ≤ s.poweredMin))

/-- The plan is computed, recorded and applied; policy 2 applies the nominal table and no plan. -/
def State.planCompute (s : State) : State :=
  let boot := s.ageing.planAtBoot
  let done (s : State) : State := s.modAgeing fun a => { a with planAtBoot := false, planMin := s.poweredMin }
  if s.chart.pkg.policy = 2 then done (overAll (List.range s.member.rails) (fun s r => s.setOffset r 0) s)
  else
    let new := (List.range s.member.rails).map s.newOffset
    let p := s.plan new boot
    (done ((s.applyPlan new boot).modAgeing fun a => { a with plans := a.plans ++ [p] })).eventOpen 7 0xFF none

def execPlanCompute (s : State) : Out State := s.keeperDoes (if s.planDue then s.planCompute else s)

/-! ## Write cycles of the logbook (R446-R449) -/

def State.setPage (s : State) (p : Nat) (bs : List Byte) : State :=
  s.modAgeing fun a => { a with pages := Map.set [] a.pages p bs }

/-- A signed byte. -/
def signedByte (v : Int) : Byte := BitVec.ofInt 8 v

/-- The record of a write cycle (R448); HOURS_HOT is what the firmware counted (log entry 43, DESIGN CHOICE). -/
def State.record (s : State) (hoursHot : Nat) : List Byte :=
  let a := s.ageing
  let w := s.keeper.wall.getD (0, 0)
  let b := natBytes 4 0x6B6F6F62 ++ natBytes 4 (a.recSeq + 1) ++ natBytes 4 s.poweredMin ++ natBytes 4 a.boots ++
    natBytes 8 w.1.toNat ++ natBytes 8 w.2.toNat ++ natBytes 4 a.minutes ++
    natBytes 4 (a.faultsDropped + (a.faultQ.length - 40)) ++ natBytes 8 (a.energyWh + s.power.energyNj / 3600000000000) ++
    ((List.range 4).flatMap fun i => natBytes 4 (Map.get 0 a.lifeCounts i)) ++ natBytes 4 hoursHot ++ natBytes 36 0 ++
    (List.range 18).flatMap fun i => natBytes 8 (s.faultedWord i).toNat
  b ++ natBytes 4 (crc32c b) ++ natBytes 4 0

/-- A plan record of two pages (R449). -/
def Plan.bytes (p : Plan) (seq : Nat) : List Byte :=
  let b := natBytes 4 seq ++ natBytes 4 p.minutes ++ natBytes 1 (bit (!p.boot)) ++ natBytes 1 (bit p.applied) ++
    p.offsets.zipIdx.flatMap fun x => [signedByte x.1, signedByte (p.slacks.getD x.2 0)]
  let b := b ++ natBytes (508 - b.length) 0
  b ++ natBytes 4 (crc32c b)

/-- Append a plan to the plan ring. -/
def State.writePlan (s : State) (p : Plan) : State :=
  let n := s.ageing.planNo
  let b := p.bytes n
  ((s.setPage (planPage n) (b.take 256)).setPage (planPage n + 1) (b.drop 256)).modAgeing fun a => { a with planNo := n + 1 }

/-- Append a fault entry to the fault ring. -/
def State.writeFault (s : State) (e : List Byte) : State :=
  let i := s.ageing.faultNo % 3072
  let p := 640 + i / 8
  let old := s.logPage p
  (s.setPage p (old.take (32 * (i % 8)) ++ e ++ old.drop (32 * (i % 8) + 32))).modAgeing fun a => { a with faultNo := a.faultNo + 1 }

/-- The two copies of the helper record, each with a CRC-32C, after ENROL in this boot (R446). -/
def State.writeHelper (s : State) : State :=
  if s.trust.enrolled && s.ageing.helperWritten != 3 then
    let b := s.trust.helperBytes
    let b := b ++ natBytes 4 (crc32c b)
    let put (s : State) (p : Nat) : State :=
      overAll (List.range 17) (fun s i =>
        let part := (b.drop (256 * i)).take 256
        s.setPage (p + i) (part ++ (s.logPage (p + i)).drop part.length)) s
    (put (put s 64) 96).modAgeing fun a => { a with helperWritten := 3 }
  else s

/-- The controller accepts a write cycle 60 powered minutes after the last, or after the cold reset (R447). -/
def State.writeDue (s : State) : Bool := decide (s.ageing.lastWrite + 60 ≤ s.poweredMin)

/-- One write cycle: the record, at most two plans, and at most 40 fault entries. -/
def State.writeCycle (s : State) : State :=
  let d := s.draw
  let s := d.2
  let rec_ := s.record (d.1.toNat % 2 ^ 32)
  let faults := s.ageing.faultQ.take 40
  let plans := s.ageing.plans.take 2
  let s := (s.setPage (recordPage (s.ageing.recSeq + 1)) rec_).modAgeing fun a => { a with
    recSeq := a.recSeq + 1, lastWrite := s.poweredMin, faultsDropped := a.faultsDropped + (a.faultQ.length - 40), faultQ := []
    plans := a.plans.drop 2 }
  overAll faults State.writeFault (overAll plans State.writePlan s)

/-- The firmware writes the logbook; a cycle that comes too early is refused. -/
def execLogbookWriteCycle (s : State) : Out State :=
  s.keeperDoes (let s := s.writeHelper
                if s.writeDue then s.writeCycle else s.refuseOut none 0xFFF 0 5 0)

end Sys2Proof.Machine
end

