-- ==== Sys2Proof/Machine/Power.lean ====
section
/-! DEFINITION. Power (ch. 21): the comparators and their limits (R476, R477), the thermal trip (R478), and
power-up and power-down (R480). -/

namespace Sys2Proof.Machine

open Sys2Proof

/-! ## Comparators (R476) -/

/-- Evaluations in 1 ms, one every 2 µs. -/
def msEvals : Nat := 500

/-- A demand and its run of evaluations below the release point, after an evaluation (R476; log entry 44, DEDUCED). -/
def demandStep (x : Nat × Nat) (above below : Bool) : Nat × Nat :=
  if above then (min 7 (x.1 + 1), 0)
  else if !below then (x.1, 0)
  else if msEvals ≤ x.2 + 1 then (x.1 - 1, 0)
  else (x.1, x.2 + 1)

/-- The power comparator, in mW: the limit is CAP_W, with release at 97 %. -/
def Power.evalPower (p : Power) (mw : Nat) : Power :=
  let r := demandStep (p.powerDemand, p.powerBelow) (decide (p.capW * 1000 < mw)) (decide (mw * 100 < p.capW * 1000 * 97))
  { p with powerDemand := r.1, powerBelow := r.2 }

/-- The current comparator of die d, in units of 0.1 A: the limit is 360 A, with release at 95 %. -/
def Power.evalCurrent (p : Power) (d amps : Nat) : Power :=
  let r := demandStep (Map.get 0 p.currentDemand d, Map.get 0 p.currentBelow d) (decide (3600 < amps)) (decide (amps < 3420))
  { p with currentDemand := Map.set 0 p.currentDemand d r.1, currentBelow := Map.set 0 p.currentBelow d r.2
           coreAmps := Map.set 0 p.coreAmps d amps }

/-- The temperature comparator of die d: the limit is TJ_LIMIT, with release at TJ_LIMIT − 2 °C. -/
def Power.evalTemp (p : Power) (d hottest : Nat) (tj : Nat × Nat) : Power :=
  let r := demandStep (Map.get 0 p.tempDemand d, Map.get 0 p.tempBelow d) (decide (p.tjLimit < hottest)) (decide (hottest + 2 < p.tjLimit))
  { p with tempDemand := Map.set 0 p.tempDemand d r.1, tempBelow := Map.set 0 p.tempBelow d r.2
           tjMax := Map.set 0 p.tjMax d tj.1, tjMin := Map.set 0 p.tjMin d tj.2 }

/-- What the power unit measures of the whole module in fabric cycle `now` (R456). -/
def Power.measure (p : Power) (now mw vin : Nat) : Power :=
  { p with evalAt := now, powerLog := (p.powerLog ++ [mw]).drop (p.powerLog.length + 1 - msEvals), vinMv := vin, energyNj := p.energyNj + 2 * mw }

/-- One evaluation of every comparator, every 2 µs; the firmware logs each die whose level changes (R458, R476). -/
def State.comparators (s : State) (mw vin : Nat) (currents : List Nat) (temps : List (Nat × Nat)) (stackTemps : List Nat) : State :=
  let old := s
  let dies := List.range s.member.dies
  let s := s.modPower fun p => (p.evalPower mw).measure s.fab mw vin
  let s := overAll dies (fun s d => s.modPower fun p => p.evalCurrent d (currents.getD d 0)) s
  let hottest (d : Nat) : Nat := ((List.range 3).map fun i => stackTemps.getD (3 * d + i) 0).foldl max (temps.getD d (0, 0)).1
  let s := overAll dies (fun s d => s.modPower fun p => p.evalTemp d (hottest d) (temps.getD d (0, 0))) s
  let s := overAll (List.range s.member.stks) (fun s k => s.modStack k fun x => { x with temp := stackTemps.getD k 0 }) s
  overAll (dies.filter fun d => s.throttle d != old.throttle d) (fun s _ => s.eventOpen 6 0xFF none) s

def execPowerComparatorEval (powerMw vinMv : Nat) (currents : List Nat) (temps : List (Nat × Nat)) (stackTemps : List Nat)
    (s : State) : Out State :=
  clocked s (if s.power.evalAt + fabUs 2 ≤ s.fab then s.comparators powerMw vinMv currents temps stackTemps else s)

/-! ## PWR_LIMITS (R476, R477) -/

/-- A write of PWR_LIMITS: TJ_LIMIT above the value in force or below 70 is ignored. -/
def State.pwrLimits (s : State) (v : Word) : State :=
  let tj := field v 16 8
  (s.modPower fun p => { p with thrMin := field v 24 3, tjLimit := if p.tjLimit < tj ∨ tj < 70 then p.tjLimit else tj }).capWrite
    (field v 0 16)

def State.pwrLimitsWord (s : State) : Word :=
  BitVec.ofNat 64 (2 ^ 24 * (s.power.thrMin % 8) + 65536 * (s.power.tjLimit % 256) + s.power.capW % 65536)

def execPwrLimitsWrite (v : Word) (s : State) : Out State := s.keeperDoes (s.pwrLimits v)

/-! ## Thermal trip (R478) -/

/-- What stands on the core, fabric and stack rails is lost, with every session key, and the host link goes down. -/
def State.railsLost (s : State) : State :=
  let s := overAll (List.range s.member.cores) State.powerDown s.linkDrop
  { s with
    mem := [], memTag := [], memBad := [], stks := [], flits := [], inbox := [], outbox := [], barriers := [], replicas := [], beacon := []
    tally := [], bonds := [], ports := (s.ports.map fun p => (p.1, ({ cable := p.2.cable } : MPort))).filter fun p => p.2 != {}
    trust := { s.trust with keyRun := none, slots := s.trust.slots.map fun p => (p.1, { p.2 with key := 0, pair := 0 }) } }

/-- The trip: THERM_N latches low, and every rail but the management rails goes off; the firmware counts it
(R448). -/
def State.trip (s : State) : State :=
  let s := if s.firmware then s.modAgeing fun a => a.lived (some 3) else s
  s.railsLost.modPower fun p => { p with tripped := true, railsOn := false, perstSeen := p.perstLow }

def execThermalTrip (s : State) : Out State := .next (if s.power.powerGood && !s.power.tripped then s.trip else s)

/-- PERST_N has been low and every sensor reads 85 °C or less: THERM_N is released, and the rails come on. -/
def execTripRelease (s : State) : Out State :=
  .next (if s.power.tripped && s.power.perstSeen then
    s.modPower fun p => { p with tripped := false, perstSeen := false, railsOn := p.powerGood } else s)

/-! ## Power-up and power-down (R480) -/

def execVinRise (s : State) : Out State := .next (s.modPower fun p => { p with vinOn := true })

def execPowerGood (s : State) : Out State :=
  .next (if s.power.vinOn && !s.power.powerGood then s.modPower fun p => { p with powerGood := true, railsOn := true } else s)

/-- Every rail is switched off; what follows is a power-up. -/
def execVinFall (s : State) : Out State :=
  .next ((s.coldReset).modPower fun p => { p with vinOn := false, powerGood := false, railsOn := false, tripped := false, perstSeen := false })

end Sys2Proof.Machine
end

