-- ==== Sys2Proof/Machine/Debug.lean ====
section
/-! DEFINITION. Thread debug (R461-R466): stop, resume, step, BRK, and the items of a stopped thread. -/

namespace Sys2Proof.Machine

open Sys2Proof

/-! ## Stop, resume, step (R461-R464) -/

/-- The thread is stopped, with REASON. -/
def Thread.stop (th : Thread) (reason : Nat) : Thread := { th with stopped := true, stopReq := false, step := 0, reason }

/-- A STOP that was asked for takes effect, at the next boundary or progress point; `pos` is the point reached in
a started long instruction. -/
def State.stopNow (s : State) (t : Tid) (pos : Nat) : State :=
  match s.leave t pos with
  | none => s
  | some l => l.s.modThr t fun th => th.stop 1

/-- Address of a debug register of thread t. -/
def dbgAddr (t : Tid) (r : Nat) : Nat := 0xF001000000000 + 0x2000 * coreOf t + 0x100 * tnum t + r

/-- STOP (R461). -/
def State.dbgStop (s : State) (t : Tid) : State :=
  if (s.thr t).stopped || (s.core (coreOf t)).member.isNone then s
  else
    let d := s.draw
    (d.2.modThr t fun th => { th with stopReq := true }).stopNow t (d.1.toNat % 65536)

/-- RESUME (R461). -/
def Thread.resume (th : Thread) : Thread := if th.stopped then { th with stopped := false, reason := 0, step := 0, ran := true } else th

/-- STEP (R462). -/
def State.dbgStep (s : State) (acc : Accessor) (t : Tid) : State :=
  let th := s.thr t
  if !th.stopped then s
  else if th.world then s.refuseAccessor acc (dbgAddr t 0)
  else s.setThr t { th with step := 1 }

def execDbgStop (t : Tid) (s : State) : Out State := clocked s (s.dbgStop t)
def execDbgResume (t : Tid) (s : State) : Out State := clocked s (s.modThr t Thread.resume)
def execDbgStep (t : Tid) (s : State) : Out State := clocked s (s.dbgStep .debug t)

/-- The stepped instruction has retired, or has blocked and is left without effect, or an entry has been performed. -/
def State.stepStop (s : State) (t : Tid) : State :=
  let th := s.thr t
  if th.stopped && th.step == 2 then
    if th.long.isSome then s
    else
      match s.leave t 0 with
      | none => s
      | some l => l.s.modThr t fun th => th.stop 2
  else if th.stopReq then
    let d := s.draw
    d.2.stopNow t (d.1.toNat % 65536)
  else s

def execStepStop (t : Tid) (s : State) : Out State := clocked s (s.stepStop t)

/-- BRK (R463): PC is past it when it stops the thread (log entry 45, DEDUCED). -/
def execBrk (t : Tid) (s : State) : Out State :=
  issue s t [] fun s =>
    let th := s.thr t
    if !th.world && th.brkStop then (s.past t 4).modThr t fun th => th.stop 3
    else s.raiseAt t causeBrk 0 false 0 (pcOf (th.pc + 4))

/-- A write of DBG_CTRL: more than one of STOP, RESUME, STEP and TRESET is refused (R461). -/
def State.dbgCtrl (s : State) (acc : Accessor) (t : Tid) (v : Word) : State :=
  let cmds := field v 0 4
  let put (s : State) : State := s.modThr t fun th => { th with brkStop := v.getLsbD 8 }
  match cmds with
  | 0 => put s
  | 1 => (put s).dbgStop t
  | 2 => (put s).modThr t Thread.resume
  | 4 => if (s.thr t).stopped && (s.thr t).world then s.refuseAccessor acc (dbgAddr t 0) else (put s).dbgStep acc t
  | 8 => (put s).tresetGo t
  | _ => s.refuseAccessor acc (dbgAddr t 0)

def Thread.dbgCtrlWord (th : Thread) : Word := BitVec.ofNat 64 (bit th.brkStop * 256)
def Thread.dbgStat (th : Thread) : Word := BitVec.ofNat 64 (th.reason * 16 + bit th.world * 2 + bit th.stopped)

/-! ## Items (R464-R466) -/

/-- Fields of DBG_SEL. -/
def selMask : Word := 0xFFFFF3

/-- Word w of a line. -/
def lineWord (l : Line) (w : Nat) : Word := BitVec.ofNat 64 (lineNat l (8 * w) 8)

/-- Register r as a register number. -/
def regOf (r : Nat) : Reg := ⟨r % 32, by omega⟩

/-- Item `i` of a class of thread t (R465). -/
def State.dbgItem (s : State) (t : Tid) (cls i : Nat) : Word :=
  let th := s.thr t
  match cls with
  | 0 => if i < 32 then th.greg (regOf i) else 0
  | 1 => if i = 0 then th.pc else if i = 1 then th.status else if i = 2 then BitVec.ofNat 64 th.rsp else 0
  | 2 => if i < 8 then th.pgreg i else 0
  | 3 => if i < 256 then lineWord (th.vreg (regOf (i / 8))) (i % 8) else 0
  | 4 => if i < 16 then s.readEntry t i else 0
  | 5 =>
    match i with
    | 0 => th.tshape
    | 1 => th.tstart
    | 2 => th.tstate
    | 3 => th.vpos
    | 4 => th.vacc
    | 5 => th.seedO.getD (BitVec.ofNat 64 t)
    | 6 => th.ctrO
    | _ => 0
  | 6 =>
    let x := th.opnd (i / 512 == 1)
    if 1024 ≤ i ∨ x.tag.sealed then 0 else lineWord (Map.get 0 x.data (i % 512 / 8)) (i % 8)
  | 7 =>
    let x := th.acc (i / 4096)
    if 8192 ≤ i ∨ x.tag.sealed then 0 else (Map.get 0 x.data (i % 4096)).setWidth 64
  | 8 =>
    let c := s.core (coreOf t)
    let k := tnum t
    if i < 32 then
      match (c.pipe k (i / 8))[i % 8]? with
      | none => 0
      | some w => if w.tag.sealed then 0 else w.data
    else if i < 36 ∧ i - 32 ≠ k then ptstWord (c.pipe k (i - 32)) (c.pipe (i - 32) k)
    else 0
  | _ => 0

/-- A write of item `i`, by a writer that holds O.s (R136, R465). -/
def State.dbgPut (s : State) (acc : Accessor) (t : Tid) (cls i : Nat) (v : Word) : State :=
  match cls with
  | 0 => if i < 32 then s.setG t (regOf i) v else s
  | 1 =>
    if i = 0 then s.modThr t fun th => { th with pc := pcOf v }
    else if i = 2 then s.modThr t fun th => { th with rsp := min v.toNat 2048 }
    else s
  | 2 => if i < 8 then s.modThr t fun th => { th with pg := Map.set 0 th.pg i (pageOf v) } else s
  | 3 =>
    if i < 256 then
      let r := regOf (i / 8)
      s.setV t r (lineSet ((s.thr t).vreg r) (8 * (i % 8)) 8 v.toNat)
    else s
  | 4 =>
    if i < 16 then
      let s' := s.writeEntry t i v false true 0
      if i = 2 ∧ clampKept v false true 0 then s'.refuseAccessor acc (dbgAddr t 0x408) else s'
    else s
  | _ => s

/-- The thread, class and index that DBG_SEL of core n selects. -/
def State.selected (s : State) (n : Nat) : Tid × Nat × Nat :=
  let v := Map.get 0 s.dbgSel n
  (4 * n + field v 0 2, field v 4 4, field v 8 16)

/-- Address of DBG_DATA of core n. -/
def dbgDataAddr (n : Nat) : Nat := 0xF001000000408 + 0x2000 * n

/-- A read of DBG_DATA (R466). -/
def State.dbgRead (s : State) (acc : Accessor) (n : Nat) : Word × State :=
  let x := s.selected n
  let th := s.thr x.1
  if !th.stopped then (0, s.refuseAccessor acc (dbgDataAddr n))
  else if th.world then (0, s)
  else (s.dbgItem x.1 x.2.1 x.2.2, s)

/-- A write of DBG_DATA (R466). -/
def State.dbgWrite (s : State) (acc : Accessor) (n : Nat) (v : Word) : State :=
  let x := s.selected n
  let th := s.thr x.1
  if !th.stopped then s.refuseAccessor acc (dbgDataAddr n)
  else if th.world then s
  else s.dbgPut acc x.1 x.2.1 x.2.2 v

def execDbgDataAccess (core : Nat) (write : Bool) (data : Word) (s : State) : Out State :=
  clocked s (if s.member.cores ≤ core then s
  else if write then s.dbgWrite .debug core data
  else
    let r := s.dbgRead .debug core
    { r.2 with dbgData := r.1 })

end Sys2Proof.Machine
end

