-- ==== Sys2Proof/Machine/Mgmt.lean ====
section
/-! DEFINITION. Management (ch. 20): the Keeper mailbox (R453-R455), telemetry (R456, R457), the event log
(R458), the SMBus sideband (R459) and JTAG (R460). -/

namespace Sys2Proof.Machine

open Sys2Proof

/-! ## The mailbox (R453, R454) -/

/-- The firmware serves a request with an opcode that the host has placed, with GO: refused while the image does
not run; ignored while a request is in progress; and not answered while the Keeper is stopped (R440, R453, R454). -/
def State.mailbox (s : State) (op : Nat) (payload : List Byte) (serve : State → State) : State :=
  if !s.hostSees 0 then s
  else if s.keeper.boot ≠ .running then s.refuseAccessor (.host 0) 0x1000
  else if s.keeper.mbBusy then s
  else
    let b := natBytes 2 op ++ natBytes 2 0 ++ natBytes 4 payload.length ++ payload
    let s := s.modKeeper fun k => { k with request := writeBytes k.request 0 b, mbBusy := true }
    if s.firmware then serve s else s

/-! ## Commands of the image (R455) -/

/-- The serial number. -/
def serialBytes : List Byte := (List.finRange 16).map Config.serialNumber

def State.serveInfo (s : State) : State :=
  s.mbReply 0 (bvBytes s.keeper.fwVersion 8 ++ bvBytes Config.romVersion 2 ++ natBytes 1 s.member.code ++
    natBytes 2 s.chart.pkg.fleetId ++ serialBytes)

/-- Wall time, once per boot (R449). -/
def State.serveWall (s : State) (v : Word) : State :=
  if s.keeper.wall.isSome then s.mbReply 5 []
  else (s.modKeeper fun k => { k with wall := some (v, s.now) }).mbReply 0 (bvBytes s.now 8)

/-- Bits of CHART_SRC that hold an address. -/
def chartSrcMask : Word := 0x000FFFFFFFFFFFC0

/-- CHART_ERR of a response for a command that DROPPED shows was not performed: code 0x07 BUSY (R53). -/
def busyErr : List Byte := natBytes 8 0x07

/-- A chart load; one that the chart engine drops, being busy, is answered with code BUSY (R53; log entry 46, DEDUCED). -/
def State.serveLoad (s : State) (src : Word) : State :=
  if s.chart.busy.isSome then
    let s := (s.modChart fun x => { x with src := src &&& chartSrcMask }).chartCtrl 1 0
    s.mbReply 4 (bvBytes s.chartStatus 8 ++ busyErr)
  else (((s.modChart fun x => { x with src := src &&& chartSrcMask }).modKeeper fun k => { k with mbWait := some none }).chartCtrl 1 0)

/-- A chart command for a constellation. -/
def State.serveChart (s : State) (cmd c : Nat) : State :=
  if cmd = 0 ∨ 7 < cmd ∨ 32 ≤ c then s.mbReply 3 []
  else if s.chart.busy.isSome then
    let s := s.chartCtrl cmd c
    s.mbReply 4 (busyErr ++ bvBytes (s.cstate c) 8)
  else (s.modKeeper fun k => { k with mbWait := some (some c) }).chartCtrl cmd c

/-- The FAULTED bit of a core (R62). -/
def State.serveFaulted (s : State) (core : Nat) (on : Bool) : State :=
  if s.member.cores ≤ core then s.mbReply 3 []
  else (s.modChart fun x => { x with faulted := Map.set false x.faulted core on }).mbReply 0 (natBytes 1 (bit on))

/-- The 32 bytes of an event-log entry (R458). -/
def Event.bytes (e : Event) : List Byte :=
  natBytes 8 e.seq ++ bvBytes e.time 8 ++ natBytes 1 e.kind ++ natBytes 1 e.cid ++ natBytes 2 e.node ++ natBytes 4 e.detail ++
    bvBytes e.addr 8

def State.serveEvents (s : State) (seq count : Nat) : State :=
  if count = 0 ∨ 120 < count then s.mbReply 3 []
  else s.mbReply 0 (((s.keeper.events.filter fun e => seq ≤ e.seq).take count).flatMap Event.bytes)

def State.serveLogbook (s : State) (page count : Nat) : State :=
  if count = 0 ∨ 15 < count ∨ 1024 < page + count then s.mbReply 3 []
  else s.mbReply 0 ((List.range count).flatMap fun i => s.logPage (page + i))

def State.serveWear (s : State) (k ch : Nat) : State :=
  if s.member.stks ≤ k ∨ 32 ≤ ch then s.mbReply 3 []
  else s.mbReply 0 ((List.range 32).flatMap fun b => natBytes 8 (Map.get 0 ((s.stack k).chan ch).wear b))

/-- POWER_CAP; a value above the cap in force is taken as that cap (R48, R477). -/
def State.servePower (s : State) (w : Nat) : State :=
  let s := s.capWrite w
  s.mbReply 0 (natBytes 4 s.power.capW)

/-- SKEY_ROTATE, unless a KEY is running (log entry 46, DEDUCED). -/
def State.serveRotate (s : State) : State :=
  if s.trust.keyRun.isSome then s.mbReply 5 []
  else
    let s := s.rotate
    s.mbReply 0 (bvBytes s.trust.skeyId 4)

def execInfo (s : State) : Out State := clocked s (s.mailbox 0x0001 [] State.serveInfo)
def execSetWallTime (v : Word) (s : State) : Out State := clocked s (s.mailbox 0x0002 (bvBytes v 8) fun s => s.serveWall v)
def execChartLoad (src : Word) (s : State) : Out State := clocked s (s.mailbox 0x0010 (bvBytes src 8) fun s => s.serveLoad src)
def execChartCmd (cmd cid : BitVec 8) (s : State) : Out State :=
  clocked s (s.mailbox 0x0011 [cmd, cid] fun s => s.serveChart cmd.toNat cid.toNat)
def execFaultedSet (core : Nat) (s : State) : Out State :=
  clocked s (s.mailbox 0x0012 (natBytes 2 core ++ [1]) fun s => s.serveFaulted core true)
def execFaultedClear (core : Nat) (s : State) : Out State :=
  clocked s (s.mailbox 0x0012 (natBytes 2 core ++ [0]) fun s => s.serveFaulted core false)
def execEventRead (seq count : Nat) (s : State) : Out State :=
  clocked s (s.mailbox 0x0020 (natBytes 8 seq ++ natBytes 2 count) fun s => s.serveEvents seq count)
def execLogbookRead (page count : Nat) (s : State) : Out State :=
  clocked s (s.mailbox 0x0021 (natBytes 2 page ++ natBytes 1 count) fun s => s.serveLogbook page count)
def execStackWear (stk ch : Nat) (s : State) : Out State :=
  clocked s (s.mailbox 0x0022 (natBytes 1 stk ++ natBytes 1 ch) fun s => s.serveWear stk ch)
def execPowerCap (watts : BitVec 32) (s : State) : Out State :=
  clocked s (s.mailbox 0x0030 (bvBytes watts 4) fun s => s.servePower watts.toNat)
def execSkeyRotate (s : State) : Out State := clocked s (s.mailbox 0x0031 [] State.serveRotate)

/-- MB_CMD.GO on a request that the host has written into the buffer: the opcode and the length are checked, and the
command is served (R453, R455). -/
def State.mbGo (s : State) : State :=
  if s.keeper.mbBusy then s
  else
    let f (off n : Nat) : Nat := leNat (readBytes s.keeper.request off n)
    let s := s.modKeeper fun k => { k with mbBusy := true }
    if !s.firmware then s
    else
      let go (n : Nat) (k : State) : State := if f 4 4 = n then k else s.mbReply 2 []
      match f 0 2 with
      | 0x0001 => go 0 s.serveInfo
      | 0x0002 => go 8 (s.serveWall (BitVec.ofNat 64 (f 8 8)))
      | 0x0010 => go 8 (s.serveLoad (BitVec.ofNat 64 (f 8 8)))
      | 0x0011 => go 2 (s.serveChart (f 8 1) (f 9 1))
      | 0x0012 => go 3 (if 1 < f 10 1 then s.mbReply 3 [] else s.serveFaulted (f 8 2) (f 10 1 == 1))
      | 0x0020 => go 10 (s.serveEvents (f 8 8) (f 16 2))
      | 0x0021 => go 3 (s.serveLogbook (f 8 2) (f 10 1))
      | 0x0022 => go 2 (s.serveWear (f 8 1) (f 9 1))
      | 0x0030 => go 4 (s.servePower (f 8 4))
      | 0x0031 => go 0 s.serveRotate
      | _ => s.mbReply 1 []

/-- MB_STATUS. -/
def Keeper.mbStatus (k : Keeper) : Word := BitVec.ofNat 64 (65536 * k.mbSeq.toNat + bit k.mbDone * 2 + bit k.mbBusy)

/-! ## Telemetry (R456, R457) -/

/-- Mean of a list of numbers. -/
def mean (l : List Nat) : Nat := l.sum / l.length

/-- POWER_MW. -/
def State.powerMw (s : State) : Nat := mean s.power.powerLog

def State.telInput (s : State) : Word := BitVec.ofNat 64 (2 ^ 32 * (s.powerMw % 2 ^ 32) + 65536 * (s.power.vinMv % 65536))
def State.telEnergy (s : State) : Word := BitVec.ofNat 64 (s.power.energyNj / 1000000)
def State.telDie (s : State) (d : Nat) : Word :=
  BitVec.ofNat 64 (Map.get 0 s.power.coreAmps d % 65536 * 2 ^ 24 + Map.get 0 s.power.tjMax d % 256 * 65536 +
    Map.get 0 s.power.tjMin d % 256 * 256 + s.throttle d % 8)

/-- PKG_FAULT. -/
def Keeper.pkgFault (k : Keeper) : Word := BitVec.ofNat 64 (2 ^ 32 * k.pkgCount.toNat + k.pkgBits.toNat)

/-- The snapshot of the mirror, by offset (R457). -/
def State.snapshot (s : State) : Map Word :=
  [(0x0008, s.now), (0x0010, s.telInput), (0x0018, s.telEnergy)] ++
    (List.range s.member.dies).map (fun d => (0x0040 + 8 * d, s.telDie d)) ++
    (List.range s.member.stks).map (fun k => (0x0100 + 8 * k, (s.stack k).statusWord)) ++
    allCons.map (fun c => (0x0200 + 8 * c, (s.con c).viol.setWidth 64)) ++
    [(0x0300, s.keeper.violPkg.setWidth 64), (0x0308, s.keeper.pkgFault)] ++
    allCons.map (fun c => (0x0400 + 8 * c, s.cstate c)) ++
    (List.range s.member.ports).map (fun p => (0x0500 + 8 * p, s.merStatus p)) ++
    [(0x0600, BitVec.ofNat 64 (s.keeper.eventSeq - 1))]

/-- A snapshot is due: the first since the reset, or 1 ms after the last (R457). -/
def State.mirrorDue (s : State) : Bool :=
  match s.keeper.mirrorAt with
  | none => true
  | some t => decide (t + 1100000 ≤ s.clk.ccycle.toNat)

/-- The firmware copies a snapshot once every 1 ms, between two increments of SEQ (R457). -/
def execTelemetryMirror (s : State) : Out State :=
  s.keeperDoes (if s.mirrorDue then s.modKeeper fun k => { k with
    mirrorSeq := k.mirrorSeq + 2, mirrorAt := some s.clk.ccycle.toNat, mirror := s.snapshot } else s)

/-- Address of TALLY_CLEAR. -/
def tallyClearAddr : Nat := 0xF000F00000208

/-- A write of TALLY_CLEAR: a supervisor may clear the tally of its constellation only, and a clear takes effect before the
counts of the same core cycle (R456). -/
def State.tallyClear (s : State) (acc : Accessor) (v : Word) : State :=
  let cs := allCons.filter fun c => v.getLsbD c
  if acc != .keeper && (v.getLsbD 32 || cs.any fun c => !s.supOf acc c) then s.refuseAccessor acc tallyClearAddr
  else
    let t := s.clk.ccycle
    let s := overAll cs (fun s c => s.modCon c fun x => { x with viol := if x.violAt = t then BitVec.ofNat 32 x.violNew else 0 }) s
    if v.getLsbD 32 then s.modKeeper fun k => { k with violPkg := if k.violAt = t then BitVec.ofNat 48 k.violNew else 0 } else s

def execTallyClear (acc : Accessor) (v : Word) (s : State) : Out State :=
  clocked s (s.regCmd acc tallyClearAddr fun s => s.tallyClear acc v)

/-! ## SMBus (R459) -/

/-- The sideband answers: the module has power and PERST_N is high. -/
def State.smbusOn (s : State) : Bool := s.power.powerGood && !s.power.perstLow

/-- A read over the sideband. -/
def smbusRead (bytes : State → List Byte) (s : State) : Out State :=
  .next (if s.smbusOn then s.modPower fun p => { p with smbus := bytes s } else s)

/-- LOCKUP_N is asserted (R143). -/
def State.lockupN (s : State) : Bool := s.cores.any fun p => p.2.locked

/-- BOOT_STATUS.STATE. -/
def BootSt.code : BootSt → Nat
  | .reset => 0
  | .waiting => 1
  | .loading => 2
  | .verifying => 3
  | .running => 4
  | .warm => 5

def State.smbusByte (s : State) : Nat :=
  s.keeper.boot.code * 16 + bit s.clk.rootLock * 8 + bit s.power.tripped * 4 + bit s.power.faultN * 2 + bit s.lockupN

def execSmbusStatus (s : State) : Out State := smbusRead (fun s => natBytes 1 s.smbusByte) s
def execTjMax (s : State) : Out State :=
  smbusRead (fun s => natBytes 1 (((List.range s.member.dies).map fun d => Map.get 0 s.power.tjMax d).foldl max 0)) s
def execStackTmax (s : State) : Out State :=
  smbusRead (fun s => natBytes 1 (((List.range s.member.stks).map fun k => (s.stack k).temp).foldl max 0)) s
def execInputPower (s : State) : Out State := smbusRead (fun s => natBytes 2 (s.powerMw / 1000)) s
def execSerial (s : State) : Out State := smbusRead (fun _ => serialBytes) s

/-- A write whose PEC fails, and any value but 0xA5, is discarded. -/
def execWarmReset (v : BitVec 8) (pecOk : Bool) (s : State) : Out State :=
  clocked s (if s.smbusOn && pecOk && v == 0xA5 then s.warmGo else s)

def execSmbusPowerCap (w : BitVec 16) (pecOk : Bool) (s : State) : Out State :=
  .next (if s.smbusOn && pecOk then s.capWrite w.toNat else s)

/-! ## JTAG (R460) -/

/-- An instruction is shifted in, with the data register that it selects. -/
def jtag (ir : BitVec 8) (dr : Word) (scan : Nat) (s : State) : Out State :=
  .next (if s.power.powerGood then s.modPower fun p => { p with jtagIr := ir, jtagDr := dr, scan } else s)

/-- PF0 Device ID (R356). -/
def Member.deviceId (m : Member) : Nat := 0x4E00 + m.dies

/-- The identification register. -/
def State.idcode (s : State) : Word :=
  BitVec.ofNat 64 (2 ^ 28 * Config.siliconRevision.toNat + 4096 * s.member.deviceId + 0x4A7 * 2 + 1)

def execBypass (s : State) : Out State := jtag 0xFF 0 0 s
def execIdcode (s : State) : Out State := jtag 0x01 s.idcode 0 s

/-- The levels of the pins, whose order in the boundary register the spec does not give (log entry 3, DESIGN CHOICE). -/
def execSamplePreload (s : State) : Out State := jtag 0x02 s.draw.1 0 s.draw.2

/-- EXTEST, CLAMP and HIGHZ: as the standard gives while PERST_N is low, and as BYPASS otherwise. -/
def execExtest (s : State) : Out State := if s.power.perstLow then jtag 0x00 s.draw.1 1 s.draw.2 else jtag 0x00 0 0 s
def execClamp (s : State) : Out State := jtag 0x03 0 (if s.power.perstLow then 2 else 0) s
def execHighz (s : State) : Out State := jtag 0x04 0 (if s.power.perstLow then 3 else 0) s

end Sys2Proof.Machine
end

