-- ==== Sys2Proof/Machine/Registers.lean ====
section
/-! DEFINITION. The register map of control space (R451) and of the host's BARs (R357, R358): what a read returns
and what a write does, by access code (R9), for an accessor that is entitled; the control-space access of a thread
at the block that holds the register (R266); and the debug access through JTAG (R460). -/

namespace Sys2Proof.Machine

open Sys2Proof

/-! ## Core control blocks (ch. 4, R272) -/

/-- DC_FOE_INFO (R452). -/
def Foe.outInfo (f : Foe) : Word :=
  BitVec.ofNat 64 (2 ^ 20 * (f.node % 4096) + (if f.node = nodeHost then 32768 * (f.func % 32) else 0) + f.kind % 16 * 256 + bit f.valid)

/-- A W1C write of FOE_INFO of core n. -/
def State.foeWrite (s : State) (n : Nat) (v : Word) : State :=
  if v.getLsbD 0 then s.modCore n fun c => { c with foe := c.foe.clear s.clk.ccycle } else s

/-- CCB_ID. -/
def State.ccbId (s : State) (n : Nat) : Word :=
  let c := (s.core n).member
  BitVec.ofNat 64 (c.getD 0 % 32 * 2 ^ 27 + 2 ^ 26 * bit c.isSome + 2 ^ 21 * (s.member.xy n).2 + 2 ^ 15 * (s.member.xy n).1 +
    s.member.dieOf n * 2 ^ 11 + n % 2048)

/-- CORE_STATE of CCB_STATE; while a commit or a reset of its constellation runs, the map gives the core no code, and
the value is open (log entry 47, DESIGN CHOICE). -/
def State.coreState (s : State) (n open_ : Nat) : Nat :=
  if (s.core n).locked then 5
  else
    match (s.core n).member with
    | none => 0
    | some c =>
      match (s.con c).st with
      | .dark => 0
      | .held => 1
      | .running => 2
      | .stopping => 3
      | .halted => 4
      | .committing | .resetting => open_ % 8

/-- CCB_STATE. -/
def State.ccbState (s : State) (n : Nat) : Word × State :=
  let d := s.draw
  let part (k : Nat) : Nat :=
    let th := s.thr (4 * n + k)
    (s.runState (4 * n + k) (d.1.getLsbD (8 + k)) + bit th.world * 8 + bit th.level * 16) * 2 ^ (8 * k + 8)
  (BitVec.ofNat 64 (part 0 + part 1 + part 2 + part 3 + s.coreState n (d.1.toNat % 8)), d.2)

/-- CCB_LOCKUP. -/
def Core.lockupWord (c : Core) : Word :=
  BitVec.ofNat 64 (c.lockCause % 256 * 256 + bit c.lockSealed * 8 + c.lockThread % 4 * 2 + bit c.locked)

/-- COUNT of RCOUNT at offset r of a control block: constellation and tag select it (R272). -/
def rcountKey (r : Nat) : Nat := (r - 0x1000) / 64 * 8 + (r - 0x1000) / 8 % 8

/-- CCB_COMPL: zero while the thread is in the Sealed world (ch. 10). -/
def State.compl (s : State) (n r : Nat) : Word :=
  let th := s.thr (4 * n + (r - 0x400) / 128)
  if th.world then 0 else streamWord th ((r - 0x400) / 8 % 16)

/-- A read of core n's control block at offset r. -/
def State.ccbRead (s : State) (n r : Nat) : Word × State :=
  let c := s.core n
  match r with
  | 0x00 => (s.ccbId n, s)
  | 0x08 => s.ccbState n
  | 0x10 => (c.lockupWord, s)
  | 0x18 => (c.lockPc, s)
  | 0x20 => (c.lockTime, s)
  | 0x40 => (c.foe.info, s)
  | 0x48 => (c.foe.addr, s)
  | 0x50 => (c.foe.time, s)
  | 0x60 => (s.clk.ccycle, s)
  | 0x80 => (s.ccbInj n, s)
  | _ => (if r < 0x600 then s.compl n r else (Map.get 0 c.rcount (rcountKey r)).setWidth 64, s)

/-- A write of core n's control block at offset r. -/
def State.ccbWrite (s : State) (n r : Nat) (v : Word) : State :=
  if r = 0x40 then s.foeWrite n v
  else if 0x1000 ≤ r then s.modCore n fun c => { c with rcount := Map.set 0 c.rcount (rcountKey r) (v.setWidth 32) }
  else s

/-! ## Die controllers, synchronisation, stacks, mesh -/

/-- A read of die d's controller: only die 0's first-offender entry records (R452). -/
def State.dcRead (s : State) (d r : Nat) : Word :=
  match r with
  | 0x40 => if d = 0 then s.dcFoe.outInfo else 0
  | 0x48 => if d = 0 then s.dcFoe.addr else 0
  | 0x50 => if d = 0 then s.dcFoe.time else 0
  | _ => BitVec.ofNat 64 (bit (s.die d).resetBusy * 512 + (s.die d).resetIndex % 256)

/-- A write of die d's controller; DC_CORE_RESET holds INDEX, and GO starts a core reset (R432). -/
def State.dcWrite (s : State) (d r : Nat) (v : Word) : State :=
  if r = 0x40 then if d = 0 ∧ v.getLsbD 0 then { s with dcFoe := s.dcFoe.clear s.clk.ccycle } else s
  else if r = 0x200 then
    if v.getLsbD 8 then s.coreResetGo d (field v 0 8)
    else s.modDie d fun x => { x with resetIndex := field v 0 8 }
  else s

/-- A read of the synchronisation block (ch. 12). -/
def State.syncRead (s : State) (r : Nat) : Word :=
  if r < 0x200 then if r % 16 = 0 then s.fogStatus (r / 16) else (s.con (r / 16)).fogTime
  else if r < 0x500 then s.liveLimitsWord ((r - 0x400) / 8)
  else (s.barrier ((r - 0x1000) / 8)).word

def State.syncWrite (s : State) (acc : Accessor) (r : Nat) (v : Word) : State :=
  if r < 0x200 then if r % 16 = 0 then s.fogStatusWrite acc (r / 16) v else s
  else if 0x400 ≤ r ∧ r < 0x500 then s.liveLimits ((r - 0x400) / 8) v
  else s

/-- A read of stack k's control block (R353, R430). -/
def State.stkRegRead (s : State) (k r : Nat) : Word :=
  let x := s.stack k
  match r with
  | 0x00 => x.statusWord
  | 0x08 => x.errWord
  | 0x10 => x.bgWord
  | 0x18 => 0
  | 0x20 => BitVec.ofNat 64 (bit x.training * 4 + bit x.trainFailed * 2)
  | _ => if r < 0x180 then x.retireWord ((r - 0x100) / 8) else (Map.get 0 x.rcount (rcountKey r)).setWidth 64

def State.stkRegWrite (s : State) (k r : Nat) (v : Word) : State :=
  if r = 0x18 then s.stkClear k v
  else if r = 0x20 then if v.getLsbD 0 then s.train k else s
  else if 0x1000 ≤ r then s.modStack k fun x => { x with rcount := Map.set 0 x.rcount (rcountKey r) (v.setWidth 32) }
  else s

/-- A read of the mesh block (R257, R273). -/
def State.meshRead (s : State) (r : Nat) : Word :=
  if r < 0x100 then s.meshLimitsWord (r / 8)
  else
    let d := s.die ((r - 0x100) / 32)
    if r % 32 = 0 then d.statusWord else if r % 32 = 8 then d.trafficWord else 0

def State.meshWrite (s : State) (r : Nat) (v : Word) : State :=
  if r < 0x100 then s.meshLimits (r / 8) v
  else if r % 32 = 0x10 then s.meshClear ((r - 0x100) / 32) v
  else s

/-! ## Chart engine and clock unit -/

def State.chartRead (s : State) (r : Nat) : Word :=
  let x := s.chart
  if r = 0x08 then x.src
  else if r = 0x10 then s.chartStatus
  else if r = 0x18 then s.chartErr
  else if r < 0x40 then 0
  else if r < 0x60 then measWord x.keyHash ((r - 0x40) / 8)
  else if r < 0x80 then measWord x.shadowMeas ((r - 0x60) / 8)
  else if r < 0xA0 then measWord x.pkgMeas ((r - 0x80) / 8)
  else if r < 0x200 then s.cstate ((r - 0x100) / 8)
  else if r < 0x800 then measWord (s.con ((r - 0x400) / 32)).cmeas ((r - 0x400) / 8 % 4)
  else s.faultedWord ((r - 0x800) / 8)

def State.chartWrite (s : State) (r : Nat) (v : Word) : State :=
  if r = 0x00 then s.chartCtrl (field v 0 4) (field v 4 5)
  else if r = 0x08 then s.modChart fun x => { x with src := v &&& chartSrcMask }
  else if r = 0x10 then s.chartStatusWrite v
  else if 0x800 ≤ r then s.faultedWrite ((r - 0x800) / 8) v
  else s

def State.clkRead (s : State) (r : Nat) : Word :=
  match r with
  | 0x00 => s.clkStatus
  | 0x08 => s.now
  | 0x20 => s.timeStatus
  | 0x28 => s.freqTrim
  | _ => 0

def State.clkWrite (s : State) (acc : Accessor) (r : Nat) (v : Word) : State :=
  if r = 0x10 then s.sidStep v else if r = 0x18 then s.sidLoad acc v else s

/-! ## Function blocks (ch. 15) -/

/-- The pages of a host window register: bits [51:12], and of HWHOST bits [63:12]. -/
def hwMask (r : Nat) : Word := if r = 0x10 then 0xFFFFFFFFFFFFF000 else 0x000FFFFFFFFFF000

/-- The writable bits of INB_MAP and of DB_ROUTE. -/
def inbMask : Word := 0x000FFFFFC0000007
def routeMask : Word := 0x11FFF

/-- A read of function f's block at offset r, on the part's side or on the host's. -/
def State.funcRead (s : State) (f r : Nat) (host : Bool) : Word :=
  let x := s.func f
  if r = 0x00 then x.hwbase
  else if r = 0x08 then x.hwlimit
  else if r = 0x10 then x.hwhost
  else if r = 0x18 then s.fnStatus f
  else if r < 0x1000 then Map.get 0 x.inb ((r - 0x100) / 8)
  else if r < 0x1200 then if host then 0 else Map.get 0 x.doorbell ((r - 0x1000) / 8)
  else if r = 0x1400 then x.dbPend
  else if r < 0x1800 then Map.get 0 x.dbRoute ((r - 0x1600) / 8)
  else if r < 0x10000 then 0
  else if r < 0x18000 then (x.msixEntry ((r - 0x10000) / 16)).extractLsb' (64 * (r / 8 % 2)) 64
  else BitVec.ofNat 64 ((List.range 64).foldl (fun v j => v + bit (Map.get false x.msixPba ((r - 0x18000) * 8 + j)) * 2 ^ j) 0)

/-- A write by the part. -/
def State.funcWrite (s : State) (acc : Accessor) (f r : Nat) (v : Word) : State :=
  if 0x100 ≤ r ∧ r < 0x1000 then s.modFunc f fun x => { x with inb := Map.set 0 x.inb ((r - 0x100) / 8) (v &&& inbMask) }
  else if r = 0x1400 then s.dbPendWrite f v
  else if 0x1600 ≤ r ∧ r < 0x1800 then
    s.modFunc f fun x => { x with dbRoute := Map.set 0 x.dbRoute ((r - 0x1600) / 8) (v &&& routeMask) }
  else if r = 0x2000 then s.msixSend acc f v
  else s

/-- A write of 8 bytes by the host: the host window, a doorbell, and the MSI-X table. -/
def State.funcHostWrite (s : State) (f r : Nat) (v : Word) : State :=
  if r = 0x00 then s.modFunc f fun x => { x with hwbase := v &&& hwMask r }
  else if r = 0x08 then s.modFunc f fun x => { x with hwlimit := v &&& hwMask r }
  else if r = 0x10 then s.modFunc f fun x => { x with hwhost := v &&& hwMask r }
  else if 0x1000 ≤ r ∧ r < 0x1200 then s.doorbell f ((r - 0x1000) / 8) 8 v
  else if 0x10000 ≤ r ∧ r < 0x18000 then
    let e := (r - 0x10000) / 16
    let sh := 64 * (r / 8 % 2)
    let put (w : BitVec 128) : BitVec 128 := (w &&& ~~~ (0xFFFFFFFFFFFFFFFF#128 <<< sh)) ||| (v.setWidth 128 <<< sh)
    (s.modFunc f fun x => { x with msixTable := Map.set 0 x.msixTable e (put (x.msixEntry e)) }).msixFlush f
  else s

/-! ## Meridian and tally (ch. 16) -/

def State.merRead (s : State) (r : Nat) : Word :=
  if r < 0x400 then if r % 64 = 0 then s.merStatus (r / 64) else 0
  else if r < 0xC00 then s.digRead ((r - 0x800) / 64) (r % 64)
  else if r < 0xC40 then s.digTotal (r - 0xC00)
  else 0

def State.merWrite (s : State) (r : Nat) (v : Word) : State :=
  if r < 0x400 then if r % 64 = 8 then s.merCmd (r / 64) v else s
  else if r = 0xC40 then s.digCtrl v
  else s

/-- A write of die d's tally block by a thread, with the world and slot its packet carries. -/
def State.tallyWriteReg (s : State) (t : Tid) (tag : Tag) (d r : Nat) (v : Word) : State :=
  if r = 0 then s.tallySubmit t tag d v
  else if r = 0x10 then
    match (s.core (coreOf t)).member with
    | none => s
    | some c => s.tallyAbort d c (v.setWidth 32)
  else s

/-! ## Session, identity and quote blocks (ch. 17) -/

/-- Eight bytes of a byte table. -/
def bytesWord (m : Map Byte) (off : Nat) : Word := BitVec.ofNat 64 (leNat (readBytes m off 8))

def State.sessRead (s : State) (r : Nat) : Word :=
  if r < 0x8000 then (s.slot (r / 8)).word
  else if r < 0x20000 then
    let a := s.area ((r - 0x10000) / 0x800)
    let o := (r - 0x10000) % 0x800
    if o = 0x608 then a.word
    else if o < 0x620 then 0
    else if o < 0x640 then measWord a.confirm ((o - 0x620) / 8)
    else a.report.extractLsb' (8 * (o - 0x640)) 64
  else if r = 0x20008 then BitVec.ofNat 64 (2 ^ 32 * s.trust.skeyId.toNat + bit s.trust.skeyValid)
  else if 0x20040 ≤ r ∧ r < 0x20060 then measWord s.trust.skeyHash ((r - 0x20040) / 8)
  else if 0x20800 ≤ r ∧ s.trust.skeyValid then BitVec.ofNat 64 (leNat ((s.skey.drop (r - 0x20800)).take 8))
  else 0

def State.sessWrite (s : State) (acc : Accessor) (r : Nat) (v : Word) : State :=
  if r < 0x10000 then s
  else if r < 0x20000 then
    let c := (r - 0x10000) / 0x800
    let o := (r - 0x10000) % 0x800
    if o < 0x440 then s.modArea c fun a => { a with ct := writeBytes a.ct o (natBytes 8 v.toNat) }
    else if o = 0x600 then s.sessCmd acc c v
    else if o = 0x608 then s.modArea c fun a => { a with done := s.w1c (.sessionDone c) a.done (v.getLsbD 1) }
    else if 0x640 ≤ o then
      s.modArea c fun a => { a with report :=
        (a.report &&& ~~~ (0xFFFFFFFFFFFFFFFF#512 <<< (8 * (o - 0x640)))) ||| (v.setWidth 512 <<< (8 * (o - 0x640))) }
    else s
  else if r = 0x20000 then if v.getLsbD 0 then s.rotate else s
  else s

def State.idRead (s : State) (r : Nat) : Word :=
  let t := s.trust
  if r = 8 then BitVec.ofNat 64 (bit t.idUsed * 8 + bit t.enrolled * 4 + bit t.idFail * 2 + bit t.idReady)
  else if 0x40 ≤ r ∧ r < 0x60 then measWord t.idPub ((r - 0x40) / 8)
  else if 0x1000 ≤ r then bytesWord t.helper (r - 0x1000)
  else 0

/-- ID_HELPER takes writes until the command (R417). -/
def State.idWrite (s : State) (acc : Accessor) (r : Nat) (v : Word) : State :=
  if r = 0 then s.idCmd acc v
  else if 0x1000 ≤ r ∧ !s.trust.idUsed then
    s.modTrust fun t => { t with helper := writeBytes t.helper (r - 0x1000) (natBytes 8 v.toNat) }
  else s

def State.quoteRead (s : State) (r : Nat) : Word :=
  let t := s.trust
  if r = 8 then BitVec.ofNat 64 (bit t.quoteDone * 2 + bit t.quoteBusy)
  else if 0x20 ≤ r ∧ r < 0x40 then measWord t.quoteNonce ((r - 0x20) / 8)
  else if 0x1000 ≤ r then BitVec.ofNat 64 (leNat ((t.quoteBuf.drop (r - 0x1000)).take 8))
  else 0

def State.quoteWrite (s : State) (acc : Accessor) (r : Nat) (v : Word) : State :=
  if r = 0 then if v.getLsbD 6 then s.quoteGo acc (field v 0 5) (v.getLsbD 5) else s
  else if r = 8 then s.modTrust fun t => { t with quoteDone := s.w1c .quoteDone t.quoteDone (v.getLsbD 1) }
  else if 0x20 ≤ r ∧ r < 0x40 then
    let sh := 8 * (r - 0x20)
    s.modTrust fun t => { t with quoteNonce :=
      (t.quoteNonce &&& ~~~ (0xFFFFFFFFFFFFFFFF#256 <<< sh)) ||| (v.setWidth 256 <<< sh) }
  else s

/-! ## Fault and telemetry blocks (chs. 19, 20, R476) -/

/-- FAULT_STATUS and FAULT_INFO of a constellation. -/
def Cons.faultWord (x : Cons) : Word := BitVec.ofNat 64 (2 ^ 32 * x.faultCount.toNat + x.faultBits.toNat)
def Cons.faultInfo (x : Cons) : Word :=
  BitVec.ofNat 64 (2 ^ 20 * (x.faultNode % 4096) + 65536 * (x.faultClass % 16) + bit x.faultSealed * 2 + bit x.faultValid)

def State.faultRead (s : State) (r : Nat) : Word :=
  if r < 0x400 then
    let x := s.con (r / 32)
    match r % 32 with
    | 0x00 => x.faultWord
    | 0x08 => x.faultInfo
    | 0x10 => x.faultAddr
    | _ => x.faultTime
  else if r = 0x400 then s.keeper.pkgFault
  else 0

def State.faultWrite (s : State) (r : Nat) (v : Word) : State :=
  if r < 0x400 then
    s.modCon (r / 32) fun x =>
      if r % 32 = 0 then { x with faultBits := x.faultBits &&& (~~~ v.setWidth 15 ||| s.hwBits 15 (.fault (r / 32))) }
      else if r % 32 = 8 ∧ v.getLsbD 0 then x.faultClear s.clk.ccycle
      else x
  else if r = 0x400 then
    s.modKeeper fun k => { k with pkgBits := k.pkgBits &&& (~~~ v.setWidth 15 ||| s.hwBits 15 .pkgFault) }
  else if v.getLsbD 0 then s.kick
  else s

def State.telRead (s : State) (r : Nat) : Word :=
  if r = 0 then s.telInput
  else if r = 8 then s.telEnergy
  else if r < 0x100 then s.telDie ((r - 0x40) / 8)
  else if r < 0x200 then (s.con ((r - 0x100) / 8)).viol.setWidth 64
  else if r = 0x200 then s.keeper.violPkg.setWidth 64
  else if r = 0x210 then s.pwrLimitsWord
  else 0

def State.telWrite (s : State) (acc : Accessor) (r : Nat) (v : Word) : State :=
  if r = 0x208 then s.tallyClear acc v else if r = 0x210 then s.pwrLimits v else s

/-! ## Debug pages (R461-R466) -/

def State.dbgPageRead (s : State) (acc : Accessor) (n o : Nat) : Word × State :=
  if o = 0x400 then (Map.get 0 s.dbgSel n, s)
  else if o = 0x408 then s.dbgRead acc n
  else if o % 0x100 = 0 then ((s.thr (4 * n + o / 0x100)).dbgCtrlWord, s)
  else ((s.thr (4 * n + o / 0x100)).dbgStat, s)

def State.dbgPageWrite (s : State) (acc : Accessor) (n o : Nat) (v : Word) : State :=
  if o = 0x400 then { s with dbgSel := Map.set 0 s.dbgSel n (v &&& selMask) }
  else if o = 0x408 then s.dbgWrite acc n v
  else if o % 0x100 = 0 then s.dbgCtrl acc (4 * n + o / 0x100) v
  else s

/-! ## Control space (R451) -/

/-- A read of the register at offset r of a block of control space, by an entitled accessor. -/
def State.blockGet (s : State) (acc : Accessor) (block r : Nat) : Word × State :=
  match block with
  | 0x0 => s.ccbRead (r / 0x10000) (r % 0x10000)
  | 0x1 => (s.dcRead (r / 0x10000) (r % 0x10000), s)
  | 0x2 => (s.syncRead r, s)
  | 0x3 => (s.stkRegRead (r / 0x10000) (r % 0x10000), s)
  | 0x4 => (s.meshRead r, s)
  | 0x5 => (if r % 64 = 0 then (s.con (r / 64)).wtbase else if r % 64 = 8 then (s.con (r / 64)).wtcount else 0, s)
  | 0x6 => (s.chartRead r, s)
  | 0x7 => (s.clkRead r, s)
  | 0x8 => (s.funcRead (r / 0x20000) (r % 0x20000) false, s)
  | 0x9 => (s.merRead r, s)
  | 0xA => (if r % 0x1000 = 8 then s.tallyStatus (r / 0x1000) else 0, s)
  | 0xB => (s.sessRead r, s)
  | 0xC => (s.idRead r, s)
  | 0xD => (s.quoteRead r, s)
  | 0xE => (s.faultRead r, s)
  | 0xF => (s.telRead r, s)
  | 0x10 => s.dbgPageRead acc (r / 0x2000) (r % 0x2000)
  | _ => (0, s)

/-- A read of the register at control-space address a by an entitled accessor. -/
def State.ctlGet (s : State) (acc : Accessor) (a : Nat) : Word × State := s.blockGet acc (ctlSplit a).1 (ctlSplit a).2

/-- A write of the register at offset r of a block by an entitled accessor; a thread's write carries the tag of
its packet. -/
def State.blockPut (s : State) (acc : Accessor) (tag : Tag) (block r : Nat) (v : Word) : State :=
  match block with
  | 0x0 => s.ccbWrite (r / 0x10000) (r % 0x10000) v
  | 0x1 => s.dcWrite (r / 0x10000) (r % 0x10000) v
  | 0x2 => s.syncWrite acc r v
  | 0x3 => s.stkRegWrite (r / 0x10000) (r % 0x10000) v
  | 0x4 => s.meshWrite r v
  | 0x5 => s.windowWrite (r / 64) (r % 64) v
  | 0x6 => s.chartWrite r v
  | 0x7 => s.clkWrite acc r v
  | 0x8 => s.funcWrite acc (r / 0x20000) (r % 0x20000) v
  | 0x9 => s.merWrite r v
  | 0xA =>
    match acc with
    | .thread t => s.tallyWriteReg t tag (r / 0x1000) (r % 0x1000) v
    | _ => s
  | 0xB => s.sessWrite acc r v
  | 0xC => s.idWrite acc r v
  | 0xD => s.quoteWrite acc r v
  | 0xE => s.faultWrite r v
  | 0xF => s.telWrite acc r v
  | 0x10 => s.dbgPageWrite acc (r / 0x2000) (r % 0x2000) v
  | _ => s

/-- A write of the register at control-space address a by an entitled accessor. -/
def State.ctlPut (s : State) (acc : Accessor) (tag : Tag) (a : Nat) (v : Word) : State :=
  s.blockPut acc tag (ctlSplit a).1 (ctlSplit a).2 v

/-- The tag an accessor's own write carries. -/
def State.accTag (s : State) (acc : Accessor) : Tag :=
  match acc with
  | .thread t => (s.thr t).tag
  | _ => {}

/-- A read by any accessor: one that is not entitled reads zero and is counted (R25, R28). -/
def State.ctlRead (s : State) (acc : Accessor) (a : Nat) : Word × State :=
  if a % 8 = 0 ∧ s.ctlMay acc a false then s.ctlGet acc a else (0, s.refuseAccessor acc a)

/-- A write by any accessor; a Keeper's needs running firmware (R440). -/
def State.ctlWrite (s : State) (acc : Accessor) (a : Nat) (v : Word) : State :=
  if a % 8 ≠ 0 then s.refuseAccessor acc a else s.regCmd acc a fun s => s.ctlPut acc (s.accTag acc) a v

/-! ## The host's BARs (R357, R358, R427, R453) -/

/-- BOOT_STATUS. -/
def State.bootStatus (s : State) : Word :=
  let k := s.keeper
  BitVec.ofNat 64 (2 ^ 48 * (k.attempts % 65536) + 2 ^ 32 * (k.bootErr % 256) + 65536 * Config.romVersion.toNat + k.boot.code)

/-- First address of the debug block. -/
def dbgBase : Nat := 0xF001000000000

/-- The mailbox registers that R453 opens, by BAR0 offset. -/
def mbOffset (o : Nat) : Bool := o == 0x40 || o == 0x48 || (0x1000 ≤ o && o < 0x3000)

/-- A word of the telemetry mirror (R457). -/
def Keeper.mirrorWord (k : Keeper) (o : Nat) : Word := if o = 0 then BitVec.ofNat 64 k.mirrorSeq else Map.get 0 k.mirror o

/-- A register of BAR0 that the host may read, or write: the boot registers, of which the source and the length are
written while the boot ROM waits only (R427), the mailbox (R453), PF0's function block, the telemetry mirror and the
debug window. -/
def State.bar0Open (s : State) (o : Nat) (write : Bool) : Bool :=
  o % 8 == 0 &&
    ((decide (o < 0x20) && (!write || !(o == 0x08 || o == 0x10) || s.keeper.boot == .waiting)) ||
      (mbOffset o && s.keeper.boot == .running) ||
      (decide (0x20000 ≤ o) && decide (o < 0x40000) && mayHostFunc 0 (o - 0x20000)) ||
      (decide (0x100000 ≤ o) && decide (o < 0x200000)) ||
      (decide (0x1000000 ≤ o) && decide (o < 0x2000000) && s.ctlMay (.host 0) (dbgBase + o - 0x1000000) write))

/-- What a register of BAR0 that is open reads. -/
def State.bar0Get (s : State) (o : Nat) : Word × State :=
  let k := s.keeper
  if o < 0x20 then (if o = 0 then s.bootStatus else if o = 8 then k.bootSrc else if o = 0x10 then BitVec.ofNat 64 k.bootLen else 0, s)
  else if o < 0x20000 then
    (if o = 0x48 then k.mbStatus
     else if 0x1000 ≤ o ∧ o < 0x2000 then bytesWord k.request (o - 0x1000)
     else if 0x2000 ≤ o then BitVec.ofNat 64 (leNat ((k.response.drop (o - 0x2000)).take 8)) else 0, s)
  else if o < 0x40000 then (s.funcRead 0 (o - 0x20000) true, s)
  else if o < 0x200000 then (k.mirrorWord (o - 0x100000), s)
  else s.ctlGet (.host 0) (dbgBase + o - 0x1000000)

/-- A write of BOOT_CTRL (R427, R429): WARM comes first and hides the rest, and ABORT comes before GO (log entry 105,
DESIGN CHOICE). -/
def State.bootCtrlWrite (s : State) (v : Word) : State :=
  if v.getLsbD 8 then s.warmGo
  else
    let s := if v.getLsbD 1 then s.bootAbort else s
    if v.getLsbD 0 then s.bootGo (.host 0) else s

/-- What a write of a register of BAR0 that is open does. -/
def State.bar0Put (s : State) (o : Nat) (v : Word) : State :=
  if o < 0x20 then
    if o = 0x18 then s.bootCtrlWrite v
    else if o = 0 then s
    else s.modKeeper fun k =>
      if o = 8 then { k with bootSrc := v &&& chartSrcMask } else { k with bootLen := field v 0 25 }
  else if o < 0x20000 then
    if o = 0x40 then if v.getLsbD 0 then s.mbGo else s
    else if o = 0x48 then s.modKeeper fun k => { k with mbDone := s.w1c .mailboxDone k.mbDone (v.getLsbD 1) }
    else if o < 0x2000 then s.modKeeper fun k => { k with request := writeBytes k.request (o - 0x1000) (natBytes 8 v.toNat) }
    else s
  else if o < 0x40000 then s.funcHostWrite 0 (o - 0x20000) v
  else if o < 0x200000 then s
  else s.ctlPut (.host 0) {} (dbgBase + o - 0x1000000) v

/-- A VF's function block is open to the host at a host offset (R358). -/
def vfOpen (f o : Nat) : Bool := o % 8 == 0 && vfBlock ≤ o && o < vfBlock + 0x20000 && mayHostFunc f (o - vfBlock)

/-- The register at a BAR offset is open to the host. -/
def State.barOpen (s : State) (f o : Nat) (write : Bool) : Bool := if f = 0 then s.bar0Open o write else vfOpen f o

/-- The address that a refused BAR access records: that of the register in control space, or the BAR offset of one
that has none (R28; log entry 106, DESIGN CHOICE). -/
def barAddr (f o : Nat) : Nat :=
  if f = 0 then
    if 0x20000 ≤ o ∧ o < 0x40000 then funcAddr 0 (o - 0x20000)
    else if 0x1000000 ≤ o ∧ o < 0x2000000 then dbgBase + (o - 0x1000000)
    else o
  else if vfBlock ≤ o ∧ o < vfBlock + 0x20000 then funcAddr f (o - vfBlock) else o

/-- A refused BAR access counts once (R28, R29). -/
def State.refuseBar (s : State) (f o : Nat) : State := s.refuseAccessor (.host f) (barAddr f o)

/-- What a register of a BAR reads; zero if it is not open (R25). -/
def State.barGet (s : State) (f o : Nat) : Word × State :=
  if !s.barOpen f o false then (0, s) else if f = 0 then s.bar0Get o else (s.funcRead f (o - vfBlock) true, s)

/-- What a write of a register of a BAR does; none if it is not open (R25). -/
def State.barPut (s : State) (f o : Nat) (v : Word) : State :=
  if !s.barOpen f o true then s else if f = 0 then s.bar0Put o v else s.funcHostWrite f (o - vfBlock) v

/-- A write of 8 bytes of a BAR by the host: a function in a reset discards it (R368). -/
def State.barWrite (s : State) (f o : Nat) (v : Word) : State :=
  if !s.hostSees f || s.ideBroken f || (s.func f).flr then s
  else if s.barOpen f o true then s.barPut f o v else s.refuseBar f o

/-- Offsets of the 8-byte registers that an access touches, in address order. -/
def barRegs (off len : Nat) : List Nat := (List.range ((off + len + 7) / 8 - off / 8)).map fun i => 8 * (off / 8 + i)

/-- A request that touches a register that is not open counts once, with the first such register (R28). -/
def State.barCount (s : State) (f off len : Nat) (write : Bool) : State :=
  match (barRegs off len).find? fun o => !s.barOpen f o write with
  | none => s
  | some o => s.refuseBar f o

/-- What the host reads in `len` bytes of registers (log entry 49, DESIGN CHOICE). -/
def State.barReadBytes (s : State) (f off len : Nat) : List Byte × State :=
  let r := (barRegs off len).foldl (fun (x : List Byte × State) o =>
    let y := x.2.barGet f o
    (x.1 ++ natBytes 8 y.1.toNat, y.2)) ([], s.barCount f off len false)
  ((r.1.drop (off % 8)).take len, r.2)

/-- The word that bytes written at `off` give the register at o: its other bytes keep what it reads, and are zero
where a written 1 clears (MB_STATUS, R453). -/
def State.barMerge (s : State) (f o off : Nat) (data : List Byte) : Word :=
  let old := if f = 0 ∧ o = 0x48 then 0 else (s.barGet f o).1
  BitVec.ofNat 64 (leNat ((List.range 8).map fun i =>
    if off ≤ o + i ∧ o + i < off + data.length then data.getD (o + i - off) 0 else old.extractLsb' (8 * i) 8))

/-- Some register of an access is a doorbell (R360). -/
def touchesDoorbell (f off len : Nat) : Bool :=
  f ≠ 0 && (barRegs off len).any fun o => vfBlock + 0x1000 ≤ o && o < vfBlock + 0x1200

/-- The host writes bytes of registers (log entry 49, DESIGN CHOICE); a doorbell takes 8 bytes only (R360). -/
def State.barWriteBytes (s : State) (f off : Nat) (data : List Byte) : State :=
  if touchesDoorbell f off data.length && !(data.length == 8 && off % 8 == 0) then s.refuseHost f 1 (funcAddr f (off - vfBlock))
  else (barRegs off data.length).foldl (fun s o => s.barPut f o (s.barMerge f o off data)) (s.barCount f off data.length true)

/-- The host reads `len` bytes of function f: of a VF's inbound aperture, or of registers. -/
def execHostInboundRead (f off len : Nat) (s : State) : Out State :=
  .next (if f ≠ 0 ∧ off < vfBlock then s.hostRead f off len
  else if !s.hostSees f || s.ideBroken f then s
  else if (s.func f).flr then s.hostReply f (natBytes len 0)
  else
    let r := s.barReadBytes f off len
    r.2.hostReply f r.1)

/-- The host writes bytes of function f. -/
def execHostInboundWrite (f off : Nat) (data : List Byte) (s : State) : Out State :=
  .next (if f ≠ 0 ∧ off < vfBlock then s.hostWrite f off data
  else if !s.hostSees f || s.ideBroken f || (s.func f).flr then s
  else s.barWriteBytes f off data)

/-! ## The commands -/

/-- A write to a register by any accessor: `addr` is a control-space address, and for the host a BAR offset. -/
def execRegisterWrite (acc : Accessor) (addr val : Word) (s : State) : Out State :=
  match acc with
  | .host f => .next (s.barWrite f addr.toNat val)
  | _ => clocked s (s.ctlWrite acc addr.toNat val)

/-- VALID of FOE_INFO is cleared (R119). -/
def execFoeValidClear (acc : Accessor) (core : Nat) (s : State) : Out State :=
  clocked s (if core < s.member.cores then
    s.regCmd acc (ctlBase + 0x10000 * core + 0x40) fun s => s.foeWrite core 1 else s)

/-- The answer to a control-space write; one of the window block waits for the member cores (R266, R350). -/
def State.ctlAck (s : State) (node a : Nat) (v : Word) (p : Packet) : State :=
  let r := (ctlSplit a).2
  if (ctlSplit a).1 = 0x5 ∧ !windowAtOnce (r % 64) v then s.modCon (r / 64) fun x => { x with winv := x.winv ++ [p] }
  else s.answer node p .wack 0 false

/-- A control-space access, entitled at its source, at the block that holds its register (R266). -/
def State.ctlPerform (s : State) (node : Nat) (p : Packet) : State :=
  let a := p.line * 64 + 8 * p.word
  let acc := Accessor.thread p.sender
  match p.typ with
  | .rd =>
    let r := s.ctlGet acc a
    r.2.answer node p .rdata (lineSet 0 (a % 64) 8 r.1.toNat) false
  | .wr => (s.ctlPut acc p.tag a p.opnd).ctlAck node a p.opnd p
  | .tally => s.ctlPut acc p.tag a p.opnd
  | _ => s

/-- The packet asks for a control-space access; an answer is none (R266). -/
def Packet.ctlRequest (p : Packet) : Bool := p.control && (p.typ == .rd || p.typ == .wr || p.typ == .tally)

/-- The block of R451 that holds the register at an address (R266). -/
def ctlBlock (a : Nat) : Nat :=
  let r := (ctlSplit a).2
  2 ^ 32 * (ctlSplit a).1 + match (ctlSplit a).1 with
    | 0x0 | 0x1 | 0x3 => r / 0x10000
    | 0x8 => r / 0x20000
    | 0xA => r / 0x1000
    | 0x10 => r / 0x2000
    | _ => 0

/-- No access to the block of the i-th packet at a node has arrived before it: a block performs accesses in order of arrival
(R266). -/
def State.ctlFirst (s : State) (node i : Nat) (p : Packet) : Bool :=
  !(((s.inb node).take i).any fun q => q.ctlRequest && ctlBlock (q.line * 64) == ctlBlock (p.line * 64))

def execControlAccess (node i : Nat) (s : State) : Out State :=
  clocked s (match (s.inb node)[i]? with
    | none => s
    | some p =>
      if p.ctlRequest && s.ctlFirst node i p then (s.setInb node (dropAt (s.inb node) i)).ctlPerform node p else s)

/-- Update-DR of DBG_ACCESS: an access to the debug window; what a read returns is the next Capture-DR's data
(R460). -/
def execDbgAccess (write : Bool) (off : BitVec 32) (data : Word) (s : State) : Out State :=
  .next (if !s.power.powerGood then s
  else
    let s := s.modPower fun p => { p with jtagIr := 0x10, jtagDr := data, scan := 0 }
    if !s.clocksOn then s
    else if write then s.ctlWrite .debug (dbgBase + off.toNat) data
    else
      let r := s.ctlRead .debug (dbgBase + off.toNat)
      { (r.2.modPower fun p => { p with jtagDr := r.1 }) with dbgData := r.1 })

end Sys2Proof.Machine
end

