-- ==== Sys2Proof/Machine/Dispatch.lean ====
section
/-! DEFINITION. The meaning of each command: one arm per constructor. -/

namespace Sys2Proof.Machine

open Sys2Proof

/-- What command i does to the part, apart from the queue. -/
def exec (i : Instr) (s : State) : Host.Outcome State Fault Refusal :=
  match i with
  | .registerWrite acc addr val => Sys2Proof.Machine.execRegisterWrite acc addr val s
  | .load => Sys2Proof.Machine.execLoad s
  | .chartLoadComplete => Sys2Proof.Machine.execChartLoadComplete s
  | .discard => Sys2Proof.Machine.execDiscard s
  | .commit c => Sys2Proof.Machine.execCommit c s
  | .commitComplete c => Sys2Proof.Machine.execCommitComplete c s
  | .start c => Sys2Proof.Machine.execStart c s
  | .stop c => Sys2Proof.Machine.execStop c s
  | .stopComplete c => Sys2Proof.Machine.execStopComplete c s
  | .reset c => Sys2Proof.Machine.execReset c s
  | .resetComplete c => Sys2Proof.Machine.execResetComplete c s
  | .release c => Sys2Proof.Machine.execRelease c s
  | .releaseComplete c => Sys2Proof.Machine.execReleaseComplete c s
  | .flrReset c => Sys2Proof.Machine.execFlrReset c s
  | .rootLock => Sys2Proof.Machine.execRootLock s
  | .rootLossOfLock => Sys2Proof.Machine.execRootLossOfLock s
  | .referenceLoss => Sys2Proof.Machine.execReferenceLoss s
  | .siderealIncrement => Sys2Proof.Machine.execSiderealIncrement s
  | .siderealLoad v => Sys2Proof.Machine.execSiderealLoad v s
  | .siderealStep v => Sys2Proof.Machine.execSiderealStep v s
  | .timeExchange => Sys2Proof.Machine.execTimeExchange s
  | .holdoverEntry => Sys2Proof.Machine.execHoldoverEntry s
  | .add t rd ra rb => Sys2Proof.Machine.execAdd t rd ra rb s
  | .sub t rd ra rb => Sys2Proof.Machine.execSub t rd ra rb s
  | .and t rd ra rb => Sys2Proof.Machine.execAnd t rd ra rb s
  | .or t rd ra rb => Sys2Proof.Machine.execOr t rd ra rb s
  | .xor t rd ra rb => Sys2Proof.Machine.execXor t rd ra rb s
  | .andn t rd ra rb => Sys2Proof.Machine.execAndn t rd ra rb s
  | .shl t rd ra rb => Sys2Proof.Machine.execShl t rd ra rb s
  | .shr t rd ra rb => Sys2Proof.Machine.execShr t rd ra rb s
  | .sar t rd ra rb => Sys2Proof.Machine.execSar t rd ra rb s
  | .rol t rd ra rb => Sys2Proof.Machine.execRol t rd ra rb s
  | .slt t rd ra rb => Sys2Proof.Machine.execSlt t rd ra rb s
  | .sltu t rd ra rb => Sys2Proof.Machine.execSltu t rd ra rb s
  | .min t rd ra rb => Sys2Proof.Machine.execMin t rd ra rb s
  | .max t rd ra rb => Sys2Proof.Machine.execMax t rd ra rb s
  | .minu t rd ra rb => Sys2Proof.Machine.execMinu t rd ra rb s
  | .maxu t rd ra rb => Sys2Proof.Machine.execMaxu t rd ra rb s
  | .mul t rd ra rb => Sys2Proof.Machine.execMul t rd ra rb s
  | .mulh t rd ra rb => Sys2Proof.Machine.execMulh t rd ra rb s
  | .mulhu t rd ra rb => Sys2Proof.Machine.execMulhu t rd ra rb s
  | .div t rd ra rb => Sys2Proof.Machine.execDiv t rd ra rb s
  | .divu t rd ra rb => Sys2Proof.Machine.execDivu t rd ra rb s
  | .rem t rd ra rb => Sys2Proof.Machine.execRem t rd ra rb s
  | .remu t rd ra rb => Sys2Proof.Machine.execRemu t rd ra rb s
  | .clz t rd ra => Sys2Proof.Machine.execClz t rd ra s
  | .ctz t rd ra => Sys2Proof.Machine.execCtz t rd ra s
  | .pop t rd ra => Sys2Proof.Machine.execPop t rd ra s
  | .addi t rd ra imm => Sys2Proof.Machine.execAddi t rd ra imm s
  | .andi t rd ra imm => Sys2Proof.Machine.execAndi t rd ra imm s
  | .ori t rd ra imm => Sys2Proof.Machine.execOri t rd ra imm s
  | .xori t rd ra imm => Sys2Proof.Machine.execXori t rd ra imm s
  | .slti t rd ra imm => Sys2Proof.Machine.execSlti t rd ra imm s
  | .sltiu t rd ra imm => Sys2Proof.Machine.execSltiu t rd ra imm s
  | .shli t rd ra amt => Sys2Proof.Machine.execShli t rd ra amt s
  | .shri t rd ra amt => Sys2Proof.Machine.execShri t rd ra amt s
  | .sari t rd ra amt => Sys2Proof.Machine.execSari t rd ra amt s
  | .roli t rd ra amt => Sys2Proof.Machine.execRoli t rd ra amt s
  | .li t rd imm => Sys2Proof.Machine.execLi t rd imm s
  | .lsh t rd imm => Sys2Proof.Machine.execLsh t rd imm s
  | .ldb t rd ra pg imm => Sys2Proof.Machine.execLdb t rd ra pg imm s
  | .ldbs t rd ra pg imm => Sys2Proof.Machine.execLdbs t rd ra pg imm s
  | .ldh t rd ra pg imm => Sys2Proof.Machine.execLdh t rd ra pg imm s
  | .ldhs t rd ra pg imm => Sys2Proof.Machine.execLdhs t rd ra pg imm s
  | .ldw t rd ra pg imm => Sys2Proof.Machine.execLdw t rd ra pg imm s
  | .ldws t rd ra pg imm => Sys2Proof.Machine.execLdws t rd ra pg imm s
  | .ldd t rd ra pg imm => Sys2Proof.Machine.execLdd t rd ra pg imm s
  | .stb t rs ra pg imm => Sys2Proof.Machine.execStb t rs ra pg imm s
  | .sth t rs ra pg imm => Sys2Proof.Machine.execSth t rs ra pg imm s
  | .stw t rs ra pg imm => Sys2Proof.Machine.execStw t rs ra pg imm s
  | .std t rs ra pg imm => Sys2Proof.Machine.execStd t rs ra pg imm s
  | .ldx t rd ra rb pg scale size sx => Sys2Proof.Machine.execLdx t rd ra rb pg scale size sx s
  | .stx t rs ra rb pg scale size => Sys2Proof.Machine.execStx t rs ra rb pg scale size s
  | .beq t ra rb disp => Sys2Proof.Machine.execBeq t ra rb disp s
  | .bne t ra rb disp => Sys2Proof.Machine.execBne t ra rb disp s
  | .blt t ra rb disp => Sys2Proof.Machine.execBlt t ra rb disp s
  | .bge t ra rb disp => Sys2Proof.Machine.execBge t ra rb disp s
  | .bltu t ra rb disp => Sys2Proof.Machine.execBltu t ra rb disp s
  | .bgeu t ra rb disp => Sys2Proof.Machine.execBgeu t ra rb disp s
  | .jmp t disp => Sys2Proof.Machine.execJmp t disp s
  | .call t disp => Sys2Proof.Machine.execCall t disp s
  | .jr t ra => Sys2Proof.Machine.execJr t ra s
  | .callr t ra => Sys2Proof.Machine.execCallr t ra s
  | .ret t => Sys2Proof.Machine.execRet t s
  | .setpg t pg ra => Sys2Proof.Machine.execSetpg t pg ra s
  | .getpg t rd pg => Sys2Proof.Machine.execGetpg t rd pg s
  | .undef t fetchRefused => Sys2Proof.Machine.execUndef t fetchRefused s
  | .nop t => Sys2Proof.Machine.execNop t s
  | .brk t => Sys2Proof.Machine.execBrk t s
  | .rdtime t rd => Sys2Proof.Machine.execRdtime t rd s
  | .rdcyc t rd => Sys2Proof.Machine.execRdcyc t rd s
  | .rdfw t rd n => Sys2Proof.Machine.execRdfw t rd n s
  | .rdrsp t rd => Sys2Proof.Machine.execRdrsp t rd s
  | .wrrsp t ra => Sys2Proof.Machine.execWrrsp t ra s
  | .cwb t ra pg => Sys2Proof.Machine.execCwb t ra pg s
  | .cinv t ra pg => Sys2Proof.Machine.execCinv t ra pg s
  | .cwba t => Sys2Proof.Machine.execCwba t s
  | .cinva t => Sys2Proof.Machine.execCinva t s
  | .iinv t => Sys2Proof.Machine.execIinv t s
  | .storeDrain t => Sys2Proof.Machine.execStoreDrain t s
  | .blockedRetry t => Sys2Proof.Machine.execBlockedRetry t s
  | .pwr t peer ra => Sys2Proof.Machine.execPwr t peer ra s
  | .pwrl t peer ra => Sys2Proof.Machine.execPwrl t peer ra s
  | .prd t rd peer => Sys2Proof.Machine.execPrd t rd peer s
  | .ptst t rd peer => Sys2Proof.Machine.execPtst t rd peer s
  | .foeValidClear acc core => Sys2Proof.Machine.execFoeValidClear acc core s
  | .scall t => Sys2Proof.Machine.execScall t s
  | .gate t ra => Sys2Proof.Machine.execGate t ra s
  | .gateOut t => Sys2Proof.Machine.execGateOut t s
  | .eret t => Sys2Proof.Machine.execEret t s
  | .mfe t rd n => Sys2Proof.Machine.execMfe t rd n s
  | .mte t n ra => Sys2Proof.Machine.execMte t n ra s
  | .xsw t rd n => Sys2Proof.Machine.execXsw t rd n s
  | .edone t => Sys2Proof.Machine.execEdone t s
  | .nibegin t ra => Sys2Proof.Machine.execNibegin t ra s
  | .niend t => Sys2Proof.Machine.execNiend t s
  | .mfs t rd => Sys2Proof.Machine.execMfs t rd s
  | .mts t ra => Sys2Proof.Machine.execMts t ra s
  | .niWindowEnd t => Sys2Proof.Machine.execNiWindowEnd t s
  | .interruptEntry t pos => Sys2Proof.Machine.execInterruptEntry t pos s
  | .timerInterrupt t sealedBank => Sys2Proof.Machine.execTimerInterrupt t sealedBank s
  | .eviction t => Sys2Proof.Machine.execEviction t s
  | .lockupOverrun t => Sys2Proof.Machine.execLockupOverrun t s
  | .p4ItemPerform t sub bad => Sys2Proof.Machine.execP4ItemPerform t sub bad s
  | .p7InboundPerform core sub bad => Sys2Proof.Machine.execP7InboundPerform core sub bad s
  | .scrubSlot core sub bad => Sys2Proof.Machine.execScrubSlot core sub bad s
  | .scrubForced core sub bad => Sys2Proof.Machine.execScrubForced core sub bad s
  | .rpush t ring va => Sys2Proof.Machine.execRpush t ring va s
  | .rpushg t ring ra => Sys2Proof.Machine.execRpushg t ring ra s
  | .rpop t vd ring => Sys2Proof.Machine.execRpop t vd ring s
  | .rpopg t rd ring => Sys2Proof.Machine.execRpopg t rd ring s
  | .rtpush t rd ring va => Sys2Proof.Machine.execRtpush t rd ring va s
  | .rtpushg t rd ring ra => Sys2Proof.Machine.execRtpushg t rd ring ra s
  | .rtpop t rd ring va => Sys2Proof.Machine.execRtpop t rd ring va s
  | .rtpopg t rd ring ra => Sys2Proof.Machine.execRtpopg t rd ring ra s
  | .rstat t rd ring => Sys2Proof.Machine.execRstat t rd ring s
  | .rrd t rd ring f => Sys2Proof.Machine.execRrd t rd ring f s
  | .rwbase t ring ra => Sys2Proof.Machine.execRwbase t ring ra s
  | .rwsize t ring ra => Sys2Proof.Machine.execRwsize t ring ra s
  | .rwhead t ring ra => Sys2Proof.Machine.execRwhead t ring ra s
  | .rwtail t ring ra => Sys2Proof.Machine.execRwtail t ring ra s
  | .rclr t ring => Sys2Proof.Machine.execRclr t ring s
  | .tlda t ra rc pg rowsM1 bytesM1 => Sys2Proof.Machine.execTlda t ra rc pg rowsM1 bytesM1 s
  | .tldb t rb rc pg rowsM1 bytesM1 => Sys2Proof.Machine.execTldb t rb rc pg rowsM1 bytesM1 s
  | .tldab t ra rb rc pga rowsA bytesA pgb rowsB bytesB => Sys2Proof.Machine.execTldab t ra rb rc pga rowsA bytesA pgb rowsB bytesB s
  | .mma t z cm => Sys2Proof.Machine.execMma t z cm s
  | .tclr t z => Sys2Proof.Machine.execTclr t z s
  | .trel t mask => Sys2Proof.Machine.execTrel t mask s
  | .tst t z ra rb rc pg fmt sc bi cl sr vs => Sys2Proof.Machine.execTst t z ra rb rc pg fmt sc bi cl sr vs s
  | .range t ra rb rc pgs pgd src tgt mode => Sys2Proof.Machine.execRange t ra rb rc pgs pgd src tgt mode s
  | .txld t ra pg => Sys2Proof.Machine.execTxld t ra pg s
  | .tsave t ra pg tile => Sys2Proof.Machine.execTsave t ra pg tile s
  | .trestore t ra pg tile => Sys2Proof.Machine.execTrestore t ra pg tile s
  | .mft t rd n => Sys2Proof.Machine.execMft t rd n s
  | .mtt t ra n => Sys2Proof.Machine.execMtt t ra n s
  | .twait t => Sys2Proof.Machine.execTwait t s
  | .tileEngineStart core e => Sys2Proof.Machine.execTileEngineStart core e s
  | .unitInstructionComplete core => Sys2Proof.Machine.execUnitInstructionComplete core s
  | .longTileRetire t upto => Sys2Proof.Machine.execLongTileRetire t upto s
  | .vadd t vd va vb et => Sys2Proof.Machine.execVadd t vd va vb et s
  | .vsub t vd va vb et => Sys2Proof.Machine.execVsub t vd va vb et s
  | .vmul t vd va vb et => Sys2Proof.Machine.execVmul t vd va vb et s
  | .vfma t vd va vb vc et => Sys2Proof.Machine.execVfma t vd va vb vc et s
  | .vmax t vd va vb et u => Sys2Proof.Machine.execVmax t vd va vb et u s
  | .vmin t vd va vb et u => Sys2Proof.Machine.execVmin t vd va vb et u s
  | .vand t vd va vb et => Sys2Proof.Machine.execVand t vd va vb et s
  | .vor t vd va vb et => Sys2Proof.Machine.execVor t vd va vb et s
  | .vxor t vd va vb et => Sys2Proof.Machine.execVxor t vd va vb et s
  | .vshl t vd va vb et => Sys2Proof.Machine.execVshl t vd va vb et s
  | .vshr t vd va vb et u => Sys2Proof.Machine.execVshr t vd va vb et u s
  | .vcmp t vd va vb et sub u => Sys2Proof.Machine.execVcmp t vd va vb et sub u s
  | .vsel t vd va vb vc et => Sys2Proof.Machine.execVsel t vd va vb vc et s
  | .vexp t vd va et => Sys2Proof.Machine.execVexp t vd va et s
  | .vrcp t vd va et => Sys2Proof.Machine.execVrcp t vd va et s
  | .vcvt t vd va rb et et2 rm u => Sys2Proof.Machine.execVcvt t vd va rb et et2 rm u s
  | .vred t rd va et sub u => Sys2Proof.Machine.execVred t rd va et sub u s
  | .vbcast t vd ra et => Sys2Proof.Machine.execVbcast t vd ra et s
  | .vext t rd va rb et => Sys2Proof.Machine.execVext t rd va rb et s
  | .vins t vd ra rb et => Sys2Proof.Machine.execVins t vd ra rb et s
  | .vmfc t rd n => Sys2Proof.Machine.execVmfc t rd n s
  | .vmtc t n ra => Sys2Proof.Machine.execVmtc t n ra s
  | .vld t vd ra pg => Sys2Proof.Machine.execVld t vd ra pg s
  | .vst t va rd pg => Sys2Proof.Machine.execVst t va rd pg s
  | .vldc t vd ra pg => Sys2Proof.Machine.execVldc t vd ra pg s
  | .vgth t vd ra vb et pg => Sys2Proof.Machine.execVgth t vd ra vb et pg s
  | .vsct t vc ra vb et pg => Sys2Proof.Machine.execVsct t vc ra vb et pg s
  | .vlop t rd ra rb vc et sub u pg => Sys2Proof.Machine.execVlop t rd ra rb vc et sub u pg s
  | .vlcvt t rd ra rb rc et et2 rm u pg => Sys2Proof.Machine.execVlcvt t rd ra rb rc et et2 rm u pg s
  | .vlred t rd ra rb et sub u pg => Sys2Proof.Machine.execVlred t rd ra rb et sub u pg s
  | .streamEngineStart core => Sys2Proof.Machine.execStreamEngineStart core s
  | .vectorMemoryRetire t upto => Sys2Proof.Machine.execVectorMemoryRetire t upto s
  | .fence t => Sys2Proof.Machine.execFence t s
  | .fencer t => Sys2Proof.Machine.execFencer t s
  | .fencea t => Sys2Proof.Machine.execFencea t s
  | .cwait t ra k => Sys2Proof.Machine.execCwait t ra k s
  | .cwaita t => Sys2Proof.Machine.execCwaita t s
  | .crd t rd k => Sys2Proof.Machine.execCrd t rd k s
  | .swap t rd ra rb pg => Sys2Proof.Machine.execSwap t rd ra rb pg s
  | .cas t rd ra rb pg => Sys2Proof.Machine.execCas t rd ra rb pg s
  | .fadd t rd ra rb pg => Sys2Proof.Machine.execFadd t rd ra rb pg s
  | .fand t rd ra rb pg => Sys2Proof.Machine.execFand t rd ra rb pg s
  | .forA t rd ra rb pg => Sys2Proof.Machine.execForA t rd ra rb pg s
  | .fxor t rd ra rb pg => Sys2Proof.Machine.execFxor t rd ra rb pg s
  | .fmax t rd ra rb pg => Sys2Proof.Machine.execFmax t rd ra rb pg s
  | .fmin t rd ra rb pg => Sys2Proof.Machine.execFmin t rd ra rb pg s
  | .fmaxu t rd ra rb pg => Sys2Proof.Machine.execFmaxu t rd ra rb pg s
  | .fminu t rd ra rb pg => Sys2Proof.Machine.execFminu t rd ra rb pg s
  | .aload t rd ra pg => Sys2Proof.Machine.execAload t rd ra pg s
  | .addn32 t ra rb pg rtag => Sys2Proof.Machine.execAddn32 t ra rb pg rtag s
  | .addn64 t ra rb pg rtag => Sys2Proof.Machine.execAddn64 t ra rb pg rtag s
  | .inject node => Sys2Proof.Machine.execInject node s
  | .flitHop plane x y damage => Sys2Proof.Machine.execFlitHop plane x y damage s
  | .injectionThrottleEval core => Sys2Proof.Machine.execInjectionThrottleEval core s
  | .rdAtHome node j ue => Sys2Proof.Machine.execRdAtHome node j ue s
  | .wrAtHome node j ue => Sys2Proof.Machine.execWrAtHome node j ue s
  | .atomAtHome node j ue => Sys2Proof.Machine.execAtomAtHome node j ue s
  | .addAtHome node j ue => Sys2Proof.Machine.execAddAtHome node j ue s
  | .rdataArrive core j ue => Sys2Proof.Machine.execRdataArrive core j ue s
  | .wackArrive core j => Sys2Proof.Machine.execWackArrive core j s
  | .atomrArrive core j ue => Sys2Proof.Machine.execAtomrArrive core j ue s
  | .sourceRefusalComplete t => Sys2Proof.Machine.execSourceRefusalComplete t s
  | .controlAccess node j => Sys2Proof.Machine.execControlAccess node j s
  | .cpset t ch f ra => Sys2Proof.Machine.execCpset t ch f ra s
  | .cpget t rd ch f => Sys2Proof.Machine.execCpget t rd ch f s
  | .cpwait t ch => Sys2Proof.Machine.execCpwait t ch s
  | .copyGo t ch ra => Sys2Proof.Machine.execCopyGo t ch ra s
  | .copyAbort t ch ra => Sys2Proof.Machine.execCopyAbort t ch ra s
  | .copyEventClear t ch ra => Sys2Proof.Machine.execCopyEventClear t ch ra s
  | .copyBurstIssue core => Sys2Proof.Machine.execCopyBurstIssue core s
  | .copyBurstComplete core ch j => Sys2Proof.Machine.execCopyBurstComplete core ch j s
  | .copyStop core ch => Sys2Proof.Machine.execCopyStop core ch s
  | .stackAccept stk j bad => Sys2Proof.Machine.execStackAccept stk j bad s
  | .stackSlot stk ch => Sys2Proof.Machine.execStackSlot stk ch s
  | .stackRefresh stk ch => Sys2Proof.Machine.execStackRefresh stk ch s
  | .stackResponse stk j ue => Sys2Proof.Machine.execStackResponse stk j ue s
  | .atomicUnitOp stk => Sys2Proof.Machine.execAtomicUnitOp stk s
  | .atomicEvictWriteback stk => Sys2Proof.Machine.execAtomicEvictWriteback stk s
  | .patrolScrubCreate stk ch => Sys2Proof.Machine.execPatrolScrubCreate stk ch s
  | .neighbourRefresh stk ch bank row => Sys2Proof.Machine.execNeighbourRefresh stk ch bank row s
  | .phyCalibration stk ch => Sys2Proof.Machine.execPhyCalibration stk ch s
  | .telemetryReadout stk ch => Sys2Proof.Machine.execTelemetryReadout stk ch s
  | .regionLog stk ch q => Sys2Proof.Machine.execRegionLog stk ch q s
  | .stackFailure stk => Sys2Proof.Machine.execStackFailure stk s
  | .train stk => Sys2Proof.Machine.execTrain stk s
  | .trainingDone stk ok => Sys2Proof.Machine.execTrainingDone stk ok s
  | .stkClearRetire stk => Sys2Proof.Machine.execStkClearRetire stk s
  | .stkClearErr stk => Sys2Proof.Machine.execStkClearErr stk s
  | .walkLineReturn core by_ k => Sys2Proof.Machine.execWalkLineReturn core by_ k s
  | .wtbaseWrite acc c v => Sys2Proof.Machine.execWtbaseWrite acc c v s
  | .wtcountWrite acc c v => Sys2Proof.Machine.execWtcountWrite acc c v s
  | .winvAll acc c => Sys2Proof.Machine.execWinvAll acc c s
  | .winvEntry acc c e => Sys2Proof.Machine.execWinvEntry acc c e s
  | .winvDone c => Sys2Proof.Machine.execWinvDone c s
  | .hostInboundRead f off len => Sys2Proof.Machine.execHostInboundRead f off len s
  | .hostInboundWrite f off data => Sys2Proof.Machine.execHostInboundWrite f off data s
  | .doorbell f j size v => Sys2Proof.Machine.execDoorbell f j size v s
  | .dbPendClear acc f v => Sys2Proof.Machine.execDbPendClear acc f v s
  | .msixSend t f v => Sys2Proof.Machine.execMsixSend t f v s
  | .hostCompletion tag data => Sys2Proof.Machine.execHostCompletion tag data s
  | .pf0RateRelease => Sys2Proof.Machine.execPf0RateRelease s
  | .vfFlr f => Sys2Proof.Machine.execVfFlr f s
  | .vfFlrComplete f => Sys2Proof.Machine.execVfFlrComplete f s
  | .pf0Flr => Sys2Proof.Machine.execPf0Flr s
  | .hotReset => Sys2Proof.Machine.execHotReset s
  | .d3hot => Sys2Proof.Machine.execD3hot s
  | .linkDown => Sys2Proof.Machine.execLinkDown s
  | .completionTimeout tag => Sys2Proof.Machine.execCompletionTimeout tag s
  | .poisonedWrite f off => Sys2Proof.Machine.execPoisonedWrite f off s
  | .poisonedCompletion tag => Sys2Proof.Machine.execPoisonedCompletion tag s
  | .unexpectedCompletion => Sys2Proof.Machine.execUnexpectedCompletion s
  | .unsupportedRequest f => Sys2Proof.Machine.execUnsupportedRequest f s
  | .bridgeInternalError => Sys2Proof.Machine.execBridgeInternalError s
  | .ideCheckFailure stream => Sys2Proof.Machine.execIdeCheckFailure stream s
  | .ideKm stream key => Sys2Proof.Machine.execIdeKm stream key s
  | .doeObject obj => Sys2Proof.Machine.execDoeObject obj s
  | .doeAbort => Sys2Proof.Machine.execDoeAbort s
  | .quoteReq cid nonce => Sys2Proof.Machine.execQuoteReq cid nonce s
  | .skeyReq => Sys2Proof.Machine.execSkeyReq s
  | .spdmMessage msg => Sys2Proof.Machine.execSpdmMessage msg s
  | .frameTransmit port => Sys2Proof.Machine.execFrameTransmit port s
  | .frameReceive port f => Sys2Proof.Machine.execFrameReceive port f s
  | .ackTimeoutReplay port => Sys2Proof.Machine.execAckTimeoutReplay port s
  | .controlFrameReceive port m => Sys2Proof.Machine.execControlFrameReceive port m s
  | .meridianHandoff port => Sys2Proof.Machine.execMeridianHandoff port s
  | .lanesLocked port => Sys2Proof.Machine.execLanesLocked port s
  | .trainingTimeout port halfLocked => Sys2Proof.Machine.execTrainingTimeout port halfLocked s
  | .downRetry port => Sys2Proof.Machine.execDownRetry port s
  | .identify port peerAccepts => Sys2Proof.Machine.execIdentify port peerAccepts s
  | .linkFailure port => Sys2Proof.Machine.execLinkFailure port s
  | .retrainDone port lanes => Sys2Proof.Machine.execRetrainDone port lanes s
  | .retrainTimeout port => Sys2Proof.Machine.execRetrainTimeout port s
  | .retrain port => Sys2Proof.Machine.execRetrain port s
  | .disable port => Sys2Proof.Machine.execDisable port s
  | .cablePresenceChange port present => Sys2Proof.Machine.execCablePresenceChange port present s
  | .tallySubmit t die addr => Sys2Proof.Machine.execTallySubmit t die addr s
  | .tallyJobStart die => Sys2Proof.Machine.execTallyJobStart die s
  | .tallyLineReceive die half step index data => Sys2Proof.Machine.execTallyLineReceive die half step index data s
  | .tallyAbortLine die => Sys2Proof.Machine.execTallyAbortLine die s
  | .tallyTimeout die => Sys2Proof.Machine.execTallyTimeout die s
  | .tallyJobEnd die => Sys2Proof.Machine.execTallyJobEnd die s
  | .tallyAbort t die tag => Sys2Proof.Machine.execTallyAbort t die tag s
  | .snap => Sys2Proof.Machine.execSnap s
  | .digClear => Sys2Proof.Machine.execDigClear s
  | .key c slot => Sys2Proof.Machine.execKey c slot s
  | .keyStart => Sys2Proof.Machine.execKeyStart s
  | .keyReplicationAnswer stk hash => Sys2Proof.Machine.execKeyReplicationAnswer stk hash s
  | .replicationTimeout stk => Sys2Proof.Machine.execReplicationTimeout stk s
  | .keyComplete => Sys2Proof.Machine.execKeyComplete s
  | .bind c slot => Sys2Proof.Machine.execBind c slot s
  | .unbind c slot => Sys2Proof.Machine.execUnbind c slot s
  | .retire c slot fill => Sys2Proof.Machine.execRetire c slot fill s
  | .rotate => Sys2Proof.Machine.execRotate s
  | .recon => Sys2Proof.Machine.execRecon s
  | .enrol => Sys2Proof.Machine.execEnrol s
  | .identityReady => Sys2Proof.Machine.execIdentityReady s
  | .quoteGo cid pkg => Sys2Proof.Machine.execQuoteGo cid pkg s
  | .quoteDone => Sys2Proof.Machine.execQuoteDone s
  | .bdecl t ra rb => Sys2Proof.Machine.execBdecl t ra rb s
  | .bfree t ra => Sys2Proof.Machine.execBfree t ra s
  | .barr t rd ra => Sys2Proof.Machine.execBarr t rd ra s
  | .bstat t rd ra => Sys2Proof.Machine.execBstat t rd ra s
  | .wait t rd ra rb => Sys2Proof.Machine.execWait t rd ra rb s
  | .sig t ra rb => Sys2Proof.Machine.execSig t ra rb s
  | .spoll t rd ra => Sys2Proof.Machine.execSpoll t rd ra s
  | .sigcfg t ra => Sys2Proof.Machine.execSigcfg t ra s
  | .sigrd t rd => Sys2Proof.Machine.execSigrd t rd s
  | .declareAtHome die j => Sys2Proof.Machine.execDeclareAtHome die j s
  | .freeAtHome die j => Sys2Proof.Machine.execFreeAtHome die j s
  | .arriveAtHome die j => Sys2Proof.Machine.execArriveAtHome die j s
  | .declareEvent => Sys2Proof.Machine.execDeclareEvent s
  | .freeEvent => Sys2Proof.Machine.execFreeEvent s
  | .releaseEvent => Sys2Proof.Machine.execReleaseEvent s
  | .flushEvent => Sys2Proof.Machine.execFlushEvent s
  | .flushReportComplete b => Sys2Proof.Machine.execFlushReportComplete b s
  | .beaconParityResend => Sys2Proof.Machine.execBeaconParityResend s
  | .signalArrive core j => Sys2Proof.Machine.execSignalArrive core j s
  | .fogSample c => Sys2Proof.Machine.execFogSample c s
  | .fogEscalation c => Sys2Proof.Machine.execFogEscalation c s
  | .fogAlarmClear acc c => Sys2Proof.Machine.execFogAlarmClear acc c s
  | .liveLimitsWrite acc c v => Sys2Proof.Machine.execLiveLimitsWrite acc c v s
  | .meshLimitsWrite acc c v => Sys2Proof.Machine.execMeshLimitsWrite acc c v s
  | .meshClearTraffic die => Sys2Proof.Machine.execMeshClearTraffic die s
  | .meshClearStatus die => Sys2Proof.Machine.execMeshClearStatus die s
  | .perstNAssert => Sys2Proof.Machine.execPerstNAssert s
  | .perstNRelease => Sys2Proof.Machine.execPerstNRelease s
  | .romSelfCheck => Sys2Proof.Machine.execRomSelfCheck s
  | .bootGo => Sys2Proof.Machine.execBootGo s
  | .bootAbort => Sys2Proof.Machine.execBootAbort s
  | .imageFetched => Sys2Proof.Machine.execImageFetched s
  | .verifyDone => Sys2Proof.Machine.execVerifyDone s
  | .warm => Sys2Proof.Machine.execWarm s
  | .coreResetGo die index => Sys2Proof.Machine.execCoreResetGo die index s
  | .coreResetDone die => Sys2Proof.Machine.execCoreResetDone die s
  | .treset t => Sys2Proof.Machine.execTreset t s
  | .threadResetDone t => Sys2Proof.Machine.execThreadResetDone t s
  | .kick => Sys2Proof.Machine.execKick s
  | .watchdogExpiry => Sys2Proof.Machine.execWatchdogExpiry s
  | .lanternRetry node => Sys2Proof.Machine.execLanternRetry node s
  | .ageingSample slacks => Sys2Proof.Machine.execAgeingSample slacks s
  | .monitorGate core => Sys2Proof.Machine.execMonitorGate core s
  | .planCompute => Sys2Proof.Machine.execPlanCompute s
  | .floorRaise rail slack => Sys2Proof.Machine.execFloorRaise rail slack s
  | .logbookWriteCycle => Sys2Proof.Machine.execLogbookWriteCycle s
  | .info => Sys2Proof.Machine.execInfo s
  | .setWallTime v => Sys2Proof.Machine.execSetWallTime v s
  | .chartLoad src => Sys2Proof.Machine.execChartLoad src s
  | .chartCmd cmd cid => Sys2Proof.Machine.execChartCmd cmd cid s
  | .faultedSet core => Sys2Proof.Machine.execFaultedSet core s
  | .faultedClear core => Sys2Proof.Machine.execFaultedClear core s
  | .eventRead seq count => Sys2Proof.Machine.execEventRead seq count s
  | .logbookRead page count => Sys2Proof.Machine.execLogbookRead page count s
  | .stackWear stk ch => Sys2Proof.Machine.execStackWear stk ch s
  | .powerCap watts => Sys2Proof.Machine.execPowerCap watts s
  | .skeyRotate => Sys2Proof.Machine.execSkeyRotate s
  | .telemetryMirror => Sys2Proof.Machine.execTelemetryMirror s
  | .tallyClear acc v => Sys2Proof.Machine.execTallyClear acc v s
  | .smbusStatus => Sys2Proof.Machine.execSmbusStatus s
  | .tjMax => Sys2Proof.Machine.execTjMax s
  | .stackTmax => Sys2Proof.Machine.execStackTmax s
  | .inputPower => Sys2Proof.Machine.execInputPower s
  | .serial => Sys2Proof.Machine.execSerial s
  | .warmReset v pecOk => Sys2Proof.Machine.execWarmReset v pecOk s
  | .smbusPowerCap w pecOk => Sys2Proof.Machine.execSmbusPowerCap w pecOk s
  | .bypass => Sys2Proof.Machine.execBypass s
  | .idcode => Sys2Proof.Machine.execIdcode s
  | .samplePreload => Sys2Proof.Machine.execSamplePreload s
  | .extest => Sys2Proof.Machine.execExtest s
  | .clamp => Sys2Proof.Machine.execClamp s
  | .highz => Sys2Proof.Machine.execHighz s
  | .dbgAccess write off data => Sys2Proof.Machine.execDbgAccess write off data s
  | .dbgStop t => Sys2Proof.Machine.execDbgStop t s
  | .dbgResume t => Sys2Proof.Machine.execDbgResume t s
  | .dbgStep t => Sys2Proof.Machine.execDbgStep t s
  | .stepStop t => Sys2Proof.Machine.execStepStop t s
  | .dbgDataAccess core write data => Sys2Proof.Machine.execDbgDataAccess core write data s
  | .vinRise => Sys2Proof.Machine.execVinRise s
  | .powerGood => Sys2Proof.Machine.execPowerGood s
  | .vinFall => Sys2Proof.Machine.execVinFall s
  | .powerComparatorEval powerMw vinMv currents temps stackTemps => Sys2Proof.Machine.execPowerComparatorEval powerMw vinMv currents temps stackTemps s
  | .pwrLimitsWrite v => Sys2Proof.Machine.execPwrLimitsWrite v s
  | .thermalTrip => Sys2Proof.Machine.execThermalTrip s
  | .tripRelease => Sys2Proof.Machine.execTripRelease s
  | .retirementComplete slot => Sys2Proof.Machine.execRetirementComplete slot s
  | .dataLinkUp => Sys2Proof.Machine.execDataLinkUp s
  | .configurationRequest f fld v => Sys2Proof.Machine.execConfigurationRequest f fld v s
  | .fabricWireFailure unit => Sys2Proof.Machine.execFabricWireFailure unit s
  | .referenceReturn => Sys2Proof.Machine.execReferenceReturn s

end Sys2Proof.Machine
end

