-- ==== Sys2Proof/Machine/Step.lean ====
section
/-! DEFINITION. One step: the command at the front of the queue, or one fabric cycle on an empty queue (log entry 48, DESIGN CHOICE),
and the command that the host's check places in front. -/

namespace Sys2Proof.Machine

open Sys2Proof

/-- The state with a word's command at the front of its queue, if the word spells one. -/
def State.withFetchWord (s : State) (nbits w : Nat) : State :=
  match decodeTableWord nbits w with
  | none => s
  | some i => { s with pending := i :: s.pending }

/-- Take the command at the front of the queue and perform it with the queue's rest; with none waiting, one fabric
cycle passes. -/
def step (s : State) : Host.Outcome State Fault Refusal :=
  match s.pending with
  | [] => .next s.tick
  | i :: rest => exec i { s with pending := rest }

end Sys2Proof.Machine
end

