-- ==== Sys2Proof/WellFormed.lean ====
section
/-! DEFINITION. Which commands name only units that a member has (R1, R249), and no number outside the ranges that
the spec gives or the fields of its request hold. A command that is not well formed has no sender on that member. A
mailbox argument that fits its field (R455) is well formed, in range or not: the Keeper answers it. -/

namespace Sys2Proof

open Sys2Proof.Machine

/-- A node number of R249 that a member has. -/
def nodeOk (m : Member) (n : Nat) : Bool :=
  decide (n < m.cores) || (decide (0x800 ≤ n) && decide (n < 0x800 + m.stks)) || n == 0xC00 ||
    (decide (0xD00 ≤ n) && decide (n < 0xD00 + m.ports)) || (decide (0xE00 ≤ n) && decide (n < 0xE00 + m.dies) && m.hasTally (n - 0xE00)) ||
    (decide (0xF00 ≤ n) && decide (n < 0xF00 + m.dies)) || n == 0xF80

/-- An accessor that a member has: its threads, and PCI Express functions 0-31 (R355). -/
def accOk (m : Member) : Accessor → Bool
  | .thread t => decide (t < 4 * m.cores)
  | .host f => decide (f < 32)
  | .keeper => true
  | .debug => true

/-- Bytes of BAR0 of PF0, and of a VF's BAR2 (R357, R358). -/
def barSize (f : Nat) : Nat := if f = 0 then 2 ^ 26 else 2 ^ 36

/-- The command is well formed on a member. -/
def Instr.wf (m : Member) : Instr → Bool
  | .registerWrite acc _ _ => accOk m acc
  | .load => true
  | .chartLoadComplete => true
  | .discard => true
  | .commit c => decide (c < 32)
  | .commitComplete c => decide (c < 32)
  | .start c => decide (c < 32)
  | .stop c => decide (c < 32)
  | .stopComplete c => decide (c < 32)
  | .reset c => decide (c < 32)
  | .resetComplete c => decide (c < 32)
  | .release c => decide (c < 32)
  | .releaseComplete c => decide (c < 32)
  | .flrReset c => decide (c < 32)
  | .rootLock => true
  | .rootLossOfLock => true
  | .referenceLoss => true
  | .siderealIncrement => true
  | .siderealLoad _ => true
  | .siderealStep _ => true
  | .timeExchange => true
  | .holdoverEntry => true
  | .add t _ _ _ => decide (t < 4 * m.cores)
  | .sub t _ _ _ => decide (t < 4 * m.cores)
  | .and t _ _ _ => decide (t < 4 * m.cores)
  | .or t _ _ _ => decide (t < 4 * m.cores)
  | .xor t _ _ _ => decide (t < 4 * m.cores)
  | .andn t _ _ _ => decide (t < 4 * m.cores)
  | .shl t _ _ _ => decide (t < 4 * m.cores)
  | .shr t _ _ _ => decide (t < 4 * m.cores)
  | .sar t _ _ _ => decide (t < 4 * m.cores)
  | .rol t _ _ _ => decide (t < 4 * m.cores)
  | .slt t _ _ _ => decide (t < 4 * m.cores)
  | .sltu t _ _ _ => decide (t < 4 * m.cores)
  | .min t _ _ _ => decide (t < 4 * m.cores)
  | .max t _ _ _ => decide (t < 4 * m.cores)
  | .minu t _ _ _ => decide (t < 4 * m.cores)
  | .maxu t _ _ _ => decide (t < 4 * m.cores)
  | .mul t _ _ _ => decide (t < 4 * m.cores)
  | .mulh t _ _ _ => decide (t < 4 * m.cores)
  | .mulhu t _ _ _ => decide (t < 4 * m.cores)
  | .div t _ _ _ => decide (t < 4 * m.cores)
  | .divu t _ _ _ => decide (t < 4 * m.cores)
  | .rem t _ _ _ => decide (t < 4 * m.cores)
  | .remu t _ _ _ => decide (t < 4 * m.cores)
  | .clz t _ _ => decide (t < 4 * m.cores)
  | .ctz t _ _ => decide (t < 4 * m.cores)
  | .pop t _ _ => decide (t < 4 * m.cores)
  | .addi t _ _ _ => decide (t < 4 * m.cores)
  | .andi t _ _ _ => decide (t < 4 * m.cores)
  | .ori t _ _ _ => decide (t < 4 * m.cores)
  | .xori t _ _ _ => decide (t < 4 * m.cores)
  | .slti t _ _ _ => decide (t < 4 * m.cores)
  | .sltiu t _ _ _ => decide (t < 4 * m.cores)
  | .shli t _ _ _ => decide (t < 4 * m.cores)
  | .shri t _ _ _ => decide (t < 4 * m.cores)
  | .sari t _ _ _ => decide (t < 4 * m.cores)
  | .roli t _ _ _ => decide (t < 4 * m.cores)
  | .li t _ _ => decide (t < 4 * m.cores)
  | .lsh t _ _ => decide (t < 4 * m.cores)
  | .ldb t _ _ _ _ => decide (t < 4 * m.cores)
  | .ldbs t _ _ _ _ => decide (t < 4 * m.cores)
  | .ldh t _ _ _ _ => decide (t < 4 * m.cores)
  | .ldhs t _ _ _ _ => decide (t < 4 * m.cores)
  | .ldw t _ _ _ _ => decide (t < 4 * m.cores)
  | .ldws t _ _ _ _ => decide (t < 4 * m.cores)
  | .ldd t _ _ _ _ => decide (t < 4 * m.cores)
  | .stb t _ _ _ _ => decide (t < 4 * m.cores)
  | .sth t _ _ _ _ => decide (t < 4 * m.cores)
  | .stw t _ _ _ _ => decide (t < 4 * m.cores)
  | .std t _ _ _ _ => decide (t < 4 * m.cores)
  | .ldx t _ _ _ _ _ _ _ => decide (t < 4 * m.cores)
  | .stx t _ _ _ _ _ _ => decide (t < 4 * m.cores)
  | .beq t _ _ _ => decide (t < 4 * m.cores)
  | .bne t _ _ _ => decide (t < 4 * m.cores)
  | .blt t _ _ _ => decide (t < 4 * m.cores)
  | .bge t _ _ _ => decide (t < 4 * m.cores)
  | .bltu t _ _ _ => decide (t < 4 * m.cores)
  | .bgeu t _ _ _ => decide (t < 4 * m.cores)
  | .jmp t _ => decide (t < 4 * m.cores)
  | .call t _ => decide (t < 4 * m.cores)
  | .jr t _ => decide (t < 4 * m.cores)
  | .callr t _ => decide (t < 4 * m.cores)
  | .ret t => decide (t < 4 * m.cores)
  | .setpg t _ _ => decide (t < 4 * m.cores)
  | .getpg t _ _ => decide (t < 4 * m.cores)
  | .undef t _ => decide (t < 4 * m.cores)
  | .nop t => decide (t < 4 * m.cores)
  | .brk t => decide (t < 4 * m.cores)
  | .rdtime t _ => decide (t < 4 * m.cores)
  | .rdcyc t _ => decide (t < 4 * m.cores)
  | .rdfw t _ _ => decide (t < 4 * m.cores)
  | .rdrsp t _ => decide (t < 4 * m.cores)
  | .wrrsp t _ => decide (t < 4 * m.cores)
  | .cwb t _ _ => decide (t < 4 * m.cores)
  | .cinv t _ _ => decide (t < 4 * m.cores)
  | .cwba t => decide (t < 4 * m.cores)
  | .cinva t => decide (t < 4 * m.cores)
  | .iinv t => decide (t < 4 * m.cores)
  | .storeDrain t => decide (t < 4 * m.cores)
  | .blockedRetry t => decide (t < 4 * m.cores)
  | .pwr t _ _ => decide (t < 4 * m.cores)
  | .pwrl t _ _ => decide (t < 4 * m.cores)
  | .prd t _ _ => decide (t < 4 * m.cores)
  | .ptst t _ _ => decide (t < 4 * m.cores)
  | .foeValidClear acc core => accOk m acc && decide (core < m.cores)
  | .scall t => decide (t < 4 * m.cores)
  | .gate t _ => decide (t < 4 * m.cores)
  | .gateOut t => decide (t < 4 * m.cores)
  | .eret t => decide (t < 4 * m.cores)
  | .mfe t _ _ => decide (t < 4 * m.cores)
  | .mte t _ _ => decide (t < 4 * m.cores)
  | .xsw t _ _ => decide (t < 4 * m.cores)
  | .edone t => decide (t < 4 * m.cores)
  | .nibegin t _ => decide (t < 4 * m.cores)
  | .niend t => decide (t < 4 * m.cores)
  | .mfs t _ => decide (t < 4 * m.cores)
  | .mts t _ => decide (t < 4 * m.cores)
  | .niWindowEnd t => decide (t < 4 * m.cores)
  | .interruptEntry t _ => decide (t < 4 * m.cores)
  | .timerInterrupt t _ => decide (t < 4 * m.cores)
  | .eviction t => decide (t < 4 * m.cores)
  | .lockupOverrun t => decide (t < 4 * m.cores)
  | .p4ItemPerform t _ _ => decide (t < 4 * m.cores)
  | .p7InboundPerform core _ _ => decide (core < m.cores)
  | .scrubSlot core _ _ => decide (core < m.cores)
  | .scrubForced core _ _ => decide (core < m.cores)
  | .rpush t _ _ => decide (t < 4 * m.cores)
  | .rpushg t _ _ => decide (t < 4 * m.cores)
  | .rpop t _ _ => decide (t < 4 * m.cores)
  | .rpopg t _ _ => decide (t < 4 * m.cores)
  | .rtpush t _ _ _ => decide (t < 4 * m.cores)
  | .rtpushg t _ _ _ => decide (t < 4 * m.cores)
  | .rtpop t _ _ _ => decide (t < 4 * m.cores)
  | .rtpopg t _ _ _ => decide (t < 4 * m.cores)
  | .rstat t _ _ => decide (t < 4 * m.cores)
  | .rrd t _ _ _ => decide (t < 4 * m.cores)
  | .rwbase t _ _ => decide (t < 4 * m.cores)
  | .rwsize t _ _ => decide (t < 4 * m.cores)
  | .rwhead t _ _ => decide (t < 4 * m.cores)
  | .rwtail t _ _ => decide (t < 4 * m.cores)
  | .rclr t _ => decide (t < 4 * m.cores)
  | .tlda t _ _ _ _ _ => decide (t < 4 * m.cores)
  | .tldb t _ _ _ _ _ => decide (t < 4 * m.cores)
  | .tldab t _ _ _ _ _ _ _ _ _ => decide (t < 4 * m.cores)
  | .mma t _ _ => decide (t < 4 * m.cores)
  | .tclr t _ => decide (t < 4 * m.cores)
  | .trel t _ => decide (t < 4 * m.cores)
  | .tst t _ _ _ _ _ _ _ _ _ _ _ => decide (t < 4 * m.cores)
  | .range t _ _ _ _ _ _ _ _ => decide (t < 4 * m.cores)
  | .txld t _ _ => decide (t < 4 * m.cores)
  | .tsave t _ _ _ => decide (t < 4 * m.cores)
  | .trestore t _ _ _ => decide (t < 4 * m.cores)
  | .mft t _ _ => decide (t < 4 * m.cores)
  | .mtt t _ _ => decide (t < 4 * m.cores)
  | .twait t => decide (t < 4 * m.cores)
  | .tileEngineStart core _ => decide (core < m.cores)
  | .unitInstructionComplete core => decide (core < m.cores)
  | .longTileRetire t _ => decide (t < 4 * m.cores)
  | .vadd t _ _ _ _ => decide (t < 4 * m.cores)
  | .vsub t _ _ _ _ => decide (t < 4 * m.cores)
  | .vmul t _ _ _ _ => decide (t < 4 * m.cores)
  | .vfma t _ _ _ _ _ => decide (t < 4 * m.cores)
  | .vmax t _ _ _ _ _ => decide (t < 4 * m.cores)
  | .vmin t _ _ _ _ _ => decide (t < 4 * m.cores)
  | .vand t _ _ _ _ => decide (t < 4 * m.cores)
  | .vor t _ _ _ _ => decide (t < 4 * m.cores)
  | .vxor t _ _ _ _ => decide (t < 4 * m.cores)
  | .vshl t _ _ _ _ => decide (t < 4 * m.cores)
  | .vshr t _ _ _ _ _ => decide (t < 4 * m.cores)
  | .vcmp t _ _ _ _ _ _ => decide (t < 4 * m.cores)
  | .vsel t _ _ _ _ _ => decide (t < 4 * m.cores)
  | .vexp t _ _ _ => decide (t < 4 * m.cores)
  | .vrcp t _ _ _ => decide (t < 4 * m.cores)
  | .vcvt t _ _ _ _ _ _ _ => decide (t < 4 * m.cores)
  | .vred t _ _ _ _ _ => decide (t < 4 * m.cores)
  | .vbcast t _ _ _ => decide (t < 4 * m.cores)
  | .vext t _ _ _ _ => decide (t < 4 * m.cores)
  | .vins t _ _ _ _ => decide (t < 4 * m.cores)
  | .vmfc t _ _ => decide (t < 4 * m.cores)
  | .vmtc t _ _ => decide (t < 4 * m.cores)
  | .vld t _ _ _ => decide (t < 4 * m.cores)
  | .vst t _ _ _ => decide (t < 4 * m.cores)
  | .vldc t _ _ _ => decide (t < 4 * m.cores)
  | .vgth t _ _ _ _ _ => decide (t < 4 * m.cores)
  | .vsct t _ _ _ _ _ => decide (t < 4 * m.cores)
  | .vlop t _ _ _ _ _ _ _ _ => decide (t < 4 * m.cores)
  | .vlcvt t _ _ _ _ _ _ _ _ _ => decide (t < 4 * m.cores)
  | .vlred t _ _ _ _ _ _ _ => decide (t < 4 * m.cores)
  | .streamEngineStart core => decide (core < m.cores)
  | .vectorMemoryRetire t _ => decide (t < 4 * m.cores)
  | .fence t => decide (t < 4 * m.cores)
  | .fencer t => decide (t < 4 * m.cores)
  | .fencea t => decide (t < 4 * m.cores)
  | .cwait t _ _ => decide (t < 4 * m.cores)
  | .cwaita t => decide (t < 4 * m.cores)
  | .crd t _ _ => decide (t < 4 * m.cores)
  | .swap t _ _ _ _ => decide (t < 4 * m.cores)
  | .cas t _ _ _ _ => decide (t < 4 * m.cores)
  | .fadd t _ _ _ _ => decide (t < 4 * m.cores)
  | .fand t _ _ _ _ => decide (t < 4 * m.cores)
  | .forA t _ _ _ _ => decide (t < 4 * m.cores)
  | .fxor t _ _ _ _ => decide (t < 4 * m.cores)
  | .fmax t _ _ _ _ => decide (t < 4 * m.cores)
  | .fmin t _ _ _ _ => decide (t < 4 * m.cores)
  | .fmaxu t _ _ _ _ => decide (t < 4 * m.cores)
  | .fminu t _ _ _ _ => decide (t < 4 * m.cores)
  | .aload t _ _ _ => decide (t < 4 * m.cores)
  | .addn32 t _ _ _ _ => decide (t < 4 * m.cores)
  | .addn64 t _ _ _ _ => decide (t < 4 * m.cores)
  | .inject node => nodeOk m node
  | .flitHop _ x y _ => decide (x < m.width) && decide (y < m.rows)
  | .injectionThrottleEval core => decide (core < m.cores)
  | .rdAtHome node _ _ => nodeOk m node
  | .wrAtHome node _ _ => nodeOk m node
  | .atomAtHome node _ _ => nodeOk m node
  | .addAtHome node _ _ => nodeOk m node
  | .rdataArrive core _ _ => decide (core < m.cores)
  | .wackArrive core _ => decide (core < m.cores)
  | .atomrArrive core _ _ => decide (core < m.cores)
  | .sourceRefusalComplete t => decide (t < 4 * m.cores)
  | .controlAccess node _ => nodeOk m node
  | .cpset t _ _ _ => decide (t < 4 * m.cores)
  | .cpget t _ _ _ => decide (t < 4 * m.cores)
  | .cpwait t _ => decide (t < 4 * m.cores)
  | .copyGo t _ _ => decide (t < 4 * m.cores)
  | .copyAbort t _ _ => decide (t < 4 * m.cores)
  | .copyEventClear t _ _ => decide (t < 4 * m.cores)
  | .copyBurstIssue core => decide (core < m.cores)
  | .copyBurstComplete core _ _ => decide (core < m.cores)
  | .copyStop core _ => decide (core < m.cores)
  | .stackAccept stk _ _ => decide (stk < m.stks)
  | .stackSlot stk _ => decide (stk < m.stks)
  | .stackRefresh stk _ => decide (stk < m.stks)
  | .stackResponse stk _ _ => decide (stk < m.stks)
  | .atomicUnitOp stk => decide (stk < m.stks)
  | .atomicEvictWriteback stk => decide (stk < m.stks)
  | .patrolScrubCreate stk _ => decide (stk < m.stks)
  | .neighbourRefresh stk _ _ row => decide (stk < m.stks) && decide (row < 65536)
  | .phyCalibration stk _ => decide (stk < m.stks)
  | .telemetryReadout stk _ => decide (stk < m.stks)
  | .regionLog stk _ _ => decide (stk < m.stks)
  | .stackFailure stk => decide (stk < m.stks)
  | .train stk => decide (stk < m.stks)
  | .trainingDone stk _ => decide (stk < m.stks)
  | .stkClearRetire stk => decide (stk < m.stks)
  | .stkClearErr stk => decide (stk < m.stks)
  | .walkLineReturn core _ _ => decide (core < m.cores)
  | .wtbaseWrite acc c _ => accOk m acc && decide (c < 32)
  | .wtcountWrite acc c _ => accOk m acc && decide (c < 32)
  | .winvAll acc c => accOk m acc && decide (c < 32)
  | .winvEntry acc c e => accOk m acc && decide (c < 32) && decide (e < 1024)
  | .winvDone c => decide (c < 32)
  | .hostInboundRead f off _ => decide (f < 32) && decide (off < barSize f)
  | .hostInboundWrite f off _ => decide (f < 32) && decide (off < barSize f)
  | .doorbell f _ size _ => decide (f < 32) && decide (size ≤ 8)
  | .dbPendClear acc f _ => accOk m acc && decide (f < 32)
  | .msixSend t f _ => decide (t < 4 * m.cores) && decide (f < 32)
  | .hostCompletion _ _ => true
  | .pf0RateRelease => true
  | .vfFlr f => decide (f < 32)
  | .vfFlrComplete f => decide (f < 32)
  | .pf0Flr => true
  | .hotReset => true
  | .d3hot => true
  | .linkDown => true
  | .completionTimeout _ => true
  | .poisonedWrite f off => decide (f < 32) && decide (off < 2 ^ 36)
  | .poisonedCompletion _ => true
  | .unexpectedCompletion => true
  | .unsupportedRequest f => decide (f < 32)
  | .bridgeInternalError => true
  | .ideCheckFailure _ => true
  | .ideKm _ _ => true
  | .doeObject _ => true
  | .doeAbort => true
  | .quoteReq _ _ => true
  | .skeyReq => true
  | .spdmMessage _ => true
  | .frameTransmit port => decide (port < m.ports)
  | .frameReceive port _ => decide (port < m.ports)
  | .ackTimeoutReplay port => decide (port < m.ports)
  | .controlFrameReceive port _ => decide (port < m.ports)
  | .meridianHandoff port => decide (port < m.ports)
  | .lanesLocked port => decide (port < m.ports)
  | .trainingTimeout port _ => decide (port < m.ports)
  | .downRetry port => decide (port < m.ports)
  | .identify port _ => decide (port < m.ports)
  | .linkFailure port => decide (port < m.ports)
  | .retrainDone port _ => decide (port < m.ports)
  | .retrainTimeout port => decide (port < m.ports)
  | .retrain port => decide (port < m.ports)
  | .disable port => decide (port < m.ports)
  | .cablePresenceChange port _ => decide (port < m.ports)
  | .tallySubmit t die _ => decide (t < 4 * m.cores) && (m.hasTally die && decide (die < m.dies))
  | .tallyJobStart die => (m.hasTally die && decide (die < m.dies))
  | .tallyLineReceive die _ _ _ _ => (m.hasTally die && decide (die < m.dies))
  | .tallyAbortLine die => (m.hasTally die && decide (die < m.dies))
  | .tallyTimeout die => (m.hasTally die && decide (die < m.dies))
  | .tallyJobEnd die => (m.hasTally die && decide (die < m.dies))
  | .tallyAbort t die _ => decide (t < 4 * m.cores) && (m.hasTally die && decide (die < m.dies))
  | .snap => true
  | .digClear => true
  | .key c slot => decide (c < 32) && decide (slot < 4096)
  | .keyStart => true
  | .keyReplicationAnswer stk _ => decide (stk < m.stks)
  | .replicationTimeout stk => decide (stk < m.stks)
  | .keyComplete => true
  | .bind c slot => decide (c < 32) && decide (slot < 4096)
  | .unbind c slot => decide (c < 32) && decide (slot < 4096)
  | .retire c slot _ => decide (c < 32) && decide (slot < 4096)
  | .rotate => true
  | .recon => true
  | .enrol => true
  | .identityReady => true
  | .quoteGo cid _ => decide (cid < 32)
  | .quoteDone => true
  | .bdecl t _ _ => decide (t < 4 * m.cores)
  | .bfree t _ => decide (t < 4 * m.cores)
  | .barr t _ _ => decide (t < 4 * m.cores)
  | .bstat t _ _ => decide (t < 4 * m.cores)
  | .wait t _ _ _ => decide (t < 4 * m.cores)
  | .sig t _ _ => decide (t < 4 * m.cores)
  | .spoll t _ _ => decide (t < 4 * m.cores)
  | .sigcfg t _ => decide (t < 4 * m.cores)
  | .sigrd t _ => decide (t < 4 * m.cores)
  | .declareAtHome die _ => decide (die < m.dies)
  | .freeAtHome die _ => decide (die < m.dies)
  | .arriveAtHome die _ => decide (die < m.dies)
  | .declareEvent => true
  | .freeEvent => true
  | .releaseEvent => true
  | .flushEvent => true
  | .flushReportComplete b => decide (b < 1024)
  | .beaconParityResend => true
  | .signalArrive core _ => decide (core < m.cores)
  | .fogSample c => decide (c < 32)
  | .fogEscalation c => decide (c < 32)
  | .fogAlarmClear acc c => accOk m acc && decide (c < 32)
  | .liveLimitsWrite acc c _ => accOk m acc && decide (c < 32)
  | .meshLimitsWrite acc c _ => accOk m acc && decide (c < 32)
  | .meshClearTraffic die => decide (die < m.dies)
  | .meshClearStatus die => decide (die < m.dies)
  | .perstNAssert => true
  | .perstNRelease => true
  | .romSelfCheck => true
  | .bootGo => true
  | .bootAbort => true
  | .imageFetched => true
  | .verifyDone => true
  | .warm => true
  | .coreResetGo die index => decide (die < m.dies) && decide (index < 144)
  | .coreResetDone die => decide (die < m.dies)
  | .treset t => decide (t < 4 * m.cores)
  | .threadResetDone t => decide (t < 4 * m.cores)
  | .kick => true
  | .watchdogExpiry => true
  | .lanternRetry node => nodeOk m node
  | .ageingSample slacks => slacks.length == 21 * m.dies
  | .monitorGate core => decide (core < m.cores)
  | .planCompute => true
  | .floorRaise rail _ => decide (rail < 21 * m.dies)
  | .logbookWriteCycle => true
  | .info => true
  | .setWallTime _ => true
  | .chartLoad _ => true
  | .chartCmd _ _ => true
  | .faultedSet core => decide (core < 2 ^ 16)
  | .faultedClear core => decide (core < 2 ^ 16)
  | .eventRead seq count => decide (seq < 2 ^ 64) && decide (count < 2 ^ 16)
  | .logbookRead page count => decide (page < 2 ^ 16) && decide (count < 2 ^ 8)
  | .stackWear stk ch => decide (stk < 2 ^ 8) && decide (ch < 2 ^ 8)
  | .powerCap _ => true
  | .skeyRotate => true
  | .telemetryMirror => true
  | .tallyClear acc _ => accOk m acc
  | .smbusStatus => true
  | .tjMax => true
  | .stackTmax => true
  | .inputPower => true
  | .serial => true
  | .warmReset _ _ => true
  | .smbusPowerCap _ _ => true
  | .bypass => true
  | .idcode => true
  | .samplePreload => true
  | .extest => true
  | .clamp => true
  | .highz => true
  | .dbgAccess _ _ _ => true
  | .dbgStop t => decide (t < 4 * m.cores)
  | .dbgResume t => decide (t < 4 * m.cores)
  | .dbgStep t => decide (t < 4 * m.cores)
  | .stepStop t => decide (t < 4 * m.cores)
  | .dbgDataAccess core _ _ => decide (core < m.cores)
  | .vinRise => true
  | .powerGood => true
  | .vinFall => true
  | .powerComparatorEval _ _ _ _ _ => true
  | .pwrLimitsWrite _ => true
  | .thermalTrip => true
  | .tripRelease => true
  | .retirementComplete slot => decide (slot < 4096)
  | .dataLinkUp => true
  | .configurationRequest f _ _ => decide (f < 32)
  | .fabricWireFailure _ => true
  | .referenceReturn => true

end Sys2Proof
end

