-- ==== Sys2Proof/Safety.lean ====
section
/-! DEFINITION. What counts as a safe step and a safe run (no fault and no refusal), and the words in which the
statements say what a command changes and what it leaves alone. -/

namespace Sys2Proof

open Sys2Proof.Machine

/-- The outcome is a next state. -/
def Completes (o : Out State) : Prop := ∃ t, o = .next t

/-- Every command that waits names only units that the member has. -/
def Machine.State.pendingOk (s : State) : Bool := s.pending.all fun i => i.wf s.member

/-- k steps from s answer next states. -/
def SafeFor : Nat → State → Prop
  | 0, _ => True
  | k + 1, s => ∃ t, step s = .next t ∧ SafeFor k t

/-! ## Frames -/

/-- Outside thread t nothing differs: not the queue, not another thread, not a byte of any memory. -/
structure ThreadOnly (s u : State) (t : Tid) : Prop where
  rest : u = { s with threads := u.threads }
  others : ∀ i, i ≠ t → u.thr i = s.thr i

/-- The threads of two states differ at most in general registers, PC and the marks that an issue leaves. -/
def OnlyG (a b : Thread) : Prop := b = { a with g := b.g, busy := b.busy, pc := b.pc, ran := b.ran, step := b.step }

/-- The threads differ at most in PC and the marks that an issue leaves. -/
def OnlyPc (a b : Thread) : Prop := b = { a with pc := b.pc, ran := b.ran, step := b.step }

/-- Every general register but rd reads as before. -/
def OtherG (a b : Thread) (rd : Reg) : Prop := ∀ r : Reg, r ≠ rd → b.greg r = a.greg r

/-- The command completes with g[rd] = v (g0 stays zero) and PC past an instruction of 4 bytes, and nothing else
changes. -/
def WritesG (i : Instr) (s : State) (t : Tid) (rd : Reg) (v : Word) : Prop :=
  ∃ u, exec i s = .next u ∧ (u.thr t).greg rd = (if rd.val = 0 then 0 else v) ∧ OtherG (s.thr t) (u.thr t) rd ∧
    (u.thr t).pc = pcOf ((s.thr t).pc + 4) ∧ OnlyG (s.thr t) (u.thr t) ∧ ThreadOnly s u t

/-- The command completes with PC at a target, and nothing else changes. -/
def GoesTo (i : Instr) (s : State) (t : Tid) (pc : Word) : Prop :=
  ∃ u, exec i s = .next u ∧ (u.thr t).pc = pc ∧ OnlyPc (s.thr t) (u.thr t) ∧ ThreadOnly s u t

/-! ## Entries, lockups and refusals -/

/-- Thread t has entered the handler of its world (R130): EPC, ESTATUS, ECAUSE and EINFO of that bank are saved and its
other registers stand, the other bank stands, PC is its ENTRY, LEVEL and EL are 1, IE and NI 0; registers, return stack
and page registers are as before. -/
structure Enters (s u : State) (t : Tid) (code acc : Nat) (info epc : Word) : Prop where
  bank : (u.thr t).bank (s.thr t).world = { (s.thr t).bank (s.thr t).world with
    epc, estatus := (s.thr t).status &&& ~~~ 0x18#64, ecause := BitVec.ofNat 64 (code + 256 * acc), einfo := info }
  pc : (u.thr t).pc = ((s.thr t).bank (s.thr t).world).entry
  thread : u.thr t = { s.thr t with
    pc := (u.thr t).pc, level := true, ie := false, el := true, ni := false, elSince := (u.thr t).elSince
    bankO := if (s.thr t).world then (s.thr t).bankO else (u.thr t).bankO
    bankS := if (s.thr t).world then (u.thr t).bankS else (s.thr t).bankS
    ran := (u.thr t).ran, step := (u.thr t).step, blocked := none, long := none, walk := none, pcWait := false }
  others : ∀ i, i ≠ t → u.thr i = s.thr i
  cores : ∀ n, u.core n = if n = coreOf t then (s.core n).freeLong (tnum t) else s.core n
  rest : u = { s with threads := u.threads, cores := u.cores }

/-- The core of thread t has locked up with a cause (R142): no entry takes place, the lockup registers record it, the
core is marked faulted, its running constellation stops, and the thread's registers and PC stand. -/
structure LocksUp (s u : State) (t : Tid) (code : Nat) : Prop where
  lock : (u.core (coreOf t)).locked = true ∧ (u.core (coreOf t)).lockCause = code ∧ (u.core (coreOf t)).lockThread = tnum t ∧
    (u.core (coreOf t)).lockSealed = (s.thr t).world ∧
    (u.core (coreOf t)).lockPc = (if (s.thr t).world then 0 else (s.thr t).pc) ∧ (u.core (coreOf t)).lockTime = s.clk.sidereal
  faulted : Map.get false u.chart.faulted (coreOf t) = true
  stopping : ∀ c, (s.core (coreOf t)).member = some c → (s.con c).st = .running → (u.con c).st = .stopping
  thread : OnlyPc (s.thr t) (u.thr t) ∧ (u.thr t).pc = (s.thr t).pc
  others : ∀ i, i ≠ t → u.thr i = s.thr i
  memories : u.ls = s.ls ∧ u.mem = s.mem ∧ u.lsTag = s.lsTag ∧ u.memTag = s.memTag

/-- What a refused access of thread t, of a kind and with an address, gives a first-offender entry to record (R28, R30). -/
def Machine.State.offence (s : State) (t : Tid) (kind : Nat) (addr : Word) : FoeRec :=
  { issuer := tnum t, world := (s.thr t).world, level := (s.thr t).level, kind, addr := if (s.thr t).world then 0 else addr
    time := s.clk.sidereal }

/-- Thread t's access of a kind and an address counts as refused (R28, R30): the package's and the constellation's
counts go up by one unless they are full; an entry of the core that was free, with no other refusal in the same core cycle,
records it, and one that was held since an earlier cycle stands; nothing else changes outside the thread but what the model
remembers of the present core cycle. -/
structure CountsRefusal (s u : State) (t : Tid) (kind : Nat) (addr : Word) : Prop where
  package : u.keeper = { s.keeper with
    violPkg := if s.keeper.violPkg = BitVec.allOnes 48 then s.keeper.violPkg else s.keeper.violPkg + 1
    violNew := u.keeper.violNew, violAt := u.keeper.violAt }
  con : ∀ c, u.con c = if (s.core (coreOf t)).member = some c then
    { s.con c with viol := if (s.con c).viol = BitVec.allOnes 32 then (s.con c).viol else (s.con c).viol + 1
                   violNew := (u.con c).violNew, violAt := (u.con c).violAt } else s.con c
  foe : ∀ n, u.core n = if n = coreOf t then { s.core n with foe := (u.core n).foe } else s.core n
  first : (s.core (coreOf t)).foe.valid = false → (s.core (coreOf t)).foe.lateAt ≠ s.clk.ccycle →
    (u.core (coreOf t)).foe.valid = true ∧ (u.core (coreOf t)).foe.toFoeRec = s.offence t kind addr
  held : (s.core (coreOf t)).foe.valid = true → (s.core (coreOf t)).foe.since ≠ s.clk.ccycle →
    (u.core (coreOf t)).foe.valid = true ∧ (u.core (coreOf t)).foe.toFoeRec = (s.core (coreOf t)).foe.toFoeRec
  others : ∀ i, i ≠ t → u.thr i = s.thr i
  rest : u = { s with threads := u.threads, cores := u.cores, cons := u.cons, keeper := u.keeper }

end Sys2Proof
end

