-- ==== Sys2Proof/Certificates/Slice0/Obligations.lean ====
section
/-! DEFINITION. The statements for the provers. -/

open Sys2Proof Sys2Proof.Machine

/-! ## The machine -/

/-- With a command in front a step is `exec` of it on the queue's rest. With none waiting one fabric cycle passes (the
model's choice, log entry 48). -/
def Obligations.StepRunsFront : Prop :=
  (∀ (c : Instr) (rest : List Instr) (s : State), step { s with pending := c :: rest } = exec c { s with pending := rest }) ∧
  ∀ s : State, s.pending = [] → (s.clk.rootLock = false → step s = .next s) ∧
    (s.clk.rootLock = true → ∃ u, step s = .next u ∧
      u = { s with clk := u.clk, ageing := u.ageing, threads := u.threads } ∧
      u.clk = { s.clk with odd := !s.clk.odd, ccycle := if s.clk.odd then s.clk.ccycle + 1 else s.clk.ccycle } ∧
      u.ageing = { s.ageing with offsets := u.ageing.offsets, moves := u.ageing.moves } ∧ (s.ageing.moves = [] → u.ageing = s.ageing) ∧
      ∀ t, u.thr t = (if (s.thr t).world then { s.thr t with
        demand := (u.thr t).demand, yielded := (u.thr t).yielded, bankS := { (s.thr t).bankS with ipend := (u.thr t).bankS.ipend } }
        else s.thr t))

/-- No command ever stops the part: `exec` answers a next state, and neither the queue nor the member changes. -/
def Obligations.EveryCommandCompletes : Prop :=
  ∀ (i : Instr) (s : State), ∃ u, exec i s = .next u ∧ u.pending = s.pending ∧ u.member = s.member

/-- Whatever command is in front, and for an idle step too: the memories stay in canonical form. -/
def Obligations.StepKeepsMemories : Prop :=
  ∀ s u : State, s.memOk = true → step s = .next u → u.memOk = true

/-- From any state every number of steps answers next states, and the queue empties one command at a time. -/
def Obligations.QueueRuns : Prop :=
  (∀ (s : State) (k : Nat), SafeFor k s) ∧ ∀ s u : State, step s = .next u → u.pending = s.pending.tail

/-- The part right after a cold reset (R425, R434); the zeros of thread registers and local stores are the model's choice
(log entries 2 and 50). -/
def Obligations.AfterReset : Prop :=
  let s := State.reset
  s.pending = [] ∧ s.memOk = true ∧ s.clk.rootLock = false ∧ s.clk.ccycle = 0 ∧ s.keeper.boot = .reset ∧ s.firmware = false ∧
  (∀ c, (s.con c).st = .dark ∧ s.members c = []) ∧ (∀ n, (s.core n).member = none ∧ (s.core n).locked = false) ∧
  (∀ t (r : Reg), (s.thr t).greg r = 0 ∧ (s.thr t).pc = 0 ∧ (s.thr t).rsp = 0 ∧ (s.thr t).status = 0) ∧
  (∀ n, (s.slot n).st = .free) ∧ ∀ n a, s.half n a = 0


/-! ## The scalar core: arithmetic -/

namespace Sys2Proof.Claims

/-- The binary operations of R102 and R103, over integers. -/
def binaryOps : List ((Tid → Reg → Reg → Reg → Instr) × (Word → Word → Word)) := [
  (.add, fun a b => BitVec.ofNat 64 (a.toNat + b.toNat)),
  (.sub, fun a b => BitVec.ofInt 64 (a.toInt - b.toInt)),
  (.and, fun a b => a &&& b),
  (.or, fun a b => a ||| b),
  (.xor, fun a b => a ^^^ b),
  (.andn, fun a b => a &&& ~~~ b),
  (.shl, fun a b => BitVec.ofNat 64 (a.toNat * 2 ^ (b.toNat % 64))),
  (.shr, fun a b => BitVec.ofNat 64 (a.toNat / 2 ^ (b.toNat % 64))),
  (.sar, fun a b => BitVec.ofInt 64 (a.toInt / 2 ^ (b.toNat % 64))),
  (.rol, fun a b => BitVec.ofNat 64 (a.toNat * 2 ^ (b.toNat % 64)) ||| BitVec.ofNat 64 (a.toNat / 2 ^ (64 - b.toNat % 64))),
  (.slt, fun a b => if a.toInt < b.toInt then 1 else 0),
  (.sltu, fun a b => if a.toNat < b.toNat then 1 else 0),
  (.min, fun a b => BitVec.ofInt 64 (min a.toInt b.toInt)),
  (.max, fun a b => BitVec.ofInt 64 (max a.toInt b.toInt)),
  (.minu, fun a b => BitVec.ofNat 64 (min a.toNat b.toNat)),
  (.maxu, fun a b => BitVec.ofNat 64 (max a.toNat b.toNat)),
  (.mul, fun a b => BitVec.ofNat 64 (a.toNat * b.toNat)),
  (.mulh, fun a b => BitVec.ofInt 64 (a.toInt * b.toInt / 2 ^ 64)),
  (.mulhu, fun a b => BitVec.ofNat 64 (a.toNat * b.toNat / 2 ^ 64))]

/-- The four divisions, with the edge results of R103: quotients round toward zero, a remainder has the sign of the
dividend. -/
def divisionOps : List ((Tid → Reg → Reg → Reg → Instr) × (Word → Word → Word)) := [
  (.div, fun a b => if b = 0 then -1 else BitVec.ofInt 64 (a.toInt.tdiv b.toInt)),
  (.divu, fun a b => if b = 0 then 0xFFFFFFFFFFFFFFFF else BitVec.ofNat 64 (a.toNat / b.toNat)),
  (.rem, fun a b => if b = 0 then a else BitVec.ofInt 64 (a.toInt.tmod b.toInt)),
  (.remu, fun a b => if b = 0 then a else BitVec.ofNat 64 (a.toNat % b.toNat))]

/-- The immediate forms of R101. -/
def immediateOps : List ((Tid → Reg → Reg → BitVec 16 → Instr) × (Word → BitVec 16 → Word)) := [
  (.addi, fun a i => BitVec.ofInt 64 (a.toNat + i.toInt)),
  (.andi, fun a i => a &&& BitVec.ofNat 64 i.toNat),
  (.ori, fun a i => a ||| BitVec.ofNat 64 i.toNat),
  (.xori, fun a i => a ^^^ BitVec.ofNat 64 i.toNat),
  (.slti, fun a i => if a.toInt < i.toInt then 1 else 0),
  (.sltiu, fun a i => if a.toNat < (BitVec.ofInt 64 i.toInt).toNat then 1 else 0)]

/-- The shifts by an immediate amount. -/
def shiftOps : List ((Tid → Reg → Reg → BitVec 6 → Instr) × (Word → Nat → Word)) := [
  (.shli, fun a n => BitVec.ofNat 64 (a.toNat * 2 ^ n)),
  (.shri, fun a n => BitVec.ofNat 64 (a.toNat / 2 ^ n)),
  (.sari, fun a n => BitVec.ofInt 64 (a.toInt / 2 ^ n)),
  (.roli, fun a n => BitVec.ofNat 64 (a.toNat * 2 ^ n) ||| BitVec.ofNat 64 (a.toNat / 2 ^ (64 - n)))]

end Sys2Proof.Claims

open Sys2Proof.Claims

/-- R102, R103: each result over integers, wrapped to 64 bits, where RD may be RA or RB; the divisions for every pair of operands, the two edge cases written out, the shift amounts modulo 64, and the
counts of zero. -/
def Obligations.ArithmeticResults : Prop :=
  (∀ p ∈ binaryOps, ∀ (s : State) (t : Tid) (rd ra rb : Reg), s.ready t [ra.val, rb.val] = true →
    WritesG (p.1 t rd ra rb) s t rd (p.2 ((s.thr t).greg ra) ((s.thr t).greg rb))) ∧
  (∀ p ∈ divisionOps, ∀ (s : State) (t : Tid) (rd ra rb : Reg), s.ready t [ra.val, rb.val] = true →
    WritesG (p.1 t rd ra rb) s t rd (p.2 ((s.thr t).greg ra) ((s.thr t).greg rb))) ∧
  (∀ (s : State) (t : Tid) (rd ra rb : Reg), s.ready t [ra.val, rb.val] = true →
    (s.thr t).greg ra = 0x8000000000000000 → (s.thr t).greg rb = -1 →
    WritesG (.div t rd ra rb) s t rd 0x8000000000000000 ∧ WritesG (.rem t rd ra rb) s t rd 0) ∧
  (∀ p ∈ [Instr.shl, .shr, .sar, .rol], ∀ (s : State) (t : Tid) (rd ra rb : Reg), s.ready t [ra.val, rb.val] = true →
    (s.thr t).greg rb = 64 → WritesG (p t rd ra rb) s t rd ((s.thr t).greg ra)) ∧
  ∀ (s : State) (t : Tid) (rd ra : Reg), s.ready t [ra.val] = true → (s.thr t).greg ra = 0 →
    WritesG (.clz t rd ra) s t rd 64 ∧ WritesG (.ctz t rd ra) s t rd 64

/-- R101 to R104: the unary operations, the immediate forms, LI, LSH and NOP. -/
def Obligations.ImmediateResults : Prop :=
  (∀ (s : State) (t : Tid) (rd ra : Reg), s.ready t [ra.val] = true →
    let a := (s.thr t).greg ra
    (∀ n < 64, a.toNat < 2 ^ (n + 1) → 2 ^ n ≤ a.toNat → WritesG (.clz t rd ra) s t rd (BitVec.ofNat 64 (63 - n))) ∧
    (∀ n < 64, a.toNat % 2 ^ (n + 1) = 2 ^ n → WritesG (.ctz t rd ra) s t rd (BitVec.ofNat 64 n)) ∧
    (∀ l : List Nat, l.Nodup → (∀ i, i ∈ l ↔ a.toNat / 2 ^ i % 2 = 1) → WritesG (.pop t rd ra) s t rd (BitVec.ofNat 64 l.length)) ∧
    (∀ p ∈ immediateOps, ∀ imm, WritesG (p.1 t rd ra imm) s t rd (p.2 a imm)) ∧
    ∀ p ∈ shiftOps, ∀ amt, WritesG (p.1 t rd ra amt) s t rd (p.2 a amt.toNat)) ∧
  (∀ (s : State) (t : Tid) (rd : Reg) (imm : BitVec 21),
    (s.ready t [] = true → WritesG (.li t rd imm) s t rd (BitVec.ofInt 64 imm.toInt)) ∧
    (s.ready t [rd.val] = true →
      WritesG (.lsh t rd imm) s t rd ((s.thr t).greg rd * 2097152 ||| BitVec.ofNat 64 imm.toNat))) ∧
  ∀ (s : State) (t : Tid), s.ready t [] = true → GoesTo (.nop t) s t (pcOf ((s.thr t).pc + 4))

namespace Sys2Proof.Claims

/-- The fields of FW0 to FW3 as R107 lays them out, for a thread t of a member core of a constellation c. -/
def FeatureFields : Prop :=
  ∀ (s : State) (t : Tid) (rd : Reg) (c : Nat), s.ready t [] = true → t < 4 * s.member.cores → c < 32 →
    (s.core (t / 4)).member = some c → (s.con c).cfg.commonMib ≤ 28 →
    let n := t / 4
    let g := (s.con c).cfg
    (∃ w, WritesG (.rdfw t rd 0) s t rd w ∧ w.toNat % 2 ^ 11 = n ∧ w.toNat / 2 ^ 11 % 2 ^ 3 = 0 ∧
      w.toNat / 2 ^ 14 % 2 ^ 6 = n % s.member.width ∧ w.toNat / 2 ^ 20 % 2 ^ 5 = n / s.member.width ∧
      w.toNat / 2 ^ 25 % 2 ^ 3 = s.member.dieOf n ∧ w.toNat / 2 ^ 28 % 2 ^ 4 = s.member.dies ∧
      w.toNat / 2 ^ 32 % 2 ^ 3 = t % 4 ∧ w.toNat / 2 ^ 35 = c) ∧
    (∃ w, WritesG (.rdfw t rd 1) s t rd w ∧ w.toNat < 256 ∧ w.extractLsb' 0 4 = 0xF ∧ w.getLsbD 4 = (g.supervisor == n) ∧
      w.getLsbD 5 = g.resume ∧ w.getLsbD 6 = g.reference ∧ w.getLsbD 7 = g.sealedCapable) ∧
    WritesG (.rdfw t rd 2) s t rd 0xFFF ∧
    (∃ w, WritesG (.rdfw t rd 3) s t rd w ∧ w.extractLsb' 0 8 = 28 ∧ w.extractLsb' 8 8 = 0 ∧
      (w.extractLsb' 16 8).toNat = (28 - g.commonMib) / 4 ∧ (w.extractLsb' 24 8).toNat = g.commonMib ∧ w.extractLsb' 32 8 = 64 ∧
      w.extractLsb' 40 8 = 32 ∧ w.extractLsb' 48 8 = 8 ∧ w.extractLsb' 56 8 = 4) ∧
    ∀ k : Fin 8, 4 ≤ k.val → WritesG (.rdfw t rd k) s t rd 0

end Sys2Proof.Claims

/-- R75, R87, R95, R104. The 24 low bits and the bits above 51 of a page register read zero after SETPG. -/
def Obligations.ReadsOfState : Prop :=
  Sys2Proof.Claims.FeatureFields ∧
  (∀ (s : State) (t : Tid) (rd : Reg), s.ready t [] = true →
    WritesG (.rdtime t rd) s t rd s.clk.sidereal ∧
    (∃ k : Nat, k < 4 ∧ (s.clk.ccycle.toNat + k) % 4 = t % 4 ∧ WritesG (.rdcyc t rd) s t rd (s.clk.ccycle + BitVec.ofNat 64 k)) ∧
    WritesG (.rdrsp t rd) s t rd (BitVec.ofNat 64 (s.thr t).rsp) ∧
    ∀ pg, WritesG (.getpg t rd pg) s t rd ((s.thr t).pgreg pg.val)) ∧
  ∀ (s : State) (t : Tid) (pg : PgReg) (ra : Reg), s.ready t [ra.val] = true → ∃ u, exec (.setpg t pg ra) s = .next u ∧
    ((u.thr t).pgreg pg.val).toNat = ((s.thr t).greg ra).toNat % 2 ^ 52 / 2 ^ 24 * 2 ^ 24 ∧
    (∀ n, n ≠ pg.val → (u.thr t).pgreg n = (s.thr t).pgreg n) ∧ (∀ r, (u.thr t).greg r = (s.thr t).greg r) ∧
    (u.thr t).pc = pcOf ((s.thr t).pc + 4) ∧ OnlyPc { s.thr t with pg := (u.thr t).pg } (u.thr t) ∧ ThreadOnly s u t


/-! ## The scalar core: control flow and memory -/

namespace Sys2Proof.Claims

/-- The conditional branches of R101 and what each compares. -/
def branchOps : List ((Tid → Reg → Reg → BitVec 16 → Instr) × (Word → Word → Prop)) := [
  (.beq, fun a b => a = b), (.bne, fun a b => a ≠ b), (.blt, fun a b => a.toInt < b.toInt), (.bge, fun a b => b.toInt ≤ a.toInt),
  (.bltu, fun a b => a.toNat < b.toNat), (.bgeu, fun a b => b.toNat ≤ a.toNat)]

/-- PC + 4 × a displacement. -/
def jumpTo (pc : Word) (disp : Int) : Word := pcOf (BitVec.ofInt 64 (pc.toNat + 4 * disp))

/-- The loads of R101 in M form: bytes, and whether they sign-extend. -/
def loadOps : List ((Tid → Reg → Reg → PgReg → BitVec 13 → Instr) × Nat × Bool) := [
  (.ldb, 1, false), (.ldbs, 1, true), (.ldh, 2, false), (.ldhs, 2, true), (.ldw, 4, false), (.ldws, 4, true), (.ldd, 8, false)]

/-- The stores of R101 in M form: bytes. -/
def storeOps : List ((Tid → Reg → Reg → PgReg → BitVec 13 → Instr) × Nat) := [(.stb, 1), (.sth, 2), (.stw, 4), (.std, 8)]

/-- Every load: the instruction, its sources, bytes, sign extension, destination and address. -/
inductive IsLoad : Instr → Tid → List Nat → Nat → Bool → Reg → (Thread → Nat) → Prop
  | m (p) (hp : p ∈ loadOps) (t rd ra pg imm) : IsLoad (p.1 t rd ra pg imm) t [ra.val] p.2.1 p.2.2 rd fun th => th.eaM ra pg imm
  | x (t rd ra rb pg) (scale size : Fin 4) (sx) : IsLoad (.ldx t rd ra rb pg scale size sx) t [ra.val, rb.val] (2 ^ size.val) sx rd
      fun th => th.eaX ra rb pg scale.val

/-- Every store: the instruction, its sources, bytes, source register and address. -/
inductive IsStore : Instr → Tid → List Nat → Nat → Reg → (Thread → Nat) → Prop
  | m (p) (hp : p ∈ storeOps) (t rs ra pg imm) : IsStore (p.1 t rs ra pg imm) t [rs.val, ra.val] p.2 rs fun th => th.eaM ra pg imm
  | x (t rs ra rb pg) (scale size : Fin 4) : IsStore (.stx t rs ra rb pg scale size) t [rs.val, ra.val, rb.val] (2 ^ size.val) rs
      fun th => th.eaX ra rb pg scale.val

/-- A ready thread's exception: it enters the handler of its world, or locks up the core while the entry lock is held. -/
def Excepts (i : Instr) (s : State) (t : Tid) (code acc : Nat) (info epc : Word) : Prop :=
  ((s.thr t).el = false → ∃ u, exec i s = .next u ∧ Enters s u t code acc info epc) ∧
  ((s.thr t).el = true → ∃ u, exec i s = .next u ∧ LocksUp s u t code)

end Sys2Proof.Claims

/-- R101: both outcomes of each branch, and the two jumps. -/
def Obligations.BranchTargets : Prop :=
  (∀ p ∈ branchOps, ∀ (s : State) (t : Tid) (ra rb : Reg) (disp : BitVec 16), s.ready t [ra.val, rb.val] = true →
    (p.2 ((s.thr t).greg ra) ((s.thr t).greg rb) → GoesTo (p.1 t ra rb disp) s t (jumpTo (s.thr t).pc disp.toInt)) ∧
    (¬ p.2 ((s.thr t).greg ra) ((s.thr t).greg rb) → GoesTo (p.1 t ra rb disp) s t (pcOf ((s.thr t).pc + 4)))) ∧
  (∀ (s : State) (t : Tid) (disp : BitVec 26), s.ready t [] = true → GoesTo (.jmp t disp) s t (jumpTo (s.thr t).pc disp.toInt)) ∧
  ∀ (s : State) (t : Tid) (ra : Reg), s.ready t [ra.val] = true → GoesTo (.jr t ra) s t (pcOf ((s.thr t).greg ra))

/-- R105, R106: the return stack is reached only through its pointer, and never leaves 0 to 2048. -/
def Obligations.ReturnStack : Prop :=
  (∀ (s : State) (t : Tid) (ra : Reg) (disp : BitVec 26), (s.thr t).rsp < 2048 →
    ∀ p ∈ [(Instr.call t disp, jumpTo (s.thr t).pc disp.toInt, s.ready t []), (.callr t ra, pcOf ((s.thr t).greg ra), s.ready t [ra.val])],
    p.2.2 = true → ∃ u, exec p.1 s = .next u ∧ (u.thr t).pc = p.2.1 ∧ (u.thr t).rsp = (s.thr t).rsp + 1 ∧
      (u.thr t).storeQ = (s.thr t).storeQ ++ [.own (s.rstackBase t + 8 * (s.thr t).rsp) 8 ((s.thr t).pc + 4) (s.thr t).tag (s.thr t).nextId] ∧
      OnlyPc { s.thr t with rsp := (u.thr t).rsp, storeQ := (u.thr t).storeQ, nextId := (s.thr t).nextId + 1 } (u.thr t) ∧ ThreadOnly s u t) ∧
  (∀ (s : State) (t : Tid), s.ready t [] = true → (s.thr t).retBad = false →
    s.conflict t ((lsBase (coreOf t) + s.retOff t) / 64) = false → ∃ u, exec (.ret t) s = .next u ∧
      (u.thr t).rsp = (s.thr t).rsp - 1 ∧ (u.thr t).storeQ = (s.thr t).storeQ ∧ (∀ r, (u.thr t).greg r = (s.thr t).greg r) ∧
      ThreadOnly s u t ∧
      ((∃ v, (s.thr t).gatherHit (s.retOff t) 8 = some v ∧ (u.thr t).pc = pcOf (BitVec.ofNat 64 v)) ∨
        ((u.thr t).pcWait = true ∧ (∃ it, (u.thr t).p4 = (s.thr t).p4 ++ [it] ∧ it.kind = .read .pc (s.retOff t) 8 false ∧ it.line = s.retOff t / 128) ∧
          ∀ w l, ((u.thr t).deliver .pc w l).pc = pcOf w ∧ ((u.thr t).deliver .pc w l).pcWait = false))) ∧
  (∀ (s : State) (t : Tid) (ra : Reg) (disp : BitVec 26), (s.thr t).rsp = 2048 →
    (s.ready t [] = true → Excepts (.call t disp) s t 4 0 0 (s.thr t).pc) ∧ (s.ready t [ra.val] = true → Excepts (.callr t ra) s t 4 0 0 (s.thr t).pc)) ∧
  (∀ (s : State) (t : Tid), s.ready t [] = true → (s.thr t).rsp = 0 ∨ (s.thr t).world = true ∧ (s.thr t).rsp = (s.thr t).bankS.gretRsp.toNat →
    Excepts (.ret t) s t 4 0 0 (s.thr t).pc) ∧
  (∀ (s : State) (t : Tid) (ra : Reg), s.ready t [ra.val] = true → (s.thr t).level = true → ∃ u, exec (.wrrsp t ra) s = .next u ∧
      (u.thr t).rsp = min ((s.thr t).greg ra).toNat 2048 ∧ (u.thr t).pc = pcOf ((s.thr t).pc + 4) ∧
      OnlyPc { s.thr t with rsp := (u.thr t).rsp } (u.thr t) ∧ ThreadOnly s u t) ∧
  (∀ (s : State) (t : Tid) (ra rd : Reg), (s.ready t [ra.val] = true → (s.thr t).level = false → ∃ u, exec (.wrrsp t ra) s = .next u ∧
      CountsRefusal s u t 5 0 ∧ (u.thr t).rsp = (s.thr t).rsp ∧ OnlyPc (s.thr t) (u.thr t)) ∧
    (s.ready t [] = true → WritesG (.rdrsp t rd) s t rd (BitVec.ofNat 64 (s.thr t).rsp))) ∧
  ∀ (s u : State) (t : Tid), (∀ code acc info epc, Enters s u t code acc info epc → (u.thr t).rsp = (s.thr t).rsp ∧ u.ls = s.ls) ∧
    (exec (.eret t) s = .next u → (u.thr t).rsp = (s.thr t).rsp ∧ u.ls = s.ls)

/-- R126, R130, R131, R142, R463. -/
def Obligations.ExceptionEntries : Prop :=
  (∀ (s : State) (t : Tid), s.ready t [] = true →
    Excepts (.undef t false) s t 1 0 0 (s.thr t).pc ∧ Excepts (.scall t) s t 7 0 0 (pcOf ((s.thr t).pc + 4)) ∧
    (((s.thr t).world = true ∨ (s.thr t).brkStop = false) → Excepts (.brk t) s t 8 0 0 (pcOf ((s.thr t).pc + 4))) ∧
    ((s.thr t).world = false → (s.thr t).brkStop = true → ∃ u, exec (.brk t) s = .next u ∧ (u.thr t).stopped = true ∧
      (u.thr t).reason = 3 ∧ (u.thr t).pc = pcOf ((s.thr t).pc + 4) ∧ (∀ r, (u.thr t).greg r = (s.thr t).greg r) ∧ ThreadOnly s u t)) ∧
  ∀ (s : State) (t : Tid), s.ready t [] = true → (s.thr t).el = false →
    ∃ m u, exec (.undef t true) s = .next u ∧ CountsRefusal s m t 3
      (if s.fetchable t (s.thr t).pc.toNat then BitVec.ofNat 64 (((s.thr t).pc.toNat + 4) % 2 ^ 52) else (s.thr t).pc) ∧ m.threads = s.threads ∧ Enters m u t 1 0 0 (s.thr t).pc

/-- R98, for every scalar load and store. A load that waits for an older store to its line does not issue. -/
def Obligations.MisalignedRaises : Prop :=
  (∀ i t srcs n sx rd f, IsLoad i t srcs n sx rd f → ∀ s : State, s.ready t srcs = true → f (s.thr t) % n ≠ 0 →
    s.stalls t { kind := .load n sx rd, addr := f (s.thr t) } = false →
    Excepts i s t 2 0 (BitVec.ofNat 64 (f (s.thr t))) (s.thr t).pc) ∧
  (∀ i t srcs n rs f, IsStore i t srcs n rs f → ∀ s : State, s.ready t srcs = true → f (s.thr t) % n ≠ 0 →
    Excepts i s t 2 1 (BitVec.ofNat 64 (f (s.thr t))) (s.thr t).pc) ∧
  ∀ a n : Nat, n ∈ [1, 2, 4, 8] → a % n = 0 → a / 64 = (a + n - 1) / 64


/-- R94, R96, R98, R154, R155, R158: every load, in two commands where the gather buffer does not hold it. -/
def Obligations.OwnLoads : Prop :=
  ∀ i t srcs n sx rd f, IsLoad i t srcs n sx rd f → ∀ (s : State) (off : Nat), s.ready t srcs = true → f (s.thr t) % n = 0 →
    ownOffset (coreOf t) (f (s.thr t)) = some off → s.ownOk t off false = true → s.conflict t (f (s.thr t) / 64) = false →
    ∃ u, exec i s = .next u ∧ (u.thr t).pc = pcOf ((s.thr t).pc + 4) ∧ OtherG (s.thr t) (u.thr t) rd ∧
      (u.thr t).v = (s.thr t).v ∧ (u.thr t).status = (s.thr t).status ∧ ThreadOnly s u t ∧
      (∀ v, (s.thr t).gatherHit off n = some v → (u.thr t).greg rd = if rd.val = 0 then 0 else loadValue n sx v) ∧
      ((s.thr t).gatherHit off n = none → (s.thr t).p4 = [] → (s.thr t).gather = [] → s.rowBad (coreOf t) (off / 128) = 0 →
        ∀ sub : Fin 8, sub.val = off / 128 % 8 →
        ∃ w, exec (.p4ItemPerform t sub 0) u = .next w ∧ OtherG (s.thr t) (w.thr t) rd ∧ (w.thr t).p4 = [] ∧ w.ls = s.ls ∧ w.mem = s.mem ∧
          (w.thr t).pc = (u.thr t).pc ∧
          if mayRead (s.thr t).tag (s.halfTag (coreOf t) (off / 64)) then
            (w.thr t).greg rd = (if rd.val = 0 then 0 else loadValue n sx (leNat (readBytes s.ls (0x2000000 * coreOf t + off) n))) ∧
            w.keeper = s.keeper
          else (w.thr t).greg rd = 0 ∧ (s.keeper.violPkg ≠ BitVec.allOnes 48 → w.keeper.violPkg = s.keeper.violPkg + 1))

/-- R94, R96, R98, R154, R155, R157: every store, in three commands, with the bytes it writes and the bytes it leaves. -/
def Obligations.OwnStores : Prop :=
  ∀ i t srcs n rs f, IsStore i t srcs n rs f → ∀ (s : State) (off : Nat), s.ready t srcs = true → f (s.thr t) % n = 0 →
    ownOffset (coreOf t) (f (s.thr t)) = some off → s.ownOk t off true = true →
    ∃ u, exec i s = .next u ∧ (u.thr t).pc = pcOf ((s.thr t).pc + 4) ∧ (∀ r, (u.thr t).greg r = (s.thr t).greg r) ∧ ThreadOnly s u t ∧
      (u.thr t).storeQ = (s.thr t).storeQ ++ [.own off n ((s.thr t).greg rs) (s.thr t).tag (s.thr t).nextId] ∧
      ((s.thr t).storeQ = [] → (s.thr t).p4 = [] → (s.thr t).gather = [] → s.rowBad (coreOf t) (off / 128) = 0 →
        ∀ sub : Fin 8, sub.val = off / 128 % 8 →
        ∃ v w, exec (.storeDrain t) u = .next v ∧ ThreadOnly u v t ∧ (v.thr t).storeQ = [] ∧ exec (.p4ItemPerform t sub 0) v = .next w ∧
          w.mem = s.mem ∧ w.halfTag (coreOf t) (off / 64) = (s.thr t).tag ∧ (∀ r, (w.thr t).greg r = (s.thr t).greg r) ∧
          let base := 0x2000000 * coreOf t + off
          let old (a : Nat) : Byte :=
            if a / 64 = base / 64 ∧ s.halfTag (coreOf t) (off / 64) ≠ (s.thr t).tag then 0 else Map.get 0 s.ls a
          ∀ a, Map.get 0 w.ls a = if base ≤ a ∧ a < base + n then BitVec.ofNat 8 (((s.thr t).greg rs).toNat / 2 ^ (8 * (a - base))) else old a)

/-- R25, R26, R28, R30, R94, R260. -/
def Obligations.SliceRefusals : Prop :=
  (∀ (s : State) (t : Tid) (off : Nat) (w : Bool), s.ownOk t off w = true ↔
    let S := s.sliceBytes (t / 4)
    ((t % 4 * S ≤ off ∧ off < (t % 4 + 1) * S) ∨ (4 * S ≤ off ∧ off < 28 * 2 ^ 20)) ∧
      (w = true → (s.thr t).level = false → ¬ ((t % 4 + 1) * S - 0x4000 ≤ off ∧ off < (t % 4 + 1) * S))) ∧
  (∀ i t srcs n sx rd f, IsLoad i t srcs n sx rd f → ∀ (s : State) (off : Nat), s.ready t srcs = true → f (s.thr t) % n = 0 →
    ownOffset (coreOf t) (f (s.thr t)) = some off → s.ownOk t off false = false → s.conflict t (f (s.thr t) / 64) = false →
    ∃ u, exec i s = .next u ∧ CountsRefusal s u t 0 (BitVec.ofNat 64 (f (s.thr t))) ∧ (u.thr t).pc = pcOf ((s.thr t).pc + 4) ∧
      OtherG (s.thr t) (u.thr t) rd ∧ ∃ r, (u.thr t).refusals = (s.thr t).refusals ++ [r] ∧
        r.dst = if rd.val = 0 then .nowhere else .g rd (s.thr t).nextId) ∧
  (∀ i t srcs n rs f, IsStore i t srcs n rs f → ∀ (s : State) (off : Nat), s.ready t srcs = true → f (s.thr t) % n = 0 →
    ownOffset (coreOf t) (f (s.thr t)) = some off → s.ownOk t off true = false →
    ∃ u, exec i s = .next u ∧ CountsRefusal s u t 1 (BitVec.ofNat 64 (f (s.thr t))) ∧
      OnlyPc (s.thr t) (u.thr t) ∧ (u.thr t).pc = pcOf ((s.thr t).pc + 4)) ∧
  ∀ (s : State) (t : Tid) (r : SrcRefusal) (l : List SrcRefusal) (rd : Reg) (id : Nat), s.clocksOn = true → (s.thr t).refusals = r :: l →
    r.due.toNat ≤ s.clk.ccycle.toNat → r.dst = .g rd id → rd.val ≠ 0 → Map.get 0 (s.thr t).busy rd.val = id →
    ∃ u, exec (.sourceRefusalComplete t) s = .next u ∧ (u.thr t).greg rd = 0 ∧ Map.get 0 (u.thr t).busy rd.val = 0 ∧
      (u.thr t).refusals = l ∧ OtherG (s.thr t) (u.thr t) rd ∧ ThreadOnly s u t


/-! ## Worlds, levels and exceptions -/

namespace Sys2Proof.Claims

/-- The instruction is refused: it counts as one refused access of kind 5, has no effect, and the thread goes on. -/
def RefusedInstr (i : Instr) (s : State) (t : Tid) : Prop :=
  ∃ u, exec i s = .next u ∧ CountsRefusal s u t 5 0 ∧ OnlyPc (s.thr t) (u.thr t) ∧ (u.thr t).pc = pcOf ((s.thr t).pc + 4)

/-- What entry register n of a bank reads as (R125). -/
def entryValue (s : State) (t : Tid) (n : Fin 32) : Word :=
  let b := (s.thr t).bank (decide (16 ≤ n.val))
  match n.val % 16 with
  | 0 => b.entry | 1 => b.epc | 2 => b.estatus | 3 => b.ecause | 4 => b.einfo
  | 5 => s.ipend t (decide (16 ≤ n.val)) | 6 => b.imask | 7 => b.tcmp
  | 8 => b.swap0 | 9 => b.swap1 | 10 => b.swap2 | 11 => b.swap3
  | 12 => if 16 ≤ n.val then b.gretPc else 0
  | 13 => if 16 ≤ n.val then b.gretStatus else 0
  | 14 => if 16 ≤ n.val then b.gretRsp else 0
  | _ => if n.val = 31 then (s.slot (s.thr t).session.toNat).pos.setWidth 64 else 0

end Sys2Proof.Claims

/-- R106, R123, R125, R134, R138. -/
def Obligations.NotPermitted : Prop :=
  (∀ (s : State) (t : Tid), (s.thr t).level = false → s.ready t [] = true →
    RefusedInstr (.eret t) s t ∧ RefusedInstr (.edone t) s t ∧ RefusedInstr (.niend t) s t ∧ RefusedInstr (.gateOut t) s t) ∧
  (∀ (s : State) (t : Tid) (r : Reg), (s.thr t).level = false → s.ready t [r.val] = true →
    RefusedInstr (.mts t r) s t ∧ RefusedInstr (.nibegin t r) s t ∧ RefusedInstr (.wrrsp t r) s t ∧ ∀ n, RefusedInstr (.xsw t r n) s t) ∧
  (∀ (s : State) (t : Tid) (n : Fin 32) (r : Reg), ((s.thr t).level = false ∨ (s.thr t).world ≠ decide (16 ≤ n.val)) →
    (s.ready t [] = true → RefusedInstr (.mfe t r n) s t) ∧ (s.ready t [r.val] = true → RefusedInstr (.mte t n r) s t)) ∧
  (∀ (s : State) (t : Tid), (s.thr t).world = false → s.ready t [] = true → RefusedInstr (.gateOut t) s t) ∧
  (∀ (s : State) (t : Tid) (r : Reg), s.ready t [r.val] = true → (s.thr t).world = true ∨ (s.thr t).el = true ∨ (s.thr t).ni = true →
    RefusedInstr (.gate t r) s t) ∧
  ∀ (s : State) (t : Tid) (r : Reg), s.ready t [r.val] = true → (s.thr t).level = true → (s.thr t).el = true → RefusedInstr (.nibegin t r) s t

/-- R121, R125, R132, R136. The writer's level is supervisor, so LEVEL is always taken. -/
def Obligations.EntryRegisters : Prop :=
  (∀ (s : State) (t : Tid) (rd : Reg) (n : Fin 32), s.ready t [] = true → (s.thr t).level = true → (s.thr t).world = decide (16 ≤ n.val) →
    WritesG (.mfe t rd n) s t rd (entryValue s t n)) ∧
  (∀ (s : State) (t : Tid) (ra : Reg) (n : Fin 32), s.ready t [ra.val] = true → (s.thr t).level = true → (s.thr t).world = decide (16 ≤ n.val) →
    ∃ u, exec (.mte t n ra) s = .next u ∧ (u.thr t).pc = pcOf ((s.thr t).pc + 4) ∧ (∀ r, (u.thr t).greg r = (s.thr t).greg r) ∧
      (u.thr t).bank (!(s.thr t).world) = (s.thr t).bank (!(s.thr t).world) ∧ (u.thr t).status = (s.thr t).status ∧
      u.mem = s.mem ∧ u.ls = s.ls ∧
      let w := (s.thr t).world
      let b := (s.thr t).bank w
      let b' := (u.thr t).bank w
      let v := (s.thr t).greg ra
      match n.val % 16 with
      | 0 => b' = { b with entry := pcOf v } ∧ ThreadOnly s u t
      | 1 => b' = { b with epc := pcOf v } ∧ ThreadOnly s u t
      | 2 => b' = { b with estatus := b'.estatus } ∧ b'.estatus.getLsbD 0 = v.getLsbD 0 ∧ b'.estatus.getLsbD 2 = v.getLsbD 2 ∧
          b'.estatus.getLsbD 1 = (if v.getLsbD 1 = w then w else b.estatus.getLsbD 1) ∧
          b'.estatus.extractLsb' 16 12 = (if v.extractLsb' 16 12 = (s.thr t).session then (s.thr t).session else b.estatus.extractLsb' 16 12) ∧
          (if v.getLsbD 1 = w ∧ v.extractLsb' 16 12 = (s.thr t).session then ThreadOnly s u t else CountsRefusal s u t 5 0)
      | 6 => b' = { b with imask := v &&& ~~~ 3#64 } ∧ ThreadOnly s u t
      | 7 => b' = { b with tcmp := v, ipend := b.ipend &&& ~~~ 0x20#64 } ∧ ThreadOnly s u t
      | 8 => b' = { b with swap0 := v } ∧ ThreadOnly s u t
      | 9 => b' = { b with swap1 := v } ∧ ThreadOnly s u t
      | 10 => b' = { b with swap2 := v } ∧ ThreadOnly s u t
      | 11 => b' = { b with swap3 := v } ∧ ThreadOnly s u t
      | 15 => b' = b ∧ if n.val = 31 then (u.slot (s.thr t).session.toNat).pos = v.setWidth 22 else ThreadOnly s u t
      | _ => b' = b ∧ ThreadOnly s u t) ∧
  (∀ (s : State) (t : Tid) (rd : Reg) (n : Fin 4), s.ready t [rd.val] = true → (s.thr t).level = true →
    ∃ u, exec (.xsw t rd n) s = .next u ∧ OtherG (s.thr t) (u.thr t) rd ∧ ThreadOnly s u t ∧ (u.thr t).pc = pcOf ((s.thr t).pc + 4) ∧
      (u.thr t).status = (s.thr t).status ∧
      let swap (b : EBank) : Word := match n with | 0 => b.swap0 | 1 => b.swap1 | 2 => b.swap2 | 3 => b.swap3
      swap ((u.thr t).bank (s.thr t).world) = (s.thr t).greg rd ∧
      (u.thr t).greg rd = if rd.val = 0 then 0 else swap ((s.thr t).bank (s.thr t).world)) ∧
  (∀ (s : State) (t : Tid), s.ready t [] = true → (s.thr t).level = true → ∃ u, exec (.edone t) s = .next u ∧
    OnlyPc { s.thr t with el := false } (u.thr t) ∧ (u.thr t).pc = pcOf ((s.thr t).pc + 4) ∧ ThreadOnly s u t) ∧
  (∀ (s : State) (t : Tid) (ra : Reg), s.ready t [ra.val] = true → (s.thr t).level = true → ∃ u, exec (.mts t ra) s = .next u ∧
    OnlyPc { s.thr t with ie := ((s.thr t).greg ra).getLsbD 2 } (u.thr t) ∧ (u.thr t).pc = pcOf ((s.thr t).pc + 4) ∧ ThreadOnly s u t) ∧
  ∀ (s : State) (t : Tid) (rd : Reg), s.ready t [] = true → ∃ w, WritesG (.mfs t rd) s t rd w ∧ w.getLsbD 0 = (s.thr t).level ∧
    w.getLsbD 1 = (s.thr t).world ∧ w.getLsbD 2 = (s.thr t).ie ∧ w.getLsbD 3 = (s.thr t).el ∧ w.getLsbD 4 = (s.thr t).ni ∧
    w.extractLsb' 5 11 = 0 ∧ w.extractLsb' 16 12 = (s.thr t).session ∧ w.extractLsb' 28 36 = 0

/-- R133, R134. -/
def Obligations.ReturnAndGate : Prop :=
  (∀ (s : State) (t : Tid), s.ready t [] = true → (s.thr t).level = true → ∃ u, exec (.eret t) s = .next u ∧ ThreadOnly s u t ∧
    let b := (s.thr t).bank (s.thr t).world
    OnlyPc { s.thr t with level := b.estatus.getLsbD 0, ie := b.estatus.getLsbD 2, el := false, ni := false
                          session := if (s.thr t).world then b.estatus.extractLsb' 16 12 else 0 } (u.thr t) ∧
    (u.thr t).pc = pcOf b.epc) ∧
  ∀ (s : State) (t : Tid) (ra : Reg) (c : Nat), s.ready t [ra.val] = true → (s.thr t).world = false → (s.thr t).el = false →
    (s.thr t).ni = false → (s.core (coreOf t)).member = some c → (s.con c).cfg.sealedCapable = true →
    (s.slot (((s.thr t).greg ra).toNat % 4096)).st = .bound → (s.slot (((s.thr t).greg ra).toNat % 4096)).owner = c →
    ∃ u, exec (.gate t ra) s = .next u ∧
      (u.thr t).world = true ∧ (u.thr t).level = true ∧ (u.thr t).ie = false ∧ (u.thr t).el = true ∧ (u.thr t).ni = false ∧
      (u.thr t).session.toNat = ((s.thr t).greg ra).toNat % 4096 ∧ (u.thr t).pc = pcOf (BitVec.ofNat 64 (s.con c).cfg.sealedEntry) ∧
      (u.thr t).bankS = { entry := (u.thr t).pc, epc := pcOf ((s.thr t).pc + 4), estatus := (s.thr t).status &&& ~~~ 0x18#64, ecause := 9,
                            einfo := BitVec.ofNat 64 (((s.thr t).greg ra).toNat % 4096),
                            gretPc := pcOf ((s.thr t).pc + 4), gretStatus := (s.thr t).status, gretRsp := BitVec.ofNat 64 (s.thr t).rsp } ∧
      (u.thr t).bankO = (s.thr t).bankO ∧ (u.thr t).g = (s.thr t).g ∧ (u.thr t).v = (s.thr t).v ∧ (u.thr t).pg = (s.thr t).pg ∧
      (u.thr t).rsp = (s.thr t).rsp ∧ u.ls = s.ls ∧ u.mem = s.mem ∧ (∀ i, i ≠ t → u.thr i = s.thr i) ∧
      ∀ k < 4, ∀ w ∈ (u.core (coreOf t)).pipe (tnum t) k, w.committed = true

/-- R135, in the state of the model. Bank O and the page registers stand. -/
def Obligations.GateOutScrubs : Prop :=
  ∀ (s : State) (t : Tid), s.ready t [] = true → (s.thr t).world = true → (s.thr t).level = true →
    ∃ u, exec (.gateOut t) s = .next u ∧
      (∀ r : Reg, (u.thr t).greg r = if r.val = 4 ∨ r.val = 5 then (s.thr t).greg r else 0) ∧ (∀ r, (u.thr t).vreg r = 0) ∧
      (u.thr t).ta = {} ∧ (u.thr t).tb = {} ∧ (u.thr t).z0 = {} ∧ (u.thr t).z1 = {} ∧
      (u.thr t).tstart = 0 ∧ (u.thr t).vpos = 0 ∧ (u.thr t).vacc = 0 ∧ (u.thr t).bankS = {} ∧ (u.thr t).bankO = (s.thr t).bankO ∧
      (u.thr t).pg = (s.thr t).pg ∧ (u.thr t).rsp = (s.thr t).bankS.gretRsp.toNat ∧ (u.thr t).pc = (s.thr t).bankS.gretPc ∧
      (u.thr t).world = false ∧ (u.thr t).session = 0 ∧ (u.thr t).level = (s.thr t).bankS.gretStatus.getLsbD 0 ∧
      (u.thr t).ie = (s.thr t).bankS.gretStatus.getLsbD 2 ∧ (u.thr t).el = (s.thr t).bankS.gretStatus.getLsbD 3 ∧
      (∀ k < 4, ∀ w ∈ (u.core (coreOf t)).pipe (tnum t) k, w.committed = true) ∧ (∀ i, i ≠ t → u.thr i = s.thr i) ∧ u.mem = s.mem ∧
      ∀ a, Map.get 0 u.ls a =
        if 0x2000000 * coreOf t + s.rstackBase t + 8 * (s.thr t).bankS.gretRsp.toNat ≤ a ∧
            a < 0x2000000 * coreOf t + s.rstackBase t + 0x4000 then 0 else Map.get 0 s.ls a


/-- R126, R128, R129, R130, R137, R141. -/
def Obligations.InterruptDelivery : Prop :=
  (∀ (s : State) (t : Tid) (pos i : Nat), s.runs t = true → (s.thr t).stopped = false → (s.thr t).walk = none → (s.thr t).pcWait = false →
    (s.thr t).treset = false → (s.thr t).long = none → (∀ op, (s.thr t).blocked = some op → op.leaves = true) →
    lowestBit (s.deliverable t) = some i →
    ∃ u, exec (.interruptEntry t pos) s = .next u ∧ ThreadOnly s u t ∧
      let w := (s.thr t).world
      let b := (s.thr t).bank w
      (u.thr t).bank w = { b with epc := (s.thr t).pc, estatus := (s.thr t).status &&& ~~~ 0x18#64
                                  ecause := BitVec.ofNat 64 (0x20 + i), einfo := 0
                                  ipend := if i = 1 ∧ w = true then b.ipend &&& ~~~ 2#64 else b.ipend } ∧
      (i ≠ 1 ∨ w = true → (u.thr t).bank (!w) = (s.thr t).bank (!w)) ∧
      (u.thr t).pc = b.entry ∧ (u.thr t).world = w ∧ (u.thr t).level = true ∧ (u.thr t).ie = false ∧ (u.thr t).el = true ∧
      (u.thr t).ni = false ∧ (u.thr t).blocked = none ∧ (u.thr t).g = (s.thr t).g ∧ (u.thr t).v = (s.thr t).v ∧
      (u.thr t).rsp = (s.thr t).rsp ∧ (u.thr t).storeQ = (s.thr t).storeQ) ∧
  (∀ (s : State) (t : Tid) (pos : Nat), (s.thr t).ie = false ∨ (s.thr t).el = true ∨ (s.thr t).ni = true →
    exec (.interruptEntry t pos) s = .next s) ∧
  (∀ op : BlockOp, op.leaves = false → (∃ b, op = .bdecl b) ∨ (∃ b, op = .bfree b) ∨ op = .maint ∨
    ∃ inv start sets, op = .scan inv false start sets) ∧
  ∀ (s : State) (t : Tid) (w : Bool), s.clocksOn = true → ((s.thr t).bank w).tcmp ≠ 0 →
    ((s.thr t).bank w).tcmp.toNat ≤ s.clk.sidereal.toNat → ∃ u, exec (.timerInterrupt t w) s = .next u ∧ ThreadOnly s u t ∧
      (u.thr t).bank w = { (s.thr t).bank w with ipend := ((s.thr t).bank w).ipend ||| 0x20 } ∧
      (u.thr t).bank (!w) = (s.thr t).bank (!w) ∧ (u.thr t).pc = (s.thr t).pc ∧ (u.thr t).g = (s.thr t).g ∧
      (s.ipend t w ||| 0x20 = u.ipend t w)

/-- R138, R139. The cycle of issue is the thread's next slot (log entry 6). -/
def Obligations.InterruptWindows : Prop :=
  (∀ (s : State) (t : Tid) (ra : Reg) (c : Nat), s.ready t [ra.val] = true → (s.thr t).level = true → (s.thr t).el = false →
    (s.core (coreOf t)).member = some c → ∃ u, exec (.nibegin t ra) s = .next u ∧ ThreadOnly s u t ∧
      (u.thr t).pc = pcOf ((s.thr t).pc + 4) ∧ OnlyPc { s.thr t with ni := (u.thr t).ni, niEnd := (u.thr t).niEnd } (u.thr t) ∧
      let n := min ((s.thr t).greg ra).toNat (s.con c).niLimit
      if n = 0 ∨ (s.thr t).ni = true then (u.thr t).ni = (s.thr t).ni ∧ (u.thr t).niEnd = (s.thr t).niEnd
      else (u.thr t).ni = true ∧ (u.thr t).niEnd = s.issueCycle t + BitVec.ofNat 64 n) ∧
  (∀ (s : State) (t : Tid), s.ready t [] = true → (s.thr t).level = true → ∃ u, exec (.niend t) s = .next u ∧ ThreadOnly s u t ∧
    (u.thr t).pc = pcOf ((s.thr t).pc + 4) ∧ OnlyPc { s.thr t with ni := false } (u.thr t)) ∧
  (∀ (s : State) (t : Tid) (ra : Reg), s.ready t [ra.val] = true → (s.thr t).el = true → ∃ u, exec (.nibegin t ra) s = .next u ∧
    CountsRefusal s u t 5 0 ∧ (u.thr t).pc = pcOf ((s.thr t).pc + 4) ∧ OnlyPc (s.thr t) (u.thr t)) ∧
  ∀ (s : State) (t : Tid), s.clocksOn = true → (s.thr t).ni = true → ∃ u, exec (.niWindowEnd t) s = .next u ∧ ThreadOnly s u t ∧
    u.thr t = { s.thr t with ni := decide (s.clk.ccycle.toNat < (s.thr t).niEnd.toNat) }

/-- R131, R137, R142. -/
def Obligations.EvictionAndOverrun : Prop :=
  (∀ (s : State) (t : Tid) (p : Word), s.clocksOn = true → (s.thr t).demand = some p → (s.thr t).world = true →
    (s.core (coreOf t)).locked = false → p.toNat + 8192 ≤ s.clk.ccycle.toNat → ∃ u, exec (.eviction t) s = .next u ∧
      (∀ r, (u.thr t).greg r = 0 ∧ (u.thr t).vreg r = 0) ∧ (u.thr t).ta = {} ∧ (u.thr t).tb = {} ∧ (u.thr t).z0 = {} ∧ (u.thr t).z1 = {} ∧
      (u.thr t).tstart = 0 ∧ (u.thr t).vpos = 0 ∧ (u.thr t).vacc = 0 ∧ (u.thr t).bankS = {} ∧ (u.thr t).rsp = (s.thr t).bankS.gretRsp.toNat ∧
      (u.thr t).world = false ∧ (u.thr t).level = true ∧ (u.thr t).session = 0 ∧ (u.thr t).el = true ∧ (u.thr t).ie = false ∧
      (u.thr t).demand = none ∧ (u.thr t).pc = (s.thr t).bankO.entry ∧
      (u.thr t).bankO = { (s.thr t).bankO with epc := (s.thr t).bankS.gretPc, estatus := (s.thr t).bankS.gretStatus &&& ~~~ 0x18#64
                                               ecause := 0x20, einfo := 0 } ∧
      (∀ i, i ≠ t → u.thr i = s.thr i) ∧ u.mem = s.mem ∧
      ∀ a, Map.get 0 u.ls a =
        if 0x2000000 * coreOf t + s.rstackBase t + 8 * (s.thr t).bankS.gretRsp.toNat ≤ a ∧
            a < 0x2000000 * coreOf t + s.rstackBase t + 0x4000 then 0 else Map.get 0 s.ls a) ∧
  (∀ (s : State) (t : Tid) (p : Word), (s.thr t).demand = some p → s.clk.ccycle.toNat < p.toNat + 8192 → exec (.eviction t) s = .next s) ∧
  ∀ (s : State) (t : Tid) (c : Nat), s.clocksOn = true → (s.thr t).el = true → (s.core (coreOf t)).locked = false →
    (s.core (coreOf t)).member = some c → (s.thr t).elSince.toNat + 256 ≤ s.clk.ccycle.toNat →
    ∃ u, exec (.lockupOverrun t) s = .next u ∧ LocksUp s u t 0x0F


/-! ## Pipes, caches and windows -/

namespace Sys2Proof.Claims

/-- The command completes; nothing differs but thread t and its core. -/
structure CoreOnly (s u : State) (t : Tid) : Prop where
  rest : u = { s with threads := u.threads, cores := u.cores }
  threads : ∀ i, i ≠ t → u.thr i = s.thr i
  cores : ∀ n, n ≠ coreOf t → u.core n = s.core n

/-- Pipe words of thread t's core, from thread a to thread b. -/
def pipeOf (s : State) (t : Tid) (a b : Nat) : List PipeWord := (s.core (coreOf t)).pipe a b

/-- Thread t's word v, with its LAST bit, joins the pipe to a peer, a last word commits the open message, and the core's other
pipes stand. -/
def PipeTook (s u : State) (t : Tid) (peer : Nat) (v : Word) (last : Bool) : Prop :=
  (let p := pipeOf s t (t % 4) peer ++ [({ data := v, tag := (s.thr t).tag, committed := false, last } : PipeWord)]
   pipeOf u t (t % 4) peer = if last then p.map fun w : PipeWord => ({ w with committed := true } : PipeWord) else p) ∧
  ∀ a b, a < 4 → b < 4 → ¬ (a = t % 4 ∧ b = peer) → pipeOf u t a b = pipeOf s t a b

end Sys2Proof.Claims

/-- R113 to R117. -/
def Obligations.PipesInOrder : Prop :=
  (∀ (s : State) (t : Tid) (ra : Reg) (peer : Fin 4), s.ready t [ra.val] = true → peer.val ≠ t % 4 →
    ∀ x ∈ [(Instr.pwr t peer ra, false), (.pwrl t peer ra, true)], x.2 = true ∨ txOpen (pipeOf s t (t % 4) peer) < 7 →
    ((pipeOf s t (t % 4) peer).length < 8 → ∃ u, exec x.1 s = .next u ∧ CoreOnly s u t ∧ PipeTook s u t peer ((s.thr t).greg ra) x.2 ∧
      OnlyPc (s.thr t) (u.thr t) ∧ (u.thr t).pc = pcOf ((s.thr t).pc + 4)) ∧
    (8 ≤ (pipeOf s t (t % 4) peer).length → ∃ u, exec x.1 s = .next u ∧ ThreadOnly s u t ∧ (u.thr t).pc = (s.thr t).pc ∧
      OnlyPc { s.thr t with blocked := some (.pwr x.2 peer ((s.thr t).greg ra)) } (u.thr t))) ∧
  (∀ (s : State) (t : Tid) (last : Bool) (peer : Fin 4) (v : Word), s.runs t = true → (s.thr t).stopped = false →
    (s.thr t).blocked = some (.pwr last peer v) → peer.val ≠ t % 4 → (pipeOf s t (t % 4) peer).length < 8 →
    last = true ∨ txOpen (pipeOf s t (t % 4) peer) < 7 → ∃ u, exec (.blockedRetry t) s = .next u ∧ CoreOnly s u t ∧
      PipeTook s u t peer v last ∧ OnlyPc { s.thr t with blocked := none } (u.thr t) ∧ (u.thr t).pc = pcOf ((s.thr t).pc + 4)) ∧
  (∀ (s : State) (t : Tid) (ra : Reg) (peer : Fin 4), s.ready t [ra.val] = true → peer.val ≠ t % 4 →
    7 ≤ txOpen (pipeOf s t (t % 4) peer) → Excepts (.pwr t peer ra) s t 5 0 0 (s.thr t).pc ∧
      ∃ u, exec (.pwr t peer ra) s = .next u ∧ ∀ a b, pipeOf u t a b = pipeOf s t a b) ∧
  (∀ (s : State) (t : Tid) (rd : Reg) (peer : Fin 4) (w : PipeWord) (l : List PipeWord), s.ready t [] = true → peer.val ≠ t % 4 →
    pipeOf s t peer (t % 4) = w :: l → w.committed = true → ∃ u, exec (.prd t rd peer) s = .next u ∧
      OtherG (s.thr t) (u.thr t) rd ∧ OnlyG (s.thr t) (u.thr t) ∧ (u.thr t).pc = pcOf ((s.thr t).pc + 4) ∧ (∀ i, i ≠ t → u.thr i = s.thr i) ∧
      (∀ a b, a < 4 → b < 4 → ¬ (a = peer.val ∧ b = t % 4) → pipeOf u t a b = pipeOf s t a b) ∧
      if w.tag = (s.thr t).tag then (u.thr t).greg rd = (if rd.val = 0 then 0 else w.data) ∧ pipeOf u t peer (t % 4) = l ∧ CoreOnly s u t
      else (u.thr t).greg rd = 0 ∧ pipeOf u t peer (t % 4) = w :: l ∧ CountsRefusal s u t 4 0) ∧
  (∀ (s : State) (t : Tid) (rd : Reg) (peer : Fin 4), s.ready t [] = true → peer.val ≠ t % 4 →
    (pipeOf s t peer (t % 4)).head?.all (fun w => !w.committed) = true →
    ∃ u, exec (.prd t rd peer) s = .next u ∧ ThreadOnly s u t ∧ (u.thr t).pc = (s.thr t).pc ∧
      OnlyPc { s.thr t with blocked := some (.prd rd peer) } (u.thr t)) ∧
  (∀ (s : State) (t : Tid) (rd : Reg) (peer : Fin 4) (w : PipeWord) (l : List PipeWord), s.runs t = true → (s.thr t).stopped = false →
    (s.thr t).blocked = some (.prd rd peer) → peer.val ≠ t % 4 → pipeOf s t peer (t % 4) = w :: l → w.committed = true →
    w.tag = (s.thr t).tag → ∃ u, exec (.blockedRetry t) s = .next u ∧ (u.thr t).blocked = none ∧ OtherG (s.thr t) (u.thr t) rd ∧
      (u.thr t).greg rd = (if rd.val = 0 then 0 else w.data) ∧ pipeOf u t peer (t % 4) = l ∧
      (u.thr t).pc = pcOf ((s.thr t).pc + 4) ∧ CoreOnly s u t) ∧
  (∀ (s : State) (t : Tid) (r : Reg) (peer : Fin 4), peer.val = t % 4 →
    (s.ready t [r.val] = true → ∀ i ∈ [Instr.pwr t peer r, .pwrl t peer r],
      ∃ u, exec i s = .next u ∧ CountsRefusal s u t 4 0 ∧ OnlyPc (s.thr t) (u.thr t) ∧ (u.thr t).pc = pcOf ((s.thr t).pc + 4)) ∧
    (s.ready t [] = true → ∀ i ∈ [Instr.prd t r peer, .ptst t r peer],
      ∃ u, exec i s = .next u ∧ CountsRefusal s u t 4 0 ∧ (u.thr t).greg r = 0 ∧ OtherG (s.thr t) (u.thr t) r ∧
        (u.thr t).pc = pcOf ((s.thr t).pc + 4))) ∧
  ∀ (s : State) (t : Tid) (rd : Reg) (peer : Fin 4), s.ready t [] = true → peer.val ≠ t % 4 →
    (pipeOf s t (t % 4) peer).length ≤ 8 → (pipeOf s t peer (t % 4)).length ≤ 8 →
    let rx := (pipeOf s t peer (t % 4)).filter (·.committed)
    ∃ w, WritesG (.ptst t rd peer) s t rd w ∧ (w.extractLsb' 0 4).toNat = rx.length ∧
      (∀ a x b, rx = a ++ x :: b → (∀ y ∈ a, y.last = false) → x.last = true → (w.extractLsb' 4 4).toNat = a.length + 1) ∧
      (w.extractLsb' 8 4).toNat = 8 - (pipeOf s t (t % 4) peer).length ∧
      (w.extractLsb' 12 4).toNat = ((pipeOf s t (t % 4) peer).filter fun x => !x.committed).length ∧
      w.getLsbD 16 = ((rx.head?.map (·.tag.sealed)).getD false) ∧ w.extractLsb' 17 47 = 0

/-- R111, R112: what each instruction does to the caches, and when it retires. -/
def Obligations.CacheMaintenance : Prop :=
  (∀ (s : State) (t : Tid), s.ready t [] = true → ∃ u, exec (.iinv t) s = .next u ∧ CoreOnly s u t ∧
    u.core (coreOf t) = { s.core (coreOf t) with icache := [] } ∧ OnlyPc (s.thr t) (u.thr t) ∧ (u.thr t).pc = pcOf ((s.thr t).pc + 4)) ∧
  (∀ (s : State) (t : Tid), s.ready t [] = true → ∀ x ∈ [(Instr.cwba t, false), (.cinva t, true)],
    ∃ u, exec x.1 s = .next u ∧ CoreOnly s u t ∧ u.core (coreOf t) = s.core (coreOf t) ∧ (u.thr t).pc = (s.thr t).pc ∧
      OnlyPc { s.thr t with
        blocked := some (.scan x.2 false (if (s.thr t).cachedWaits then none else some s.clk.ccycle) 0) } (u.thr t)) ∧
  (∀ (s : State) (t : Tid) (inv : Bool) (st : Word) (k : Nat), s.runs t = true → (s.thr t).stopped = false →
    (s.thr t).blocked = some (.scan inv false (some st) k) → ∃ u, exec (.blockedRetry t) s = .next u ∧
      let upto := max k (min 128 (s.clk.ccycle.toNat - st.toNat))
      u.ls = s.ls ∧ u.mem = s.mem ∧ (∀ i, (u.thr i).g = (s.thr i).g ∧ (u.thr i).v = (s.thr i).v ∧ (i ≠ t → (u.thr i).pc = (s.thr i).pc)) ∧
      (u.core (coreOf t)).dcache = (if inv then (s.core (coreOf t)).dcache.filter fun l => !(decide (k ≤ l.line % 128) && decide (l.line % 128 < upto))
        else (s.core (coreOf t)).dcache.map fun l : CLine =>
          if k ≤ l.line % 128 ∧ l.line % 128 < upto then ({ l with dirty := 0 } : CLine) else l) ∧
      if upto = 128 ∧ u.wbDone t = true then (u.thr t).pc = pcOf ((s.thr t).pc + 4) ∧ (u.thr t).blocked = none
      else (u.thr t).pc = (s.thr t).pc ∧ (u.thr t).blocked = some (.scan inv false (some st) upto)) ∧
  (∀ (s : State) (t : Tid) (clk : Clock), s.ready t [] = true → (s.thr t).cachedWaits = false → s.wbDone t = true →
    (∀ l ∈ (s.core (coreOf t)).dcache, l.dirty = 0) → clk.rootLock = true → s.clk.ccycle.toNat + 128 ≤ clk.ccycle.toNat →
    ∀ x ∈ [(Instr.cwba t, false), (.cinva t, true)], ∃ u v, exec x.1 s = .next u ∧ exec (.blockedRetry t) { u with clk } = .next v ∧
      (v.thr t).pc = pcOf ((s.thr t).pc + 4) ∧ (v.thr t).blocked = none ∧ (v.thr t).g = (s.thr t).g ∧
      (v.core (coreOf t)).dcache = (if x.2 then [] else (s.core (coreOf t)).dcache) ∧ v.ls = s.ls ∧ v.mem = s.mem) ∧
  (∀ (s : State) (t : Tid), s.runs t = true → (s.thr t).stopped = false → (s.thr t).blocked = some .maint → s.wbDone t = true →
    ∃ u, exec (.blockedRetry t) s = .next u ∧ (u.thr t).blocked = none ∧ (u.thr t).pc = pcOf ((s.thr t).pc + 4) ∧
      (u.thr t).g = (s.thr t).g ∧ ThreadOnly s u t) ∧
  (∀ (s : State) (t : Tid) (ra : Reg) (pg : PgReg), s.ready t [ra.val] = true →
    (ownOffset (coreOf t) ((s.thr t).eaA ra pg) ≠ none ∨ isCtl ((s.thr t).eaA ra pg) = true) →
    GoesTo (.cwb t ra pg) s t (pcOf ((s.thr t).pc + 4)) ∧ GoesTo (.cinv t ra pg) s t (pcOf ((s.thr t).pc + 4))) ∧
  ∀ (s : State) (t : Tid) (ra : Reg) (pg : PgReg) (c pa : Nat) (tag : Tag) (cache : Bool) (w : WCached), s.ready t [ra.val] = true →
    let a := (s.thr t).eaA ra pg
    let n := coreOf t
    ownOffset n a = none → isCtl a = false → (s.core n).member = some c → s.tableOk c = true → s.cachedEntry n c a = some w →
    useEntry w.raw (s.thr t).tag {} a = .ok pa tag cache → ownOffset n pa = none →
    (s.homeNode c pa = none → ∀ i ∈ [Instr.cwb t ra pg, .cinv t ra pg], ∃ u, exec i s = .next u ∧
      u.keeper.violPkg = (if s.keeper.violPkg = BitVec.allOnes 48 then s.keeper.violPkg else s.keeper.violPkg + 1) ∧
      (u.core n).dcache = (s.core n).dcache ∧ OnlyPc (s.thr t) (u.thr t) ∧ (u.thr t).pc = pcOf ((s.thr t).pc + 4)) ∧
    (s.homeNode c pa ≠ none → ∃ u v, exec (.cwb t ra pg) s = .next u ∧ exec (.cinv t ra pg) s = .next v ∧
      (∀ x ∈ [u, v], x.ls = s.ls ∧ x.mem = s.mem ∧ (x.thr t).g = (s.thr t).g ∧
        ((∀ l ∈ (s.core n).dcache, l.line = pa / 64 → l.tag = tag → l.dirty = 0) → (x.thr t).pc = pcOf ((s.thr t).pc + 4))) ∧
      (∀ l ∈ (u.core n).dcache, l.line = pa / 64 → l.tag = tag → l.dirty = 0) ∧
      (∀ l ∈ (v.core n).dcache, ¬ (l.line = pa / 64 ∧ l.tag = tag)) ∧
      ∀ l, ¬ (l.line = pa / 64 ∧ l.tag = tag) →
        ((l ∈ (u.core n).dcache ↔ l ∈ (s.core n).dcache) ∧ (l ∈ (v.core n).dcache ↔ l ∈ (s.core n).dcache)))


/-! ## Atomics, packets and the mesh -/

namespace Sys2Proof.Claims

/-- The new word of each atomic operation (R291), from the old word, g[RB] and g[RD]. -/
def atomResult : AtomOp → Word → Word → Word → Word
  | .swap, _, b, _ => b
  | .cas, w, b, c => if w = c then b else w
  | .fadd, w, b, _ => BitVec.ofNat 64 (w.toNat + b.toNat)
  | .fand, w, b, _ => w &&& b
  | .forA, w, b, _ => w ||| b
  | .fxor, w, b, _ => w ^^^ b
  | .fmax, w, b, _ => BitVec.ofInt 64 (max w.toInt b.toInt)
  | .fmin, w, b, _ => BitVec.ofInt 64 (min w.toInt b.toInt)
  | .fmaxu, w, b, _ => BitVec.ofNat 64 (max w.toNat b.toNat)
  | .fminu, w, b, _ => BitVec.ofNat 64 (min w.toNat b.toNat)
  | .aload, w, _, _ => w

/-- The atomic instructions that return the old word. -/
def atomOps' : List ((Tid → Reg → Reg → Reg → PgReg → Instr) × AtomOp) := [
  (.swap, .swap), (.cas, .cas), (.fadd, .fadd), (.fand, .fand), (.forA, .forA), (.fxor, .fxor), (.fmax, .fmax), (.fmin, .fmin),
  (.fmaxu, .fmaxu), (.fminu, .fminu), (fun t rd ra _ pg => .aload t rd ra pg, .aload)]

/-- Every byte of the local stores but those of one half reads as before. -/
def OtherHalves (s u : State) (n h : Nat) : Prop :=
  u.mem = s.mem ∧ ∀ a, ¬ (0x2000000 * n + 64 * h ≤ a ∧ a < 0x2000000 * n + 64 * h + 64) → Map.get 0 u.ls a = Map.get 0 s.ls a

/-- Packet p is the oldest request for its sub-store at member core n, as the i-th that waits there, the core has not
been cleared since its check, and neither the packet nor the row has a bad symbol. -/
def AtCore (s : State) (n i : Nat) (p : Packet) : Prop :=
  s.clocksOn = true ∧ n < 0x480 ∧ (s.inb n)[i]? = some p ∧ p.control = false ∧
    s.p7Head n (subStore (p.line * 64 % 0x2000000)) = some i ∧ (s.core n).member ≠ none ∧ (s.core n).clears = p.epoch ∧
    p.bad = 0 ∧ s.rowBad n (p.line * 64 % 0x2000000 / 128) = 0

/-- The node answers packet p: one packet more waits there for injection, addressed to p's source with its stream and
sequence number. -/
def Answers (s u : State) (n : Nat) (p : Packet) (typ : PType) (data : Line) : Prop :=
  ∃ a, u.outb n = s.outb n ++ [a] ∧ a.typ = typ ∧ a.data = data ∧ a.dst = p.src ∧ a.thread = p.thread ∧ a.stream = p.stream ∧ a.seq = p.seq

end Sys2Proof.Claims

/-- R98, R110, R263, R267, R291, R292. -/
def Obligations.AtomicIssue : Prop :=
  (∀ p ∈ atomOps', ∀ (s : State) (t : Tid) (rd ra rb : Reg) (pg : PgReg) (off : Nat),
    s.ready t ([ra.val, (if p.2 = .aload then 0 else rb).val] ++ if p.2 = .cas then [rd.val] else []) = true → coreOf t < s.member.cores →
    (s.thr t).eaA ra pg % 8 = 0 → ownOffset (coreOf t) ((s.thr t).eaA ra pg) = some off → s.ownOkAt t false off true = true →
    s.conflict t ((s.thr t).eaA ra pg / 64) = false → (∀ l ∈ (s.core (coreOf t)).dcache, l.line ≠ (s.thr t).eaA ra pg / 64) →
    (s.core (coreOf t)).waitQ = [] → (s.core (coreOf t)).injQ.length < 16 → (s.thr t).outstanding 0 < 4096 →
    ((s.core (coreOf t)).outst.all fun o => o.line != (s.thr t).eaA ra pg / 64) = true →
    ∃ u q o, exec (p.1 t rd ra rb pg) s = .next u ∧ (u.core (coreOf t)).injQ = (s.core (coreOf t)).injQ ++ [q] ∧
      (u.core (coreOf t)).outst = (s.core (coreOf t)).outst ++ [o] ∧ q.typ = .atom ∧ q.op = p.2 ∧ q.line = (s.thr t).eaA ra pg / 64 ∧
      q.word = (s.thr t).eaA ra pg % 64 / 8 ∧ q.opnd = (s.thr t).greg (if p.2 = .aload then 0 else rb) ∧ q.cmp = (s.thr t).greg rd ∧
      q.tag = (s.thr t).tag ∧ q.dst = coreOf t ∧ q.src = coreOf t ∧ q.seq = (Map.get 0 (s.thr t).issued 0).setWidth 16 ∧ o.seq = q.seq ∧
      (∃ d, o.use = .atomOld t d ∧ (rd.val ≠ 0 → d = .g rd (s.thr t).nextId)) ∧
      Map.get 0 (u.thr t).issued 0 = Map.get 0 (s.thr t).issued 0 + 1 ∧ OtherG (s.thr t) (u.thr t) rd ∧
      (u.thr t).pc = pcOf ((s.thr t).pc + 4) ∧ u.ls = s.ls ∧ u.mem = s.mem ∧ ∀ i, i ≠ t → u.thr i = s.thr i) ∧
  (∀ p ∈ [(Instr.addn32, false), (.addn64, true)], ∀ (s : State) (t : Tid) (ra rb : Reg) (pg : PgReg) (rtag : Fin 8) (off c : Nat),
    s.ready t [ra.val, rb.val] = true → coreOf t < s.member.cores → (s.core (coreOf t)).member = some c → (s.thr t).world = false →
    (s.thr t).eaA ra pg % 8 = 0 → ownOffset (coreOf t) ((s.thr t).eaA ra pg) = some off → s.ownOkAt t false off true = true →
    s.conflict t ((s.thr t).eaA ra pg / 64) = false → (∀ l ∈ (s.core (coreOf t)).dcache, l.line ≠ (s.thr t).eaA ra pg / 64) →
    ∃ u q, exec (p.1 t ra rb pg rtag) s = .next u ∧ (u.thr t).storeQ = (s.thr t).storeQ ++ [.packet q] ∧ q.typ = .add ∧ q.wide = p.2 ∧
      q.rtag = rtag.val ∧ q.cid = c ∧ q.cnt = 1 ∧ q.line = (s.thr t).eaA ra pg / 64 ∧ q.first = (s.thr t).eaA ra pg % 64 ∧
      lineNat q.data q.first 8 = ((s.thr t).greg rb).toNat ∧ (∀ r, (u.thr t).greg r = (s.thr t).greg r) ∧
      (u.thr t).pc = pcOf ((s.thr t).pc + 4) ∧ ThreadOnly s u t) ∧
  (∀ (s : State) (t : Tid) (rd ra rb : Reg) (pg : PgReg) (rtag : Fin 8) (off : Nat),
    (s.thr t).eaA ra pg % 8 = 0 → ownOffset (coreOf t) ((s.thr t).eaA ra pg) = some off → s.ownOkAt t false off true = false →
    s.conflict t ((s.thr t).eaA ra pg / 64) = false →
    (∀ p ∈ atomOps', s.ready t ([ra.val, (if p.2 = .aload then 0 else rb).val] ++ if p.2 = .cas then [rd.val] else []) = true →
      ∃ u, exec (p.1 t rd ra rb pg) s = .next u ∧ CountsRefusal s u t 2 (BitVec.ofNat 64 ((s.thr t).eaA ra pg)) ∧
        OtherG (s.thr t) (u.thr t) rd ∧ (u.thr t).pc = pcOf ((s.thr t).pc + 4)) ∧
    ∀ f ∈ [Instr.addn32, .addn64], s.ready t [ra.val, rb.val] = true →
      ∃ u, exec (f t ra rb pg rtag) s = .next u ∧ CountsRefusal s u t 2 (BitVec.ofNat 64 ((s.thr t).eaA ra pg)) ∧
        OnlyPc (s.thr t) (u.thr t) ∧ (u.thr t).pc = pcOf ((s.thr t).pc + 4)) ∧
  ∀ p ∈ atomOps', ∀ (s : State) (t : Tid) (rd ra rb : Reg) (pg : PgReg),
    s.ready t ([ra.val, (if p.2 = .aload then 0 else rb).val] ++ if p.2 = .cas then [rd.val] else []) = true →
    (s.thr t).eaA ra pg % 8 ≠ 0 →
    (∀ k, s.stalls t { kind := k, addr := (s.thr t).eaA ra pg } = false) →
    Excepts (p.1 t rd ra rb pg) s t 2 3 (BitVec.ofNat 64 ((s.thr t).eaA ra pg)) (s.thr t).pc

/-- R150, R157, R158, R262, R267, R269, R291. -/
def Obligations.HomeRequests : Prop :=
  (∀ (s : State) (n i : Nat) (p : Packet), AtCore s n i p → ∀ h, h = p.line * 64 % 0x2000000 / 64 →
    (p.typ = .rd → ∃ u, exec (.rdAtHome n i 0) s = .next u ∧ u.inb n = dropAt (s.inb n) i ∧ u.ls = s.ls ∧ u.mem = s.mem ∧
      if mayRead p.tag (s.halfTag n h) then Answers s u n p .rdata (s.half n h) ∧ u.keeper = s.keeper
      else Answers s u n p .rdata 0 ∧ (s.keeper.violPkg ≠ BitVec.allOnes 48 → u.keeper.violPkg = s.keeper.violPkg + 1)) ∧
    (p.typ = .wr → p.first ≤ p.last → p.last < 64 → ∃ u, exec (.wrAtHome n i 0) s = .next u ∧ u.inb n = dropAt (s.inb n) i ∧
      Answers s u n p .wack 0 ∧ u.halfTag n h = p.tag ∧ OtherHalves s u n h ∧
      ∀ k < 64, lineByte (u.half n h) k =
        if p.first ≤ k ∧ k ≤ p.last then lineByte p.data k else if s.halfTag n h = p.tag then lineByte (s.half n h) k else 0) ∧
    (p.typ = .atom → p.word < 8 → s.halfTag n h = p.tag → ∃ u, exec (.atomAtHome n i 0) s = .next u ∧ u.inb n = dropAt (s.inb n) i ∧
      OtherHalves s u n h ∧ u.halfTag n h = p.tag ∧
      let old : Word := BitVec.ofNat 64 (lineNat (s.half n h) (8 * p.word) 8)
      (∃ a, u.outb n = s.outb n ++ [a] ∧ a.typ = .atomr ∧ a.dst = p.src ∧ a.seq = p.seq ∧ lineNat a.data 0 8 = old.toNat) ∧
      ∀ w < 8, lineNat (u.half n h) (8 * w) 8 =
        if w = p.word then (atomResult p.op old p.opnd p.cmp).toNat else lineNat (s.half n h) (8 * w) 8) ∧
    (p.typ = .atom → s.halfTag n h ≠ p.tag → ∃ u, exec (.atomAtHome n i 0) s = .next u ∧ Answers s u n p .atomr 0 ∧ u.ls = s.ls ∧
      (s.keeper.violPkg ≠ BitVec.allOnes 48 → u.keeper.violPkg = s.keeper.violPkg + 1)) ∧
    (p.typ = .add → s.halfTag n h = p.tag → p.first % 8 = 0 → p.last % 8 = 7 → p.last < 64 → ∃ u, exec (.addAtHome n i 0) s = .next u ∧ u.inb n = dropAt (s.inb n) i ∧
      u.outb n = s.outb n ∧ OtherHalves s u n h ∧
      Map.get 0 (u.core n).rcount (8 * p.cid + p.rtag) = Map.get 0 (s.core n).rcount (8 * p.cid + p.rtag) + BitVec.ofNat 32 p.cnt ∧
      let w := if p.wide then 8 else 4
      ∀ k < 64 / w, lineNat (u.half n h) (w * k) w =
        if p.first ≤ w * k ∧ w * k ≤ p.last then (lineNat (s.half n h) (w * k) w + lineNat p.data (w * k) w) % 2 ^ (8 * w)
        else lineNat (s.half n h) (w * k) w)) ∧
  ∀ (s : State) (n i : Nat) (p : Packet), AtCore s n i p → ∀ sub : Fin 8, sub.val = subStore (p.line * 64 % 0x2000000) →
    (p.typ = .rd → exec (.p7InboundPerform n sub 0) s = exec (.rdAtHome n i 0) s) ∧
    (p.typ = .wr → exec (.p7InboundPerform n sub 0) s = exec (.wrAtHome n i 0) s) ∧
    (p.typ = .atom → exec (.p7InboundPerform n sub 0) s = exec (.atomAtHome n i 0) s) ∧
    (p.typ = .add → exec (.p7InboundPerform n sub 0) s = exec (.addAtHome n i 0) s)

/-- R108, R263, for a core with no packet that waits to be presented. A fill may send the write-backs of the line it replaces. -/
def Obligations.AnswersComplete : Prop :=
  (∀ (s : State) (n i j : Nat) (p : Packet) (o : Outst), s.clocksOn = true → (s.inb n)[i]? = some p → s.findOutst n p = some (j, o) →
    (s.core n).waitQ = [] → o.thread < 4 → p.bad = 0 → let t := 4 * n + o.thread
    (∀ x id k, o.use = .engine x id k → x = t) →
    (∀ x ∈ [(Instr.rdataArrive n i 0, PType.rdata), (.atomrArrive n i 0, .atomr), (.wackArrive n i, .wack)], p.typ = x.2 →
      ∃ u, exec x.1 s = .next u ∧ u.inb n = dropAt (s.inb n) i ∧
        ((∀ y d off size sx, o.use ≠ .fill y d off size sx) → (u.core n).outst = dropAt (s.core n).outst j) ∧
        Map.get 0 (u.thr t).done o.stream = Map.get 0 (s.thr t).done o.stream + 1 ∧ u.ls = s.ls ∧ u.mem = s.mem ∧
        ∀ y, y ≠ t → u.thr y = s.thr y) ∧
    (p.typ = .rdata → ∀ x rd id off size sx, o.use = .load x (.g rd id) off size sx ∨ o.use = .fill x (.g rd id) off size sx →
      rd.val ≠ 0 → Map.get 0 (s.thr t).busy rd.val = id →
      ∃ u, exec (.rdataArrive n i 0) s = .next u ∧ (u.thr t).greg rd = loadValue size sx (lineNat p.data off size) ∧
        Map.get 0 (u.thr t).busy rd.val = 0 ∧ OtherG (s.thr t) (u.thr t) rd) ∧
    (p.typ = .rdata → ∀ x d off size sx, o.use = .fill x d off size sx → p.refused = false →
      ∃ u, exec (.rdataArrive n i 0) s = .next u ∧ ∃ l ∈ (u.core n).dcache, l.line = o.line ∧ l.tag = o.tag) ∧
    (p.typ = .atomr → ∀ x rd id, o.use = .atomOld x (.g rd id) → rd.val ≠ 0 → Map.get 0 (s.thr t).busy rd.val = id →
      ∃ u, exec (.atomrArrive n i 0) s = .next u ∧ (u.thr t).greg rd = BitVec.ofNat 64 (lineNat p.data 0 8) ∧
        Map.get 0 (u.thr t).busy rd.val = 0 ∧ OtherG (s.thr t) (u.thr t) rd) ∧
    (p.typ = .rdata → ∀ k off l, o.use = .copyRead k off l → ∃ u, exec (.rdataArrive n i 0) s = .next u ∧
      ((u.core n).chan k).bursts = ((s.core n).chan k).bursts.map fun b =>
        if b.off = off then { b with waits := b.waits - 1, got := Map.set 0 b.got l p.data } else b) ∧
    (p.typ = .rdata → ∀ x id k l, o.use = .engine x id k → (s.thr t).long = some l → l.id = id →
      ∃ u, exec (.rdataArrive n i 0) s = .next u ∧
        (u.thr t).long = some { l with got := Map.set 0 l.got (2 * k) p.data, owed := l.owed.erase k }) ∧
    (p.typ = .wack → ∀ k off, o.use = .copyWrite k off → ∃ u, exec (.wackArrive n i) s = .next u ∧
      ((u.core n).chan k).bursts = ((s.core n).chan k).bursts.map fun b => if b.off = off then { b with waits := b.waits - 1 } else b) ∧
    (p.typ = .wack → (∀ x d off size sx, o.use ≠ .fill x d off size sx ∧ o.use ≠ .load x d off size sx) → (∀ x d, o.use ≠ .atomOld x d) →
      ∃ u, exec (.wackArrive n i) s = .next u ∧ (u.thr t).g = (s.thr t).g ∧ (u.thr t).v = (s.thr t).v)) ∧
  ∀ (s : State) (n i : Nat) (p : Packet), s.clocksOn = true → (s.inb n)[i]? = some p → s.findOutst n p = none →
    ∀ x ∈ [(Instr.rdataArrive n i 0, PType.rdata), (.atomrArrive n i 0, .atomr), (.wackArrive n i, .wack)], p.typ = x.2 →
      exec x.1 s = .next (s.setInb n (dropAt (s.inb n) i))

/-- R255, R257, R273. A core with a packet that waits to be presented presents it as its queue drains; the second clause
is about a core with none. -/
def Obligations.InjectionAndLimits : Prop :=
  (∀ (s : State) (node pl : Nat) (p : Packet) (l : List Packet), s.clocksOn = true → s.outb node = p :: l →
    let r := s.routerOf node p.line
    (s.freePlanes r.1 r.2.1 r.2.2).head? = some pl →
    exec (.inject node) s =
      .next { s.setOutb node l with
        flits := s.flits ++ [{ pkt := { p with injected := s.fab }, plane := pl, x := r.1, y := r.2.1, due := s.fab }]
        injAt := Map.set 0 s.injAt (s.injKey r.1 r.2.1 r.2.2 pl) (s.fab + 1) }) ∧
  (∀ (s : State) (n pl : Nat) (p : Packet) (l : List Packet), s.clocksOn = true → n < s.member.cores → s.outb n = [] →
    (s.core n).injQ = p :: l → (s.core n).waitQ = [] → (s.core n).throttled = false →
    let r := s.member.xy n
    (s.freePlanes r.1 r.2 0).head? = some pl →
    ∃ u, exec (.inject n) s = .next u ∧ (u.core n).injQ = l ∧
      u.flits = s.flits ++ [{ pkt := { p with injected := s.fab }, plane := pl, x := r.1, y := r.2, due := s.fab }] ∧
      Map.get 0 (u.core n).lastInj pl = s.fab + 1 ∧ (∀ m, m ≠ n → u.core m = s.core m) ∧
      u = { s with cores := u.cores, flits := u.flits, injAt := u.injAt } ∧ pl ∉ u.freePlanes r.1 r.2 0) ∧
  (∀ (s : State) (n : Nat), s.clocksOn = true → s.outb n = [] → (s.core n).throttled = true →
    (∀ pl < 4, Map.get 0 (s.core n).lastInj pl ≠ 0 ∧ s.fab < Map.get 0 (s.core n).lastInj pl + 7) → exec (.inject n) s = .next s) ∧
  (∀ (s : State) (n : Nat), (s.core n).evalAt ≠ 0 → s.fab < (s.core n).evalAt + 63 →
    exec (.injectionThrottleEval n) s = .next s) ∧
  (∀ (s : State) (n c : Nat), s.clocksOn = true → (s.core n).member = some c →
    ((s.core n).evalAt = 0 ∨ (s.core n).evalAt + 63 ≤ s.fab) →
    let full := (s.con c).injOcc ≤ (s.core n).injQ.length
    let k := ((s.core n).deflCycles.filter fun f => s.fab < f + 64).length
    let d := (s.con c).deflLimit
    ∃ u, exec (.injectionThrottleEval n) s = .next u ∧ u = { s with cores := u.cores } ∧ (∀ m, m ≠ n → u.core m = s.core m) ∧
      u.core n = { s.core n with
        evalAt := s.fab + 1, throttled := (u.core n).throttled, throttleEvents := (u.core n).throttleEvents } ∧
      ((u.core n).throttled = true ↔ full ∨ (if (s.core n).throttled then max 1 (d / 2) ≤ k else d ≤ k)) ∧
      (u.core n).throttleEvents = if (u.core n).throttled ∧ (s.core n).throttled = false then (s.core n).throttleEvents + 1
        else (s.core n).throttleEvents) ∧
  (∀ (s : State) (acc : Accessor) (c : Nat) (v : Word), s.clocksOn = true → c < 32 →
    (acc = .keeper ∧ s.firmware = true ∨ ∃ t, acc = .thread t ∧ s.isSup t c = true) →
    let d := (v.extractLsb' 8 7).toNat
    let i := (v.extractLsb' 0 5).toNat
    exec (.meshLimitsWrite acc c v) s = .next (s.modCon c fun x => { x with
      deflLimit := if 1 ≤ d ∧ d ≤ 64 then d else x.deflLimit, injOcc := if 1 ≤ i ∧ i ≤ 16 then i else x.injOcc })) ∧
  (∀ (s : State) (t c : Nat) (v : Word), s.clocksOn = true → c < 32 → s.isSup t c = false →
    ∃ u, exec (.meshLimitsWrite (.thread t) c v) s = .next u ∧ CountsRefusal s u t 5 (BitVec.ofNat 64 (0xF000400000000 + 8 * c)) ∧
      u.threads = s.threads) ∧
  ∀ (s : State) (d : Nat), s.clocksOn = true → s.firmware = true → d < s.member.dies →
    exec (.meshClearTraffic d) s = .next (s.modDie d fun x => { x with deflections := 0, combines := 0 }) ∧
    exec (.meshClearStatus d) s = .next (s.modDie d fun x => { x with late := 0, hdrDropped := 0, hdrCorrected := 0 })

namespace Sys2Proof.Claims

/-- The flits that are not at the router input (x, y) of a plane. -/
def elsewhere (s : State) (plane x y : Nat) : List Flit := s.flits.filter fun f => !(f.plane == plane && f.x == x && f.y == y)

/-- A router cycle changes only flits, the inboxes and the counters of the dies. -/
def RouterOnly (s u : State) : Prop := u = { s with flits := u.flits, inbox := u.inbox, dies := u.dies }

/-- A flit that has moved to the neighbour in a direction: 2 fabric cycles later, and 4 more across a seam between dies. -/
def movedTo (s : State) (f : Flit) (o : Nat) (pkt : Packet) : Flit :=
  let n := (s.member.out f.x f.y o).getD (f.x, f.y)
  { f with pkt, x := n.1, y := n.2, due := f.due + if f.x / 12 ≠ n.1 / 12 ∨ f.y / 12 ≠ n.2 / 12 then 6 else 2 }

/-- The packet of a flit as it leaves the mesh, with its place in ingress order. -/
def ejected (s : State) (f : Flit) : Packet := { f.pkt with came := (s.fab * 64 + f.x) * 4 + f.plane }

end Sys2Proof.Claims

/-- R247, R251–R253, R258, R261, R268, R270, R439: what one cycle does with one flit or two. -/
def Obligations.RouterCycle : Prop :=
  ∀ (s : State) (plane : Fin 4) (x y : Nat) (f : Flit), s.clocksOn = true → s.failed = [] →
    let d := s.member.dieOf (y * s.member.width + x)
    (s.flitsAt plane.val x y = [f] → s.fab ≤ f.due → exec (.flitHop plane x y []) s = .next s) ∧
    (s.flitsAt plane.val x y = [f] → f.due < s.fab →
      (f.pkt.dx = x → f.pkt.dy = y → s.accepts f.pkt plane.val = true → ¬ (0xD00 ≤ f.pkt.dst ∧ f.pkt.dst < 0xE00) →
        ∃ u, exec (.flitHop plane x y []) s = .next u ∧ u.flits = elsewhere s plane.val x y ∧ RouterOnly s u ∧
          u.inb f.pkt.dst = (if 0x800 ≤ f.pkt.dst ∧ f.pkt.dst < 0xC00 then ingress (ejected s f) (s.inb f.pkt.dst)
            else s.inb f.pkt.dst ++ [ejected s f]) ∧ ∀ n, n ≠ f.pkt.dst → u.inb n = s.inb n) ∧
      (∀ o, (productive f.pkt x y).head? = some o → (s.member.out x y o).isSome = true →
        ∃ u, exec (.flitHop plane x y []) s = .next u ∧ u.flits = elsewhere s plane.val x y ++ [movedTo s f o f.pkt] ∧
          RouterOnly s u ∧ u.inbox = s.inbox ∧ ∀ k, (u.die k).deflections = (s.die k).deflections) ∧
      (∀ o, f.pkt.dx = x → f.pkt.dy = y → s.accepts f.pkt plane.val = false →
        ((List.range 4).find? fun o => (s.member.out x y o).isSome) = some o →
        ∃ u, exec (.flitHop plane x y []) s = .next u ∧ u.flits = elsewhere s plane.val x y ++ [movedTo s f o f.pkt] ∧
          u.inbox = s.inbox ∧ (u.die d).deflections = (s.die d).deflections + 1) ∧
      (∀ b ∈ [2, 3], ∃ u, exec (.flitHop plane x y [b]) s = .next u ∧ u.flits = elsewhere s plane.val x y ∧ u.inbox = s.inbox ∧
        (u.die d).hdrDropped = min 65535 ((s.die d).hdrDropped + 1) ∧ u.keeper.pkgCount = s.keeper.pkgCount + 1 ∧
        u.ls = s.ls ∧ u.mem = s.mem) ∧
      (∃ u, exec (.flitHop plane x y [0]) s = .next u ∧ u.flits = elsewhere s plane.val x y ∧ RouterOnly s u ∧ u.inbox = s.inbox ∧
        (u.die d).hdrDropped = min 65535 ((s.die d).hdrDropped + 1)) ∧
      (∃ u v, exec (.flitHop plane x y [1]) s = .next u ∧ exec (.flitHop plane x y []) s = .next v ∧ u.flits = v.flits ∧
        u.inbox = v.inbox ∧ (u.die d).hdrCorrected = min 65535 ((s.die d).hdrCorrected + 1)) ∧
      exec (.flitHop plane x y []) { s with failed := [.router x y] } =
        .next { s with failed := [.router x y], flits := elsewhere s plane.val x y }) ∧
    ∀ g : Flit, s.flitsAt plane.val x y = [f, g] ∨ s.flitsAt plane.val x y = [g, f] → s.rank f.pkt < s.rank g.pkt →
      f.due < s.fab → g.due < s.fab →
      (∀ o, f.pkt.dx = x → f.pkt.dy = y → g.pkt.dx = x → g.pkt.dy = y → f.pkt.dport = g.pkt.dport → f.pkt.typ ≠ g.pkt.typ →
        s.accepts f.pkt plane.val = true → ¬ (0x800 ≤ f.pkt.dst ∧ f.pkt.dst < 0xC00) → ¬ (0xD00 ≤ f.pkt.dst ∧ f.pkt.dst < 0xE00) →
        ((List.range 4).find? fun o => (s.member.out x y o).isSome) = some o →
        ∃ u, exec (.flitHop plane x y []) s = .next u ∧ u.inb f.pkt.dst = s.inb f.pkt.dst ++ [ejected s f] ∧
          u.flits = elsewhere s plane.val x y ++ [movedTo s g o g.pkt]) ∧
      ∀ o, f.pkt.typ = .add → g.pkt.typ = .add → f.pkt.bad = 0 → g.pkt.bad = 0 → f.pkt.line = g.pkt.line → f.pkt.dx = g.pkt.dx →
        f.pkt.dy = g.pkt.dy → f.pkt.dport = g.pkt.dport → f.pkt.rtag = g.pkt.rtag → f.pkt.cid = g.pkt.cid → f.pkt.wide = g.pkt.wide →
        f.pkt.cnt + g.pkt.cnt ≤ 8191 → (productive f.pkt x y).head? = some o → (s.member.out x y o).isSome = true →
        ∃ u p, exec (.flitHop plane x y []) s = .next u ∧ u.flits = elsewhere s plane.val x y ++ [movedTo s f o p] ∧
          p = { f.pkt with cnt := f.pkt.cnt + g.pkt.cnt, first := min f.pkt.first g.pkt.first, last := max f.pkt.last g.pkt.last
                           injected := min f.pkt.injected g.pkt.injected, data := p.data } ∧
          (let w := if f.pkt.wide then 8 else 4
           ∀ k < 64 / w, lineNat p.data (w * k) w = (lineNat f.pkt.data (w * k) w + lineNat g.pkt.data (w * k) w) % 2 ^ (8 * w)) ∧
          (u.die d).combines = (s.die d).combines + 1

namespace Sys2Proof.Claims

/-- The core's walks of its engines have started again. -/
def WalksAgain (a b : Core) : Prop :=
  b.walks.map (·.1) = a.walks.map (·.1) ∧ ∀ p ∈ b.walks, p.2.nextLine = 0 ∧ p.2.got = [] ∧ p.2.failed = false

end Sys2Proof.Claims

/-- R348–R350, R354. `r` is the line as its home answers, and the state with the slot and the faults of its read. -/
def Obligations.WindowTables : Prop :=
  (∀ (s : State) (n : Nat) (b : Fin 64) (k : Fin 8) (t : Tid) (c : Nat) (w : Walk), s.clocksOn = true → b.val < 4 → t = 4 * n + b.val →
    (s.core n).member = some c → (s.thr t).walk = some w → w.nextLine + k.val < s.tableLines c →
    w.got.lookup (w.nextLine + k.val) = none →
    let r := s.tableLine c (w.nextLine + k.val)
    r.2.tableOk c = true → w.nextLine < r.2.tableLines c →
    (k.val ≠ 0 → w.got.lookup w.nextLine = none → exec (.walkLineReturn n b k) s =
      .next (r.2.modThr t fun th => { th with walk := some { w with got := (w.nextLine + k.val, r.1) :: w.got } })) ∧
    (k.val = 0 → w.got = [] → r.2.matchIn c w.nextLine r.1 w.acc.addr = none → w.nextLine + 1 < r.2.tableLines c →
      exec (.walkLineReturn n b k) s =
        .next (r.2.modThr t fun th => { th with walk := some { w with nextLine := w.nextLine + 1 } })) ∧
    (k.val = 0 → w.got = [] → r.2.matchIn c w.nextLine r.1 w.acc.addr = none → r.2.tableLines c ≤ w.nextLine + 1 →
      ∀ size v, w.acc.kind = .store size v → ∃ u, exec (.walkLineReturn n b k) s = .next u ∧
        CountsRefusal r.2 u t 1 (BitVec.ofNat 64 w.acc.addr) ∧ OnlyPc { s.thr t with walk := none } (u.thr t) ∧
        (u.thr t).pc = pcOf ((s.thr t).pc + 4)) ∧
    ∀ e size sx rd pa tag node l, k.val = 0 → w.got = [] → r.2.matchIn c w.nextLine r.1 w.acc.addr = some e →
      w.acc.kind = .load size sx rd → s.conflict t (entryLine e.raw w.acc.addr) = false →
      useEntry e.raw (s.thr t).tag { r := true } w.acc.addr = .ok pa tag true → ownOffset n pa = none →
      r.2.homeNode c pa = some node → (s.core n).cached (pa / 64) tag = some l →
      ∃ u, exec (.walkLineReturn n b k) s = .next u ∧ (u.core n).wcache.head? = some e ∧ (u.thr t).walk = none ∧
        (u.thr t).greg rd = (if rd.val = 0 then 0 else loadValue size sx (lineNat l.data (pa % 64) size)) ∧
        OtherG (s.thr t) (u.thr t) rd ∧ (u.thr t).pc = pcOf ((s.thr t).pc + 4) ∧ u.ls = s.ls ∧ u.mem = s.mem ∧
        ∀ i, i ≠ t → u.thr i = s.thr i) ∧
  (∀ (s : State) (n : Nat) (b : Fin 64) (c : Nat) (w : Walk) (e : WCached), s.clocksOn = true → 4 ≤ b.val →
    (s.core n).member = some c → Map.find (s.core n).walks (b.val - 4) = some w → w.got = [] → w.nextLine < s.tableLines c →
    let r := s.tableLine c w.nextLine
    r.2.tableOk c = true → w.nextLine < r.2.tableLines c → r.2.matchIn c w.nextLine r.1 w.acc.addr = some e →
    ∃ u, exec (.walkLineReturn n b 0) s = .next u ∧ (u.core n).wcache.head? = some e ∧
      (u.core n).walks = Map.drop (s.core n).walks (b.val - 4) ∧ u.threads = s.threads ∧ u.ls = s.ls ∧ u.mem = s.mem) ∧
  (∀ (s : State) (t : Tid) (c : Nat) (v : Word), s.clocksOn = true → c < 32 → s.isSup t c = true →
    (∀ i ∈ [Instr.wtbaseWrite (.thread t) c v, .wtcountWrite (.thread t) c v, .winvAll (.thread t) c],
      ∃ u, exec i s = .next u ∧ u = { s with cores := u.cores, threads := u.threads, cons := u.cons } ∧
        (∀ n ∈ s.members c, u.core n = { s.core n with wcache := [], walks := (u.core n).walks } ∧ WalksAgain (s.core n) (u.core n)) ∧
        (∀ n, n ∉ s.members c → u.core n = s.core n) ∧
        (∀ x, ∃ k, u.thr x = { s.thr x with walk := k } ∧ (coreOf x ∈ s.members c → ∀ w, k = some w → w.nextLine = 0 ∧ w.got = []) ∧
          (coreOf x ∉ s.members c → k = (s.thr x).walk) ∧ k.isSome = (s.thr x).walk.isSome)) ∧
    (∀ u, exec (.wtbaseWrite (.thread t) c v) s = .next u → ∀ k, u.con k = if k = c then { s.con c with wtbase := v &&& 0xFFFFFFFFFFFFF } else s.con k) ∧
    (∀ u, exec (.wtcountWrite (.thread t) c v) s = .next u → ∀ k, u.con k = if k = c then { s.con c with wtcount := v &&& 0x7FF } else s.con k) ∧
    (∀ u, exec (.winvAll (.thread t) c) s = .next u → u.cons = s.cons) ∧
    ∀ e < 1024, ∃ u, exec (.winvEntry (.thread t) c e) s = .next u ∧ u = { s with cores := u.cores, threads := u.threads } ∧
      (∀ n ∈ s.members c, u.core n = { s.core n with
        wcache := (s.core n).wcache.filter fun w => w.index != e, walks := (u.core n).walks } ∧ WalksAgain (s.core n) (u.core n)) ∧
      ∀ n, n ∉ s.members c → u.core n = s.core n) ∧
  ∀ (s : State) (c : Nat) (p : Packet), s.clocksOn = true → (s.con c).winv = [p] →
    ∃ u, exec (.winvDone c) s = .next u ∧ (u.con c).winv = [] ∧ Answers s u nodeControl p .wack 0

/-- R9, R12, R25, R30, R119, R266, R272, R427, R442. -/
def Obligations.RegisterAccess : Prop :=
  (∀ (s : State) (t : Tid) (a v : Word), s.clocksOn = true → a.toNat % 8 = 0 → s.ctlMay (.thread t) a.toNat true = false →
    ∃ u, exec (.registerWrite (.thread t) a v) s = .next u ∧ CountsRefusal s u t 5 a ∧ u.threads = s.threads) ∧
  (∀ (s : State) (t : Tid) (n c k : Nat) (v : Word), s.clocksOn = true → n < s.member.cores → (s.core n).member ≠ none → c < 32 → k < 8 →
    s.isSup t c = true →
    exec (.registerWrite (.thread t) (BitVec.ofNat 64 (0xF000000000000 + 0x10000 * n + 0x1000 + 64 * c + 8 * k)) v) s =
      .next (s.modCore n fun x => { x with rcount := Map.set 0 x.rcount (8 * c + k) (v.setWidth 32) })) ∧
  (∀ (s : State) (t : Tid) (c : Nat) (v : Word), s.clocksOn = true → c < 32 → s.isSup t c = true →
    (∃ u, exec (.registerWrite (.thread t) (BitVec.ofNat 64 (0xF000E00000000 + 32 * c)) v) s = .next u ∧ u = { s with cons := u.cons } ∧
      (∀ i, u.con i = if i = c then { s.con c with faultBits := (u.con c).faultBits } else s.con i) ∧
      ∀ k < 15, (u.con c).faultBits.getLsbD k =
        ((s.con c).faultBits.getLsbD k && (!v.getLsbD k || s.hwAt == s.clk.ccycle && s.hwSet.contains (.fault c k)))) ∧
    (v.getLsbD 0 = true → (s.con c).faultLateAt ≠ s.clk.ccycle →
      exec (.registerWrite (.thread t) (BitVec.ofNat 64 (0xF000E00000008 + 32 * c)) v) s = .next (s.modCon c fun x => { x with
        faultValid := false, faultClass := 0, faultNode := 0, faultSealed := false, faultAddr := 0, faultTime := 0 }))) ∧
  (∀ (s : State) (acc : Accessor) (n c : Nat), s.clocksOn = true → n < s.member.cores → (s.core n).member = some c →
    (acc = .keeper ∧ s.firmware = true ∨ ∃ t, acc = .thread t ∧ s.isSup t c = true) → (s.core n).foe.lateAt ≠ s.clk.ccycle →
    exec (.foeValidClear acc n) s =
      .next (s.modCore n fun x => { x with foe := { x.foe with valid := false, addr := 0, time := 0 } })) ∧
  (∀ (s : State) (v : Word), s.hostSees 0 = true → s.ideBroken 0 = false → (s.func 0).flr = false →
    (s.keeper.boot = .waiting → exec (.registerWrite (.host 0) 0x10 v) s =
      .next { s with keeper := { s.keeper with bootLen := (v.extractLsb' 0 25).toNat } }) ∧
    (s.keeper.boot ≠ .waiting → exec (.registerWrite (.host 0) 0x10 v) s = .next (s.refuseAccessor (.host 0) 0x10))) ∧
  ∀ (s : State) (i c : Nat) (p : Packet), s.clocksOn = true → (s.inb nodeControl)[i]? = some p → p.control = true → c < 32 →
    p.word < 8 → p.line * 64 + 8 * p.word = 0xF000400000000 + 8 * c → s.ctlFirst nodeControl i p = true →
    (p.typ = .rd → ∃ u a, exec (.controlAccess nodeControl i) s = .next u ∧ u.inb nodeControl = dropAt (s.inb nodeControl) i ∧
      u.outb nodeControl = s.outb nodeControl ++ [a] ∧ a.typ = .rdata ∧ a.dst = p.src ∧ a.seq = p.seq ∧
      lineNat a.data (8 * p.word) 8 = (s.con c).deflLimit % 128 * 256 + (s.con c).injOcc % 32 ∧ u.cons = s.cons) ∧
    (p.typ = .wr → ∃ u, exec (.controlAccess nodeControl i) s = .next u ∧ u.inb nodeControl = dropAt (s.inb nodeControl) i ∧
      Answers s u nodeControl p .wack 0 ∧
      let d := (p.opnd.extractLsb' 8 7).toNat
      let k := (p.opnd.extractLsb' 0 5).toNat
      ∀ x, u.con x = if x = c then { s.con c with
        deflLimit := if 1 ≤ d ∧ d ≤ 64 then d else (s.con c).deflLimit, injOcc := if 1 ≤ k ∧ k ≤ 16 then k else (s.con c).injOcc }
        else s.con x)

/-! ## Fences, waits and rings -/

namespace Sys2Proof.Claims

/-- What a fence waits for has happened: the thread's store queue and its items are empty, its write items are
performed, stream 0 is answered, and no packet of it waits to be presented (R283). -/
structure Drained (s : State) (t : Tid) : Prop where
  queue : (s.thr t).storeQ = [] ∧ (s.thr t).p4 = []
  items : ∀ e ∈ (s.thr t).gather, e.dirty = 0
  stream : (s.thr t).outstanding 0 = 0
  sent : s.unsent t 0 = 0

/-- Nothing of stream k of thread t is unanswered, waits to be presented or stands in the store queue. -/
def Quiet (s : State) (t : Tid) (k : Nat) : Prop :=
  Map.get 0 (s.thr t).issued k = Map.get 0 (s.thr t).done k ∧ s.unsent t k = 0 ∧ (s.thr t).queuedPackets k = 0

/-- The command leaves the thread blocked in its instruction, at its PC, and changes nothing else. -/
def Blocks (i : Instr) (s : State) (t : Tid) (op : BlockOp) : Prop :=
  ∃ u, exec i s = .next u ∧ ThreadOnly s u t ∧ OnlyPc { s.thr t with blocked := some op } (u.thr t) ∧ (u.thr t).pc = (s.thr t).pc

end Sys2Proof.Claims

/-- R156, R282, R283, R285. -/
def Obligations.FencesAndWaits : Prop :=
  (∀ (s : State) (t : Tid), s.ready t [] = true → Drained s t → ∃ u, exec (.fence t) s = .next u ∧ ThreadOnly s u t ∧
    OnlyPc { s.thr t with gather := [] } (u.thr t) ∧ (u.thr t).pc = pcOf ((s.thr t).pc + 4)) ∧
  (∀ (s : State) (t : Tid), s.ready t [] = true → ¬ Drained s t → ∃ u, exec (.fence t) s = .next u ∧ ThreadOnly s u t ∧
    OnlyPc { s.thr t with blocked := some .fence, gather := if s.writesDone t then [] else (s.thr t).gather } (u.thr t) ∧
    (u.thr t).pc = (s.thr t).pc) ∧
  (∀ (s : State) (t : Tid), s.runs t = true → (s.thr t).stopped = false → (s.thr t).blocked = some .fence →
    Drained s t → ∃ u, exec (.blockedRetry t) s = .next u ∧ ThreadOnly s u t ∧
      OnlyPc { s.thr t with gather := [], blocked := none } (u.thr t) ∧ (u.thr t).pc = pcOf ((s.thr t).pc + 4)) ∧
  (∀ (s : State) (t : Tid), s.ready t [] = true → ∀ x ∈ [(Instr.fencer t, false), (.fencea t, true)],
    ∃ u, exec x.1 s = .next u ∧ CoreOnly s u t ∧ u.core (coreOf t) = s.core (coreOf t) ∧ (u.thr t).pc = (s.thr t).pc ∧
      OnlyPc { s.thr t with
        blocked := some (.scan x.2 true (if (s.thr t).cachedWaits then none else some s.clk.ccycle) 0) } (u.thr t)) ∧
  (∀ (s : State) (t : Tid) (inv : Bool) (st : Word) (k : Nat), s.runs t = true → (s.thr t).stopped = false →
    (s.thr t).blocked = some (.scan inv true (some st) k) → ∃ u, exec (.blockedRetry t) s = .next u ∧
      let upto := max k (min 128 (s.clk.ccycle.toNat - st.toNat))
      (u.core (coreOf t)).dcache = (if inv then (s.core (coreOf t)).dcache.filter fun l => !(decide (k ≤ l.line % 128) && decide (l.line % 128 < upto))
        else (s.core (coreOf t)).dcache.map fun l : CLine =>
          if k ≤ l.line % 128 ∧ l.line % 128 < upto then ({ l with dirty := 0 } : CLine) else l) ∧
      u.ls = s.ls ∧ u.mem = s.mem ∧
      if upto = 128 ∧ u.wbDone t = true then
        if u.fenceDone t then (u.thr t).pc = pcOf ((s.thr t).pc + 4) ∧ (u.thr t).blocked = none
        else (u.thr t).pc = (s.thr t).pc ∧ (u.thr t).blocked = some .fence
      else (u.thr t).pc = (s.thr t).pc ∧ (u.thr t).blocked = some (.scan inv true (some st) upto)) ∧
  (∀ (s : State) (t : Tid) (clk : Clock), s.ready t [] = true → (s.thr t).stopped = false → Drained s t → s.wbDone t = true →
    (∀ l ∈ (s.core (coreOf t)).dcache, l.dirty = 0) → clk.rootLock = true → s.clk.ccycle.toNat + 128 ≤ clk.ccycle.toNat →
    ∀ x ∈ [(Instr.fencer t, false), (.fencea t, true)], ∃ u v, exec x.1 s = .next u ∧ exec (.blockedRetry t) { u with clk } = .next v ∧
      OnlyPc { s.thr t with gather := [] } (v.thr t) ∧ (v.thr t).pc = pcOf ((s.thr t).pc + 4) ∧
      (v.core (coreOf t)).dcache = (if x.2 then [] else (s.core (coreOf t)).dcache) ∧ (∀ n, n ≠ coreOf t → v.core n = s.core n) ∧
      (∀ i, i ≠ t → v.thr i = s.thr i) ∧ v.ls = s.ls ∧ v.mem = s.mem) ∧
  (∀ (s : State) (t : Tid) (ra : Reg) (k : Fin 16), s.ready t [ra.val] = true →
    let n := ((s.thr t).greg ra).toNat
    let met := n ≠ 0 ∧ (4096 ≤ n ∨ (s.thr t).outstanding k ≤ n) ∨ n = 0 ∧ Quiet s t k
    (met → GoesTo (.cwait t ra k) s t (pcOf ((s.thr t).pc + 4))) ∧
    (¬ met → Blocks (.cwait t ra k) s t (.cwait k ((s.thr t).greg ra)))) ∧
  (∀ (s : State) (t : Tid), s.ready t [] = true →
    ((∀ k : Fin 16, Quiet s t k) → GoesTo (.cwaita t) s t (pcOf ((s.thr t).pc + 4))) ∧
    ((∃ k : Fin 16, ¬ Quiet s t k) → Blocks (.cwaita t) s t .cwaita)) ∧
  ∀ (s : State) (t : Tid) (rd : Reg) (k : Fin 16), s.ready t [] = true →
    ∃ w, WritesG (.crd t rd k) s t rd w ∧ w.extractLsb' 32 32 = Map.get 0 (s.thr t).issued k.val ∧ w.extractLsb' 0 32 = Map.get 0 (s.thr t).done k.val

namespace Sys2Proof.Claims

/-- The slots of two states differ in the state of one half only. -/
def SlotTo (s u : State) (n h st : Nat) : Prop :=
  u.slotSt n h = st ∧ ∀ m k, k < 2 ^ 19 → ¬ (m = n ∧ k = h) → u.slotSt m k = s.slotSt m k

/-- Nothing differs but thread t, its core and slot states; of the core only the ring's pointers. -/
structure RingOnly (s u : State) (t : Tid) (r : Nat) : Prop where
  rest : u = { s with threads := u.threads, cores := u.cores, lsSlot := u.lsSlot }
  threads : ∀ i, i ≠ t → u.thr i = s.thr i
  core : ∀ n, u.core n = if n = coreOf t then { s.core n with rings := (u.core n).rings } else s.core n
  rings : ∀ k, k ≠ r → u.ring (coreOf t) k = s.ring (coreOf t) k
  regs : (u.ring (coreOf t) r).base = (s.ring (coreOf t) r).base ∧ (u.ring (coreOf t) r).size = (s.ring (coreOf t) r).size

/-- The push of a line to ring r is accepted: the slot at TAIL is filling, TAIL has advanced, and the transfer is an item
of thread t. -/
def Pushed (s u : State) (t : Tid) (r : Nat) (d : Line) : Prop :=
  let n := coreOf t
  let h := s.ringHalf n r (s.ring n r).tail
  RingOnly s u t r ∧ SlotTo s u n h 1 ∧ (u.ring n r).tail = ((s.ring n r).tail + 1) % (s.ring n r).size ∧
    (u.ring n r).head = (s.ring n r).head ∧ (u.thr t).pc = pcOf ((s.thr t).pc + 4) ∧
    ∃ it, (u.thr t).p4 = (s.thr t).p4 ++ [it] ∧ it.kind = .ringPush h d ∧ it.line = h / 2 ∧ it.tag = (s.thr t).tag

/-- The pop of ring r is accepted: the slot at HEAD is draining, HEAD has advanced, and the transfer is an item of thread
t that delivers to dst. -/
def Popped (s u : State) (t : Tid) (r : Nat) (dst : Dst) : Prop :=
  let n := coreOf t
  let h := s.ringHalf n r (s.ring n r).head
  RingOnly s u t r ∧ SlotTo s u n h 3 ∧ (u.ring n r).head = ((s.ring n r).head + 1) % (s.ring n r).size ∧
    (u.ring n r).tail = (s.ring n r).tail ∧ (u.thr t).pc = pcOf ((s.thr t).pc + 4) ∧
    ∃ it, (u.thr t).p4 = (s.thr t).p4 ++ [it] ∧ it.kind = .ringPop h dst ∧ it.line = h / 2

/-- The status word of a ring whose fields agree and whose size is not zero (R165). -/
def IsRingStatus (s : State) (n r : Nat) (done : Bool) (w : Word) : Prop :=
  let tail := s.slotSt n (s.ringHalf n r (s.ring n r).tail)
  let head := s.slotSt n (s.ringHalf n r (s.ring n r).head)
  w.getLsbD 0 = true ∧ w.getLsbD 1 = decide (head ≠ 2) ∧ w.getLsbD 2 = decide (tail ≠ 0) ∧ w.getLsbD 3 = false ∧
    w.getLsbD 4 = done ∧ w.extractLsb' 5 3 = 0 ∧ (w.extractLsb' 8 2).toNat = head ∧ (w.extractLsb' 10 2).toNat = tail ∧
    w.extractLsb' 12 52 = 0

/-- A push instruction, its non-blocking form, the register that it reads, and the line that it pushes. -/
structure RingPush where
  op : Instr
  test : Instr
  reg : Nat
  data : Line

/-- The pushes of v[a] and of g[a] to ring r. -/
def ringPushes (s : State) (t : Tid) (r : Fin 16) (a rd : Reg) : List RingPush := [
  { op := .rpush t r a, test := .rtpush t rd r a, reg := 32 + a.val, data := (s.thr t).vreg a },
  { op := .rpushg t r a, test := .rtpushg t rd r a, reg := a.val, data := ((s.thr t).greg a).setWidth 512 }]

/-- A pop instruction, its non-blocking form, and where its data goes. -/
structure RingPop where
  op : Instr
  test : Instr
  toV : Bool
  dst : Dst

/-- The pops of ring r to v[d] and to g[d]. -/
def ringPops (s : State) (t : Tid) (r : Fin 16) (d rd : Reg) : List RingPop := [
  { op := .rpop t d r, test := .rtpop t rd r d, toV := true, dst := .v d (s.thr t).nextId },
  { op := .rpopg t d r, test := .rtpopg t rd r d, toV := false
    dst := if d.val = 0 then .nowhere else .g d (s.thr t).nextId }]

end Sys2Proof.Claims

/-- R158, R164–R167. -/
def Obligations.RingTransfers : Prop :=
  (∀ (s : State) (t : Tid) (r : Fin 16) (a rd : Reg), ∀ p ∈ ringPushes s t r a rd, s.ready t [p.reg] = true →
    let n := coreOf t
    let st := s.slotSt n (s.ringHalf n r (s.ring n r).tail)
    let head := s.slotSt n (s.ringHalf n r (s.ring n r).head)
    (s.ringOk n r = true → (s.ring n r).size ≠ 0 →
      (st = 0 → (∃ u, exec p.op s = .next u ∧ Pushed s u t r p.data ∧ (u.thr t).g = (s.thr t).g) ∧
        (head < 4 → ∃ u w, exec p.test s = .next u ∧ Pushed s u t r p.data ∧ IsRingStatus s n r true w ∧
          (u.thr t).greg rd = (if rd.val = 0 then 0 else w) ∧ OtherG (s.thr t) (u.thr t) rd)) ∧
      (st = 1 ∨ st = 2 ∨ st = 3 → Blocks p.op s t (.rpush r p.data) ∧
        (head < 4 → ∃ w, WritesG p.test s t rd w ∧ IsRingStatus s n r false w))) ∧
    (s.ringOk n r = true → (s.ring n r).size = 0 → GoesTo p.op s t (pcOf ((s.thr t).pc + 4)) ∧ WritesG p.test s t rd 11) ∧
    (s.ringOk n r = false →
      (∃ u, exec p.op s = .next u ∧ CountsRefusal s u t 6 0 ∧ OnlyPc (s.thr t) (u.thr t) ∧ (u.thr t).pc = pcOf ((s.thr t).pc + 4)) ∧
      ∃ u, exec p.test s = .next u ∧ CountsRefusal s u t 6 0 ∧ (u.thr t).greg rd = 0 ∧ OtherG (s.thr t) (u.thr t) rd ∧
        (u.thr t).pc = pcOf ((s.thr t).pc + 4))) ∧
  (∀ (s : State) (t : Tid) (r : Fin 16) (d rd : Reg), s.ready t [] = true → ∀ p ∈ ringPops s t r d rd,
    let n := coreOf t
    let h := s.ringHalf n r (s.ring n r).head
    let st := s.slotSt n h
    let tail := s.slotSt n (s.ringHalf n r (s.ring n r).tail)
    let zero (u : State) : Prop := if p.toV then (u.thr t).vreg d = 0 else (u.thr t).greg d = 0
    (s.ringOk n r = true → (s.ring n r).size ≠ 0 → mayRead (s.thr t).tag (s.halfTag n h) = true →
      (st = 2 → (∃ u, exec p.op s = .next u ∧ Popped s u t r p.dst) ∧
        (tail < 4 → ∃ u w, exec p.test s = .next u ∧ Popped s u t r p.dst ∧ IsRingStatus s n r true w ∧
          (u.thr t).greg rd = (if rd.val = 0 then 0 else w))) ∧
      (st = 0 ∨ st = 1 ∨ st = 3 → Blocks p.op s t (.rpop r p.toV d) ∧
        (tail < 4 → ∃ u w, exec p.test s = .next u ∧ ThreadOnly s u t ∧ IsRingStatus s n r false w ∧ zero u ∧
          (p.toV = true ∨ d ≠ rd → (u.thr t).greg rd = (if rd.val = 0 then 0 else w)) ∧ (u.thr t).pc = pcOf ((s.thr t).pc + 4)))) ∧
    (s.ringOk n r = true → (s.ring n r).size = 0 → ∀ i ∈ [p.op, p.test], ∃ u, exec i s = .next u ∧ ThreadOnly s u t ∧ zero u ∧
      (u.thr t).pc = pcOf ((s.thr t).pc + 4)) ∧
    (s.ringOk n r = false ∨ (s.ring n r).size ≠ 0 ∧ mayRead (s.thr t).tag (s.halfTag n h) = false → ∀ i ∈ [p.op, p.test],
      ∃ u, exec i s = .next u ∧ CountsRefusal s u t 6 0 ∧ zero u ∧ (i = p.test → (u.thr t).greg rd = 0) ∧
        (u.thr t).pc = pcOf ((s.thr t).pc + 4))) ∧
  (∀ (s : State) (t : Tid) (r : Fin 16), s.runs t = true → (s.thr t).stopped = false → s.ringOk (coreOf t) r = true →
    (s.ring (coreOf t) r).size ≠ 0 → (s.thr t).storeQ.length + (s.thr t).p4.length < 8 →
    (∀ d, (s.thr t).blocked = some (.rpush r d) → s.slotSt (coreOf t) (s.ringHalf (coreOf t) r (s.ring (coreOf t) r).tail) = 0 →
      ∃ u, exec (.blockedRetry t) s = .next u ∧ Pushed s u t r d ∧ (u.thr t).blocked = none) ∧
    ∀ d rd, ∀ p ∈ ringPops s t r d rd, (s.thr t).blocked = some (.rpop r p.toV d) →
      s.slotSt (coreOf t) (s.ringHalf (coreOf t) r (s.ring (coreOf t) r).head) = 2 →
      mayRead (s.thr t).tag (s.halfTag (coreOf t) (s.ringHalf (coreOf t) r (s.ring (coreOf t) r).head)) = true →
      ∃ u, exec (.blockedRetry t) s = .next u ∧ Popped s u t r p.dst ∧ (u.thr t).blocked = none) ∧
  ∀ (s : State) (t : Tid) (it : P4Item) (h : Nat), s.clocksOn = true → (s.thr t).p4 = [it] → (s.thr t).gather = [] →
    it.line = h / 2 → h < 2 ^ 19 → s.rowBad (coreOf t) it.line = 0 → ∀ sub : Fin 8, sub.val = it.line % 8 →
    (∀ d, it.kind = .ringPush h d → ∃ u, exec (.p4ItemPerform t sub 0) s = .next u ∧ u.half (coreOf t) h = d ∧
      u.halfTag (coreOf t) h = it.tag ∧ SlotTo s u (coreOf t) h 2 ∧ OtherHalves s u (coreOf t) h ∧ (u.thr t).p4 = [] ∧ (u.thr t).g = (s.thr t).g) ∧
    (∀ vd id, it.kind = .ringPop h (.v vd id) → Map.get 0 (s.thr t).busy (32 + vd.val) = id →
      ∃ u, exec (.p4ItemPerform t sub 0) s = .next u ∧ SlotTo s u (coreOf t) h 0 ∧ u.ls = s.ls ∧ (u.thr t).p4 = [] ∧ (u.thr t).g = (s.thr t).g ∧
        if mayRead it.tag (s.halfTag (coreOf t) h) then (u.thr t).vreg vd = s.half (coreOf t) h
        else (u.thr t).vreg vd = 0 ∧ (s.keeper.violPkg ≠ BitVec.allOnes 48 → u.keeper.violPkg = s.keeper.violPkg + 1)) ∧
    ∀ rd id, it.kind = .ringPop h (.g rd id) → rd.val ≠ 0 → Map.get 0 (s.thr t).busy rd.val = id →
      ∃ u, exec (.p4ItemPerform t sub 0) s = .next u ∧ SlotTo s u (coreOf t) h 0 ∧ u.ls = s.ls ∧ OtherG (s.thr t) (u.thr t) rd ∧
        if mayRead it.tag (s.halfTag (coreOf t) h) then ((u.thr t).greg rd).toNat = lineNat (s.half (coreOf t) h) 0 8
        else (u.thr t).greg rd = 0

/-- R161, R162, R163, R165, R167, R169. -/
def Obligations.RingRegisters : Prop :=
  (∀ n r, State.reset.ring n r = { base := 0, size := 0, head := 0, tail := 0 }) ∧
  (∀ (s : State) (t : Tid) (rd : Reg) (r : Fin 16) (f : Fin 4), s.ready t [] = true →
    let g := s.ring (coreOf t) r
    WritesG (.rrd t rd r f) s t rd (match f with
      | 0 => g.base
      | 1 => BitVec.ofNat 64 g.size
      | 2 => BitVec.ofNat 64 g.head
      | 3 => BitVec.ofNat 64 g.tail)) ∧
  (∀ (s : State) (t : Tid) (r : Fin 16) (ra : Reg), s.ready t [ra.val] = true →
    let v := (s.thr t).greg ra
    let g := s.ring (coreOf t) r
    let x := (v.extractLsb' 0 20).toNat
    ∀ p ∈ [(Instr.rwbase t r ra, { g with base := v &&& 0xFFFFFFFFFFFC0 }), (.rwsize t r ra, { g with size := x }),
           (.rwhead t r ra, { g with head := x }), (.rwtail t r ra, { g with tail := x })],
    (t % 4 = r.val / 4 ∨ (s.thr t).world = false ∧ (s.thr t).level = true →
      ∃ u, exec p.1 s = .next u ∧ CoreOnly s u t ∧ u.ring (coreOf t) r = p.2 ∧
        (∀ k, k ≠ r.val → u.ring (coreOf t) k = s.ring (coreOf t) k) ∧
        u.core (coreOf t) = { s.core (coreOf t) with rings := (u.core (coreOf t)).rings } ∧
        OnlyPc (s.thr t) (u.thr t) ∧ (u.thr t).pc = pcOf ((s.thr t).pc + 4)) ∧
    (t % 4 ≠ r.val / 4 → ((s.thr t).world = true ∨ (s.thr t).level = false) →
      ∃ u, exec p.1 s = .next u ∧ CountsRefusal s u t 6 0 ∧ OnlyPc (s.thr t) (u.thr t) ∧ (u.thr t).pc = pcOf ((s.thr t).pc + 4))) ∧
  (∀ (s : State) (t : Tid) (rd : Reg) (r : Fin 16), s.ready t [] = true →
    (s.ringOk (coreOf t) r = true → (s.ring (coreOf t) r).size ≠ 0 → (∀ h, s.slotSt (coreOf t) h < 4) →
      ∃ w, WritesG (.rstat t rd r) s t rd w ∧ IsRingStatus s (coreOf t) r false w) ∧
    (s.ringOk (coreOf t) r = true → (s.ring (coreOf t) r).size = 0 → WritesG (.rstat t rd r) s t rd 11) ∧
    (s.ringOk (coreOf t) r = false → ∃ u, exec (.rstat t rd r) s = .next u ∧ CountsRefusal s u t 6 0 ∧ (u.thr t).greg rd = 0 ∧
      OtherG (s.thr t) (u.thr t) rd ∧ (u.thr t).pc = pcOf ((s.thr t).pc + 4))) ∧
  (∀ (s : State) (t : Tid) (r : Fin 16),
    let n := coreOf t
    let first := s.ringHalf n r 0
    let size := (s.ring n r).size
    let writer := t % 4 = r.val / 4 ∨ (s.thr t).world = false ∧ (s.thr t).level = true
    let quiet := ∀ h, first ≤ h → h < first + size → s.slotSt n h = 0 ∨ s.slotSt n h = 2
    let cleared (u : State) : Prop := RingOnly s u t r ∧ (u.ring n r).head = 0 ∧ (u.ring n r).tail = 0 ∧
      (∀ h, u.slotSt n h = if first ≤ h ∧ h < first + size then 0 else s.slotSt n h) ∧ (u.thr t).pc = pcOf ((s.thr t).pc + 4)
    (s.ready t [] = true → s.ringOk n r = true → writer →
      (quiet → s.memOk = true → ∃ u, exec (.rclr t r) s = .next u ∧ cleared u) ∧
      ((∃ h, first ≤ h ∧ h < first + size ∧ (s.slotSt n h = 1 ∨ s.slotSt n h = 3)) → Blocks (.rclr t r) s t (.rclr r))) ∧
    (s.runs t = true → (s.thr t).stopped = false → (s.thr t).blocked = some (.rclr r) → s.ringOk n r = true → writer → quiet →
      s.memOk = true → ∃ u, exec (.blockedRetry t) s = .next u ∧ cleared u ∧ (u.thr t).blocked = none) ∧
    (s.ready t [] = true → s.ringOk n r = false ∨ ¬ writer → ∃ u, exec (.rclr t r) s = .next u ∧ CountsRefusal s u t 6 0 ∧
      OnlyPc (s.thr t) (u.thr t) ∧ (u.thr t).pc = pcOf ((s.thr t).pc + 4))) ∧
  ∀ (s : State) (n : Nat) (sub : Fin 8), s.clocksOn = true → (s.core n).member ≠ none →
    ∀ i ∈ [Instr.scrubSlot n sub 0, .scrubForced n sub 0],
      (i = .scrubSlot n sub 0 → s.p7Head n sub = none) →
      (i = .scrubForced n sub 0 → Map.get 0 (s.core n).scrubLast sub + 4096 ≤ s.clk.ccycle.toNat / 8) →
      ∃ u, exec i s = .next u ∧ u.ls = s.ls ∧ u.lsTag = s.lsTag ∧ u.mem = s.mem ∧ u.threads = s.threads ∧
        (∀ m, m ≠ n → u.core m = s.core m) ∧ Map.get 0 (u.core n).scrubLast sub = s.clk.ccycle.toNat / 8 ∧
        let k := Map.get 0 (s.core n).scrubRow sub
        let q := Map.get [] (s.core n).scrubQ sub
        let row := q.headD (8 * k + sub)
        Map.get [] (u.core n).scrubQ sub = q.tail ∧ Map.get 0 (u.core n).scrubRow sub = (if q = [] then (k + 1) % 28672 else k) ∧
        u.rowBad n row = s.rowBad n row &&& 15 ∧ (∀ x, x ≠ 2 ^ 18 * n + row → Map.get 0 u.lsBad x = Map.get 0 s.lsBad x) ∧
        u.keeper.pkgCount = s.keeper.pkgCount + BitVec.ofNat 32 ((List.range 4).filter fun b => (s.rowBad n row).getLsbD b).length

/-! ## The matrix unit -/

namespace Sys2Proof.Claims

/-- The instruction waits for its engine with the operands read at its issue, and blocks its thread at its PC. -/
def IssuesLong (i : Instr) (s : State) (t : Tid) (op : LongOp) : Prop :=
  ∃ u, exec i s = .next u ∧ ThreadOnly s u t ∧ OnlyPc { s.thr t with long := some { op, id := (s.thr t).nextId }, nextId := (s.thr t).nextId + 1 } (u.thr t) ∧ (u.thr t).pc = (s.thr t).pc

/-- The exception TILE at issue, with WHY: cause 6 at the instruction's PC, and no tile and no queue entry changes. -/
def TileFaults (i : Instr) (s : State) (t : Tid) (why : BitVec 4) : Prop :=
  (s.thr t).el = false → ∃ u, exec i s = .next u ∧ (u.thr t).why = why ∧ ((u.thr t).bank (s.thr t).world).ecause = 6 ∧
    ((u.thr t).bank (s.thr t).world).epc = (s.thr t).pc ∧ (u.thr t).pc = ((s.thr t).bank (s.thr t).world).entry ∧
    (u.thr t).unitQ = (s.thr t).unitQ ∧ (u.thr t).ta = (s.thr t).ta ∧ (u.thr t).tb = (s.thr t).tb ∧ (u.thr t).z0 = (s.thr t).z0 ∧
    (u.thr t).z1 = (s.thr t).z1 ∧ (u.thr t).g = (s.thr t).g ∧ u.ls = s.ls ∧ u.mem = s.mem

/-- A unit instruction enters the queue: the thread is past it (8 bytes), and only its queue and one tile change. -/
def Enqueues (i : Instr) (s : State) (t : Tid) (op : UnitOp) (th : Thread) : Prop :=
  ∃ u, exec i s = .next u ∧ ThreadOnly s u t ∧ (u.thr t).pc = pcOf ((s.thr t).pc + 8) ∧
    OnlyPc { th with unitQ := (s.thr t).unitQ ++ [{ op, tag := (s.thr t).tag }] } (u.thr t)

end Sys2Proof.Claims

/-- R171, R174, R180–R182, R187, R190, R195. -/
def Obligations.MatrixIssue : Prop :=
  (∀ (s : State) (t : Tid) (ra rb rc : Reg) (pg pgb : PgReg) (r1 b1 r2 b2 : Fin 64), (s.ready t [ra.val, rc.val] = true →
      IssuesLong (.tlda t ra rc pg r1 b1) s t (.tld true false ((s.thr t).greg ra).toNat 0 ((s.thr t).greg rc).toNat
        ((s.thr t).pgreg pg.val).toNat 0 (r1.val + 1) (b1.val + 1) 0 0) ∧
      IssuesLong (.tldb t ra rc pg r1 b1) s t (.tld false true 0 ((s.thr t).greg ra).toNat ((s.thr t).greg rc).toNat
        0 ((s.thr t).pgreg pg.val).toNat 0 0 (r1.val + 1) (b1.val + 1))) ∧
    (s.ready t [ra.val, rb.val, rc.val] = true →
      IssuesLong (.tldab t ra rb rc pg r1 b1 pgb r2 b2) s t (.tld true true ((s.thr t).greg ra).toNat ((s.thr t).greg rb).toNat
        ((s.thr t).greg rc).toNat ((s.thr t).pgreg pg.val).toNat ((s.thr t).pgreg pgb.val).toNat
        (r1.val + 1) (b1.val + 1) (r2.val + 1) (b2.val + 1)) ∧
      ∀ (src tgt : Fin 16) (mode : Bool), 1 ≤ src.val ∧ src.val ≤ 5 → tgt.val ≤ 3 →
        IssuesLong (.range t ra rb rc pg pgb src tgt mode) s t
          (.range ((s.thr t).eaA ra pg) ((s.thr t).eaA rc pgb) (((s.thr t).greg rb).toNat % 2 ^ 24) src tgt mode)) ∧
    (s.ready t [ra.val, rb.val, rc.val] = true → ∀ (src tgt : Fin 16) (mode : Bool), src.val = 0 ∨ 5 < src.val ∨ 3 < tgt.val →
      Excepts (.range t ra rb rc pg pgb src tgt mode) s t 1 0 0 (s.thr t).pc)) ∧
  (∀ (s : State) (t : Tid) (z : Fin 2) (ra rb rc : Reg) (pg : PgReg) (fmt : Fin 8) (sc bi cl sr : Bool) (vs : Fin 4),
    s.ready t ([ra.val, rb.val, rc.val] ++ tstSrcs sc bi vs) = true →
    (5 < fmt.val → Excepts (.tst t z ra rb rc pg fmt sc bi cl sr vs) s t 1 0 0 (s.thr t).pc) ∧
    (fmt.val ≤ 5 → ((s.thr t).acc z).st = 2 → IssuesLong (.tst t z ra rb rc pg fmt sc bi cl sr vs) s t
      (.tst z ((s.thr t).pgreg pg.val).toNat ((s.thr t).greg ra).toNat ((s.thr t).greg rc).toNat fmt sc bi cl sr vs
        (((s.thr t).greg rb).extractLsb' 0 32) (((s.thr t).greg rb).extractLsb' 32 32))) ∧
    (fmt.val ≤ 5 → ((s.thr t).acc z).st ≠ 2 → TileFaults (.tst t z ra rb rc pg fmt sc bi cl sr vs) s t 7)) ∧
  (∀ (s : State) (t : Tid) (ra : Reg) (pg : PgReg) (tile : Fin 4), s.ready t [ra.val] = true →
    let a := (s.thr t).eaA ra pg
    (a % 64 = 0 → IssuesLong (.txld t ra pg) s t (.txld a) ∧ IssuesLong (.tsave t ra pg tile) s t (.tsave a tile) ∧
      IssuesLong (.trestore t ra pg tile) s t (.trestore a tile)) ∧
    (a % 64 ≠ 0 → Excepts (.txld t ra pg) s t 2 0 (BitVec.ofNat 64 a) (s.thr t).pc ∧
      Excepts (.tsave t ra pg tile) s t 2 1 (BitVec.ofNat 64 a) (s.thr t).pc ∧
      Excepts (.trestore t ra pg tile) s t 2 0 (BitVec.ofNat 64 a) (s.thr t).pc)) ∧
  (∀ (s : State) (t : Tid), s.ready t [] = true → IssuesLong (.twait t) s t .twait) ∧
  (∀ (s : State) (t : Tid) (z : Fin 2) (cm : Fin 3) (mask : BitVec 4), s.ready t [] = true → (s.thr t).unitQ.length < 4 →
    let th := s.thr t
    let w := th.tshape
    let clear := if cm = 0 then w.getLsbD 28 else decide (cm = 1)
    let full : AccTile := { th.acc z with st := 2, m := (w.extractLsb' 0 6).toNat + 1, n := (w.extractLsb' 6 6).toNat + 1, tag := th.tag }
    (mmaWhy w (s.refOk t) th.ta th.tb (th.acc z) clear = none →
      Enqueues (.mma t z cm) s t (.mma z (clear || !mayRead th.tag (th.acc z).tag) w th.ta th.tb th.xstate)
        (th.setAcc z (if clear then full else { th.acc z with tag := th.tag }))) ∧
    (∀ y < 16, mmaWhy w (s.refOk t) th.ta th.tb (th.acc z) clear = some y → TileFaults (.mma t z cm) s t (BitVec.ofNat 4 y)) ∧
    Enqueues (.tclr t z) s t (.tclr z full.m full.n) (th.setAcc z full) ∧
    ∃ u, exec (.trel t mask) s = .next u ∧ ThreadOnly s u t ∧ (u.thr t).pc = pcOf (th.pc + 8) ∧
      (u.thr t).unitQ = th.unitQ ++ [{ op := .trel mask, tag := th.tag }] ∧ (u.thr t).g = th.g ∧
      (∀ i : Fin 4, (mask.getLsbD i = true → (u.thr t).tileSt i = 0 ∧ (u.thr t).tileTag i = {}) ∧
        (mask.getLsbD i = false → (u.thr t).tileSt i = th.tileSt i ∧ (u.thr t).tileTag i = th.tileTag i))) ∧
  (∀ (s : State) (t : Tid) (z : Fin 2) (cm : Fin 3) (mask : BitVec 4), (s.thr t).unitQ.length = 4 →
    exec (.mma t z cm) s = .next s ∧ exec (.tclr t z) s = .next s ∧ exec (.trel t mask) s = .next s) ∧
  (∀ (s : State) (t : Tid) (rd : Reg) (n : Fin 16), s.ready t [] = true →
    ∃ u w, exec (.mft t rd n) s = .next u ∧ (u.thr t).greg rd = (if rd.val = 0 then 0 else w) ∧ OtherG (s.thr t) (u.thr t) rd ∧
      (u.thr t).pc = pcOf ((s.thr t).pc + 8) ∧ OnlyG (s.thr t) (u.thr t) ∧ ThreadOnly s u t ∧
      (n = 0 → w = (s.thr t).tshape) ∧ (n = 1 → w = (s.thr t).tstart) ∧ (2 < n.val → w = 0) ∧
      (n = 2 → (s.thr t).unitQ.length ≤ 4 → (∀ i < 4, (s.thr t).tileSt i ≤ 2) →
        w.extractLsb' 20 44 = 0 ∧ w.extractLsb' 16 4 = (s.thr t).why ∧ (w.extractLsb' 12 3).toNat = (s.thr t).unitQ.length ∧
        ∀ i : Fin 4, w.getLsbD (8 + i) = ((s.thr t).tileTag i).sealed ∧ (w.extractLsb' (2 * i) 2).toNat = (s.thr t).tileSt i)) ∧
  ∀ (s : State) (t : Tid) (ra : Reg) (n : Fin 16), s.ready t [ra.val] = true →
    ∃ u, exec (.mtt t ra n) s = .next u ∧ ThreadOnly s u t ∧ (u.thr t).pc = pcOf ((s.thr t).pc + 8) ∧
      OnlyPc { s.thr t with tshape := (u.thr t).tshape, tstart := (u.thr t).tstart } (u.thr t) ∧
      (u.thr t).tshape = (if n = 0 then (s.thr t).greg ra &&& 0xFFFF7FFFF else (s.thr t).tshape) ∧
      (u.thr t).tstart = if n = 1 then (s.thr t).greg ra &&& 0xFFFFFFFF01FFFFFF else (s.thr t).tstart

namespace Sys2Proof.Claims

/-- The byte of the part's local stores at a fabric address. -/
def lsByte (s : State) (a : Nat) : Byte := Map.get 0 s.ls (a - 0x100000000000)

/-- Every line of n bytes from a fabric address lies where an engine of thread t may read the own local store, in a row
with no bad symbol. -/
def OwnRead (s : State) (t : Tid) (a n : Nat) : Prop :=
  ∀ l ∈ linesOf a n, ∃ off, ownOffset (coreOf t) (64 * l) = some off ∧ s.ownOk t off false = true ∧
    mayRead (s.thr t).tag (s.halfTag (coreOf t) (off / 64)) = true ∧ s.rowBad (coreOf t) (off / 128) = 0

/-- Every byte of n from a fabric address lies where an engine of thread t may write the own local store, in a half that
carries the thread's tag and a row with no bad symbol. -/
def OwnWrite (s : State) (t : Tid) (a n : Nat) : Prop :=
  ∀ j < n, ∃ off, ownOffset (coreOf t) (a + j) = some off ∧ s.ownOk t off true = true ∧ s.halfTag (coreOf t) (off / 64) = (s.thr t).tag ∧
    s.rowBad (coreOf t) (off / 128) = 0

/-- Thread t's long instruction retires: it is over, PC is past its 8 bytes, TSTART is zero, and no general register and
no other thread changes. -/
def Retires (s u : State) (t : Tid) : Prop :=
  (u.thr t).long = none ∧ (u.thr t).pc = pcOf ((s.thr t).pc + 8) ∧ (u.thr t).tstart = 0 ∧ (u.thr t).g = (s.thr t).g ∧
    u.mem = s.mem ∧ ∀ i, i ≠ t → u.thr i = s.thr i

/-- Thread t's long instruction has started at row 0, and its engine has presented nothing. -/
def AtStart (s : State) (t : Tid) (op : LongOp) : Prop :=
  s.works t = true ∧ (∃ id, (s.thr t).long = some { op, started := true, id }) ∧ (s.thr t).tstart.getLsbD 24 = false

/-- No queued MMA reads buffer x of operand register b (R173). -/
def BufFree (th : Thread) (b x : Bool) : Prop :=
  ∀ i ∈ th.unitQ, ∀ z c w p q e, i.op = .mma z c w p q e → shK w ≠ 0 → (if b then q else p).buf ≠ x

/-- Operand register b of a thread after a load, from the thread before it: full, with its extent and the thread's tag, in a
buffer that no queued MMA reads if there was one, its rows the bytes at their addresses and zero beyond. -/
def Loaded (s : State) (t : Tid) (b : Bool) (x : OpTile) (pg base stride rows bytes : Nat) : Prop :=
  x.st = 2 ∧ x.rows = rows ∧ x.bytes = bytes ∧ x.tag = (s.thr t).tag ∧ ((∃ f, BufFree (s.thr t) b f) → BufFree (s.thr t) b x.buf) ∧
    (∀ i < rows, ∀ k < 64, lineByte (Map.get 0 x.data i) k = if k < bytes then lsByte s (rowAddr pg base stride i + k) else 0) ∧
    ∀ i, rows ≤ i → Map.get 0 x.data i = 0

/-- Element (ext, k) products of an MMA on tiles a and b. -/
def products (w : Word) (a b : Map Line) (x : Map Byte) (m n : Nat) : List Val :=
  (List.range (shK w)).map fun k => (elemA w a m k).mul (elemB w b x n k)

end Sys2Proof.Claims

/-- R171, R175, R176, R183–R185, R187, R189–R191, R195. -/
def Obligations.MatrixResults : Prop :=
  (∀ (s : State) (n k : Nat), s.clocksOn = true → (s.core n).locked = false → (s.core n).gatedTo.toNat ≤ s.clk.ccycle.toNat → k < 4 →
    ((s.core n).arrayBusy = none → (s.core n).lastArray = (k + 3) % 4 → (s.thr (4 * n + k)).unitQ ≠ [] →
      exec (.tileEngineStart n .array) s = .next (s.modCore n fun c => { c with arrayBusy := some k, lastArray := k })) ∧
    ∀ base stride pg rows bytes, (s.core n).aBusy = none → (s.core n).lastA = (k + 3) % 4 → s.runs (4 * n + k) = true →
      (∃ f, BufFree (s.thr (4 * n + k)) false f) → ∀ id,
      (s.thr (4 * n + k)).long = some { op := .tld true false base 0 stride pg 0 rows bytes 0 0, id } →
      ∃ u, exec (.tileEngineStart n .aLoad) s = .next u ∧ (u.core n).aBusy = some k ∧ (u.core n).bBusy = (s.core n).bBusy ∧
        u.thr (4 * n + k) = { s.thr (4 * n + k) with long := some { op := .tld true false base 0 stride pg 0 rows bytes 0 0, started := true, id } }) ∧
  (∀ (s : State) (n k : Nat) (i : UnitItem) (q : List UnitItem), s.clocksOn = true → (s.core n).arrayBusy = some k →
    (s.thr (4 * n + k)).unitQ = i :: q → ∃ u, exec (.unitInstructionComplete n) s = .next u ∧ (u.core n).arrayBusy = none ∧
      (u.thr (4 * n + k)).unitQ = q ∧ (u.thr (4 * n + k)).g = (s.thr (4 * n + k)).g ∧ u.ls = s.ls ∧ u.mem = s.mem ∧
      (∀ z clear w a b x, i.op = .mma z clear w a b x → z < 2 → ∀ m < 64, ∀ n' < 64,
        let old := if clear then 0 else Map.get 0 ((s.thr (4 * n + k)).acc z).data (64 * m + n')
        Map.get 0 ((u.thr (4 * n + k)).acc z).data (64 * m + n') =
          if shK w ≠ 0 ∧ m < shM w ∧ n' < shN w then
            mmaElem (shRef w) (nk40.decode old.toNat) (products w (tileSeen i.tag a) (tileSeen i.tag b) x m n')
          else old) ∧
      (∀ z m' n', i.op = .tclr z m' n' → z < 2 → ((u.thr (4 * n + k)).acc z).data = []) ∧
      ∀ mask, i.op = .trel mask → ∀ z : Fin 2, mask.getLsbD (2 + z) = true → ((u.thr (4 * n + k)).acc z).data = []) ∧
  (∀ (s : State) (t : Tid) (upto : Nat), s.works t = true →
    ∀ l, (s.thr t).long = some l → l.op = .twait →
      ((s.thr t).unitQ = [] → ∃ u, exec (.longTileRetire t upto) s = .next u ∧ Retires s u t) ∧
      ((s.thr t).unitQ ≠ [] → exec (.longTileRetire t upto) s = .next s)) ∧
  (∀ (s : State) (t : Tid) (upto : Nat), 2 ^ 21 ≤ upto →
    (∀ toA toB baseA baseB stride pgA pgB rowsA bytesA rowsB bytesB,
      AtStart s t (.tld toA toB baseA baseB stride pgA pgB rowsA bytesA rowsB bytesB) → rowsA ≤ 64 → bytesA ≤ 64 → rowsB ≤ 64 → bytesB ≤ 64 →
      (toA = true → ∀ i < rowsA, OwnRead s t (rowAddr pgA baseA stride i) bytesA) →
      (toB = true → ∀ i < rowsB, OwnRead s t (rowAddr pgB baseB stride i) bytesB) →
      ∃ u, exec (.longTileRetire t upto) s = .next u ∧ Retires s u t ∧ u.ls = s.ls ∧
        (if toA then Loaded s t false (u.thr t).ta pgA baseA stride rowsA bytesA else (u.thr t).ta = (s.thr t).ta) ∧
        (if toB then Loaded s t true (u.thr t).tb pgB baseB stride rowsB bytesB else (u.thr t).tb = (s.thr t).tb)) ∧
    (∀ a, AtStart s t (.txld a) → OwnRead s t a 1024 → ∃ u, exec (.longTileRetire t upto) s = .next u ∧ Retires s u t ∧ u.ls = s.ls ∧
      ∀ i < 1024, Map.get 0 (u.thr t).xstate i = lsByte s (a + i)) ∧
    (∀ z pg base stride fmt sc bi cl vs lo hi, AtStart s t (.tst z pg base stride fmt sc bi cl false vs lo hi) → fmt ≤ 5 →
      0 < ((s.thr t).acc z).m → 
      let last := ((s.thr t).acc z).m - 1
      let w := fmtBits fmt
      let n := (((s.thr t).acc z).n * w + 7) / 8
      (∀ m ≤ last, OwnWrite s t (rowAddr pg base stride m) n) →
      ∃ u, exec (.longTileRetire t upto) s = .next u ∧ Retires s u t ∧ (u.thr t).acc z = (s.thr t).acc z ∧
        (∀ k < ((s.thr t).acc z).n, leNat (readBytes u.ls (rowAddr pg base stride last - 0x100000000000) n) / 2 ^ (w * k) % 2 ^ w =
          (s.thr t).tstElem t z fmt sc bi cl false vs lo hi last k % 2 ^ w) ∧
        ∀ a, 0x100000000000 ≤ a → (∀ m ≤ last, ¬ (rowAddr pg base stride m ≤ a ∧ a < rowAddr pg base stride m + n)) → lsByte u a = lsByte s a) ∧
    (∀ (b : Bool) (a : Nat), AtStart s t (.tsave a (bit b)) → ((s.thr t).opnd b).st = 2 → ((s.thr t).opnd b).tag.sealed = false →
      ((s.thr t).opnd b).rows ≤ 64 → ((s.thr t).opnd b).bytes ≤ 64 → OwnWrite s t a 4160 →
      ∃ u, exec (.longTileRetire t upto) s = .next u ∧ Retires s u t ∧ (u.thr t).ta = (s.thr t).ta ∧ (u.thr t).tb = (s.thr t).tb ∧
        lsByte u a = 2 ∧ lsByte u (a + 1) = BitVec.ofNat 8 (bit b) ∧ lsByte u (a + 2) = BitVec.ofNat 8 (((s.thr t).opnd b).rows - 1) ∧
        lsByte u (a + 3) = BitVec.ofNat 8 (((s.thr t).opnd b).bytes - 1) ∧ (∀ j, 4 ≤ j → j < 64 → lsByte u (a + j) = 0) ∧
        (∀ r < 64, ∀ k < 64, lsByte u (a + 64 + 64 * r + k) = lineByte (Map.get 0 ((s.thr t).opnd b).data r) k) ∧
        ∀ y, 0x100000000000 ≤ y → ¬ (a ≤ y ∧ y < a + 4160) → lsByte u y = lsByte s y) ∧
    (∀ (b : Bool) (a rows bytes : Nat), AtStart s t (.trestore a (bit b)) → a % 64 = 0 → rows < 64 → bytes < 64 → OwnRead s t a 4160 →
      lsByte s a = 2 → lsByte s (a + 1) = BitVec.ofNat 8 (bit b) → lsByte s (a + 2) = BitVec.ofNat 8 rows →
      lsByte s (a + 3) = BitVec.ofNat 8 bytes → (∀ j, 4 ≤ j → j < 64 → lsByte s (a + j) = 0) →
      ∃ u, exec (.longTileRetire t upto) s = .next u ∧ Retires s u t ∧ u.ls = s.ls ∧ (u.thr t).opnd (!b) = (s.thr t).opnd (!b) ∧
        ((u.thr t).opnd b).st = 2 ∧ ((u.thr t).opnd b).rows = rows + 1 ∧ ((u.thr t).opnd b).bytes = bytes + 1 ∧
        ((u.thr t).opnd b).tag = (s.thr t).tag ∧
        ∀ r < 64, ∀ k < 64, lineByte (Map.get 0 ((u.thr t).opnd b).data r) k = lsByte s (a + 64 + 64 * r + k)) ∧
    ∀ src dst n fmt tgt, AtStart s t (.range src dst n fmt tgt false) → n < 2 ^ 24 → 1 ≤ fmt → fmt ≤ 5 →
      let w := fmtBits fmt / 8
      OwnRead s t src (n * w) → OwnWrite s t dst ((n + 31) / 32) → (src + n * w + 63 ≤ dst ∨ dst + (n + 31) / 32 + 63 ≤ src) →
      ∃ u, exec (.longTileRetire t upto) s = .next u ∧ Retires s u t ∧
        ∀ i < (n + 31) / 32, lsByte u (dst + i) = BitVec.ofNat 8 (scaleByte tgt (nf32.decode
          (magMax fmt (readBytes s.ls (src + 32 * i * w - 0x100000000000) (min 32 (n - 32 * i) * w)) (min 32 (n - 32 * i))))))

/-! ## The vector unit -/

namespace Sys2Proof.Claims

/-- The code r is the exact value rounded to nearest even; the sign of an exact zero is open (log entry 17). -/
def RoundsTo (f : Fmt) (exact : Val) (r : Nat) : Prop :=
  r = f.encode .even exact ∨ exact.isZero = true ∧ (r = 0 ∨ r = 2 ^ (f.e + f.p))

/-- The lane results of the two-operand instructions on raw lanes a and b (R236, R238, R239), unsigned if u. -/
def lane2 : List ((Tid → Reg → Reg → Reg → EType → Bool → Instr) × (EType → Bool → Nat → Nat → Nat → Prop)) := [
  (fun t d a b et _ => .vadd t d a b et, fun et _ a b r => match et.fmt with
    | none => r = (a + b) % 2 ^ et.bits
    | some f => RoundsTo f ((f.decode a).add (f.decode b)) r),
  (fun t d a b et _ => .vsub t d a b et, fun et _ a b r => match et.fmt with
    | none => r = (a + (2 ^ et.bits - b)) % 2 ^ et.bits
    | some f => RoundsTo f ((f.decode a).add (f.decode b).neg) r),
  (fun t d a b et _ => .vmul t d a b et, fun et _ a b r => match et.fmt with
    | none => r = a * b % 2 ^ et.bits
    | some f => RoundsTo f ((f.decode a).mul (f.decode b)) r),
  (fun t d a b et u => .vmax t d a b et u, fun et u a b r => match et.fmt with
    | none => intVal et u r = max (intVal et u a) (intVal et u b) ∧ (r = a ∨ r = b)
    | some f => r = f.encode .even ((f.decode a).max (f.decode b))),
  (fun t d a b et u => .vmin t d a b et u, fun et u a b r => match et.fmt with
    | none => intVal et u r = min (intVal et u a) (intVal et u b) ∧ (r = a ∨ r = b)
    | some f => r = f.encode .even ((f.decode a).min (f.decode b))),
  (fun t d a b et _ => .vshl t d a b et, fun et _ a b r => r = a * 2 ^ (b % et.bits) % 2 ^ et.bits),
  (fun t d a b et u => .vshr t d a b et u, fun et u a b r =>
    (r : Int) = intVal et u a / 2 ^ (b % et.bits) % 2 ^ et.bits),
  (fun t d a b et u => .vcmp t d a b et .eq u, fun et _ a b r => match et.fmt with
    | none => r = if a = b then 2 ^ et.bits - 1 else 0
    | some f => r = if (f.decode a).eqv (f.decode b) then 2 ^ et.bits - 1 else 0),
  (fun t d a b et u => .vcmp t d a b et .ne u, fun et _ a b r => match et.fmt with
    | none => r = if a = b then 0 else 2 ^ et.bits - 1
    | some f => r = if (f.decode a).eqv (f.decode b) then 0 else 2 ^ et.bits - 1),
  (fun t d a b et u => .vcmp t d a b et .lt u, fun et u a b r => match et.fmt with
    | none => r = if intVal et u a < intVal et u b then 2 ^ et.bits - 1 else 0
    | some f => r = if (f.decode a).lt (f.decode b) then 2 ^ et.bits - 1 else 0),
  (fun t d a b et u => .vcmp t d a b et .le u, fun et u a b r => match et.fmt with
    | none => r = if intVal et u a ≤ intVal et u b then 2 ^ et.bits - 1 else 0
    | some f => r = if (f.decode a).lt (f.decode b) || (f.decode a).eqv (f.decode b) then 2 ^ et.bits - 1 else 0)]

/-- The command completes with the lanes of v[vd] as said and PC past its 8 bytes; every other register and everything
outside the thread stands. -/
def WritesV (i : Instr) (s : State) (t : Tid) (vd : Reg) (et : EType) (p : Nat → Nat → Prop) : Prop :=
  ∃ u, exec i s = .next u ∧ ThreadOnly s u t ∧ (u.thr t).pc = pcOf ((s.thr t).pc + 8) ∧ (u.thr t).g = (s.thr t).g ∧
    (∀ r, r ≠ vd → (u.thr t).vreg r = (s.thr t).vreg r) ∧
    OnlyPc { s.thr t with v := (u.thr t).v, busy := (u.thr t).busy } (u.thr t) ∧ ∀ k < et.lanes, p k (laneOf et ((u.thr t).vreg vd) k)

/-- The command completes with g[rd] = v (g0 stays zero) and PC past its 8 bytes, and nothing else changes. -/
def WritesG8 (i : Instr) (s : State) (t : Tid) (rd : Reg) (v : Word) : Prop :=
  ∃ u, exec i s = .next u ∧ (u.thr t).greg rd = (if rd.val = 0 then 0 else v) ∧ OtherG (s.thr t) (u.thr t) rd ∧
    (u.thr t).pc = pcOf ((s.thr t).pc + 8) ∧ OnlyG (s.thr t) (u.thr t) ∧ ThreadOnly s u t

/-- The types that the instructions for "all" types accept (R235). -/
def allTypes : List EType := [.nf16, .nf32, .i8, .i16, .i32, .i64]

end Sys2Proof.Claims

/-- R235, R236, R238–R242. -/
def Obligations.VectorResults : Prop :=
  (∀ p ∈ lane2, ∀ et ∈ allTypes, ∀ (s : State) (t : Tid) (vd va vb : Reg) (u : Bool), s.ready t [32 + va.val, 32 + vb.val] = true →
    WritesV (p.1 t vd va vb et u) s t vd et fun k => p.2 et u (laneOf et ((s.thr t).vreg va) k) (laneOf et ((s.thr t).vreg vb) k)) ∧
  (∀ (s : State) (t : Tid) (vd va vb : Reg) (et : EType), s.ready t [32 + va.val, 32 + vb.val] = true → et.fmt = none →
    ∀ p ∈ [(Instr.vand t vd va vb et, (s.thr t).vreg va &&& (s.thr t).vreg vb), (.vor t vd va vb et, (s.thr t).vreg va ||| (s.thr t).vreg vb),
           (.vxor t vd va vb et, (s.thr t).vreg va ^^^ (s.thr t).vreg vb)],
      WritesV p.1 s t vd et fun k r => r = laneOf et p.2 k) ∧
  (∀ et ∈ allTypes, ∀ (s : State) (t : Tid) (vd va vb vc : Reg), s.ready t [32 + va.val, 32 + vb.val, 32 + vc.val] = true →
    let a (k : Nat) := laneOf et ((s.thr t).vreg va) k
    let b (k : Nat) := laneOf et ((s.thr t).vreg vb) k
    let c (k : Nat) := laneOf et ((s.thr t).vreg vc) k
    (WritesV (.vfma t vd va vb vc et) s t vd et fun k r => match et.fmt with
      | none => r = (a k * b k + c k) % 2 ^ et.bits
      | some f => RoundsTo f (((f.decode (a k)).mul (f.decode (b k))).add (f.decode (c k))) r) ∧
    WritesV (.vsel t vd va vb vc et) s t vd et fun k r => r = if c k ≠ 0 then a k else b k) ∧
  (∀ et ∈ [(EType.nf16, nf16), (.nf32, nf32)], ∀ (s : State) (t : Tid) (vd va : Reg), s.ready t [32 + va.val] = true →
    (WritesV (.vexp t vd va et.1) s t vd et.1 fun k r => match et.2.decode (laneOf et.1 ((s.thr t).vreg va) k) with
      | .nan => r = et.2.nan
      | .inf neg => r = if neg then 0 else et.2.encode .even (.inf false)
      | .fin _ n _ => n = 0 → r = et.2.encode .even .one) ∧
    WritesV (.vrcp t vd va et.1) s t vd et.1 fun k r => match et.2.decode (laneOf et.1 ((s.thr t).vreg va) k) with
      | .nan => r = et.2.nan
      | .inf neg => r = et.2.withSign neg 0
      | .fin neg n _ => n = 0 → r = et.2.encode .even (.inf neg)) ∧
  (∀ (s : State) (t : Tid) (vd va rb : Reg) (et et2 : EType) (rm u : Bool), s.ready t [32 + va.val, rb.val] = true →
    ((WritesV (.vcvt t vd va rb et et2 false u) s t vd et2 fun k r =>
      if k < et.lanes then r = convert et et2 (max (-160) (min 160 ((s.thr t).greg rb).toInt)) .even u
        (laneOf et ((s.thr t).vreg va) k) % 2 ^ et2.bits else r = 0)) ∧
    ∃ w, exec (.vcvt t vd va rb et et2 rm u) s = .next w ∧ ThreadOnly s w t ∧ (w.thr t).pc = pcOf ((s.thr t).pc + 8) ∧
      (w.thr t).g = (s.thr t).g ∧ (∀ r, r ≠ vd → (w.thr t).vreg r = (s.thr t).vreg r) ∧
      (∀ k < et2.lanes, laneOf et2 ((w.thr t).vreg vd) k = if k < et.lanes then
        convert et et2 (max (-160) (min 160 ((s.thr t).greg rb).toInt)) ((s.thr t).rnd t rm k) u (laneOf et ((s.thr t).vreg va) k) % 2 ^ et2.bits
        else 0) ∧
      (w.thr t).ctr = if rm then (s.thr t).ctr + BitVec.ofNat 64 et2.lanes else (s.thr t).ctr) ∧
  (∀ (s : State) (t : Tid) (rd va : Reg) (u : Bool), s.ready t [32 + va.val] = true →
    (∀ et ∈ [EType.i8, .i16, .i32, .i64], WritesG8 (.vred t rd va et .sum u) s t rd
      (BitVec.ofInt 64 (((List.range et.lanes).map fun k => intVal et u (laneOf et ((s.thr t).vreg va) k)).sum))) ∧
    ∀ et ∈ [(EType.nf16, nf16), (.nf32, nf32)], ∃ k,
      RoundsTo nk40 ((nk40.decode 0).add (((List.range et.1.lanes).map fun k => et.2.decode (laneOf et.1 ((s.thr t).vreg va) k)).foldl Val.add .zero)) k ∧
      WritesG8 (.vred t rd va et.1 .sum u) s t rd (BitVec.ofNat 64 (nf32.encode .even (nk40.decode k)))) ∧
  (∀ et ∈ allTypes, ∀ (s : State) (t : Tid) (d a b : Reg),
    (s.ready t [a.val] = true → WritesV (.vbcast t d a et) s t d et fun _ r => r = ((s.thr t).greg a).toNat % 2 ^ et.bits) ∧
    (s.ready t [32 + a.val, b.val] = true →
      WritesG8 (.vext t d a b et) s t d (BitVec.ofNat 64 (laneOf et ((s.thr t).vreg a) (((s.thr t).greg b).toNat % et.lanes)))) ∧
    (s.ready t [32 + d.val, a.val, b.val] = true → WritesV (.vins t d a b et) s t d et fun k r =>
      r = if k = ((s.thr t).greg b).toNat % et.lanes then ((s.thr t).greg a).toNat % 2 ^ et.bits else laneOf et ((s.thr t).vreg d) k)) ∧
  (∀ (s : State) (t : Tid) (r : Reg) (n : Fin 32), 
    (s.ready t [] = true → WritesG8 (.vmfc t r n) s t r (match n.val with
      | 0 => (s.thr t).vpos
      | 1 => (s.thr t).vacc
      | 2 => (s.thr t).seed t
      | 3 => (s.thr t).ctr
      | _ => 0)) ∧
    (s.ready t [r.val] = true → ∃ u, exec (.vmtc t n r) s = .next u ∧ ThreadOnly s u t ∧ (u.thr t).pc = pcOf ((s.thr t).pc + 8) ∧
      (u.thr t).g = (s.thr t).g ∧ (u.thr t).v = (s.thr t).v ∧
      (u.thr t).vpos = (if n = 0 then (s.thr t).greg r &&& 0x101FFFF else (s.thr t).vpos) ∧
      (u.thr t).vacc = (if n = 1 then (s.thr t).greg r else (s.thr t).vacc) ∧
      (u.thr t).seed t = (if n = 2 then (s.thr t).greg r else (s.thr t).seed t) ∧
      (u.thr t).ctr = if n = 3 then (s.thr t).greg r else (s.thr t).ctr)) ∧
  ∀ (s : State) (t : Tid) (d a b : Reg) (et : EType), s.ready t [32 + a.val, 32 + b.val] = true → et ∉ allTypes →
    Excepts (.vadd t d a b et) s t 1 0 0 (s.thr t).pc ∧ Excepts (.vand t d a b et) s t 1 0 0 (s.thr t).pc ∧
    Excepts (.vmax t d a b et false) s t 1 0 0 (s.thr t).pc

namespace Sys2Proof.Claims

/-- Thread t's started vector memory instruction retires: PC is past its 8 bytes, VPROG as said, no general register, no
stack byte and no other thread changes. -/
def VRetires (s u : State) (t : Tid) : Prop :=
  (u.thr t).long = none ∧ (u.thr t).pc = pcOf ((s.thr t).pc + 8) ∧ (u.thr t).g = (s.thr t).g ∧ u.mem = s.mem ∧ ∀ i, i ≠ t → u.thr i = s.thr i

/-- The thread's vector memory instruction has started at element 0, and its engine has presented nothing. -/
def VStarted (s : State) (t : Tid) (op : LongOp) : Prop :=
  s.works t = true ∧ (∃ id, (s.thr t).long = some { op, started := true, id }) ∧ (s.thr t).vpos.getLsbD 24 = false

/-- The element of n bytes at a fabric address of the local stores. -/
def lsElem (s : State) (a n : Nat) : Nat := leNat (readBytes s.ls (a - 0x100000000000) n)

/-- Every byte of the local stores outside the elements at the given addresses reads as before. -/
def OtherBytes (s u : State) (as : List Nat) (n : Nat) : Prop :=
  ∀ a, 0x100000000000 ≤ a → (∀ b ∈ as, ¬ (b ≤ a ∧ a < b + n)) → lsByte u a = lsByte s a

end Sys2Proof.Claims

/-- R152, R235, R243–R245. -/
def Obligations.VectorMemory : Prop :=
  (∀ (s : State) (t : Tid) (v g b c : Reg) (pg : PgReg),
    (s.ready t [g.val] = true → (s.thr t).eaA g pg % 64 = 0 → IssuesLong (.vld t v g pg) s t (.vld v ((s.thr t).eaA g pg))) ∧
    (s.ready t [g.val] = true → (s.thr t).eaA g pg % 64 ≠ 0 →
      Excepts (.vld t v g pg) s t 2 0 (BitVec.ofNat 64 ((s.thr t).eaA g pg)) (s.thr t).pc) ∧
    (s.ready t [32 + v.val, g.val] = true → (s.thr t).eaA g pg % 64 = 0 →
      IssuesLong (.vst t v g pg) s t (.vst ((s.thr t).vreg v) ((s.thr t).eaA g pg))) ∧
    (s.ready t [32 + v.val, g.val] = true → (s.thr t).eaA g pg % 64 ≠ 0 →
      Excepts (.vst t v g pg) s t 2 1 (BitVec.ofNat 64 ((s.thr t).eaA g pg)) (s.thr t).pc) ∧
    (s.ready t [g.val] = true → v.val % 2 = 0 → (s.thr t).eaA g pg % 4 = 0 →
      IssuesLong (.vldc t v g pg) s t (.vldc v ((s.thr t).eaA g pg))) ∧
    (s.ready t [g.val] = true → v.val % 2 = 1 → Excepts (.vldc t v g pg) s t 1 0 0 (s.thr t).pc) ∧
    (∀ et, et ≠ .nf4 → et ≠ .i64 → (s.thr t).eaA g pg % et.bytes = 0 →
      (s.ready t [g.val, 32 + b.val] = true →
        IssuesLong (.vgth t v g b et pg) s t (.vgth v ((s.thr t).pgreg pg.val).toNat ((s.thr t).greg g).toNat ((s.thr t).vreg b) et)) ∧
      (s.ready t [32 + v.val, g.val, 32 + b.val] = true → IssuesLong (.vsct t v g b et pg) s t
        (.vsct ((s.thr t).vreg v) ((s.thr t).pgreg pg.val).toNat ((s.thr t).greg g).toNat ((s.thr t).vreg b) et))) ∧
    ∀ (et et2 : EType) (u rm : Bool), et ≠ .nf4 → (s.thr t).eaA g pg % et.bytes = 0 →
      (s.ready t [v.val, g.val, b.val, 32 + c.val] = true → (s.thr t).eaA v pg % et.bytes = 0 →
        IssuesLong (.vlop t v g b c et .add u pg) s t (.vlop ((s.thr t).pgreg pg.val).toNat ((s.thr t).greg v).toNat
          ((s.thr t).greg g).toNat (min ((s.thr t).greg b).toNat 65536) ((s.thr t).vreg c) et .add u)) ∧
      (s.ready t [v.val, g.val, b.val, c.val] = true → (s.thr t).eaA v pg % et2.bytes = 0 →
        IssuesLong (.vlcvt t v g b c et et2 rm u pg) s t (.vlcvt ((s.thr t).pgreg pg.val).toNat ((s.thr t).greg v).toNat
          ((s.thr t).greg g).toNat (min ((s.thr t).greg b).toNat 65536) (max (-160) (min 160 ((s.thr t).greg c).toInt)) et et2 rm u)) ∧
      (s.ready t [g.val, b.val] = true → IssuesLong (.vlred t v g b et .sum u pg) s t
        (.vlred v ((s.thr t).pgreg pg.val).toNat ((s.thr t).greg g).toNat (min ((s.thr t).greg b).toNat 65536) et .sum u))) ∧
  (∀ (s : State) (n k : Nat) (vd : Reg) (a : Nat), s.clocksOn = true → (s.core n).locked = false → (s.core n).streamBusy = none → k < 4 →
    (s.core n).lastStream = (k + 3) % 4 → s.runs (4 * n + k) = true → ∀ id, (s.thr (4 * n + k)).long = some { op := .vld vd a, id } →
    ∃ u, exec (.streamEngineStart n) s = .next u ∧ (u.core n).streamBusy = some k ∧ (u.core n).lastStream = k ∧
      u.thr (4 * n + k) = { s.thr (4 * n + k) with long := some { op := .vld vd a, started := true, id } } ∧ ∀ i, i ≠ 4 * n + k → u.thr i = s.thr i) ∧
  ∀ (s : State) (t : Tid) (upto : Nat), 2 ^ 21 ≤ upto →
    (∀ vd a, VStarted s t (.vld vd a) → a % 64 = 0 → OwnRead s t a 64 → ∃ u, exec (.vectorMemoryRetire t upto) s = .next u ∧ VRetires s u t ∧
      u.ls = s.ls ∧ ∀ k < 64, lineByte ((u.thr t).vreg vd) k = lsByte s (a + k)) ∧
    (∀ vd a, VStarted s t (.vld vd a) → a % 64 = 0 → ownOffset (coreOf t) a = none → ∃ u, exec (.vectorMemoryRetire t upto) s = .next u ∧
      VRetires s u t ∧ (u.thr t).vreg vd = 0 ∧ (s.keeper.violPkg ≠ BitVec.allOnes 48 → u.keeper.violPkg = s.keeper.violPkg + 1)) ∧
    (∀ d a, VStarted s t (.vst d a) → a % 64 = 0 → OwnWrite s t a 64 → ∃ u, exec (.vectorMemoryRetire t upto) s = .next u ∧ VRetires s u t ∧
      (∀ k < 64, lsByte u (a + k) = lineByte d k) ∧ OtherBytes s u [a] 64 ∧ (u.thr t).v = (s.thr t).v) ∧
    (∀ (vd : Reg) a, VStarted s t (.vldc vd a) → vd.val % 2 = 0 → a % 4 = 0 →
      (∀ i < 32, OwnRead s t (a + 1024 * i) 4 ∧ (a + 1024 * i) % 0x2000000 < 0x1C00000) →
      ∃ u, exec (.vectorMemoryRetire t upto) s = .next u ∧ VRetires s u t ∧ u.ls = s.ls ∧
        ∀ i < 32, laneOf .i32 ((u.thr t).vreg ⟨(vd.val + i / 16) % 32, by omega⟩) (i % 16) = lsElem s (a + 1024 * i) 4) ∧
    (∀ vd pg off idx et, VStarted s t (.vgth vd pg off idx et) → et ≠ .nf4 → et ≠ .i64 → pg % 64 = 0 → off % et.bytes = 0 →
      (∀ i < 16, OwnRead s t (laneAddr pg off idx et i) et.bytes) →
      ∃ u, exec (.vectorMemoryRetire t upto) s = .next u ∧ VRetires s u t ∧ u.ls = s.ls ∧
        ∀ i < et.lanes, laneOf et ((u.thr t).vreg vd) i = if i < 16 then lsElem s (laneAddr pg off idx et i) et.bytes else 0) ∧
    (∀ d pg off idx et, VStarted s t (.vsct d pg off idx et) → et ≠ .nf4 → et ≠ .i64 → pg % 64 = 0 → off % et.bytes = 0 →
      (∀ i < 16, OwnWrite s t (laneAddr pg off idx et i) et.bytes) →
      ∃ u, exec (.vectorMemoryRetire t upto) s = .next u ∧ VRetires s u t ∧
        (∀ i < 16, (∀ k, i < k → k < 16 → laneAddr pg off idx et k ≠ laneAddr pg off idx et i) →
          lsElem u (laneAddr pg off idx et i) et.bytes = laneOf et d i) ∧
        OtherBytes s u ((List.range 16).map (laneAddr pg off idx et)) et.bytes) ∧
    (∀ pg dst src n c et u, VStarted s t (.vlop pg dst src n c et .add u) → n ≤ 65536 → et ≠ .nf4 → pg % 64 = 0 → src % et.bytes = 0 → dst % et.bytes = 0 →
      (∀ i < n, OwnRead s t (elemAddr pg src et i) et.bytes ∧ OwnWrite s t (elemAddr pg dst et i) et.bytes) →
      (∀ i < n, ∀ k < n, elemAddr pg src et i ≠ elemAddr pg dst et k ∧ (i ≠ k → elemAddr pg dst et i ≠ elemAddr pg dst et k)) →
      ∃ w, exec (.vectorMemoryRetire t upto) s = .next w ∧ VRetires s w t ∧ (w.thr t).vpos = 0 ∧ (w.thr t).vacc = 0 ∧
        (∀ i < n, lsElem w (elemAddr pg dst et i) et.bytes =
          laneAdd et (lsElem s (elemAddr pg src et i) et.bytes) (laneOf et c (i % et.lanes)) % 2 ^ et.bits) ∧
        OtherBytes s w ((List.range n).map (elemAddr pg dst et)) et.bytes) ∧
    (∀ pg dst src n k et et2 u, VStarted s t (.vlcvt pg dst src n k et et2 false u) → n ≤ 65536 → et ≠ .nf4 → et2 ≠ .nf4 → pg % 64 = 0 →
      src % et.bytes = 0 → dst % et2.bytes = 0 →
      (∀ i < n, OwnRead s t (elemAddr pg src et i) et.bytes ∧ OwnWrite s t (elemAddr pg dst et2 i) et2.bytes) →
      (∀ i < n, ∀ j < n, (elemAddr pg src et i + et.bytes ≤ elemAddr pg dst et2 j ∨ elemAddr pg dst et2 j + et2.bytes ≤ elemAddr pg src et i) ∧
        (i ≠ j → elemAddr pg dst et2 i ≠ elemAddr pg dst et2 j)) →
      ∃ w, exec (.vectorMemoryRetire t upto) s = .next w ∧ VRetires s w t ∧
        (∀ i < n, lsElem w (elemAddr pg dst et2 i) et2.bytes = convert et et2 k .even u (lsElem s (elemAddr pg src et i) et.bytes) % 2 ^ et2.bits) ∧
        OtherBytes s w ((List.range n).map (elemAddr pg dst et2)) et2.bytes) ∧
    ∀ (rd : Reg) pg src n et u, VStarted s t (.vlred rd pg src n et .sum u) → n ≤ 65536 → et.fmt = none → pg % 64 = 0 → src % et.bytes = 0 →
      (∀ i < n, OwnRead s t (elemAddr pg src et i) et.bytes) →
      ∃ w, exec (.vectorMemoryRetire t upto) s = .next w ∧ (w.thr t).long = none ∧ (w.thr t).pc = pcOf ((s.thr t).pc + 8) ∧ w.ls = s.ls ∧
        w.mem = s.mem ∧ OtherG (s.thr t) (w.thr t) rd ∧ (w.thr t).vpos = 0 ∧ (w.thr t).greg rd = if rd.val = 0 then 0
          else BitVec.ofInt 64 (((List.range n).map fun i => intVal et u (lsElem s (elemAddr pg src et i) et.bytes)).sum)

/-! ## The copy engine -/

namespace Sys2Proof.Claims

/-- The instruction moves PC past its 8 bytes and changes channel k of the thread's core to x; nothing else differs. -/
structure SetsChan (s u : State) (t : Tid) (k : Nat) (x : Chan) : Prop where
  chan : (u.core (coreOf t)).chan k = x
  others : ∀ j, j ≠ k → (u.core (coreOf t)).chan j = (s.core (coreOf t)).chan j
  core : u.core (coreOf t) = { s.core (coreOf t) with chans := (u.core (coreOf t)).chans }
  only : CoreOnly s u t
  thread : OnlyPc (s.thr t) (u.thr t) ∧ (u.thr t).pc = pcOf ((s.thr t).pc + 8)

/-- The copy instruction is refused with kind 5, and PC moves past its 8 bytes. -/
def RefusedCopy (i : Instr) (s : State) (t : Tid) : Prop :=
  ∃ u, exec i s = .next u ∧ CountsRefusal s u t 5 0 ∧ OnlyPc (s.thr t) (u.thr t) ∧ (u.thr t).pc = pcOf ((s.thr t).pc + 8)

/-- Thread t owns channel k of its core. -/
def OwnsChan (s : State) (t k : Nat) : Prop := (s.core (coreOf t)).owner.toNat / 4 ^ k % 4 = t % 4

/-- The channel's tag does not hide it from thread t (R319). -/
def Visible (s : State) (t k : Nat) : Prop :=
  ((s.core (coreOf t)).chan k).tag.sealed = false ∨ ((s.core (coreOf t)).chan k).tag = (s.thr t).tag

/-- The fields that a write of CCTL sets. -/
def cctl (x : Chan) (v : Word) : Chan :=
  { x with op := (v.extractLsb' 0 3).toNat, ie := v.getLsbD 7, stream := (v.extractLsb' 8 4).toNat, rtag := (v.extractLsb' 12 3).toNat }

end Sys2Proof.Claims

/-- R318–R322, R328, R330. -/
def Obligations.CopyChannels : Prop :=
  (∀ (s : State) (t : Tid) (ch : Fin 4) (ra : Reg), s.ready t [ra.val] = true → Visible s t ch →
    let x := (s.core (coreOf t)).chan ch
    let v := (s.thr t).greg ra
    (OwnsChan s t ch → x.st ≠ 1 →
      (∀ p ∈ [((0 : Fin 8), { x with src := v &&& 0xFFFFFFFFFFFFF }), (1, { x with dst := v &&& 0xFFFFFFFFFFFFF }),
              (2, { x with cnt := v.toNat % 2 ^ 40 }), (3, { x with fill := v })],
        ∃ u, exec (.cpset t ch p.1 ra) s = .next u ∧ SetsChan s u t ch { p.2 with tag := (s.thr t).tag }) ∧
      (v.getLsbD 15 = false → v.getLsbD 16 = false →
        ∃ u, exec (.cpset t ch 4 ra) s = .next u ∧ SetsChan s u t ch { cctl x v with tag := (s.thr t).tag }) ∧
      (v.getLsbD 15 = true → v.getLsbD 16 = false → ∃ u y, exec (.copyGo t ch ra) s = .next u ∧ SetsChan s u t ch y ∧
        y = { cctl x v with tag := (s.thr t).tag, level := (s.thr t).level, st := 1, event := false, mismatch := false, mismatchAt := 0
                            issuedTo := 0, bursts := [], wipe := false, progress := s.fab, err := y.err, fault := y.fault, stopAs := y.stopAs } ∧
        let bad := (y.op ≠ 1 ∧ y.src.toNat % 64 ≠ 0) ∨ y.dst.toNat % 64 ≠ 0 ∨ y.cnt % 64 ≠ 0
        (bad → y.err = 1 ∧ y.stopAs = 5) ∧ (¬ bad → 5 ≤ y.op → y.err = 2 ∧ y.stopAs = 5 ∧ y.fault = 0) ∧
        (¬ bad → y.op = 3 ∨ y.op = 4 → (s.thr t).world = true → y.err = 3 ∧ y.stopAs = 5) ∧
        (¬ bad → y.op ≤ 2 ∨ y.op ≤ 4 ∧ (s.thr t).world = false → y.err = 0 ∧ y.fault = 0 ∧ y.stopAs = if y.cnt = 0 then 2 else 0))) ∧
    (¬ OwnsChan s t ch ∨ x.st = 1 → (∀ f : Fin 8, f.val < 4 → RefusedCopy (.cpset t ch f ra) s t) ∧
      (v.getLsbD 15 = true → v.getLsbD 16 = false → RefusedCopy (.copyGo t ch ra) s t)) ∧
    (v.getLsbD 16 = true → v.getLsbD 15 = false → OwnsChan s t ch →
      (x.st = 1 → x.stopAs = 0 → x.issuedTo < x.cnt →
        ∃ u, exec (.copyAbort t ch ra) s = .next u ∧ SetsChan s u t ch { x with stopAs := 3, tag := (s.thr t).tag }) ∧
      (x.st ≠ 1 ∨ x.stopAs ≠ 0 ∨ x.cnt ≤ x.issuedTo → ∃ u, exec (.copyAbort t ch ra) s = .next u ∧ SetsChan s u t ch x)) ∧
    (v.getLsbD 3 = true → OwnsChan s t ch →
      (s.hwAt ≠ s.clk.ccycle ∨ StatusBit.copyEvent (coreOf t) ch ∉ s.hwSet →
        ∃ u, exec (.copyEventClear t ch ra) s = .next u ∧ SetsChan s u t ch { x with event := false }) ∧
      (s.hwAt = s.clk.ccycle → StatusBit.copyEvent (coreOf t) ch ∈ s.hwSet →
        ∃ u, exec (.copyEventClear t ch ra) s = .next u ∧ SetsChan s u t ch x)) ∧
    ((s.thr t).world = false → (s.thr t).level = true → (∀ j : Fin 4, ((s.core (coreOf t)).chan j).st ≠ 1) →
      ∃ u, exec (.cpset t ch 7 ra) s = .next u ∧ CoreOnly s u t ∧ u.core (coreOf t) = { s.core (coreOf t) with owner := v.setWidth 8 } ∧
        OnlyPc (s.thr t) (u.thr t) ∧ (u.thr t).pc = pcOf ((s.thr t).pc + 8))) ∧
  (∀ (s : State) (t : Tid) (ch : Fin 4) (ra : Reg), s.ready t [ra.val] = true → ¬ Visible s t ch →
    ∀ f : Fin 8, f.val < 7 → RefusedCopy (.cpset t ch f ra) s t) ∧
  (∀ (s : State) (t : Tid) (ch : Fin 4) (rd : Reg), s.ready t [] = true → ¬ Visible s t ch → RefusedCopy (.cpwait t ch) s t ∧
    ∀ f : Fin 8, f.val < 7 → ∃ u, exec (.cpget t rd ch f) s = .next u ∧ CountsRefusal s u t 5 0 ∧ (u.thr t).greg rd = 0 ∧
      OtherG (s.thr t) (u.thr t) rd ∧ OnlyG (s.thr t) (u.thr t) ∧ (u.thr t).pc = pcOf ((s.thr t).pc + 8)) ∧
  ∀ (s : State) (t : Tid) (ch : Fin 4) (rd : Reg), s.ready t [] = true → Visible s t ch →
    let x := (s.core (coreOf t)).chan ch
    (∀ p ∈ [((0 : Fin 8), x.src), (1, x.dst), (2, BitVec.ofNat 64 x.cnt), (3, x.fill),
            (4, BitVec.ofNat 64 (4096 * x.rtag + 256 * x.stream + (if x.ie then 128 else 0) + x.op)), (6, if x.st = 4 ∨ x.st = 5 then x.fault else 0),
            (7, (s.core (coreOf t)).owner.setWidth 64)],
      WritesG8 (.cpget t rd ch p.1) s t rd p.2) ∧
    (∃ w, WritesG8 (.cpget t rd ch 5) s t rd w ∧ (x.st ≤ 5 → x.err ≤ 3 → (w.extractLsb' 0 3).toNat = x.st ∧ w.getLsbD 3 = x.event ∧
      w.getLsbD 8 = x.tag.sealed ∧ (x.st ≠ 1 → x.residue < 2 ^ 40 → w.getLsbD 4 = x.mismatch ∧ (w.extractLsb' 12 40).toNat = x.residue))) ∧
    (x.st ≠ 1 → GoesTo (.cpwait t ch) s t (pcOf ((s.thr t).pc + 8))) ∧ (x.st = 1 → Blocks (.cpwait t ch) s t (.cpwait ch))

/-- R323–R328, R330, R331, for bursts of one line that is in the own local store or on the mesh; that the commands split a mesh
burst so is the model's choice (log entry 9). -/
def Obligations.CopyEngine : Prop :=
  (∀ (s : State) (n k : Nat), s.clocksOn = true → (s.core n).member ≠ none → k < 4 → (s.core n).lastChan = (k + 3) % 4 →
    let x := (s.core n).chan k
    let w := s.chanWho n k 5
    let len := min (256 - (x.dst.toNat + x.issuedTo) % 256) (x.cnt - x.issuedTo)
    x.st = 1 → x.stopAs = 0 → x.issuedTo < x.cnt → x.bursts.length < 8 → x.op = 0 →
    (∀ i < len / 64, (∃ o, ownOffset n ((x.src.toNat + x.issuedTo + 64 * i) % 2 ^ 52) = some o ∧ s.ownOkAt w.t x.level o false = true) ∧
      ∃ o, ownOffset n ((x.dst.toNat + x.issuedTo + 64 * i) % 2 ^ 52) = some o ∧ s.ownOkAt w.t x.level o true = true) →
    ∃ u b, exec (.copyBurstIssue n) s = .next u ∧ (u.core n).lastChan = k ∧ b.off = x.issuedTo ∧ b.len = len ∧ b.waits = 0 ∧ b.wrote = false ∧
      b.src = (List.range (len / 64)).map (fun i => .own ((x.src.toNat + x.issuedTo + 64 * i) % 0x2000000)) ∧
      b.dst = (List.range (len / 64)).map (fun i => .own ((x.dst.toNat + x.issuedTo + 64 * i) % 0x2000000)) ∧
      (u.core n).chan k = { x with issuedTo := x.issuedTo + len, bursts := x.bursts ++ [b] } ∧
      (∀ j, j ≠ k → (u.core n).chan j = (s.core n).chan j) ∧ u.ls = s.ls ∧ u.mem = s.mem) ∧
  (∀ (s : State) (n k : Nat) (ch : Fin 4) (b : Burst) (so d : Nat), s.engineRuns n = true → ch.val = k →
    let x := (s.core n).chan k
    x.bursts[0]? = some b → b.len = 64 → b.waits = 0 → b.wrote = false → b.dst = [.own d] → d % 64 = 0 → d < 0x2000000 → so % 64 = 0 → so < 0x2000000 →
    mayRead x.tag (s.halfTag n (so / 64)) = true → s.rowBad n (so / 128) = 0 →
    (x.op = 0 → b.src = [.own so] → ∃ u, exec (.copyBurstComplete n ch 0) s = .next u ∧ u.half n (d / 64) = s.half n (so / 64) ∧
      u.halfTag n (d / 64) = x.tag ∧ OtherHalves s u n (d / 64) ∧ (u.core n).chan k = { x with bursts := dropAt x.bursts 0, progress := s.fab }) ∧
    (x.op = 1 → b.src = [] → ∃ u, exec (.copyBurstComplete n ch 0) s = .next u ∧
      (∀ i < 8, lineNat (u.half n (d / 64)) (8 * i) 8 = x.fill.toNat) ∧ u.halfTag n (d / 64) = x.tag ∧ OtherHalves s u n (d / 64)) ∧
    (x.op = 2 → b.src = [.own so] → mayRead x.tag (s.halfTag n (d / 64)) = true → s.rowBad n (d / 128) = 0 → ∃ u, exec (.copyBurstComplete n ch 0) s = .next u ∧
      u.ls = s.ls ∧ u.mem = s.mem ∧
      (s.half n (so / 64) = s.half n (d / 64) → ((u.core n).chan k).mismatch = x.mismatch ∧ ((u.core n).chan k).stopAs = x.stopAs) ∧
      (∀ j < 64, (∀ i < j, lineByte (s.half n (so / 64)) i = lineByte (s.half n (d / 64)) i) →
        lineByte (s.half n (so / 64)) j ≠ lineByte (s.half n (d / 64)) j → x.mismatch = false → x.stopAs = 0 →
        ((u.core n).chan k).mismatch = true ∧ ((u.core n).chan k).mismatchAt = b.off + j ∧ ((u.core n).chan k).stopAs = 2)) ∧
    (x.op = 3 ∨ x.op = 4 → b.src = [.own so] → (s.core n).waitQ = [] → (s.core n).injQ.length < 16 →
      (∀ o ∈ (s.core n).outst, o.engine = .chan k → o.line ≠ (lsBase n + d) / 64) →
      ∃ u q, exec (.copyBurstComplete n ch 0) s = .next u ∧ (u.core n).injQ = (s.core n).injQ ++ [q] ∧ q.typ = .add ∧ q.dst = n ∧ q.cnt = 1 ∧
        q.rtag = x.rtag ∧ q.wide = decide (x.op = 4) ∧ q.data = s.half n (so / 64) ∧ q.line = (lsBase n + d) / 64 ∧ u.ls = s.ls)) ∧
  (∀ (s : State) (n k : Nat) (ch : Fin 4) (b : Burst) (node pa : Nat) (tag : Tag) (host : Option (Nat × Nat)) (epoch : Nat),
    s.engineRuns n = true → ch.val = k →
    let x := (s.core n).chan k
    let w := s.chanWho n k 6
    x.bursts[0]? = some b → b.len = 64 → x.op = 0 →
    (b.waits ≠ 0 → exec (.copyBurstComplete n ch 0) s = .next s) ∧
    (b.waits = 0 → b.wrote = true → ∃ u, exec (.copyBurstComplete n ch 0) s = .next u ∧ u = { s with cores := u.cores } ∧
      (u.core n).chan k = { x with bursts := dropAt x.bursts 0, progress := s.fab }) ∧
    (∀ d, b.waits = 0 → b.wrote = false → b.src = [.line node pa tag host epoch] → b.dst = [.own d] → d % 64 = 0 → d < 0x2000000 →
      ∃ u, exec (.copyBurstComplete n ch 0) s = .next u ∧ u.half n (d / 64) = Map.get 0 b.got 0 ∧ u.halfTag n (d / 64) = x.tag ∧
        OtherHalves s u n (d / 64)) ∧
    ∀ so, b.waits = 0 → b.wrote = false → b.src = [.own so] → b.dst = [.line node pa tag host epoch] → so % 64 = 0 → so < 0x2000000 →
      mayRead x.tag (s.halfTag n (so / 64)) = true → s.rowBad n (so / 128) = 0 → (s.core n).waitQ = [] → (s.core n).injQ.length < 16 →
      (∀ o ∈ (s.core n).outst, o.engine = .chan k → o.line ≠ pa / 64) → (s.thr w.t).outstanding x.stream < 4096 →
      ∃ u q o, exec (.copyBurstComplete n ch 0) s = .next u ∧ (u.core n).injQ = (s.core n).injQ ++ [q] ∧
        (u.core n).outst = (s.core n).outst ++ [o] ∧ q.typ = .wr ∧ q.dst = node ∧ q.line = pa / 64 ∧ q.data = s.half n (so / 64) ∧ q.tag = tag ∧
        q.first = 0 ∧ q.last = 63 ∧ q.host = host ∧ q.stream = x.stream ∧ q.thread = tnum w.t ∧ o.use = .copyWrite k b.off ∧
        ((u.core n).chan k).bursts[0]? = some { b with wrote := true, waits := 1 } ∧ u.ls = s.ls) ∧
  ∀ (s : State) (n : Nat) (ch : Fin 4), s.clocksOn = true →
    let x := (s.core n).chan ch
    x.st = 1 → x.bursts = [] → x.issuedTo ≤ x.cnt → x.stopAs ≠ 0 ∨ x.issuedTo = x.cnt →
    ∃ u, exec (.copyStop n ch) s = .next u ∧ u = { s with cores := u.cores, hwSet := u.hwSet, hwAt := u.hwAt } ∧ (∀ m, m ≠ n → u.core m = s.core m) ∧
      (∀ j, j ≠ ch.val → (u.core n).chan j = (s.core n).chan j) ∧
      let y := (u.core n).chan ch
      (x.wipe = true → y = {}) ∧
      (x.wipe = false → y.event = true ∧ y.st = (if x.stopAs = 0 then 2 else x.stopAs) ∧ y.stopAs = 0 ∧ y.cnt = y.residue ∧
        y.raises = (decide (y.st ≠ 2) || x.ie) ∧
        (x.stopAs ≠ 5 → x.mismatch = false → y.residue = x.cnt - x.issuedTo) ∧ (x.stopAs = 5 → y.residue = x.cnt) ∧
        (x.stopAs ≠ 5 → x.mismatch = true → y.residue = x.cnt - x.mismatchAt) ∧
        y.src.toNat = (x.src.toNat + (x.cnt - y.residue)) % 2 ^ 52 ∧ y.dst.toNat = (x.dst.toNat + (x.cnt - y.residue)) % 2 ^ 52)

/-! ## Memory stacks -/

namespace Sys2Proof.Claims

/-- Packet p waits as the i-th at stack k, which is in the member and has not failed; it may enter its channel queue, it
names line l of the stack, the key of its tag, if any, is held, and neither its payload nor the line has a bad symbol. -/
def AtStack (s : State) (k i l : Nat) (p : Packet) : Prop :=
  s.clocksOn = true ∧ k < s.member.stks ∧ (s.stack k).dead = false ∧ (s.inb (nodeStack k))[i]? = some p ∧ s.stkMay k i p = true ∧
    s.stkOf k p = some l ∧ s.keyGone p.tag = false ∧ (p.tag.sealed = true ∨ p.tag = {}) ∧
    p.bad = 0 ∧ s.lineBad k l = 0

/-- The queue of the channel of line l at stack k. -/
def queueOf (s : State) (k l : Nat) : List SReq := ((s.stack k).chan (chOf l)).queue

/-- a answers packet p. -/
def IsAnswer (a p : Packet) (typ : PType) (data : Line) : Prop :=
  a.typ = typ ∧ a.data = data ∧ a.dst = p.src ∧ a.thread = p.thread ∧ a.stream = p.stream ∧ a.seq = p.seq

/-- Every byte of the memories but those of line l of stack k reads as before. -/
def OtherLines (s u : State) (k l : Nat) : Prop :=
  u.ls = s.ls ∧ ∀ a, ¬ (2 ^ 37 * k + l * 64 ≤ a ∧ a < 2 ^ 37 * k + l * 64 + 64) → Map.get 0 u.mem a = Map.get 0 s.mem a

/-- A covered fault of a class is reported (R441): to every constellation that P names, which records it in FAULT_STATUS
and, if FAULT_INFO holds none and none other is reported in the same core cycle, there, and to the Keeper; an entry of an earlier
cycle stands. -/
structure Reports (s u : State) (cls : Nat) (P : Nat → Prop) (node : Nat) (sld : Bool) (addr : Word) : Prop where
  keeper : u.keeper.pkgBits = s.keeper.pkgBits ||| BitVec.ofNat 15 (2 ^ cls) ∧ u.keeper.pkgCount = s.keeper.pkgCount + 1
  named : ∀ c, P c → u.con c = { s.con c with
    faultBits := (s.con c).faultBits ||| BitVec.ofNat 15 (2 ^ cls), faultCount := (s.con c).faultCount + 1, faultValid := true
    faultClass := (u.con c).faultClass, faultNode := (u.con c).faultNode, faultSealed := (u.con c).faultSealed
    faultAddr := (u.con c).faultAddr, faultTime := (u.con c).faultTime, faultSince := (u.con c).faultSince
    faultLate := (u.con c).faultLate, faultLateAt := (u.con c).faultLateAt }
  held : ∀ c, P c → (s.con c).faultValid = true → (s.con c).faultSince ≠ s.clk.ccycle →
    (u.con c).faultClass = (s.con c).faultClass ∧ (u.con c).faultNode = (s.con c).faultNode ∧
    (u.con c).faultSealed = (s.con c).faultSealed ∧ (u.con c).faultAddr = (s.con c).faultAddr ∧ (u.con c).faultTime = (s.con c).faultTime
  first : ∀ c, P c → (s.con c).faultValid = false → (s.con c).faultLateAt ≠ s.clk.ccycle →
    (u.con c).faultClass = cls ∧ (u.con c).faultNode = node ∧ (u.con c).faultSealed = sld ∧
    (u.con c).faultAddr = (if sld then 0 else addr) ∧ (u.con c).faultTime = s.clk.sidereal
  others : ∀ c, ¬ P c → u.con c = s.con c

/-- Nothing differs but stack k. -/
def StackOnly (s u : State) (k : Nat) : Prop := u = { s with stks := u.stks } ∧ ∀ j, j ≠ k → u.stack j = s.stack j

/-- Nothing differs but channel ch of stack k. -/
def ChanOnly (s u : State) (k ch : Nat) : Prop :=
  StackOnly s u k ∧ u.stack k = { s.stack k with chans := (u.stack k).chans } ∧ ∀ j, j ≠ ch → (u.stack k).chan j = (s.stack k).chan j

end Sys2Proof.Claims

/-- R334–R338, R340–R343, R437. -/
def Obligations.StackRequests : Prop :=
  (∀ (s : State) (k i l : Nat) (p : Packet), AtStack s k i l p →
    (p.typ = .rd → (s.stack k).buffered l = none → ((s.stack k).chan (chOf l)).written l = false → ∃ u a, exec (.stackAccept k i 0) s = .next u ∧
      u.inb (nodeStack k) = dropAt (s.inb (nodeStack k)) i ∧ u.mem = s.mem ∧ u.ls = s.ls ∧
      queueOf u k l = queueOf s k l ++ [{ line := l, needRead := true, needWrite := false, answer := some a }] ∧
      if mayRead p.tag (s.stkTag k l).tag then IsAnswer a p .rdata (s.stkPlain k l p.line) ∧ u.keeper = s.keeper
      else IsAnswer a p .rdata 0 ∧ (s.keeper.violPkg ≠ BitVec.allOnes 48 → u.keeper.violPkg = s.keeper.violPkg + 1)) ∧
    (p.typ = .wr → p.first ≤ p.last → p.last < 64 → ∃ u a, exec (.stackAccept k i 0) s = .next u ∧
      u.inb (nodeStack k) = dropAt (s.inb (nodeStack k)) i ∧ OtherLines s u k l ∧ (u.stkTag k l).tag = p.tag ∧
      (u.stack k).ready = (s.stack k).ready ++ [a] ∧ IsAnswer a p .wack 0 ∧
      (∀ j < 64, lineByte (u.stkPlain k l p.line) j = if p.first ≤ j ∧ j ≤ p.last then lineByte p.data j
        else if (s.stkTag k l).tag = p.tag then lineByte (s.stkPlain k l p.line) j else 0) ∧
      ((s.stack k).buffered l = none → queueOf u k l = queueOf s k l ++
        [{ line := l, needRead := !decide (p.first = 0 ∧ p.last = 63), needWrite := true, bytes := spanMask p.first p.last }])) ∧
    (p.typ = .atom ∨ p.typ = .add → (s.stack k).atomQ = [] → (s.stack k).evicted = [] → (s.stack k).buffered l = none →
      (s.stack k).buf.length < 64 → ((s.stack k).chan (chOf l)).written l = false → ∃ u, exec (.stackAccept k i 0) s = .next u ∧
      u.inb (nodeStack k) = dropAt (s.inb (nodeStack k)) i ∧ u.mem = s.mem ∧ u.ls = s.ls ∧ (u.stack k).atomQ = [p] ∧
      (u.stack k).buf = { line := l, ready := false, tag := p.tag } :: (s.stack k).buf ∧
      queueOf u k l = queueOf s k l ++ [{ line := l, needRead := true, needWrite := false, forAtomic := true }])) ∧
  (∀ (s : State) (k l : Nat) (p : Packet) (rest : List Packet) (b : BufLine), s.clocksOn = true → k < s.member.stks →
    (s.stack k).atomQ = p :: rest → s.stkOf k p = some l → (s.stack k).buffered l = some b → b.ready = true → s.keyGone p.tag = false →
    p.tag.sealed = true ∨ p.tag = {} → p.bad = 0 →
    ∃ u, exec (.atomicUnitOp k) s = .next u ∧ (u.stack k).atomQ = rest ∧
      ((s.stkTag k l).tag = p.tag → p.typ = .atom → p.word < 8 → OtherLines s u k l ∧ (u.stkTag k l).tag = p.tag ∧
        let old : Word := BitVec.ofNat 64 (lineNat (s.stkPlain k l p.line) (8 * p.word) 8)
        (∃ a, (u.stack k).ready = (s.stack k).ready ++ [a] ∧ a.typ = .atomr ∧ a.dst = p.src ∧ a.seq = p.seq ∧ lineNat a.data 0 8 = old.toNat) ∧
        ∀ w < 8, lineNat (u.stkPlain k l p.line) (8 * w) 8 =
          if w = p.word then (atomResult p.op old p.opnd p.cmp).toNat else lineNat (s.stkPlain k l p.line) (8 * w) 8) ∧
      ((s.stkTag k l).tag = p.tag → p.typ = .add → OtherLines s u k l ∧ (u.stack k).ready = (s.stack k).ready ∧
        let w := if p.wide then 8 else 4
        ∀ j < 64 / w, lineNat (u.stkPlain k l p.line) (w * j) w =
          (lineNat (s.stkPlain k l p.line) (w * j) w + lineNat p.data (w * j) w) % 2 ^ (8 * w)) ∧
      (p.typ = .add → Map.get 0 (u.stack k).rcount (8 * p.cid + p.rtag) =
        Map.get 0 (s.stack k).rcount (8 * p.cid + p.rtag) + BitVec.ofNat 32 p.cnt) ∧
      ((s.stkTag k l).tag ≠ p.tag → u.mem = s.mem ∧ (s.keeper.violPkg ≠ BitVec.allOnes 48 → u.keeper.violPkg = s.keeper.violPkg + 1) ∧
        (p.typ = .atom → ∃ a, (u.stack k).ready = (s.stack k).ready ++ [a] ∧ IsAnswer a p .atomr 0))) ∧
  (∀ (s : State) (k l : Nat), s.clocksOn = true → k < s.member.stks → (s.stack k).evicted = [l] → (s.stack k).atomQ = [] →
    (queueOf s k l).length < 64 → ∃ u, exec (.atomicEvictWriteback k) s = .next u ∧ StackOnly s u k ∧ (u.stack k).evicted = [] ∧
      (u.stack k).buffered l = none ∧ queueOf u k l = queueOf s k l ++
        [{ line := l, needRead := false, needWrite := true, bytes := BitVec.allOnes 64 }]) ∧
  (∀ (s : State) (k i : Nat) (p : Packet), s.clocksOn = true → k < s.member.stks → (s.stack k).ready[i]? = some p →
    ∃ u, exec (.stackResponse k i 0) s = .next u ∧ u = { s with stks := u.stks, outbox := u.outbox, memBad := u.memBad } ∧
      (∀ j l, u.lineBad j l = s.lineBad j l) ∧
      u.stack k = { s.stack k with ready := dropAt (s.stack k).ready i } ∧ (∀ j, j ≠ k → u.stack j = s.stack j) ∧
      ∀ n, u.outb n = if n = nodeStack k then s.outb n ++ [p] else s.outb n) ∧
  (∀ (s : State) (k : Nat) (ch : Fin 32), s.clocksOn = true → k < s.member.stks → (s.stack k).inService = true →
    let c := (s.stack k).chan ch
    let n := c.slotNo
    (n % 128 = 0 ∨ n % 128 = 42 ∨ n % 128 = 85 → exec (.stackSlot k ch) s = exec (.stackRefresh k ch) s) ∧
    (n % 128 ≠ 0 → n % 128 ≠ 42 → n % 128 ≠ 85 →
      (∀ b rest, n % 32 = 31 → c.bg = b :: rest → b.kind = .neighbour → b.created + 256 ≤ n → ∃ u, exec (.stackSlot k ch) s = .next u ∧
        StackOnly s u k ∧ (u.stack k).forced = (s.stack k).forced + 1 ∧ ((u.stack k).chan ch).bg = rest ∧
        ((u.stack k).chan ch).queue = c.queue ∧ ((u.stack k).chan ch).slotNo = n + 1 ∧
        Map.get 0 ((u.stack k).chan ch).acts (65536 * b.bank + b.row) = 0) ∧
      (n % 32 ≠ 31 → c.queue = [] → c.bg = [] → ∃ u, exec (.stackSlot k ch) s = .next u ∧ ChanOnly s u k ch ∧
        (u.stack k).chan ch = { c with slotNo := n + 1 }) ∧
      (∀ q rest, n % 32 ≠ 31 → c.queue = q :: rest → (q.answer = none ∨ (s.stack k).ready.length + (s.outb (nodeStack k)).length < 256) → q.notBefore ≤ n →
        let b := q.line / 1024 % 32
        let r := q.line / 32768
        let x := c.bank b
        (if x.row = some r then x.hitFrom ≤ n else x.rowFrom ≤ n) → ∃ u, exec (.stackSlot k ch) s = .next u ∧ u.mem = s.mem ∧
          (∀ j, j ≠ k → u.stack j = s.stack j) ∧ (∀ j, j ≠ ch.val → (u.stack k).chan j = (s.stack k).chan j) ∧
          let d := (u.stack k).chan ch
          d.slotNo = n + 1 ∧ d.bg = c.bg ∧ (d.bank b).row = some r ∧
          (x.row = some r → (d.bank b).hitFrom = n + 1 ∧ (d.bank b).rowFrom = x.rowFrom ∧ d.acts = c.acts) ∧
          (x.row = none → (d.bank b).hitFrom = n + 20 ∧ (d.bank b).rowFrom = n + 48) ∧
          (x.row ≠ none → x.row ≠ some r → (d.bank b).hitFrom = n + 34 ∧ (d.bank b).rowFrom = n + 62) ∧
          (x.row ≠ some r → Map.get 0 d.acts (65536 * b + r) = Map.get 0 c.acts (65536 * b + r) + 1) ∧
          (q.needRead = false ∨ q.needWrite = false → d.queue = rest) ∧
          (q.needRead = true → q.needWrite = true → ∃ m, d.queue = { q with needRead := false, notBefore := m, bytes := BitVec.allOnes 64 } :: rest ∧ n < m) ∧
          (u.stack k).ready = (s.stack k).ready ++ if q.needRead then q.answer.toList else []))) ∧
  ∀ (s : State) (k i : Nat) (p : Packet), s.clocksOn = true → k < s.member.stks → (s.stack k).dead = true →
    (s.inb (nodeStack k))[i]? = some p → p.control = false → p.typ = .rd ∨ p.typ = .wr → ∃ u a, exec (.stackAccept k i 0) s = .next u ∧
      u.inb (nodeStack k) = dropAt (s.inb (nodeStack k)) i ∧ u.mem = s.mem ∧ (u.stack k).ready = (s.stack k).ready ++ [a] ∧
      IsAnswer a p (if p.typ = .rd then .rdata else .wack) 0

/-- R337, R344–R346, R352, R353, R430, R437, R441. -/
def Obligations.StackMaintenance : Prop :=
  (∀ (s : State) (k : Nat) (ch : Fin 32), s.clocksOn = true → k < s.member.stks → (s.stack k).inService = true →
    let c := (s.stack k).chan ch
    ((c.slotNo % 128 = 0 ∨ c.slotNo % 128 = 42 ∨ c.slotNo % 128 = 85) → ∃ u, exec (.stackRefresh k ch) s = .next u ∧ ChanOnly s u k ch ∧
      let d := (u.stack k).chan ch
      let b := c.refreshNo % 32
      d.refreshNo = c.refreshNo + 1 ∧ d.slotNo = c.slotNo + 1 ∧ d.queue = c.queue ∧ d.bg = c.bg ∧
      d.bank b = { row := none, hitFrom := c.slotNo + 48, rowFrom := c.slotNo + 48 } ∧ (∀ j, j ≠ b → d.bank j = c.bank j) ∧
      ∀ j row, row < 65536 → Map.get 0 d.acts (65536 * j + row) =
        if j = b ∧ row / 4 = c.refreshNo / 32 % 16384 then 0 else Map.get 0 c.acts (65536 * j + row)) ∧
    (¬ (c.slotNo % 128 = 0 ∨ c.slotNo % 128 = 42 ∨ c.slotNo % 128 = 85) → exec (.stackRefresh k ch) s = .next s) ∧
    (∃ u, exec (.patrolScrubCreate k ch) s = .next u ∧ ChanOnly s u k ch ∧
      let l := 32 * c.patrol + ch.val
      (u.stack k).chan ch = if c.slotNo < 2048 * c.patrols then c else
        { c with patrol := (c.patrol + 1) % 2 ^ 26, patrols := c.slotNo / 2048 + 1, bg := c.bg ++
          [{ kind := .patrol, created := c.slotNo, bank := l / 1024 % 32, row := l / 32768, line := l }] }) ∧
    (∃ u, exec (.phyCalibration k ch) s = .next u ∧ ChanOnly s u k ch ∧
      (u.stack k).chan ch = { c with bg := c.bg ++ [{ kind := .phyCal, created := c.slotNo }] }) ∧
    (∃ u, exec (.telemetryReadout k ch) s = .next u ∧ ChanOnly s u k ch ∧
      (u.stack k).chan ch = { c with bg := c.bg ++ [{ kind := .telemetry, created := c.slotNo }] }) ∧
    ∀ (b : Fin 32) (row : Nat), row < 65536 → 4096 ≤ Map.get 0 c.acts (65536 * b.val + row) →
      ∃ u new, exec (.neighbourRefresh k ch b row) s = .next u ∧ ChanOnly s u k ch ∧
        (u.stack k).chan ch = { c with bg := c.bg ++ new, acts := ((u.stack k).chan ch).acts } ∧
        (∀ j, Map.get 0 ((u.stack k).chan ch).acts j = if j = 65536 * b.val + row then 0 else Map.get 0 c.acts j) ∧
        ∀ x, x ∈ new ↔ ∃ r, (r + 1 = row ∨ r = row + 1 ∧ r < 65536) ∧
          x = { kind := .neighbour, created := c.slotNo, bank := b.val, row := r }) ∧
  (∀ (s : State) (k : Nat) (ch : Fin 32) (q : Nat), s.clocksOn = true → k < s.member.stks → q / 64 % 32 = ch.val →
    let c := (s.stack k).chan ch
    let b := q / 65536 % 32
    let r := q / 2097152
    let many := decide (16 ≤ Map.get 0 c.corrected (65536 * b + r))
    let bad := Map.get false c.bad (65536 * b + r)
    let kind := (if many then 1 else 0) + if bad then 2 else 0
    (many = false → bad = false → exec (.regionLog k ch q) s = .next s) ∧
    (many = true ∨ bad = true → (∀ e ∈ (s.stack k).retire, ¬ (e.channel = ch.val ∧ e.bank = b ∧ e.row = r)) →
      ∃ u, exec (.regionLog k ch q) s = .next u ∧ Reports s u 3 (fun _ => False) (nodeStack k) false 0 ∧ u.mem = s.mem ∧
        u.stack k = { s.stack k with
          retire := if (s.stack k).retire.length < 16 then
              (s.stack k).retire ++ [{ kind, channel := ch.val, block := q / 65536, bank := b, row := r }] else (s.stack k).retire
          retOverflow := (s.stack k).retOverflow || decide (16 ≤ (s.stack k).retire.length) }) ∧
    ∀ e, (s.stack k).retire = [e] → e.channel = ch.val → e.bank = b → e.row = r →
      (bad = true → e.kind = 1 → ∃ u, exec (.regionLog k ch q) s = .next u ∧ (u.stack k).retire = [{ e with kind := 3 }]) ∧
      (e.kind ≠ 1 → exec (.regionLog k ch q) s = .next s)) ∧
  (∀ (s : State) (k : Nat), s.clocksOn = true → k < s.member.stks → (s.stack k).inService = true →
    ∃ u, exec (.stackFailure k) s = .next u ∧ (u.stack k).dead = true ∧ (u.stack k).trained = false ∧ (u.stack k).atomQ = [] ∧
      (u.stack k).buf = [] ∧ (∀ ch, ((u.stack k).chan ch).queue = []) ∧ u.mem = s.mem ∧ (∀ j, j ≠ k → u.stack j = s.stack j) ∧
      (∀ ch r a, r ∈ ((s.stack k).chan ch).queue → r.answer = some a → ({ a with data := 0 } : Packet) ∈ (u.stack k).ready) ∧
      (∀ p ∈ (s.stack k).atomQ, p.typ ≠ .add → ∃ a ∈ (u.stack k).ready, IsAnswer a p (answerType p.typ) 0) ∧
      Reports s u 6 (fun c => c < 32 ∧ (s.con c).st ≠ .dark ∧ ∃ p ∈ s.chart.pkg.sets, p.2.sizeGib ≠ 0 ∧ p.2.mask.getLsbD k = true ∧
        (s.con c).cfg.reach.getLsbD p.1 = true) (nodeStack k) false 0) ∧
  ∀ (s : State) (k : Nat), s.clocksOn = true → k < s.member.stks → let x := s.stack k
    (s.firmware = true → ∃ u, exec (.train k) s = .next u ∧ StackOnly s u k ∧ u.stack k =
      if x.training = false ∧ x.trained = false ∧ x.dead = false then { x with training := true, trainFailed := false } else x) ∧
    (x.training = true →
      (∃ u, exec (.trainingDone k true) s = .next u ∧ u.stack k = { x with training := false, trained := true, phyLock := true } ∧
        (∀ j, j ≠ k → u.stack j = s.stack j) ∧ u.ls = s.ls ∧
        (∀ a, Map.get 0 u.mem a = if a / 2 ^ 37 = k then 0 else Map.get 0 s.mem a) ∧
        ∀ l, Map.get {} u.memTag l = (if l / 2 ^ 31 = k then {} else Map.get {} s.memTag l) ∧
          Map.get 0 u.memBad l = if l / 2 ^ 31 = k then 0 else Map.get 0 s.memBad l) ∧
      ∃ u, exec (.trainingDone k false) s = .next u ∧ StackOnly s u k ∧ u.stack k = { x with training := false, trainFailed := true }) ∧
    (∃ u, exec (.stkClearErr k) s = .next u ∧ StackOnly s u k ∧ u.stack k = { x with ue := 0, ce := 0 }) ∧
    ∃ u, exec (.stkClearRetire k) s = .next u ∧ StackOnly s u k ∧ u.stack k = { x with retire := [], retOverflow := false }

/-! ## Barriers, signals and the fog alarm -/

namespace Sys2Proof.Claims

/-- Barrier b lies in the BEACON range of the constellation of thread t (R297). -/
def MayUse (s : State) (t : Tid) (b : Nat) : Prop :=
  ∃ c, (s.core (coreOf t)).member = some c ∧ (s.con c).cfg.barFirst ≤ b ∧ b < (s.con c).cfg.barFirst + (s.con c).cfg.barCount

/-- Packet q with the source and the tag of thread t has entered its store queue; of the thread only general registers, PC
and what blocks it may differ beside, and nothing differs outside it. -/
structure Posted (s u : State) (t : Tid) (q : Packet) : Prop where
  queue : (u.thr t).storeQ = (s.thr t).storeQ ++ [.packet q]
  source : q.src = coreOf t ∧ q.thread = t % 4 ∧ q.tag = (s.thr t).tag
  thread : u.thr t = { s.thr t with storeQ := (u.thr t).storeQ, g := (u.thr t).g, busy := (u.thr t).busy, pc := (u.thr t).pc
                                    ran := (u.thr t).ran, step := (u.thr t).step, blocked := (u.thr t).blocked }
  rest : ThreadOnly s u t

/-- q is an ARRIVE packet of a kind for barrier b, addressed to its home (R304). -/
def IsArrive (s : State) (t : Tid) (b kind : Nat) (q : Packet) : Prop :=
  q.typ = .arrive ∧ q.line = b ∧ q.first = kind ∧ q.dst = 0xF00 + Map.get 0 s.chart.pkg.homes b ∧ q.cnt = 1 ∧
    (s.core (coreOf t)).member = some q.cid

/-- The use of barrier b is refused: kind 2, at the control-space address of BARRIER[b]; PC moves past the instruction, and
g[RD] is zero where the instruction writes it. -/
def RefusedBarrier (i : Instr) (s : State) (t : Tid) (b : Nat) (rd : Option Reg) : Prop :=
  ∃ u, exec i s = .next u ∧ CountsRefusal s u t 2 (BitVec.ofNat 64 (0xF000200001000 + 8 * b)) ∧ OnlyG (s.thr t) (u.thr t) ∧
    (u.thr t).pc = pcOf ((s.thr t).pc + 4) ∧ (∀ r ∈ rd, (u.thr t).greg r = 0) ∧
    ∀ r : Reg, some r ≠ rd → (u.thr t).greg r = (s.thr t).greg r

/-- Packet p waits as the i-th at the beacon unit of a die, and is an ARRIVE of a kind. -/
def AtBeacon (s : State) (die i kind : Nat) (p : Packet) : Prop :=
  s.clocksOn = true ∧ (s.inb (nodeBeacon die))[i]? = some p ∧ p.typ = .arrive ∧ p.first = kind

/-- The home performs the packet: it leaves the queue, only barrier b and the events of the die differ. -/
structure AtHome (s u : State) (die i b : Nat) : Prop where
  taken : u.inb (nodeBeacon die) = dropAt (s.inb (nodeBeacon die)) i
  rest : u = { s with inbox := u.inbox, barriers := u.barriers, beacon := u.beacon }
  barriers : ∀ j, j ≠ b → u.barrier j = s.barrier j
  events : ∀ d, d ≠ die → Map.get [] u.beacon d = Map.get [] s.beacon d

/-- Event e is the next of the tree: the oldest of the first die after the one served last that has an event (R298). -/
def NextEvent (s : State) (d : Nat) (e : BEvent) (l : List BEvent) : Prop :=
  s.clocksOn = true ∧ Map.get [] s.beacon d = e :: l ∧
    ∃ i < 8, d = (s.lastBeacon + 1 + i) % 8 ∧ ∀ j < i, Map.get [] s.beacon ((s.lastBeacon + 1 + j) % 8) = []

end Sys2Proof.Claims

/-- R286, R296–R305, R438. -/
def Obligations.Barriers : Prop :=
  (∀ (s : State) (t : Tid) (rd ra : Reg), s.ready t [ra.val] = true → let b := ((s.thr t).greg ra).toNat % 1024
    let r := s.replica b
    (MayUse s t b →
      (r.declared = false → ∃ w, WritesG (.barr t rd ra) s t rd w ∧ w.extractLsb' 16 16 = 0xC000#16 + BitVec.ofNat 16 b ∧
        w.extractLsb' 0 16 = r.gen ∧ w.extractLsb' 32 32 = 0) ∧
      (r.declared = true → r.kernel = false → ∃ u q w, exec (.barr t rd ra) s = .next u ∧ Posted s u t q ∧ IsArrive s t b 0 q ∧
        (u.thr t).greg rd = (if rd.val = 0 then 0 else w) ∧ OtherG (s.thr t) (u.thr t) rd ∧ (u.thr t).pc = pcOf ((s.thr t).pc + 4) ∧
        w.extractLsb' 16 16 = 0x8000#16 + BitVec.ofNat 16 b ∧ w.extractLsb' 0 16 = r.gen ∧ w.extractLsb' 32 32 = 0) ∧
      (r.declared = true → r.kernel = true → (s.thr t).storeQ ≠ [] → Blocks (.barr t rd ra) s t (.barrKernel rd b)) ∧
      (∃ w, WritesG (.bstat t rd ra) s t rd w ∧ w.extractLsb' 48 16 = r.gen ∧ (r.last < 4 → (w.extractLsb' 20 2).toNat = r.last) ∧
        w.getLsbD 18 = r.kernel ∧ w.getLsbD 17 = r.declared ∧ w.extractLsb' 22 26 = 0 ∧ w.extractLsb' 0 17 = 0) ∧
      (r.declared = false → GoesTo (.bfree t ra) s t (pcOf ((s.thr t).pc + 4))) ∧
      (r.declared = true → ∃ u q, exec (.bfree t ra) s = .next u ∧ Posted s u t q ∧ IsArrive s t b 2 q ∧
        (u.thr t).blocked = some (.bfree b) ∧ (u.thr t).pc = (s.thr t).pc ∧ (u.thr t).g = (s.thr t).g)) ∧
    (¬ MayUse s t b → RefusedBarrier (.barr t rd ra) s t b (some rd) ∧ RefusedBarrier (.bstat t rd ra) s t b (some rd) ∧
      RefusedBarrier (.bfree t ra) s t b none)) ∧
  (∀ (s : State) (t : Tid) (ra rb : Reg), s.ready t [ra.val, rb.val] = true → let b := ((s.thr t).greg ra).toNat % 1024
    let count := ((s.thr t).greg rb).toNat % 8192
    (MayUse s t b → 1 ≤ count → count ≤ 4608 → ∃ u q, exec (.bdecl t ra rb) s = .next u ∧ Posted s u t q ∧ IsArrive s t b 1 q ∧
      lineNat q.data 0 2 = count ∧ lineNat q.data 2 1 = (if ((s.thr t).greg rb).getLsbD 16 then 1 else 0) ∧
      (u.thr t).blocked = some (.bdecl b) ∧ (u.thr t).pc = (s.thr t).pc ∧ (u.thr t).g = (s.thr t).g) ∧
    (¬ MayUse s t b ∨ count = 0 ∨ 4608 < count → RefusedBarrier (.bdecl t ra rb) s t b none)) ∧
  (∀ (s : State) (die i : Nat) (p : Packet), let b := p.line % 1024
    let x := s.barrier b
    x.flushing = [] →
    (AtBeacon s die i 1 p → ∃ u, exec (.declareAtHome die i) s = .next u ∧ AtHome s u die i b ∧
      let late := x.declared && decide (x.arrived ≠ 0)
      u.barrier b = { declared := true, kernel := p.data.getLsbD 16, count := p.data.toNat % 8192, arrived := 0
                      gen := if late then x.gen + 1 else x.gen, last := if late then 3 else x.last } ∧
      Map.get [] u.beacon die = Map.get [] s.beacon die ++ [
        { kind := .declare, barrier := b, cid := p.cid, by_ := some (4 * p.src + p.thread)
          replica := { declared := true, kernel := p.data.getLsbD 16, gen := (u.barrier b).gen, last := (u.barrier b).last } }]) ∧
    (AtBeacon s die i 2 p → ∃ u, exec (.freeAtHome die i) s = .next u ∧ AtHome s u die i b ∧
      u.barrier b = (if x.declared then { x with declared := false, gen := x.gen + 1, last := 2, arrived := 0 } else x) ∧
      Map.get [] u.beacon die = Map.get [] s.beacon die ++ [
        { kind := .free, barrier := b, cid := p.cid, by_ := some (4 * p.src + p.thread)
          replica := { declared := false, kernel := x.kernel, gen := (u.barrier b).gen, last := (u.barrier b).last } }])) ∧
  (∀ (s : State) (die i : Nat) (p : Packet), AtBeacon s die i 0 p → ∃ u new, exec (.arriveAtHome die i) s = .next u ∧
    let b := p.line % 1024
    let x := s.barrier b
    let n := (x.arrived + p.cnt) / x.count
    AtHome s u die i b ∧ Map.get [] u.beacon die = Map.get [] s.beacon die ++ new ∧
    (x.declared = false → u.barrier b = x ∧ new = []) ∧
    (x.declared = true → new.length = n ∧ (u.barrier b).arrived = (x.arrived + p.cnt) % x.count ∧ (u.barrier b).gen = x.gen + BitVec.ofNat 16 n ∧
      (u.barrier b).last = (if n = 0 then x.last else 1) ∧ (u.barrier b).declared = true ∧ (u.barrier b).count = x.count ∧
      ∀ e ∈ new, e.barrier = b ∧ e.cid = p.cid ∧ e.kind = (if x.kernel then .flush else .release) ∧ e.replica.last = 1 ∧ e.replica.declared = true)) ∧
  (∀ (s : State) (d : Nat) (e : BEvent) (l : List BEvent), NextEvent s d e l →
    (s.failed.contains (.beacon d) = false → ∀ i, (i = Instr.declareEvent ∧ e.kind = .declare ∨ i = .freeEvent ∧ e.kind = .free ∨
        i = .releaseEvent ∧ e.kind = .release) → ∃ u, exec i s = .next u ∧ u.lastBeacon = d ∧ Map.get [] u.beacon d = l ∧
      (∀ j, j ≠ d → Map.get [] u.beacon j = Map.get [] s.beacon j) ∧ (∀ b, u.replica b = if b = e.barrier then e.replica else s.replica b) ∧
      (∀ t, e.by_ = some t → ((s.thr t).blocked = some (.bdecl e.barrier) ∧ e.kind = .declare ∨
          (s.thr t).blocked = some (.bfree e.barrier) ∧ e.kind = .free) →
        u.thr t = { s.thr t with blocked := none, pc := pcOf ((s.thr t).pc + 4) } ∧ ∀ x, x ≠ t → u.thr x = s.thr x) ∧
      (e.by_ = none → u.threads = s.threads)) ∧
    (s.failed.contains (.beacon d) = false → e.kind = .flush → (∀ n ∈ s.members e.cid, (s.core n).waitQ = []) → ∃ u, exec .flushEvent s = .next u ∧ u.lastBeacon = d ∧
      Map.get [] u.beacon d = l ∧ u.replicas = s.replicas ∧
      (∀ n ∈ s.members e.cid, (u.core n).icache = [] ∧ (u.core n).dcache = [] ∧ ∀ k < 4, (u.thr (4 * n + k)).gather = []) ∧
      ∀ n, n ∉ s.members e.cid → u.core n = s.core n ∧ ∀ k < 4, u.thr (4 * n + k) = s.thr (4 * n + k)) ∧
    (s.failed.contains (.beacon d) = true → e.kind = .release → ∃ u, exec .releaseEvent s = .next u ∧ Map.get [] u.beacon d = l ∧
      u.replicas = s.replicas ∧ u.threads = s.threads) ∧
    ∃ u, exec .beaconParityResend s = .next u ∧ Reports s u 10 (fun _ => False) 0xF00 false 0 ∧ u.beacon = s.beacon ∧ u.replicas = s.replicas) ∧
  ∀ (s : State) (b c : Nat) (r : Replica), s.clocksOn = true → (s.barrier b).flushing = [(c, r)] →
    (∀ p ∈ s.beacon, ∀ e ∈ p.2, ¬ (e.kind = .flush ∧ e.barrier = b)) →
    (∀ n ∈ s.members c, (∀ o ∈ (s.core n).outst, o.engine ≠ .cache n) ∧ (s.core n).waitQ = []) →
    ∃ u, exec (.flushReportComplete b) s = .next u ∧ u.barrier b = { s.barrier b with flushing := [] } ∧
      (∀ j, j ≠ b → u.barrier j = s.barrier j) ∧ u = { s with barriers := u.barriers, beacon := u.beacon, cons := u.cons } ∧
      let d := Map.get 0 s.chart.pkg.homes b
      Map.get [] u.beacon d = Map.get [] s.beacon d ++ [{ kind := .release, barrier := b, replica := r, cid := c }]

/-- R307–R311. -/
def Obligations.Signals : Prop :=
  (∀ (s : State) (t : Tid) (rd ra rb : Reg), s.ready t [ra.val, rb.val] = true →
    let mask : BitVec 16 := ((s.thr t).greg ra).setWidth 16
    let token := (s.thr t).greg rb
    let b := token.toNat / 65536 % 1024
    let r := s.replica b
    let freed := token.getLsbD 30 || !r.declared
    let met := token.getLsbD 31 && (freed || r.gen != token.setWidth 16)
    let done := (s.thr t).flags &&& mask ≠ 0 ∨ met = true ∨ mask = 0 ∧ token.getLsbD 31 = false
    (token.getLsbD 31 = true → ¬ MayUse s t b → RefusedBarrier (.wait t rd ra rb) s t b (some rd)) ∧
    (token.getLsbD 31 = false ∨ MayUse s t b → ¬ done → Blocks (.wait t rd ra rb) s t (.wait rd mask token)) ∧
    (token.getLsbD 31 = false ∨ MayUse s t b → done → r.last < 4 → ∃ u w, exec (.wait t rd ra rb) s = .next u ∧ ThreadOnly s u t ∧
      OnlyG { s.thr t with flags := (s.thr t).flags &&& ~~~ mask } (u.thr t) ∧ (u.thr t).pc = pcOf ((s.thr t).pc + 4) ∧
      OtherG (s.thr t) (u.thr t) rd ∧ (u.thr t).greg rd = (if rd.val = 0 then 0 else w) ∧ w.extractLsb' 0 16 = (s.thr t).flags &&& mask ∧
      (w.extractLsb' 16 3).toNat = (if met then if freed then 2 else r.last else 0) ∧ w.extractLsb' 19 45 = 0)) ∧
  (∀ (s : State) (t : Tid) (rd : Reg) (mask : BitVec 16) (token : Word), s.runs t = true → (s.thr t).stopped = false →
    (s.thr t).blocked = some (.wait rd mask token) → (s.thr t).flags &&& mask ≠ 0 →
    ∃ u, exec (.blockedRetry t) s = .next u ∧ (u.thr t).blocked = none ∧ (u.thr t).flags = (s.thr t).flags &&& ~~~ mask ∧
      (u.thr t).pc = pcOf ((s.thr t).pc + 4) ∧ OtherG (s.thr t) (u.thr t) rd ∧
      (rd.val ≠ 0 → ((u.thr t).greg rd).extractLsb' 0 16 = (s.thr t).flags &&& mask) ∧ ThreadOnly s u t) ∧
  (∀ (s : State) (t : Tid) (ra rb : Reg), s.ready t [ra.val, rb.val] = true → let tgt := ((s.thr t).greg ra).toNat % 8192
    (tgt < 4 * s.member.cores → ∃ u q, exec (.sig t ra rb) s = .next u ∧ Posted s u t q ∧ q.typ = .signal ∧ q.line = tgt ∧
      q.dst = tgt / 4 ∧ lineNat q.data 0 2 = ((s.thr t).greg rb).toNat % 65536 ∧ (u.thr t).g = (s.thr t).g ∧
      (u.thr t).pc = pcOf ((s.thr t).pc + 4)) ∧
    (4 * s.member.cores ≤ tgt → ∃ u, exec (.sig t ra rb) s = .next u ∧ CountsRefusal s u t 1 0 ∧ OnlyPc (s.thr t) (u.thr t) ∧
      (u.thr t).pc = pcOf ((s.thr t).pc + 4))) ∧
  (∀ (s : State) (t : Tid) (rd ra : Reg), s.ready t [ra.val] = true →
    let mask : BitVec 16 := ((s.thr t).greg ra).setWidth 16
    (∃ u, exec (.spoll t rd ra) s = .next u ∧ ThreadOnly s u t ∧ OnlyG { s.thr t with flags := (s.thr t).flags &&& ~~~ mask } (u.thr t) ∧
      OtherG (s.thr t) (u.thr t) rd ∧ (u.thr t).greg rd = (if rd.val = 0 then 0 else ((s.thr t).flags &&& mask).setWidth 64) ∧
      (u.thr t).pc = pcOf ((s.thr t).pc + 4)) ∧
    ∃ u, exec (.sigcfg t ra) s = .next u ∧ ThreadOnly s u t ∧ (u.thr t).pc = pcOf ((s.thr t).pc + 4) ∧
      OnlyPc { s.thr t with sigie := mask, sigopen := ((s.thr t).greg ra).extractLsb' 16 16 } (u.thr t)) ∧
  (∀ (s : State) (t : Tid) (rd : Reg), s.ready t [] = true → ∃ w, WritesG (.sigrd t rd) s t rd w ∧ w.extractLsb' 0 16 = (s.thr t).flags ∧
    w.extractLsb' 16 16 = (s.thr t).sigie ∧ w.extractLsb' 32 16 = (s.thr t).sigopen ∧ w.extractLsb' 48 16 = 0) ∧
  ∀ (s : State) (n i : Nat) (p : Packet), s.clocksOn = true → (s.inb n)[i]? = some p → p.typ = .signal →
    let t := 4 * n + p.line % 4
    let sent : BitVec 16 := p.data.setWidth 16
    (∀ c, (s.core n).member = some c →
      let f := if c = p.cid then sent else sent &&& (s.thr t).sigopen
      (f ≠ 0 → ∃ u, exec (.signalArrive n i) s = .next u ∧ u = { s with inbox := u.inbox, threads := u.threads } ∧
        u.inb n = dropAt (s.inb n) i ∧ u.thr t = { s.thr t with flags := (s.thr t).flags ||| f } ∧ ∀ x, x ≠ t → u.thr x = s.thr x) ∧
      (f = 0 → ∃ u, exec (.signalArrive n i) s = .next u ∧ u.inb n = dropAt (s.inb n) i ∧ u.threads = s.threads ∧ u.cons = s.cons ∧
        (s.keeper.violPkg ≠ BitVec.allOnes 48 → u.keeper.violPkg = s.keeper.violPkg + 1))) ∧
    ((s.core n).member = none → ∃ u, exec (.signalArrive n i) s = .next u ∧ u.inb n = dropAt (s.inb n) i ∧ u.threads = s.threads ∧
      (s.keeper.violPkg ≠ BitVec.allOnes 48 → u.keeper.violPkg = s.keeper.violPkg + 1))

/-- R312–R317. Hypotheses on `State.quiet` say that the interval was quiet whichever way the value left open by chapter 4 falls. -/
def Obligations.FogAlarm : Prop :=
  (∀ (s : State) (c : Nat), s.clocksOn = true → (s.clk.sidereal - (s.con c).fogAt).toNat < 1100 → exec (.fogSample c) s = .next s) ∧
  (∀ (s : State) (c : Nat), s.clocksOn = true → 1100 ≤ (s.clk.sidereal - (s.con c).fogAt).toNat →
    let x := s.con c
    ((∃ n ∈ s.members c, ∃ k < 4, (s.thr (4 * n + k)).ran = true ∨ (s.thr (4 * n + k)).stopped = true ∨ (s.thr (4 * n + k)).storeQ ≠ []) ∨
      x.st ≠ .running →
      ∃ u, exec (.fogSample c) s = .next u ∧ (u.con c).quietRun = 0 ∧ (u.con c).fogQuiet = false ∧
        (u.con c).fogLive = x.fogUs ∧ (u.con c).fogAt = s.clk.sidereal ∧ (u.con c).fogArmed = true ∧
        (u.con c).fogAlarm = x.fogAlarm ∧ (u.con c).fogCount = x.fogCount ∧ (u.con c).fogKeeper = x.fogKeeper ∧
        (∀ d, d ≠ c → u.con d = s.con d) ∧ (∀ n ∈ s.members c, ∀ k < 4, (u.thr (4 * n + k)).ran = false)) ∧
    ((∀ o, s.quiet c o = true) →
      (¬ (x.fogArmed = true ∧ x.fogLive ≤ x.quietRun + 1) → ∃ u, exec (.fogSample c) s = .next u ∧ (u.con c).quietRun = x.quietRun + 1 ∧
        (u.con c).fogLive = x.fogUs ∧ (u.con c).fogAt = s.clk.sidereal ∧ (u.con c).fogQuiet = true ∧ (u.con c).fogArmed = x.fogArmed ∧ (u.con c).fogAlarm = x.fogAlarm ∧ (u.con c).fogCount = x.fogCount) ∧
      (x.fogArmed = true → x.fogLive ≤ x.quietRun + 1 → ∃ u, exec (.fogSample c) s = .next u ∧ (u.con c).fogAlarm = true ∧
        (u.con c).fogCount = x.fogCount + 1 ∧ (u.con c).fogTime = s.clk.sidereal ∧ (u.con c).fogArmed = false ∧
        (u.thr (s.supThread c)).tookFog = false ∧
        (s.isSup (s.supThread c) c = true → (u.con c).fogKeeper = true ∧ (u.con c).fogSince = none) ∧
        (s.isSup (s.supThread c) c = false → (u.con c).fogKeeper = x.fogKeeper ∧ (u.con c).fogSince = some 0)))) ∧
  (∀ (s : State) (c k : Nat), s.clocksOn = true → (s.con c).fogSince = some k →
    (k < (s.con c).fogLive → exec (.fogEscalation c) s = .next s) ∧
    ((s.con c).fogLive ≤ k → (s.thr (s.supThread c)).tookFog = true →
      exec (.fogEscalation c) s = .next (s.modCon c fun x => { x with fogSince := none })) ∧
    ((s.con c).fogLive ≤ k → (s.thr (s.supThread c)).tookFog = false → ∃ u, exec (.fogEscalation c) s = .next u ∧
      u.con c = { s.con c with fogKeeper := true, fogSince := none } ∧ (∀ d, d ≠ c → u.con d = s.con d) ∧ u.threads = s.threads ∧
      (s.firmware = true → ∃ e, u.keeper.events.getLast? = some e ∧ e.kind = 2 ∧ e.cid = c ∧ e.seq = s.keeper.eventSeq))) ∧
  (∀ (s : State) (acc : Accessor) (c : Nat) (v : Word), s.clocksOn = true → c < 32 →
    (acc = .keeper ∧ s.firmware = true ∨ ∃ t, acc = .thread t ∧ s.isSup t c = true) →
    (s.hwAt ≠ s.clk.ccycle ∨ StatusBit.fogAlarm c ∉ s.hwSet →
      exec (.fogAlarmClear acc c) s = .next (s.modCon c fun x => { x with fogAlarm := false })) ∧
    (s.hwAt = s.clk.ccycle → StatusBit.fogAlarm c ∈ s.hwSet → ∃ u, exec (.fogAlarmClear acc c) s = .next u ∧ u.con c = s.con c ∧
      u = { s with cons := u.cons }) ∧
    let f := (v.extractLsb' 0 20).toNat
    let n := (v.extractLsb' 32 13).toNat
    exec (.liveLimitsWrite acc c v) s = .next (s.modCon c fun x => { x with
      fogUs := if 1 ≤ f ∧ f ≤ 1000000 then f else x.fogUs, niLimit := if n ≤ x.cfg.niLimit then n else x.niLimit })) ∧
  ∀ (s : State) (t c : Nat) (v : Word), s.clocksOn = true → c < 32 → s.isSup t c = false →
    (∃ u, exec (.fogAlarmClear (.thread t) c) s = .next u ∧ CountsRefusal s u t 5 (BitVec.ofNat 64 (0xF000200000000 + 16 * c)) ∧
      u.threads = s.threads) ∧
    ∃ u, exec (.liveLimitsWrite (.thread t) c v) s = .next u ∧ CountsRefusal s u t 5 (BitVec.ofNat 64 (0xF000200000400 + 8 * c)) ∧
      u.threads = s.threads

/-! ## The host interface -/

namespace Sys2Proof.Claims

/-- A host request reaches function f and is neither dropped by IDE nor discarded by a Function Level Reset. -/
def HostUp (s : State) (f : Nat) : Prop := s.hostSees f = true ∧ s.ideBroken f = false ∧ (s.func f).flr = false

/-- An access at an offset of the inbound aperture of VF f, which is bound to c, is translated to fabric address a and
admitted (R359). -/
def Admits (s : State) (f off : Nat) (write : Bool) (a : Nat) : Prop :=
  let e := Map.get 0 (s.func f).inb (off / 2 ^ 30)
  f ≠ 0 ∧ off < 63 * 2 ^ 30 ∧ a = 2 ^ 30 * (e.extractLsb' 30 22).toNat + off % 2 ^ 30 ∧ e.getLsbD 0 = true ∧
    e.getLsbD (if write then 2 else 1) = true ∧ ∃ c, (s.func f).bound = some c ∧
    ((∃ p ∈ s.chart.pkg.sets, (s.con c).cfg.reach.getLsbD p.1 = true ∧ p.2.holds a = true) ∨
      ∃ n o, s.target a = .ls n o ∧ (s.core n).member = some c)

/-- One refused access more in the package's count, unless it is full. -/
def CountsOne (s u : State) : Prop :=
  u.keeper.violPkg = if s.keeper.violPkg = BitVec.allOnes 48 then s.keeper.violPkg else s.keeper.violPkg + 1

/-- Nothing differs but the host bridge and the answers that wait there. -/
def BridgeOnly (s u : State) : Prop := u = { s with host := u.host, outbox := u.outbox }

/-- Every outbound read that `which` names is gone, and its packet, if any, is answered with zero; the others stay. -/
def EndsReads (s u : State) (which : HostRead → Prop) : Prop :=
  (∀ r, r ∈ u.host.reads ↔ r ∈ s.host.reads ∧ ¬ which r) ∧
  (∀ r ∈ s.host.reads, which r → ∀ p, r.pkt = some p → ∃ a ∈ u.outb nodeHost, IsAnswer a p .rdata 0) ∧
  ∀ a ∈ s.outb nodeHost, a ∈ u.outb nodeHost

/-- Outbound read r was issued for constellation c. -/
def ReadFor (s : State) (r : HostRead) (c : Nat) : Prop :=
  ∃ p, r.pkt = some p ∧ ((s.func r.func).bound.or (s.requester p)) = some c

end Sys2Proof.Claims

/-- R356, R359–R366, R371, R426. -/
def Obligations.HostTraffic : Prop :=
  (∀ (s : State) (f off len : Nat), HostUp s f → f ≠ 0 → off < 63 * 2 ^ 30 → 0 < len → off % 64 + len ≤ 64 →
    (∀ a v, Admits s f off false a → s.homeRead {} (a / 64 * 64) = (v, false) → s.lostWords (a / 64 * 64) = 0 → ∃ u bs, exec (.hostInboundRead f off len) s = .next u ∧
      u.host.tlps = s.host.tlps ++ [.completion f bs false] ∧ bs.length = len ∧ (∀ j < len, bs[j]? = some (lineByte v (off % 64 + j))) ∧
      u.mem = s.mem ∧ u.ls = s.ls ∧ u.keeper = s.keeper) ∧
    ((∀ a, ¬ Admits s f off false a) → ∃ u bs, exec (.hostInboundRead f off len) s = .next u ∧ CountsOne s u ∧
      u.host.tlps = s.host.tlps ++ [.completion f bs false] ∧ bs = List.replicate len 0 ∧ u.mem = s.mem ∧ u.ls = s.ls)) ∧
  (∀ (s : State) (f off : Nat) (data : List Byte), HostUp s f → f ≠ 0 → off < 63 * 2 ^ 30 → data ≠ [] → off % 64 + data.length ≤ 64 →
    (∀ a n o, Admits s f off true a → s.target a = .ls n o → s.tableFree none a (a + data.length - 1) = true →
      s.rowBad n (o / 128) = 0 → ∃ u, exec (.hostInboundWrite f off data) s = .next u ∧
      OtherHalves s u n (o / 64) ∧ u.halfTag n (o / 64) = {} ∧ u.keeper = s.keeper ∧
      ∀ k < 64, lineByte (u.half n (o / 64)) k = if off % 64 ≤ k ∧ k < off % 64 + data.length then data.getD (k - off % 64) 0
        else if s.halfTag n (o / 64) = {} then lineByte (s.half n (o / 64)) k else 0) ∧
    ((∀ a, Admits s f off true a → s.tableFree none a (a + data.length - 1) = false) → ∃ u, exec (.hostInboundWrite f off data) s = .next u ∧ CountsOne s u ∧ u.mem = s.mem ∧ u.ls = s.ls)) ∧
  (∀ (s : State) (f c : Nat) (i : Fin 64) (v : Word), HostUp s f → f ≠ 0 → (s.func f).bound = some c →
    (∃ u, exec (.doorbell f i 8 v) s = .next u ∧ u = { s with funcs := u.funcs, hwSet := u.hwSet, hwAt := u.hwAt } ∧
      (∀ g, g ≠ f → u.func g = s.func g) ∧
      u.func f = { s.func f with doorbell := (u.func f).doorbell, dbPend := (s.func f).dbPend ||| BitVec.ofNat 64 (2 ^ i.val) } ∧
      ∀ k, Map.get 0 (u.func f).doorbell k = if k = i.val then v else Map.get 0 (s.func f).doorbell k) ∧
    ∀ size, size ≠ 8 → ∃ u, exec (.doorbell f i size v) s = .next u ∧ CountsOne s u ∧ u.funcs = s.funcs) ∧
  (∀ (s : State) (t : Tid) (f c : Nat) (v : Word), s.clocksOn = true → 0 < f → f < 32 → (s.func f).bound = some c →
    (s.core (coreOf t)).member = some c → let n := v.toNat % 2048
    (s.hwAt ≠ s.clk.ccycle →
      exec (.dbPendClear (.thread t) f v) s = .next (s.modFunc f fun x => { x with dbPend := x.dbPend &&& ~~~ v })) ∧
    (s.hwAt = s.clk.ccycle → ∃ u, exec (.dbPendClear (.thread t) f v) s = .next u ∧ u = { s with funcs := u.funcs } ∧
      (∀ g, g ≠ f → u.func g = s.func g) ∧ ∀ i : Fin 64, (u.func f).dbPend.getLsbD i =
        ((s.func f).dbPend.getLsbD i && (!v.getLsbD i || s.hwSet.contains (.doorbell f i)))) ∧
    ((s.func f).vectors ≤ n → ∃ u, exec (.msixSend t f v) s = .next u ∧ CountsRefusal s u t 5 (BitVec.ofNat 64 (0xF000800002000 + 0x20000 * f)) ∧
      u.host = s.host) ∧
    (n < (s.func f).vectors → ((s.func f).msixEnable = false ∨ (s.func f).busMaster = false) → exec (.msixSend t f v) s = .next s) ∧
    (n < (s.func f).vectors → (s.func f).msixEnable = true → (s.func f).busMaster = true →
      let e := Map.get 0 (s.func f).msixTable n
      ((s.func f).msixMask = true ∨ e.getLsbD 96 = true → ∃ u, exec (.msixSend t f v) s = .next u ∧ u.host = s.host ∧
        Map.get false (u.func f).msixPba n = true) ∧
      ((s.func f).msixMask = false → e.getLsbD 96 = false → s.host.linkUp = true → s.ideLost f (e.toNat % 2 ^ 64) = false →
        exec (.msixSend t f v) s = .next { s with host := { s.host with tlps := s.host.tlps ++ [.msix f n e] } }))) ∧
  (∀ (s : State) (tag : Nat) (data : Line) (r : HostRead) (p : Packet), s.host.reads.find? (fun r => r.tag == tag) = some r → r.pkt = some p →
    (s.clocksOn = true → s.host.linkUp = true → (∀ c, ReadFor s r c → ∀ q ∈ s.funcs, q.2.bound = some c → q.2.flr = false) →
      ∃ u, exec (.hostCompletion tag data) s = .next u ∧ BridgeOnly s u ∧ Answers s u nodeHost p .rdata data ∧
        u.host = { s.host with reads := s.host.reads.filter fun x => x.tag != tag }) ∧
    (s.clocksOn = true → s.host.timeoutOff = true ∨ (∀ x ∈ s.host.reads, x.tag = tag → s.fab < x.since + s.host.timeoutFab) →
      exec (.completionTimeout tag) s = .next s) ∧
    ∀ i e, i = Instr.completionTimeout tag ∧ e = AerErr.completionTimeout ∧ s.clocksOn = true ∧ s.host.timeoutOff = false ∧
        r.since + s.host.timeoutFab ≤ s.fab ∨
        i = .poisonedCompletion tag ∧ e = .poisonedTlp ∧ s.clocksOn = true ∧ s.host.linkUp = true →
      ∃ u, exec i s = .next u ∧ Answers s u nodeHost p .rdata 0 ∧
        u.host = { s.host with reads := s.host.reads.filter (fun x => x.tag != tag), aer := s.host.aer ++ [(r.func, e)] } ∧
        Reports s u 12 (fun c => c < 32 ∧ ReadFor s r c) nodeHost false 0) ∧
  (∀ (s : State), s.clocksOn = true → s.host.linkUp = true →
    (∀ tag data, (∀ r ∈ s.host.reads, r.tag ≠ tag) → exec (.hostCompletion tag data) s = exec .unexpectedCompletion s) ∧
    exec .unexpectedCompletion s = .next { s with host := { s.host with aer := s.host.aer ++ [(0, .unexpectedCompletion)] } } ∧
    (∀ f < 32, exec (.unsupportedRequest f) s = .next { s with host := { s.host with aer := s.host.aer ++ [(f, .unsupportedRequest)] } }) ∧
    (∀ f off, HostUp s f → off < 2 ^ 36 → exec (.poisonedWrite f off) s =
      .next { s with host := { s.host with aer := s.host.aer ++ [(f, .poisonedTlp)] } }) ∧
    (s.inb nodeHost = [] → s.host.reads ≠ [] → ∃ u, exec .bridgeInternalError s = .next u ∧ EndsReads s u (fun _ => True) ∧
      u.host.aer = s.host.aer ++ [(0, .internalError)] ∧ Reports s u 12 (fun c => c < 32 ∧ ∃ r ∈ s.host.reads, ReadFor s r c) nodeHost false 0)) ∧
  (∀ (s : State) (a n : Nat), s.clocksOn = true → s.host.pf0Fetch = some (a, n) →
    let k := min 64 (s.host.pf0Tokens + (s.fab - s.host.pf0At) * 5 / 352)
    let h := ((s.func 0).hwhost.toNat + (a - (s.func 0).hwbase.toNat)) % 2 ^ 64
    (k = 0 ∨ s.chart.busy = some .load ∧ s.chart.flr ≠ none → exec .pf0RateRelease s = .next s) ∧
    (0 < k → s.chart.busy ≠ some .load ∨ s.chart.flr = none → (s.func 0).hwHolds a = true → (s.func 0).busMaster = true →
      s.host.linkUp = true → s.ideLost 0 (h / 64 * 64) = false → ∃ u, exec .pf0RateRelease s = .next u ∧ u = { s with host := { s.host with
        pf0Fetch := if n ≤ 1 then none else some (a + 64, n - 1), pf0Tokens := k - 1, pf0At := u.host.pf0At
        nextTag := (s.host.nextTag + 1) % 16384, tlps := s.host.tlps ++ [.memRead 0 s.host.nextTag (h / 64 * 64)]
        reads := s.host.reads ++ [{ tag := s.host.nextTag, func := 0, pkt := none, line := s.host.pf0Lines - n, since := s.fab, addr := h }] } } ∧
        (k = 64 → u.host.pf0At = s.fab))) ∧
  (∀ (s : State) (i f a : Nat) (p : Packet), s.clocksOn = true → s.host.linkUp = true → s.ideLost f (a / 64 * 64) = false →
    (s.inb nodeHost)[i]? = some p → p.control = false → p.host = some (f, a) → p.typ = .wr → ∃ u, exec (.wrAtHome nodeHost i 0) s = .next u ∧
      u.inb nodeHost = dropAt (s.inb nodeHost) i ∧ Answers s u nodeHost p .wack 0 ∧
      u.host = { s.host with tlps := s.host.tlps ++ [.memWrite f (a / 64 * 64) p.first p.last p.data] }) ∧
  ∀ (s : State) (f : Nat) (fld : ConfigField) (v : Word), s.clocksOn = true → s.host.linkUp = true → f < 32 → f = 0 ∨ s.host.vfEnable = true → s.ideBroken f = false →
    (s.host.ready = false → exec (.configurationRequest f fld v) s =
      .next { s with host := { s.host with tlps := s.host.tlps ++ [.configDone f true 0] } }) ∧
    (s.host.ready = true → ∃ u data, exec (.configurationRequest f fld v) s = .next u ∧ Tlp.configDone f false data ∈ u.host.tlps ∧
      (fld = .read → v = 0 → data = 65536 * (if f = 0 then 0x4E00 + BitVec.ofNat 64 s.member.dies else 0x4E80) + 0x1F3C) ∧
      (fld = .completionTimeout → f = 0 → u.host.timeoutRange = v.toNat % 16 ∧ u.host.timeoutOff = v.getLsbD 4) ∧
      (fld = .read → u.funcs = s.funcs ∧ u.host.vfEnable = s.host.vfEnable) ∧
      (fld = .busMaster → (s.func f).msixPba = [] → u.func f = { s.func f with busMaster := v.getLsbD 0 }) ∧
      (fld = .msixEnable → (s.func f).msixPba = [] → u.func f = { s.func f with msixEnable := v.getLsbD 0 }) ∧
      (fld = .msixMask → (s.func f).msixPba = [] → u.func f = { s.func f with msixMask := v.getLsbD 0 }) ∧
      (fld = .vfEnable → f = 0 → v.getLsbD 0 = true → u.host.vfEnable = true) ∧
      (fld = .powerState → f = 0 → u.host.d3hot = decide (v.toNat % 4 = 3)) ∧ ∀ g, g ≠ f → fld ≠ .vfEnable → u.func g = s.func g)

/-- R367–R370, R426. -/
def Obligations.FunctionResets : Prop :=
  (∀ (s : State) (f : Nat), s.hostSees f = true → f ≠ 0 → ∃ u, exec (.vfFlr f) s = .next u ∧ u.func f = { s.func f with flr := true } ∧
    (∀ g, g ≠ f → u.func g = s.func g) ∧ u = { s with funcs := u.funcs, cons := u.cons } ∧
    ((s.func f).bound = none → u.cons = s.cons) ∧
    ∀ c, (s.func f).bound = some c → (s.con c).st ≠ .dark → f ∉ (s.con c).flrWaiting →
      u.con c = { s.con c with flrWaiting := (s.con c).flrWaiting ++ [f] } ∧ ∀ d, d ≠ c → u.con d = s.con d) ∧
  (∀ (s : State) (f off len : Nat) (data : List Byte) (i : Fin 64) (v : Word), s.hostSees f = true → s.ideBroken f = false →
    (s.func f).flr = true → f ≠ 0 → off < 63 * 2 ^ 30 →
    (∃ u bs, exec (.hostInboundRead f off len) s = .next u ∧ bs = List.replicate len 0 ∧
      u = { s with host := { s.host with tlps := s.host.tlps ++ [.completion f bs false] } }) ∧
    exec (.hostInboundWrite f off data) s = .next s ∧ exec (.doorbell f i 8 v) s = .next s) ∧
  (∀ (s : State) (f : Nat), s.clocksOn = true → f ≠ 0 → (s.func f).flr = true →
    ((s.func f).bound = none → ∃ u, exec (.vfFlrComplete f) s = .next u ∧ (∀ g, g ≠ f → u.func g = s.func g) ∧
      u.func f = { vectors := (s.func f).vectors }) ∧
    ∀ c, (s.func f).bound = some c →
      (f ∈ (s.con c).flrWaiting → exec (.vfFlrComplete f) s = .next s) ∧
      (f ∉ (s.con c).flrWaiting → (s.con c).st ≠ .dark →
        exec (.vfFlrComplete f) s = .next (s.modFunc f fun x => { x with flr := false })) ∧
      (f ∉ (s.con c).flrWaiting → (s.con c).st = .dark → ∃ u, exec (.vfFlrComplete f) s = .next u ∧
        u.func f = { bound := some c, vectors := (s.func f).vectors })) ∧
  (∀ (s : State) (i : Instr), s.clocksOn = true → i = .hotReset ∨ i = .pf0Flr ∧ s.host.linkUp = true → ∃ u, exec i s = .next u ∧
    u.func 0 = { bound := (s.func 0).bound, vectors := (s.func 0).vectors, flr := (s.func 0).flr } ∧ u.host.d3hot = false ∧ u.host.doe = none ∧
    u.host.timeoutRange = 0 ∧ u.host.timeoutOff = false ∧
    u.host.vfEnable = false ∧ u.keeper = { s.keeper with mbBusy := false, mbDone := false, mbSeq := 0, mbWait := none, request := [], response := [] } ∧
    (s.host.vfEnable = false → (∀ g, g ≠ 0 → u.func g = s.func g) ∧ u.cons = s.cons) ∧
    (s.host.vfEnable = true → ∀ f, 1 ≤ f → f < 32 → u.func f = { s.func f with flr := true } ∧
      ∀ c, (s.func f).bound = some c → (s.con c).st ≠ .dark → f ∈ (u.con c).flrWaiting) ∧
    u.threads = s.threads ∧ u.mem = s.mem ∧ u.ls = s.ls) ∧
  (∀ (s : State), s.clocksOn = true → s.host.linkUp = true →
    exec .d3hot s = .next { s with host := { s.host with d3hot := true } } ∧
    (s.inb nodeHost = [] → ∃ u, exec .linkDown s = .next u ∧ u.host.linkUp = false ∧ u.host.tlps = s.host.tlps ∧
      u.host.aer = s.host.aer ++ [(0, .surpriseDown)] ∧ EndsReads s u (fun _ => True) ∧
      (s.host.reads ≠ [] → Reports s u 12 (fun c => c < 32 ∧ ∃ r ∈ s.host.reads, ReadFor s r c) nodeHost false 0) ∧
      (s.host.reads = [] → u.cons = s.cons ∧ u.keeper = s.keeper) ∧ u.threads = s.threads)) ∧
  ∀ (s : State),
    (s.host.d3hot = true → s.hostSees 0 = false) ∧
    (s.power.perstLow = false → s.power.powerGood = true → s.clocksOn = true →
      exec .dataLinkUp s = .next { s with host := { s.host with linkUp := true } }) ∧
    (s.power.perstLow = true ∨ s.power.powerGood = false ∨ s.clocksOn = false → exec .dataLinkUp s = .next s)

/-- R373, R374, R420, R421. Which functions a stream serves inbound, the signed content and SPDM answers are Config's (log entries 4 and 38). -/
def Obligations.HostSecurity : Prop :=
  (∀ (s : State) (k : Fin 8), s.clocksOn = true → s.inb nodeHost = [] → ∃ u, exec (.ideCheckFailure k) s = .next u ∧
    Map.get false u.host.ideInsecure k.val = true ∧ Map.get false u.host.ideSecure k.val = false ∧
    (∀ j, j ≠ k.val → Map.get false u.host.ideInsecure j = Map.get false s.host.ideInsecure j) ∧
    EndsReads s u (fun r => (s.host.ide k).covers r.func r.addr = true) ∧
    ∀ f off len data v, ∀ i : Fin 64, Config.ideInbound k f = true → f ≠ 0 → off < 63 * 2 ^ 30 → exec (.doorbell f i 8 v) u = .next u ∧
      exec (.hostInboundWrite f off data) u = .next u ∧ exec (.hostInboundRead f off len) u = .next u) ∧
  (∀ (s : State) (k : Fin 8) (key : BitVec 256), s.clocksOn = true → s.host.linkUp = true → ∃ u, exec (.ideKm k key) s = .next u ∧
    u = { s with host := { s.host with ideKey := u.host.ideKey, ideSecure := u.host.ideSecure, ideInsecure := u.host.ideInsecure } } ∧
    Map.get 0 u.host.ideKey k.val = key ∧ Map.get false u.host.ideSecure k.val = true ∧ Map.get false u.host.ideInsecure k.val = false ∧
    ∀ j, j ≠ k.val → Map.get 0 u.host.ideKey j = Map.get 0 s.host.ideKey j ∧ Map.get false u.host.ideSecure j = Map.get false s.host.ideSecure j ∧
      Map.get false u.host.ideInsecure j = Map.get false s.host.ideInsecure j) ∧
  (∀ (s : State) (obj : List Byte),
    (65536 < obj.length ∨ s.bridgeUp = false ∨ s.host.ready = false ∨ s.firmware = false → exec (.doeObject obj) s = .next s) ∧
    (obj.length ≤ 65536 → s.bridgeUp = true → s.host.ready = true → s.firmware = true →
      (obj.take 3 ≠ [1, 0, 0] → exec (.doeObject obj) s = .next { s with host := { s.host with doe := some obj } }) ∧
      (obj.take 3 = [1, 0, 0] → ∃ ans, exec (.doeObject obj) s =
        .next { s with host := { s.host with doe := none, doeOut := s.host.doeOut ++ [ans] } })) ∧
    (s.bridgeUp = true → s.host.ready = true → exec .doeAbort s = .next { s with host := { s.host with doe := none, doeQuote := false } })) ∧
  ∀ (s : State), s.bridgeUp = true → s.host.ready = true → s.firmware = true →
    (∀ (cid : BitVec 8) (nonce : BitVec 256), cid.toNat < 32 ∨ cid = 0xFF →
      (s.trust.quoteBusy = true → exec (.quoteReq cid nonce) s = .next s) ∧
      (s.trust.quoteBusy = false → s.trust.idReady = true → ∃ u, exec (.quoteReq cid nonce) s = .next u ∧
        u = { s with host := { s.host with doeQuote := true }, trust := { s.trust with
          quoteNonce := nonce, quoteDone := false, quoteBusy := true, quoteSeq := s.trust.quoteSeq + 1, quoteBody := u.trust.quoteBody } } ∧
        u.trust.quoteBody.length = 512 ∧ (u.trust.quoteBody.drop 32).take 32 = natBytes 32 nonce.toNat ∧
        u.trust.quoteBody[7]? = some cid ∧ (u.trust.quoteBody.drop 24).take 8 = natBytes 8 (s.trust.quoteSeq + 1).toNat)) ∧
    (∃ ans, exec .skeyReq s = .next { s with host := { s.host with doe := none, doeOut := s.host.doeOut ++ [4 :: natBytes 4 s.trust.skeyId.toNat ++ ans] } } ∧
      ans.length = 1184 ∧ (s.trust.skeyValid = false → ∀ b ∈ ans, b = 0)) ∧
    ∀ msg, ∃ ans, exec (.spdmMessage msg) s =
      .next { s with host := { s.host with spdm := s.host.spdm ++ msg, doe := none, doeOut := s.host.doeOut ++ [ans] } }

/-! ## Meridian -/

namespace Sys2Proof.Claims

/-- Nothing differs but Meridian port p, the event log and the count of free values. -/
def PortOnly (s u : State) (p : Nat) : Prop :=
  u = { s with ports := u.ports, keeper := u.keeper, freeCtr := u.freeCtr } ∧ (∀ q, q ≠ p → u.port q = s.port q) ∧
    u.keeper = { s.keeper with events := u.keeper.events, eventSeq := u.keeper.eventSeq }

/-- Port p has entered a state now, and the firmware has logged it. -/
def Entered (s u : State) (p : Nat) (st : PState) (lanes : Nat) : Prop :=
  (u.port p).st = st ∧ (u.port p).lanes = lanes ∧ (u.port p).since = s.fab ∧
    (s.firmware = true → ∃ e, u.keeper.events.getLast? = some e ∧ e.kind = 5)

/-- Port p enters a state, and nothing else differs but the event log. -/
def MovesTo (i : Instr) (s : State) (p : Nat) (st : PState) (lanes : Nat) : Prop :=
  ∃ u, exec i s = .next u ∧ PortOnly s u p ∧ Entered s u p st lanes

/-- The identity that the peer of port p sent is one the part accepts (R381). -/
def Accepted (s : State) (p fleet port first width : Nat) : Prop :=
  let r := s.portRec p
  s.chart.pkg.admits.getLsbD fleet = true ∧ fleet ≠ s.chart.pkg.fleetId ∧ width = r.bondWidth ∧ port = first + (p - r.bondFirst) ∧
    ∀ q ∈ s.livePorts r.bondFirst, ∃ n w, (s.port q).peerMsg = some (fleet, n, first, w)

/-- Port p has left its bond: the bond goes on over its other live members and replays what is not acknowledged, with class
7 reported; or it had none, and every request held at its ports is answered at once, with class 8 for the constellations
concerned (R385, R389, R436). -/
structure LeavesBond (s u : State) (p : Nat) : Prop where
  goesOn : (∃ q ∈ s.livePorts (s.bondOf p), q ≠ p) → (u.bond (s.bondOf p)).replay = (s.bond (s.bondOf p)).unacked ∧
    (u.bond (s.bondOf p)).unacked = (s.bond (s.bondOf p)).unacked ∧ (u.bond (s.bondOf p)).credits = (s.bond (s.bondOf p)).credits - 2048 ∧
    u.keeper.pkgBits.getLsbD 7 = true ∧ (u.port p).reqs = (s.port p).reqs ∧ u.cons = s.cons
  ends : (∀ q ∈ s.livePorts (s.bondOf p), q = p) → (u.bond (s.bondOf p)).unacked = [] ∧ u.keeper.pkgBits.getLsbD 8 = true ∧
    ∀ q ∈ s.bondPorts (s.bondOf p), (u.port q).reqs = [] ∧ (u.port q).outQ = [] ∧ u.inb (nodePort q) = [] ∧
      ∀ k ∈ (s.port q).reqs.map (·.pkt) ++ s.inb (nodePort q), k.src < 0x480 →
        (∃ a ∈ u.outb (nodePort q), IsAnswer a k (answerType k.typ) 0) ∧
        ∀ c < 32, s.requester k = some c → (u.con c).faultBits.getLsbD 8 = true

/-- Port p is up and is one of its bond's ports. -/
def UpPort (s : State) (p : Nat) : Prop :=
  s.clocksOn = true ∧ p < s.member.ports ∧ (s.port p).st = .up ∧ (s.portRec p).enable = true

/-- The next frame time of port p has come, and among the live members of its bond the port is next (R375, R385). -/
def MaySend (s : State) (p : Nat) : Prop := (s.port p).nextTx ≤ 5 * s.fab ∧ s.txTurn p = true

/-- No timestamp message of port p waits to leave. -/
def NoStamps (s : State) (p : Nat) : Prop := (s.port p).owes = [] ∧ (s.port p).asks = false

end Sys2Proof.Claims

/-- R380, R381, R385, R389, R436, R473. -/
def Obligations.PortStates : Prop :=
  (∀ (s : State) (p : Nat), s.clocksOn = true → p < s.member.ports → let q := s.port p
    (q.st = .training → MovesTo (.lanesLocked p) s p .identify 8) ∧
    (q.st ≠ .training → exec (.lanesLocked p) s = .next s ∧ ∀ h, exec (.trainingTimeout p h) s = .next s) ∧
    (q.st = .training → s.fab < q.since + 44000000 → ∀ h, exec (.trainingTimeout p h) s = .next s) ∧
    (q.st = .training → q.since + 44000000 ≤ s.fab → MovesTo (.trainingTimeout p true) s p .identify 4 ∧
      MovesTo (.trainingTimeout p false) s p .down 0) ∧
    (q.st = .down → q.since + 2200000000 ≤ s.fab → q.cable = true → MovesTo (.downRetry p) s p .training 0) ∧
    (q.st = .down → s.fab < q.since + 2200000000 ∨ q.cable = false → exec (.downRetry p) s = .next s) ∧
    (q.st = .retraining → q.changed = true ∨ q.since + 4400000 ≤ s.fab → MovesTo (.retrainTimeout p) s p .down 0) ∧
    (q.st = .retraining → q.changed = false → s.fab < q.since + 4400000 → exec (.retrainTimeout p) s = .next s)) ∧
  (∀ (s : State) (p fleet port first width : Nat), s.clocksOn = true → p < s.member.ports → (s.port p).st = .identify →
    (s.port p).peerMsg = some (fleet, port, first, width) →
    (¬ Accepted s p fleet port first width → ∀ b, MovesTo (.identify p b) s p .refused 0) ∧
    MovesTo (.identify p false) s p .refused 0 ∧
    (Accepted s p fleet port first width → ∃ u, exec (.identify p true) s = .next u ∧ Entered s u p .up (s.port p).lanes ∧
      (u.port p).peerFleet = fleet ∧ (u.port p).peerPort = port ∧ (∀ q, q ≠ p → u.port q = s.port q) ∧
      (∀ b, b ≠ s.bondOf p → u.bond b = s.bond b) ∧
      (s.livePorts (s.bondOf p) ≠ [] → u.bond (s.bondOf p) = { s.bond (s.bondOf p) with credits := (s.bond (s.bondOf p)).credits + 2048 }) ∧
      (s.livePorts (s.bondOf p) = [] → (u.bond (s.bondOf p)).credits = 2048 ∧ (u.bond (s.bondOf p)).txSeq = 1 ∧
        (u.bond (s.bondOf p)).rxSeq = 1 ∧ (u.bond (s.bondOf p)).unacked = []))) ∧
  (∀ (s : State) (p : Nat), UpPort s p → (∀ d < 8, (s.eng d).run = none) →
    (∀ i, (i = Instr.linkFailure p ∨ i = .retrain p ∧ s.firmware = true) → ∃ u, exec i s = .next u ∧ Entered s u p .retraining 0 ∧
      (u.port p).retrains = min 65535 ((s.port p).retrains + 1) ∧ LeavesBond s u p) ∧
    (s.firmware = true → ∃ u, exec (.disable p) s = .next u ∧ Entered s u p .disabled 0 ∧ (u.port p).heldDown = true ∧ LeavesBond s u p) ∧
    ∃ u, exec (.cablePresenceChange p false) s = .next u ∧ Entered s u p .disabled 0 ∧ (u.port p).cable = false ∧ LeavesBond s u p) ∧
  ∀ (s : State) (p : Nat), s.clocksOn = true → p < s.member.ports → let q := s.port p
    (∀ lanes : Fin 9, q.st = .retraining → q.changed = false → lanes.val = 8 ∨ lanes.val = 4 → ∃ u, exec (.retrainDone p lanes) s = .next u ∧
      Entered s u p .up lanes.val ∧ ∀ j, j ≠ p → u.port j = s.port j) ∧
    (s.firmware = true → (s.portRec p).enable = false → exec (.retrain p) s = .next s) ∧
    (s.firmware = true → (s.portRec p).enable = true → q.cable = true → q.st = .disabled ∨ q.st = .refused ∨ q.st = .down →
      MovesTo (.retrain p) s p .training 0 ∧ ∀ u, exec (.retrain p) s = .next u → (u.port p).heldDown = false) ∧
    (q.st = .disabled → (s.portRec p).enable = true → q.heldDown = false → MovesTo (.cablePresenceChange p true) s p .training 0) ∧
    (q.st = .disabled → (s.portRec p).enable = false ∨ q.heldDown = true →
      exec (.cablePresenceChange p true) s = .next (s.modPort p fun x => { x with cable := true }))

/-- R78, R84, R375–R379, R381–R385, R388, R399, R400; how a timestamp message and an ATOM's operands lie in their payloads is
the model's choice (log entries 31 and 112). -/
def Obligations.MeridianFrames : Prop :=
  (∀ (s : State) (p : Nat), UpPort s p → MaySend s p →
    (∀ e l, (s.port p).owes = e :: l → ∃ u g, exec (.frameTransmit p) s = .next u ∧ (u.port p).wire = (s.port p).wire ++ [g] ∧
      g.kind = 2 ∧ g.ctl = some (.timestamp s.clk.sidereal s.clk.hops (some e)) ∧ (u.port p).owes = l) ∧
    ((s.port p).owes = [] → (s.port p).asks = true → ∃ u g, exec (.frameTransmit p) s = .next u ∧
      (u.port p).wire = (s.port p).wire ++ [g] ∧ g.kind = 2 ∧ g.ctl = some (.timestamp s.clk.sidereal 0 none) ∧ (u.port p).asks = false)) ∧
  (∀ (s : State) (p : Nat), UpPort s p → MaySend s p → NoStamps s p → let b := s.bondOf p
    let x := s.bond b
    (∀ f l, x.replay = f :: l → ∃ u g, exec (.frameTransmit p) s = .next u ∧ (u.port p).wire = (s.port p).wire ++ [g] ∧
      g = { f with ack := (x.rxSeq + 4095) % 4096, nak := x.nakOut, credit := min 4095 x.freed, good := true, ctl := none } ∧
      u.bond b = { x with replay := l, nakOut := false, freed := x.freed - min 4095 x.freed, lastTx := some p } ∧ u.digSent = s.digSent) ∧
    (x.replay = [] → (∀ q ∈ p :: s.bondPorts b, s.inb (nodePort q) = []) → (∀ q ∈ s.bondPorts b, q ≠ p → (s.port q).outQ = []) →
      (s.eng (s.portDie p)).out = [] →
      ((s.port p).outQ = [] → ∃ u g, exec (.frameTransmit p) s = .next u ∧ (u.port p).wire = (s.port p).wire ++ [g] ∧
        g = { kind := 0, seq := 0, ack := (x.rxSeq + 4095) % 4096, nak := x.nakOut, credit := min 4095 x.freed, good := true, lines := [] } ∧
        u.bond b = { x with nakOut := false, freed := x.freed - min 4095 x.freed, lastTx := some p }) ∧
      (∀ k l, (s.port p).outQ = [(k, l)] → 0 < x.credits → x.unacked.length < 512 * (s.livePorts b).length → ∃ u g, exec (.frameTransmit p) s = .next u ∧
        (u.port p).wire = (s.port p).wire ++ [g] ∧ (u.port p).outQ = [] ∧ g.kind = 1 ∧ g.seq = x.txSeq ∧ g.lines = [l] ∧
        (u.bond b).txSeq = (x.txSeq + 1) % 4096 ∧ (u.bond b).unacked = x.unacked ++ [g] ∧ (u.bond b).credits = x.credits - 1 ∧
        (u.bond b).sent = x.sent + digest s.chart.pkg.fleetId (s.port p).peerFleet [l] ∧
        u.digSent = s.digSent + digest s.chart.pkg.fleetId (s.port p).peerFleet [l])) ∧
    (∀ k, x.replay = [] → (∀ q ∈ p :: s.bondPorts b, (s.port q).outQ = []) → (s.eng (s.portDie p)).out = [] →
      s.inb (nodePort p) = [k] → (∀ q ∈ s.bondPorts b, q ≠ p → s.inb (nodePort q) = []) → (s.port p).reqs = [] →
      0 < x.credits → x.unacked.length < 512 * (s.livePorts b).length → k.typ = .rd ∨ k.typ = .wr → ∃ u g l, exec (.frameTransmit p) s = .next u ∧
        (u.port p).wire = (s.port p).wire ++ [g] ∧ g.lines = [l] ∧ u.inb (nodePort p) = [] ∧ (u.port p).reqs = [{ tag := l.tag, pkt := k }] ∧
        l.typ = (if k.typ = .rd then 1 else 3) ∧ l.line = k.line % 2 ^ 32 ∧ l.first = k.first ∧ l.last = k.last ∧
        l.bad = k.bad ∧ (k.typ = .wr → l.data = k.data) ∧ l.tag < 65536)) ∧
  (∀ (s : State) (p : Nat), s.clocksOn = true → p < s.member.ports →
    (5 * s.fab < (s.port p).nextTx ∨ s.txTurn p = false → exec (.frameTransmit p) s = .next s) ∧
    ((s.port p).nextTx ≤ 5 * s.fab →
      (∀ m, (s.port p).st = .training ∧ m = .training ∨ ((s.port p).st = .identify ∨ (s.port p).st = .retraining) ∧
          m = .ident s.chart.pkg.fleetId p (s.portRec p).bondFirst (s.portRec p).bondWidth → ∃ u g, exec (.frameTransmit p) s = .next u ∧
        (u.port p).wire = (s.port p).wire ++ [g] ∧ g.kind = 2 ∧ g.ctl = some m ∧ u.bonds = s.bonds) ∧
      ((s.port p).st = .disabled ∨ (s.port p).st = .down ∨ (s.port p).st = .refused → ∃ n, 5 * s.fab < n ∧
        exec (.frameTransmit p) s = .next (s.modPort p fun q => { q with nextTx := n }))) ∧
    ((s.port p).st ≠ .up → ∀ f, exec (.frameReceive p f) s = .next s) ∧
    (∀ fleet port first width, (s.port p).st = .identify → exec (.controlFrameReceive p (.ident fleet port first width)) s =
      .next (s.modPort p fun q => { q with peerMsg := some (fleet, port, first, width) })) ∧
    (∀ fleet port first width, (s.port p).st = .retraining → exec (.controlFrameReceive p (.ident fleet port first width)) s =
      .next (s.modPort p fun q => { q with
        changed := q.changed || decide ((s.port p).peerMsg ≠ some (fleet, port, first, width)) })) ∧
    (∀ time hops, (s.port p).st = .up → hops < 31 →
      exec (.controlFrameReceive p (.timestamp time hops none)) s =
        .next (s.modPort p fun q => { q with owes := q.owes ++ [(time, s.clk.sidereal)] }) ∧
      ∀ e, exec (.controlFrameReceive p (.timestamp time hops (some e))) s = .next (s.modPort p fun q => { q with
        stamp := some { asked := e.1, heard := e.2, sent := time, got := s.clk.sidereal, hops } })) ∧
    ∀ time hops e, (s.port p).st ≠ .up ∨ 31 ≤ hops → exec (.controlFrameReceive p (.timestamp time hops e)) s = .next s) ∧
  (∀ (s : State) (p : Nat) (f : Frame), UpPort s p → let b := s.bondOf p
    let x := s.bond b
    (f.kind = 1 → f.good = false ∨ f.seq ≠ x.rxSeq ∨ (∃ l ∈ f.lines, l.bad ≠ 0) ∨ 25 < f.lines.length → exec (.frameReceive p f) s = .next (s.modBond b fun y => { y with nakOut := true })) ∧
    (f.kind = 1 → f.good = true → f.seq = x.rxSeq → f.lines.length ≤ 25 → f.nak = false → (∀ l ∈ f.lines, l.typ ≠ 0 ∧ l.bad = 0) →
      ∃ u, exec (.frameReceive p f) s = .next u ∧ (u.bond b).rxSeq = (x.rxSeq + 1) % 4096 ∧ (u.bond b).credits = x.credits + f.credit ∧
      (u.port p).inQ.map (·.2) = (s.port p).inQ.map (·.2) ++ f.lines ∧ (u.bond b).rxLines = x.rxLines + f.lines.length ∧
      (u.bond b).recv = x.recv + digest (s.port p).peerFleet s.chart.pkg.fleetId f.lines ∧
      u.digRecv = s.digRecv + digest (s.port p).peerFleet s.chart.pkg.fleetId f.lines ∧
      (∀ v l, x.unacked = v :: l → v.seq = f.ack → (u.bond b).unacked = l) ∧
      ((∀ v ∈ x.unacked, v.seq ≠ f.ack) → (u.bond b).unacked = x.unacked)) ∧
    (x.unacked ≠ [] → x.ackAt + 35200 ≤ s.fab → ∃ u, exec (.ackTimeoutReplay p) s = .next u ∧ (u.bond b).replay = x.unacked ∧
      (u.bond b).unacked = x.unacked ∧ (u.port p).replays = (s.port p).replays + 1) ∧
    (s.fab < x.ackAt + 35200 → exec (.ackTimeoutReplay p) s = .next s)) ∧
  (∀ (s : State) (p n : Nat) (l : MLine) (rest : List (Nat × MLine)), s.clocksOn = true → p < s.member.ports → (s.port p).inQ = (n, l) :: rest →
    s.bondPorts (s.bondOf p) = [p] →
    (∀ r, (s.port p).reqs = [r] → r.tag = l.tag → r.pkt.src < 0x480 →
      (r.pkt.typ = .rd ∧ l.typ = 2 ∨ r.pkt.typ = .wr ∧ l.typ = 4 ∨ r.pkt.typ = .atom ∧ l.typ = 6) →
      ∃ u, exec (.meridianHandoff p) s = .next u ∧ (u.port p).inQ = rest ∧ (u.port p).reqs = [] ∧
        Answers s u (nodePort p) r.pkt (answerType r.pkt.typ) (if l.typ = 4 then 0 else l.data) ∧
        (u.bond (s.bondOf p)).freed = (s.bond (s.bondOf p)).freed + 1) ∧
    (l.typ = 1 ∨ l.typ = 3 ∨ l.typ = 5 → s.chart.pkg.exportSize * 2 ^ 30 ≤ l.line * 64 → ∃ u, exec (.meridianHandoff p) s = .next u ∧
      (u.port p).inQ = rest ∧ CountsOne s u ∧ u.outb (nodePort p) = s.outb (nodePort p) ∧
      ∃ a, (u.port p).outQ = (s.port p).outQ ++ [(0, a)] ∧ a.typ = l.typ + 1 ∧ a.tag = l.tag ∧ a.data = 0) ∧
    (∀ k q, l.typ = 1 ∨ l.typ = 3 ∨ l.typ = 5 → l.line * 64 < s.chart.pkg.exportSize * 2 ^ 30 →
      s.target (s.chart.pkg.exportBase * 2 ^ 30 + l.line * 64) = .stack k q → (s.port p).serving = [] → ∃ u m,
      exec (.meridianHandoff p) s = .next u ∧ (u.port p).inQ = rest ∧ u.outb (nodePort p) = s.outb (nodePort p) ++ [m] ∧
      m.typ = (if l.typ = 1 then .rd else if l.typ = 3 then .wr else .atom) ∧ m.bad = l.bad ∧ m.line = 2 ^ 24 * s.chart.pkg.exportBase + l.line ∧ m.src = 0xD00 + p ∧
      m.dst = 0x800 + k ∧ m.tag.sealed = false ∧ m.seq = BitVec.ofNat 16 l.tag ∧ (l.typ = 3 → m.first = l.first ∧ m.last = l.last ∧ m.data = l.data) ∧
      (l.typ = 5 → m.opnd.toNat = lineNat l.data 0 8 ∧ m.cmp.toNat = lineNat l.data 8 8))) ∧
  ∀ (s : State), s.firmware = true →
    (∃ u, exec .snap s = .next u ∧ u = { s with digSnapSent := s.digSent, digSnapRecv := s.digRecv, bonds := u.bonds } ∧
      ∀ b, u.bond b = { s.bond b with snapSent := (s.bond b).sent, snapRecv := (s.bond b).recv }) ∧
    ∃ u, exec .digClear s = .next u ∧ u = { s with digSent := 0, digRecv := 0, digSnapSent := 0, digSnapRecv := 0, bonds := u.bonds } ∧
      ∀ b < 16, u.bond b = { s.bond b with sent := 0, recv := 0, snapSent := 0, snapRecv := 0 }

namespace Sys2Proof.Claims

/-- The die has a tally engine and its clocks run. -/
def EngineOn (s : State) (d : Nat) : Prop := s.clocksOn = true ∧ d < s.member.dies ∧ s.member.hasTally d = true

/-- The running job of die d ends with a code, and each live bond of it sends an ABORT line for its tag. -/
def EndsJob (s u : State) (d : Nat) (r : TRun) (code : Nat) : Prop :=
  (∃ x, (u.eng d).run = some x ∧ x.ended = some code ∧ x.job = r.job ∧ x.desc = r.desc) ∧ (u.eng d).queue = (s.eng d).queue ∧
    ∃ new, (u.eng d).out = (s.eng d).out ++ new ∧
      (∀ b ∈ [r.desc.txBond, r.desc.rxBond], s.livePorts b ≠ [] → ∃ l, (b, l) ∈ new ∧ lineAbort l = true ∧ lineJob l = r.desc.jobTag.toNat % 2 ^ 14) ∧
      ∀ x ∈ new, lineAbort x.2 = true ∧ (x.1 = r.desc.txBond ∨ x.1 = r.desc.rxBond)

end Sys2Proof.Claims

/-- R390–R394, R397, R398. -/
def Obligations.TallyJobs : Prop :=
  (∀ (s : State) (t : Tid) (d c : Nat) (v : Word), EngineOn s d → (s.core (coreOf t)).member = some c →
    ((s.thr t).world = false → (s.eng d).queue.length < 8 → exec (.tallySubmit t d v) s = .next (s.modEng d fun e => { e with
      queue := e.queue ++ [{ addr := (v.extractLsb' 7 45).toNat * 128, cid := c, by_ := t }] })) ∧
    ((s.thr t).world = true ∨ 8 ≤ (s.eng d).queue.length → ∃ u, exec (.tallySubmit t d v) s = .next u ∧
      CountsRefusal s u t 5 (BitVec.ofNat 64 (0xF000A00000000 + 0x1000 * d)) ∧ u.tally = s.tally)) ∧
  (∀ (s : State) (d : Nat) (job : TJob) (q : List TJob) (bs : List Byte), EngineOn s d → (s.eng d).run = none → (s.eng d).queue = job :: q →
    let s1 := (s.tallyBytes d job.cid job.addr 128).2
    bs = (s.tallyBytes d job.cid job.addr 128).1 → let x := TDesc.of bs
    ((s1.descOk d job.cid x bs = false ∨ x.op = 0 ∨ 3 < x.op ∨ x.group < 2 ∨ 4096 < x.group ∨ x.group ≤ x.rank ∨ x.blog < 8 ∨ 24 < x.blog ∨ 2 ^ 32 < x.count ∨
        4 * s1.member.cores ≤ x.sigThread ∨ x.src % 64 ≠ 0 ∨ x.dst % 64 ≠ 0 ∨ x.op = 2 ∧ x.both = true ∨ x.outInt = true ∧ x.mean = true ∨
        s1.livePorts x.txBond = [] ∨ s1.livePorts x.rxBond = [] ∨ (s1.con job.cid).cfg.portMask.getLsbD x.txBond = false ∨ (∃ b ∈ bs.drop 80, b ≠ 0)) →
      ∃ u r, exec (.tallyJobStart d) s = .next u ∧ (u.eng d).run = some r ∧ r.ended = some 1 ∧ r.job = job ∧ (u.eng d).queue = q ∧
        (u.eng d).out = (s1.eng d).out ∧ u.mem = s1.mem ∧ u.ls = s1.ls) ∧
    (s1.descOk d job.cid x bs = true → (s1.eng d).held = [] → ∃ u r, exec (.tallyJobStart d) s = .next u ∧ (u.eng d).run = some r ∧ r.ended = none ∧
      r.job = job ∧ r.desc = x ∧ r.startTime = s1.clk.sidereal ∧ (u.eng d).queue = q ∧
      ∃ l, (u.eng d).out = (s1.eng d).out ++ ((x.txBond, l) :: if x.both then [(x.rxBond, l)] else []) ∧ l.data = x.header ∧ l.typ = 8 ∧
        lineJob l = x.jobTag.toNat % 2 ^ 14 ∧ lineAbort l = false)) ∧
  (∀ (s : State) (d : Nat) (r : TRun), EngineOn s d → (s.eng d).run = some r → r.ended = none →
    (r.half0 = { active := true } → r.desc.both = false → r.half1.active = false →
      (r.desc.count = 0 → ∃ u x, exec (.tallyLineReceive d false 0 0 r.desc.header) s = .next u ∧ (u.eng d).run = some x ∧ x.ended = some 0 ∧
        (u.eng d).out = (s.eng d).out) ∧
      (∀ data, data ≠ r.desc.header → ∃ u, exec (.tallyLineReceive d false 0 0 data) s = .next u ∧ EndsJob s u d r 2)) ∧
    (∀ step index data, r.desc.group ≤ 4096 → r.half0.active = true → r.half0.finished = false → r.half0.phase = 3 → r.desc.op = 1 ∨ r.desc.op = 2 → r.half0.step = step →
      r.half0.got = index → step + 1 < r.desc.group - 1 → index + 1 < r.desc.recvLines false 3 step → ∃ u x l,
      exec (.tallyLineReceive d false step index data) s = .next u ∧ (u.eng d).run = some x ∧ x.half0.got = index + 1 ∧ x.half0.step = step ∧
      let ch := chunkOf r.desc.group (r.desc.span false).2 (r.desc.recvChunk false 3 step)
      (∀ i, i < 16 → Map.get 0 x.half0.vals (ch.1 + 16 * index + i) =
        Map.get 0 r.half0.vals (ch.1 + 16 * index + i) + BitVec.ofNat 32 (lineNat data (4 * i) 4)) ∧
      (∀ e, ¬ (ch.1 + 16 * index ≤ e ∧ e < ch.1 + 16 * index + 16) → Map.get 0 x.half0.vals e = Map.get 0 r.half0.vals e) ∧
      (u.eng d).out = (s.eng d).out ++ [(r.desc.txBond, l)] ∧ lineStep l = step + 1 ∧
      ∀ i, i < 16 → lineNat l.data (4 * i) 4 = (Map.get 0 x.half0.vals (ch.1 + 16 * index + i)).toNat) ∧
    (∀ step index data, r.half0.step ≠ step ∨ r.half0.got ≠ index → ∃ u x, exec (.tallyLineReceive d false step index data) s = .next u ∧
      (u.eng d).run = some x ∧ x.half0 = r.half0 ∧ x.half1 = r.half1 ∧ x.ended = none ∧ (u.eng d).out = (s.eng d).out) ∧
    (∃ u, exec (.tallyAbortLine d) s = .next u ∧ EndsJob s u d r 8) ∧
    (∀ us, us = (if r.desc.timeout = 0 then 100000 else r.desc.timeout) →
      (r.heard + 2200 * us ≤ s.fab → ∃ u, exec (.tallyTimeout d) s = .next u ∧ EndsJob s u d r 5) ∧
      (s.fab < r.heard + 2200 * us → exec (.tallyTimeout d) s = .next s)) ∧
    ∀ t tag, (s.core (coreOf t)).member = some r.job.cid → r.job.cid < 32 → (s.eng d).queue = [] →
      (r.desc.jobTag = tag → ∃ u, exec (.tallyAbort t d tag) s = .next u ∧ EndsJob s u d r 7) ∧
      (r.desc.jobTag ≠ tag → ∃ u x, exec (.tallyAbort t d tag) s = .next u ∧ (u.eng d).run = some x ∧ x.ended = none)) ∧
  ∀ (s : State) (d n o pa : Nat) (tag : Tag) (r : TRun), EngineOn s d → (s.eng d).run = some r → r.ended = some 0 → r.recorded = false →
    s.tallyOwes d = false → r.desc.status % 64 = 0 →
    r.desc.status < 2 ^ 52 → r.desc.sigThread < 4 * s.member.cores → s.tallyTo r.job.cid r.desc.status true = .line n pa tag none 0 →
    s.target pa = .ls n o → pa % 64 = 0 → s.tableFree none pa (pa + 63) = true → s.rowBad n (o / 128) = 0 → ∃ u p, exec (.tallyJobEnd d) s = .next u ∧ (u.eng d).run = none ∧ OtherHalves s u n (o / 64) ∧
      u.halfTag n (o / 64) = tag ∧ lineByte (u.half n (o / 64)) 0 = 0 ∧ lineNat (u.half n (o / 64)) 8 8 = r.startTime.toNat ∧
      lineNat (u.half n (o / 64)) 16 8 = s.clk.sidereal.toNat ∧ lineNat (u.half n (o / 64)) 24 40 = 0 ∧
      u.outb (nodeTally d) = s.outb (nodeTally d) ++ [p] ∧ p.typ = .signal ∧ p.line = r.desc.sigThread ∧ p.dst = r.desc.sigThread / 4 ∧
      lineNat p.data 0 2 = r.desc.sigFlags.toNat

/-! ## Sessions, identity and quotes -/

namespace Sys2Proof.Claims

/-- A command of constellation c's area on slot n can be taken. -/
def SessAt (s : State) (c n : Nat) : Prop := s.clocksOn = true ∧ c < 32 ∧ (s.con c).st ≠ .dark ∧ n < 4096 ∧ (s.area c).busy = false

/-- A command of c on slot n has ended with a code, and nothing differs but its area and what `rest` allows. -/
def Ended (s u : State) (c n code : Nat) : Prop :=
  u.area c = { s.area c with slot := n, code, done := true, busy := false } ∧ ∀ d, d ≠ c → u.area d = s.area d

/-- Only slot n, the areas, the engine's bookkeeping and the marks of DONE differ (R12); no slot has number 4096, so with it no slot differs. -/
def SlotOnly (s u : State) (n : Nat) : Prop := u = { s with trust := u.trust, hwSet := u.hwSet, hwAt := u.hwAt } ∧ ∀ k, k ≠ n → u.slot k = s.slot k

/-- The pair in use is a new one (R408). -/
def NewPair (s u : State) : Prop :=
  u.trust.skeyNo = s.trust.skeyNo + 1 ∧ u.trust.skeyId = s.trust.skeyId + 1 ∧ u.trust.skeyValid = true

end Sys2Proof.Claims

/-- R401–R404, R406–R409, R412, R416–R420. -/
def Obligations.SessionsAndIdentity : Prop :=
  (∀ (s : State) (c n : Nat), SessAt s c n → (∃ u, exec (.key c n) s = .next u ∧ SlotOnly s u 4096 ∧
    u.trust.keyQ = s.trust.keyQ ++ [(c, n)] ∧ u.area c = { s.area c with slot := n, busy := true, done := false }) ∧
    (¬ ((s.slot n).st ≠ .free ∧ (s.slot n).owner = c) → ∀ f, ∀ i ∈ [Instr.bind c n, .unbind c n, .retire c n f],
      ∃ u, exec i s = .next u ∧ SlotOnly s u 4096 ∧ Ended s u c n 3) ∧
    ((s.slot n).st ≠ .free → (s.slot n).owner = c →
      ((s.slot n).st = .keyed → ∃ u, exec (.bind c n) s = .next u ∧ SlotOnly s u n ∧ Ended s u c n 0 ∧ u.slot n = { s.slot n with st := .bound }) ∧
      ((s.slot n).st ≠ .keyed → ∃ u, exec (.bind c n) s = .next u ∧ SlotOnly s u 4096 ∧ Ended s u c n 1) ∧
      ((s.slot n).st = .bound → ∃ u, exec (.unbind c n) s = .next u ∧ SlotOnly s u n ∧ Ended s u c n 0 ∧ u.slot n = { s.slot n with st := .keyed }) ∧
      ((s.slot n).st ≠ .bound → ∃ u, exec (.unbind c n) s = .next u ∧ SlotOnly s u 4096 ∧ Ended s u c n 1) ∧
      ((s.slot n).st = .retired → ∀ f, ∃ u, exec (.retire c n f) s = .next u ∧ SlotOnly s u 4096 ∧ Ended s u c n 1) ∧
      ((s.slot n).st ≠ .retired → ∀ f, ∃ u, exec (.retire c n f) s = .next u ∧ Ended s u c n 0 ∧ (∀ k, k ≠ n → u.slot k = s.slot k) ∧
        (u.slot n).st = .retired ∧ (u.slot n).owner = c ∧ (u.slot n).key = 0 ∧ (u.slot n).pair = 0 ∧ (u.slot n).pos = 0 ∧
        (u.slot n).gen = (s.slot n).gen + 1 ∧ (u.slot n).fill = f ∧
        (∀ t, (s.thr t).world = true → (s.thr t).session = BitVec.ofNat 12 n → (u.thr t).world = false ∧
          (u.thr t).pc = ((s.thr t).bank false).entry ∧ (u.thr t).bankO.ecause.extractLsb' 0 8 = 0x20#8) ∧
        ∀ m < s.member.cores, (∀ l ∈ (u.core m).dcache, l.tag ≠ { sealed := true, session := BitVec.ofNat 12 n }) ∧
          ∀ l ∈ (u.core m).icache, l.tag ≠ { sealed := true, session := BitVec.ofNat 12 n }))) ∧
  (∀ (s : State) (c n : Nat), s.clocksOn = true → c < 32 → (s.con c).st ≠ .dark → (s.area c).busy = true → ∀ f, ∀ i ∈
    [Instr.key c n, .bind c n, .unbind c n, .retire c n f], ∃ u, exec i s = .next u ∧ CountsOne s u ∧ u.trust = s.trust) ∧
  (∀ (s : State) (j c n : Nat), s.clocksOn = true → j < 32 → c = (s.trust.lastKey + 1 + j) % 32 →
    s.trust.keyQ.find? (fun k => k.1 == c) = some (c, n) → (∀ i < j, ∀ k ∈ s.trust.keyQ, k.1 ≠ (s.trust.lastKey + 1 + i) % 32) →
    (s.trust.keyRun ≠ none → exec .keyStart s = .next s) ∧
    (s.trust.keyRun = none → ∃ u, exec .keyStart s = .next u ∧ u.trust.lastKey = c ∧ (∀ k, k ∈ u.trust.keyQ ↔ k ∈ s.trust.keyQ ∧ k.1 ≠ c) ∧
      let held := (s.trust.slots.filter fun p => p.2.st != .free && p.2.owner == c).length
      ((s.slot n).st ≠ .free → Ended s u c n 1 ∧ u.trust.keyRun = none) ∧
      ((s.slot n).st = .free → (s.con c).cfg.quota ≤ held → Ended s u c n 2 ∧ u.trust.keyRun = none) ∧
      ((s.slot n).st = .free → held < (s.con c).cfg.quota → (s.con c).cfg.sealedCapable = false → Ended s u c n 4 ∧ u.trust.keyRun = none) ∧
      ((s.slot n).st = .free → held < (s.con c).cfg.quota → (s.con c).cfg.sealedCapable = true → s.trust.skeyValid = false →
        Ended s u c n 5 ∧ u.trust.keyRun = none) ∧
      ((s.slot n).st = .free → held < (s.con c).cfg.quota → (s.con c).cfg.sealedCapable = true → s.trust.skeyValid = true →
        u.slot n = { s.slot n with pos := 0 } ∧ ∃ r info, u.trust.keyRun = some r ∧ r.cid = c ∧ r.slot = n ∧
        (∀ k, Map.get 0 r.waiting k = (if k < s.member.stks then 1 else 0) ∧ Map.get 0 r.sentAt k = if k < s.member.stks then s.fab else 0) ∧ info.length = 90 ∧
        info.drop 16 = natBytes 1 c ++ natBytes 1 0 ++ natBytes 2 n ++ natBytes 4 (s.slot n).gen.toNat ++ natBytes 2 s.chart.pkg.fleetId ++
          natBytes 32 (s.con c).cmeas.toNat ++ natBytes 32 s.trust.skeyHash.toNat ∧
        let out := Config.hkdf (Config.decapsulate s.trust.skeyNo (readBytes (s.area c).ct 0 1088))
          (Config.sha256 (readBytes (s.area c).ct 0 1088)) info
        r.pair = out.setWidth 512 ∧ r.confirm = out.extractLsb' 512 256))) ∧
  (∀ (s : State) (k : Nat) (r : KeyRun), s.clocksOn = true → k < s.member.stks → s.trust.keyRun = some r →
    let right := Config.sha256 (natBytes 2 r.slot ++ natBytes 4 (s.slot r.slot).gen.toNat ++ natBytes 64 r.pair.toNat)
    (∃ u x, exec (.keyReplicationAnswer k right) s = .next u ∧ SlotOnly s u 4096 ∧ u.trust.keyRun = some x ∧
      ∀ j, Map.get 0 x.waiting j = if j = k then 0 else Map.get 0 r.waiting j) ∧
    (s.fab < Map.get 0 r.sentAt k + 4400 → exec (.replicationTimeout k) s = .next s) ∧
    ∀ i, ((i = Instr.replicationTimeout k ∧ Map.get 0 r.sentAt k + 4400 ≤ s.fab) ∨ ∃ h, h ≠ right ∧ i = .keyReplicationAnswer k h) →
      (1 ≤ Map.get 0 r.waiting k → Map.get 0 r.waiting k < 4 → ∃ u x, exec i s = .next u ∧ SlotOnly s u 4096 ∧ u.trust.keyRun = some x ∧
        ∀ j, Map.get 0 x.waiting j = (if j = k then Map.get 0 r.waiting k + 1 else Map.get 0 r.waiting j) ∧
          Map.get 0 x.sentAt j = if j = k then s.fab else Map.get 0 r.sentAt j) ∧
      (4 ≤ Map.get 0 r.waiting k → s.trust.rotatePending = false → ∃ u, exec i s = .next u ∧ u.trust.keyRun = none ∧
        u.slot r.slot = { s.slot r.slot with key := 0, pair := 0 } ∧ Ended s u r.cid r.slot 6 ∧
        Reports s u 11 (fun _ => False) (nodeStack k) false 0)) ∧
  (∀ (s : State) (r : KeyRun), s.clocksOn = true → s.trust.keyRun = some r →
    (r.waiting ≠ [] → exec .keyComplete s = .next s) ∧
    (r.waiting = [] → s.trust.rotatePending = false → ∃ u, exec .keyComplete s = .next u ∧ SlotOnly s u r.slot ∧ u.trust.keyRun = none ∧
      u.slot r.slot = { s.slot r.slot with st := .keyed, owner := r.cid, key := s.trust.nextKey, pair := r.pair } ∧
      u.area r.cid = { s.area r.cid with slot := r.slot, code := 0, done := true, busy := false, confirm := r.confirm, gen := (s.slot r.slot).gen })) ∧
  (∀ (s : State) (n : Nat), s.clocksOn = true → s.memOk = true → n < 4096 →
    ((s.slot n).st ≠ .retired → exec (.retirementComplete n) s = .next s) ∧
    ((s.slot n).st = .retired → ∃ u, exec (.retirementComplete n) s = .next u ∧
      u.slot n = { s.slot n with st := .free, owner := 0, fill := false, ranges := [] } ∧
      (∀ m h, h < 2 ^ 19 → u.halfTag m h ≠ { sealed := true, session := BitVec.ofNat 12 n }) ∧
      ∀ m h, h < 2 ^ 19 → (∀ k, k / 2 = h / 2 → s.halfTag m k ≠ { sealed := true, session := BitVec.ofNat 12 n }) →
        u.half m h = s.half m h ∧ u.halfTag m h = s.halfTag m h)) ∧
  (∀ (s : State), s.firmware = true →
    (s.trust.keyRun ≠ none → exec .rotate s = .next { s with trust := { s.trust with rotatePending := true } }) ∧
    (s.trust.keyRun = none → s.trust.idReady = true → ∃ u, exec .rotate s = .next u ∧ NewPair s u ∧ SlotOnly s u 4096) ∧
    (s.trust.idUsed = false → exec .recon s = .next { s with trust := { s.trust with idUsed := true, idPending := true, idEnrol := false } } ∧
      exec .enrol s = .next { s with trust := { s.trust with idUsed := true, idPending := true, idEnrol := true } }) ∧
    (s.trust.idUsed = true → ∀ i ∈ [Instr.recon, .enrol], ∃ u, exec i s = .next u ∧ CountsOne s u ∧ u.trust = s.trust) ∧
    ∀ c pkg, (s.trust.quoteBusy = true → ∃ u, exec (.quoteGo c pkg) s = .next u ∧ CountsOne s u ∧ u.trust = s.trust) ∧
      (s.trust.quoteBusy = false → s.trust.idReady = false → exec (.quoteGo c pkg) s = .next s) ∧
      (s.trust.quoteBusy = false → s.trust.idReady = true → ∃ u, exec (.quoteGo c pkg) s = .next u ∧
        u = { s with trust := { s.trust with quoteBusy := true, quoteSeq := s.trust.quoteSeq + 1, quoteBody := u.trust.quoteBody } } ∧
        u.trust.quoteBody.length = 512 ∧ u.trust.quoteBody[7]? = some (if pkg then 0xFF else BitVec.ofNat 8 (c % 32)) ∧
        (u.trust.quoteBody.drop 384).take 32 = natBytes 32 s.trust.idPub.toNat ∧
        (u.trust.quoteBody.drop 224).take 32 = natBytes 32 (if pkg then 0 else (s.con (c % 32)).cmeas.toNat) ∧
        (u.trust.quoteBody.drop 320).take 64 = natBytes 64 (if pkg then 0 else (s.area (c % 32)).report.toNat))) ∧
  ∀ (s : State), s.clocksOn = true →
    (s.trust.quoteBusy = false → exec .quoteDone s = .next s) ∧
    (s.trust.quoteBusy = true → ∃ u sig, exec .quoteDone s = .next u ∧ u.trust = { s.trust with quoteBusy := false, quoteDone := true, quoteBuf := s.trust.quoteBody ++ sig } ∧ sig.length = 17088 ∧
      (s.host.doeQuote = false → u.host = s.host) ∧
      (s.host.doeQuote = true → u.host = { s.host with doe := none, doeQuote := false, doeOut := s.host.doeOut ++ [2 :: u.trust.quoteBuf] })) ∧
    (s.trust.idPending = false → exec .identityReady s = .next s) ∧
    (s.trust.idPending = true → s.trust.idEnrol = true → ∃ u, exec .identityReady s = .next u ∧ u.trust.idPending = false ∧ u.trust.idReady = true ∧
      u.trust.enrolled = true ∧ NewPair s u ∧ u.trust.slots = s.trust.slots) ∧
    (s.trust.idPending = true → s.trust.idEnrol = false →
      (∀ seed, Config.reconSeed (readBytes s.trust.helper 0 4128) = some seed → ∃ u, exec .identityReady s = .next u ∧ u.trust.idReady = true ∧
        u.trust.idPub = Config.identityPub seed ∧ NewPair s u) ∧
      (Config.reconSeed (readBytes s.trust.helper 0 4128) = none →
        exec .identityReady s = .next { s with trust := { s.trust with idPending := false, idFail := true } }))

/-! ## The chart engine and the lifecycle of a constellation -/

namespace Sys2Proof.Claims

/-- A command of the chart engine has ended with a code for c: DONE, ERROR if the code is not 0, and CHART_ERR; the rest of
the engine is as in x. -/
def ChartDone (x : ChartEngine) (u : State) (c code : Nat) : Prop :=
  u.chart = { x with busy := none, waits := false, done := true, error := decide (code ≠ 0), code, sect := 0, offset := 0, cid := c }

/-- The command fails with a code, and no core, thread, constellation or memory differs. -/
def FailsWith (i : Instr) (s : State) (c code : Nat) : Prop :=
  ∃ u, exec i s = .next u ∧ ChartDone s.chart u c code ∧ u.cons = s.cons ∧ u.cores = s.cores ∧ u.threads = s.threads ∧ u.mem = s.mem ∧ u.ls = s.ls

/-- Core n holds nothing: caches, rings, pipes, channels and queues are empty, its local store is zero and Open, and its
threads hold no register (R56). -/
structure CoreEmpty (u : State) (n : Nat) : Prop where
  core : (u.core n).dcache = [] ∧ (u.core n).icache = [] ∧ (u.core n).wcache = [] ∧ (u.core n).rings = [] ∧ (u.core n).pipes = [] ∧
    (u.core n).chans = [] ∧ (u.core n).injQ = [] ∧ (u.core n).outst = []
  store : ∀ o < 0x2000000, Map.get 0 u.ls (0x2000000 * n + o) = 0
  tags : ∀ h < 2 ^ 19, u.halfTag n h = {}
  threads : ∀ k < 4, (u.thr (4 * n + k)).g = [] ∧ (u.thr (4 * n + k)).v = [] ∧ (u.thr (4 * n + k)).world = false ∧ (u.thr (4 * n + k)).storeQ = []

/-- The running firmware gives a command for c to an idle engine, and no core reset of c is in progress. -/
def ChartIdle (s : State) (c : Nat) : Prop :=
  s.firmware = true ∧ c < 32 ∧ s.chart.busy = none ∧ ∀ n ∈ s.members c, (s.core n).resetPending = false

/-- A constellation with its committed values, held. -/
def HeldWith (g : ConsCfg) (m : BitVec 256) : Cons :=
  { st := .held, cfg := g, cmeas := m, wtbase := BitVec.ofNat 64 g.tableBase, wtcount := BitVec.ofNat 64 g.entries.length
    fogUs := g.fogUs, fogLive := g.fogUs, niLimit := g.niLimit, injOcc := g.injOcc, deflLimit := g.deflLimit }

/-- The window table of committed values lies in the stacks, in whole entries (R43). -/
def TableInStacks (s : State) (g : ConsCfg) : Prop :=
  g.tableBase % 32 = 0 ∧ ∀ i < g.entries.length, ∃ k q, s.target (g.tableBase + 32 * i) = .stack k q

end Sys2Proof.Claims

/-- R50, R53–R57, R431. The reading of a chart is `readChart`; here a mailbox request may be answered too. -/
def Obligations.ChartLifecycle : Prop :=
  (∀ (s : State) (c : Nat), s.firmware = true → c < 32 → s.chart.busy ≠ none →
    ∀ i ∈ [Instr.load, .discard, .commit c, .start c, .stop c, .reset c, .release c], ∃ u, exec i s = .next u ∧
      u = { s with chart := { s.chart with dropped := true }, hwSet := u.hwSet, hwAt := u.hwAt }) ∧
  (∀ (s : State), ChartIdle s 0 → (∃ u, exec .load s = .next u ∧ u.cons = s.cons ∧ u.mem = s.mem ∧
      u.chart = { s.chart with busy := some .load, shadow := none, done := false, error := false } ∧
      u.host.pf0Lines = 130 ∧ u.host.pf0Buf = []) ∧
    ∃ u, exec .discard s = .next u ∧ ChartDone { s.chart with shadow := none } u 0 0 ∧ u.cons = s.cons) ∧
  (∀ (s : State), s.clocksOn = true → s.chart.busy = some .load →
    (s.chart.flr ≠ none ∨ s.host.pf0Done = false → exec .chartLoadComplete s = .next s) ∧ (s.chart.flr = none → s.host.pf0Done = true →
    let bs := s.host.pf0Bytes (if s.host.pf0Lines = 130 then 8320 else lineNat (Map.get 0 s.host.pf0Buf 0) 16 4)
    (rdAt bs 0 4 ≠ 0x74726863 → ∃ u, exec .chartLoadComplete s = .next u ∧ ChartDone s.chart u 0 1) ∧
    (∀ e, readChart s.member (fun k => (s.stack k).trained) s.chart.keyHash bs = .inl e → ∃ u, exec .chartLoadComplete s = .next u ∧
      u.chart = { s.chart with busy := none, waits := false, done := true, error := e.code != 0, code := e.code, sect := e.sect, offset := e.off, cid := 0 } ∧
      u.cons = s.cons ∧ u.cores = s.cores) ∧
    ∀ ch, readChart s.member (fun k => (s.stack k).trained) s.chart.keyHash bs = .inr ch → ∃ u, exec .chartLoadComplete s = .next u ∧
      ChartDone { s.chart with shadow := some ch, keyHash := if s.chart.keyHash = 0 then ch.keyHash else s.chart.keyHash } u 0 0 ∧
      u.cons = s.cons ∧ u.cores = s.cores)) ∧
  (∀ (s : State) (c : Nat), ChartIdle s c →
    ((s.con c).st ≠ .dark → (s.con c).st ≠ .held → FailsWith (.commit c) s c 9) ∧
    ((s.con c).st = .dark ∨ (s.con c).st = .held → s.chart.shadow = none → FailsWith (.commit c) s c 8) ∧
    (∀ sh, (s.con c).st = .dark → s.chart.shadow = some sh → sh.cfg c = none → FailsWith (.commit c) s c 0) ∧
    (∀ sh, (s.con c).st = .held → s.chart.shadow = some sh → sh.cfg c = none → exec (.commit c) s = exec (.release c) s) ∧
    ∀ sh g, (s.con c).st = .dark ∨ (s.con c).st = .held → s.chart.shadow = some sh → sh.cfg c = some g →
      (sh.pkg ≠ s.chart.pkg → (∃ d < 32, (s.con d).st ≠ .dark ∧ (s.con d).st ≠ .held) → FailsWith (.commit c) s c 10) ∧
      (sh.pkg = s.chart.pkg → (∃ n ∈ g.cores, Map.get false s.chart.faulted n = true ∧ (s.core n).member ≠ some c) → FailsWith (.commit c) s c 12) ∧
      (sh.pkg = s.chart.pkg → (∀ n ∈ g.cores, Map.get false s.chart.faulted n = false) →
        (∃ d < 32, d ≠ c ∧ (s.con d).st ≠ .dark ∧ ∃ n ∈ g.cores, (s.core n).member = some d) → FailsWith (.commit c) s c 11) ∧
      (s.commitCode c sh g = 0 → (∀ n ∈ g.cores, n < s.member.cores) → ∃ u, exec (.commit c) s = .next u ∧ (u.con c).st = .committing ∧
        u.chart.busy = some (.commit c) ∧ (∀ d, d ≠ c → u.con d = s.con d) ∧
        (∀ n ∈ g.cores, CoreEmpty u n ∧ (u.core n).member = some c ∧ (u.core n).locked = (s.core n).locked) ∧
        (∀ n ∈ s.members c, n ∉ g.cores → CoreEmpty u n ∧ (u.core n).member = none) ∧
        ∀ n, n ∉ g.cores → n ∉ s.members c → u.core n = s.core n ∧ ∀ k < 4, u.thr (4 * n + k) = s.thr (4 * n + k))) ∧
  (∀ (s : State) (c : Nat) (sh : Chart) (g : ConsCfg), s.clocksOn = true → s.chart.busy = some (.commit c) → (s.con c).st = .committing →
    s.chart.shadow = some sh → sh.cfg c = some g → sh.pkg = s.chart.pkg → TableInStacks s g → ∃ u, exec (.commitComplete c) s = .next u ∧
      u.con c = { HeldWith g sh.meas with flrWaiting := (s.con c).flrWaiting } ∧ (∀ d, d ≠ c → u.con d = s.con d) ∧ ChartDone s.chart u c 0 ∧
      (∀ p ∈ g.funcs, (u.func p.1).bound = some c) ∧
      ∀ v k q, g.entries = [v] → s.target g.tableBase = .stack k q → g.tableBase % 64 = 0 → (s.stack k).dead = false →
        lineNat (u.stkLine k (q / 64)) 0 32 = v.toNat ∧ (u.stkTag k (q / 64)).tag = {}) ∧
  (∀ (s : State) (c : Nat), ChartIdle s c →
    ((s.con c).st = .held → ∃ u, exec (.start c) s = .next u ∧ ChartDone s.chart u c 0 ∧ u.con c = { s.con c with st := .running } ∧
      ∀ n ∈ s.members c, ∀ k < 4, let t := 4 * n + k
        (u.thr t).pc = pcOf (BitVec.ofNat 64 ((s.con c).cfg.starts.getD k 0)) ∧ (u.thr t).level = (t == 4 * (s.con c).cfg.supervisor) ∧
        (u.thr t).world = false ∧ (u.thr t).ie = false ∧ (u.thr t).greg 2 = BitVec.ofNat 64 (0x100000000000 + 0x2000000 * n + s.rstackBase t) ∧
        (u.thr t).greg 1 = 0) ∧
    ((s.con c).st = .halted → (∀ n ∈ s.members c, (s.core n).locked = false) → ∃ u, exec (.start c) s = .next u ∧ ChartDone s.chart u c 0 ∧
      u.con c = { s.con c with st := .running, inbound := true } ∧ u.threads = s.threads ∧ u.cores = s.cores) ∧
    ((s.con c).st = .halted → (∃ n ∈ s.members c, (s.core n).locked = true) → FailsWith (.start c) s c 16) ∧
    ((s.con c).st ≠ .held → (s.con c).st ≠ .halted → FailsWith (.start c) s c 9 ∧ FailsWith (.release c) s c 9) ∧
    ((s.con c).st = .running → ∃ u, exec (.stop c) s = .next u ∧ u.con c = { s.con c with st := .stopping } ∧ u.chart.busy = some (.stop c) ∧
      u.threads = s.threads) ∧
    ((s.con c).st ≠ .running → FailsWith (.stop c) s c 9) ∧
    ((s.con c).st ≠ .held → (s.con c).st ≠ .running → (s.con c).st ≠ .halted → FailsWith (.reset c) s c 9) ∧
    (∀ i k, (i = Instr.reset c ∧ k = ChartCmd.reset c ∧ ((s.con c).st = .held ∨ (s.con c).st = .running ∨ (s.con c).st = .halted)) ∨
        (i = .release c ∧ k = .release c ∧ ((s.con c).st = .held ∨ (s.con c).st = .halted)) →
      ∃ u, exec i s = .next u ∧ (u.con c).st = .resetting ∧ u.chart.busy = some k ∧ u.chart.done = false ∧
        (∀ n ∈ s.members c, CoreEmpty u n ∧ (u.core n).member = some c ∧
          (u.core n).locked = (decide (k = .release c) && (s.core n).locked)) ∧
        ∀ j, (s.slot j).owner = c → (s.slot j).st = .keyed ∨ (s.slot j).st = .bound → (u.slot j).st = .retired ∧ (u.slot j).key = 0)) ∧
  ∀ (s : State) (c : Nat), s.clocksOn = true →
    ((s.con c).st = .stopping → (∃ n ∈ s.members c, s.coreAtPoint n = false) → exec (.stopComplete c) s = .next s) ∧
    ((s.con c).st = .stopping → (∀ n ∈ s.members c, s.coreAtPoint n = true) → s.chart.busy = some (.stop c) → ∃ u, exec (.stopComplete c) s = .next u ∧ u.con c = { s.con c with st := .halted } ∧
      ChartDone s.chart u c 0) ∧
    ((s.con c).st = .stopping → (∀ n ∈ s.members c, s.coreAtPoint n = true) → s.chart.busy = none → exec (.stopComplete c) s = .next (s.modCon c fun x => { x with st := .halted })) ∧
    ((s.con c).st = .resetting → s.chart.busy = some (.reset c) → (s.con c).flrWaiting = [] → s.chart.flr = none →
      TableInStacks s (s.con c).cfg → ∃ u, exec (.resetComplete c) s = .next u ∧ u.con c = HeldWith (s.con c).cfg (s.con c).cmeas ∧ ChartDone s.chart u c 0 ∧
        ∀ d, d ≠ c → u.con d = s.con d) ∧
    ((s.con c).st = .resetting → s.chart.busy = some (.release c) → ∃ u, exec (.releaseComplete c) s = .next u ∧ u.con c = {} ∧
      (∀ n ∈ s.members c, CoreEmpty u n ∧ (u.core n).member = none) ∧ (∀ f, (s.func f).bound = some c → (u.func f).bound = none) ∧
      u.chart.done = true ∧ u.chart.error = false ∧ u.chart.busy = none) ∧
    ((s.con c).flrWaiting ≠ [] → s.chart.flr = none → s.chart.busy = none ∨ s.chart.busy = some .load → (∀ n ∈ s.members c, (s.core n).resetPending = false) →
      (s.con c).st = .held ∨ (s.con c).st = .running ∨ (s.con c).st = .halted → ∃ u, exec (.flrReset c) s = .next u ∧
        (u.con c).st = .resetting ∧ u.chart = { s.chart with flr := some c } ∧ ∀ n ∈ s.members c, CoreEmpty u n ∧ (u.core n).locked = false)

/-! ## Clocks and time -/

namespace Sys2Proof.Claims

/-- The sidereal counter runs: the reference is present and no cold reset or trip holds it. -/
def Counts (s : State) : Prop :=
  s.clk.refPresent = true ∧ s.power.perstLow = false ∧ s.power.powerGood = true ∧ (s.power.tripped = false ∨ s.power.perstSeen = false)

/-- An exchange with the upstream neighbour is due: the servo follows it, and 125 µs have passed since the last one (R78). -/
def ExchangeDue (s : State) : Prop :=
  s.clocksOn = true ∧ (s.clk.servo = .acquiring ∨ s.clk.servo = .locked ∨ s.clk.servo = .holdover) ∧
    s.clk.lastTry.toNat + 137500 ≤ s.clk.sidereal.toNat

/-- Port p is the lowest live member of the upstream port's bond (R78). -/
def Upstream (s : State) (p : Nat) : Prop := (s.livePorts (s.bondOf s.chart.pkg.upstream)).head? = some p

end Sys2Proof.Claims

/-- R69–R73, R76–R81. How the offset follows from the four times of an exchange is the model's choice (log entry 112), and so
is that the exchange that takes a locked servo to acquiring, or one that is missed, corrects nothing (log entry 114). -/
def Obligations.ClocksAndTime : Prop :=
  (∀ (s : State), s.clk.refPresent = true → s.power.powerGood = true → s.power.railsOn = true → s.power.perstLow = false →
    (s.clk.lost = false → exec .rootLock s = .next { s with clk := { s.clk with rootLock := true } }) ∧
    (s.clk.lost = true → exec .rootLock s = .next s)) ∧
  (∀ (s : State), s.clk.rootLock = true →
    exec .rootLossOfLock s = .next { s with clk := { s.clk with rootLock := false, lost := true }, power := { s.power with faultN := true } }) ∧
  (∀ (s : State), ∃ u, exec .referenceLoss s = .next u ∧ u = { s with clk := u.clk, power := u.power, stks := u.stks, ports := u.ports, host := { s.host with linkUp := false } } ∧
    u.clk = { s.clk with refPresent := false, rootLock := false, lost := s.clk.lost || s.clk.rootLock } ∧
    u.power = { s.power with faultN := s.power.faultN || s.clk.rootLock } ∧
    (∀ k, u.stack k = { s.stack k with phyLock := decide (s.member.stks ≤ k) && (s.stack k).phyLock }) ∧
    (∀ p, u.port p = { s.port p with lanes := if p < s.member.ports then 0 else (s.port p).lanes }) ∧
    exec .siderealIncrement u = .next u ∧ exec .referenceReturn u = .next { u with clk := { u.clk with refPresent := true } }) ∧
  (∀ (s : State), Counts s → s.clk.frac < 2 ^ 32 → -(2 ^ 23) ≤ s.clk.trim → s.clk.trim ≤ 2 ^ 23 →
    ∃ k f : Nat, 10 ≤ k ∧ k ≤ 12 ∧ f < 2 ^ 32 ∧ (k : Int) * 2 ^ 32 + f = 11 * 2 ^ 32 + s.clk.frac + s.clk.trim ∧ (s.clk.trim = 0 → k = 11) ∧
      let sum := s.clk.sidereal + BitVec.ofNat 64 k
      (s.clk.pendLoad = none → s.clk.pendStep = [] →
        exec .siderealIncrement s = .next { s with clk := { s.clk with sidereal := sum, frac := f } }) ∧
      (∀ v, s.clk.pendLoad = some v → s.clk.pendStep = [] →
        ((∀ c < 32, (s.con c).st = .dark ∨ (s.con c).st = .held) →
          exec .siderealIncrement s = .next { s with clk := { s.clk with sidereal := v, frac := f, pendLoad := none } }) ∧
        ((∃ c < 32, (s.con c).st ≠ .dark ∧ (s.con c).st ≠ .held) →
          exec .siderealIncrement s = .next { s with clk := { s.clk with sidereal := sum, frac := f, pendLoad := none } })) ∧
      ∀ x, s.clk.pendLoad = none → s.clk.pendStep = [x] →
        exec .siderealIncrement s = .next { s with clk := { s.clk with
          sidereal := if sum.toNat + x.toNat < 2 ^ 64 then sum + x else sum, frac := f, pendStep := [] } }) ∧
  (∀ (s : State) (v : Word), s.firmware = true →
    ((∀ c < 32, (s.con c).st = .dark ∨ (s.con c).st = .held) →
      exec (.siderealLoad v) s = .next { s with clk := { s.clk with pendLoad := some v } }) ∧
    ((∃ c < 32, (s.con c).st ≠ .dark ∧ (s.con c).st ≠ .held) → ∃ u, exec (.siderealLoad v) s = .next u ∧ CountsOne s u ∧ u.clk = s.clk) ∧
    (s.clk.servo = .master ∨ s.clk.servo = .free →
      exec (.siderealStep v) s = .next { s with clk := { s.clk with pendStep := s.clk.pendStep ++ [v] } }) ∧
    (s.clk.servo ≠ .master → s.clk.servo ≠ .free → exec (.siderealStep v) s = .next s)) ∧
  (∀ (s : State) (p : Nat) (a : TimeAnswer), ExchangeDue s → Upstream s p → (s.port p).stamp = some a →
    -(2 ^ 23) ≤ s.clk.trim → s.clk.trim ≤ 2 ^ 23 →
    let off := ((a.asked - a.heard).toInt + (a.got - a.sent).toInt) / 2
    ∃ u, exec .timeExchange s = .next u ∧ u = { s with clk := u.clk, ports := u.ports, freeCtr := u.freeCtr } ∧
      (∀ q, q ≠ p → u.port q = s.port q) ∧ u.port p = { s.port p with asks := true, stamp := none } ∧
      u.clk.hops = a.hops + 1 ∧ u.clk.lastX = s.clk.sidereal ∧ u.clk.lastTry = s.clk.sidereal ∧ u.clk.sidereal = s.clk.sidereal ∧
      u.clk.frac = s.clk.frac ∧
      (off.natAbs < 2 ^ 31 → u.clk.offset = off) ∧ (2 ^ 31 ≤ off → u.clk.offset = 2 ^ 31 - 1) ∧
      -(2 ^ 23) ≤ u.clk.trim ∧ u.clk.trim ≤ 2 ^ 23 ∧
      (s.clk.servo = .acquiring → let good := off.natAbs ≤ 4 * (a.hops + 1)
        (good → 15 ≤ s.clk.goodRun → u.clk.servo = .locked ∧ u.clk.pendLoad = s.clk.pendLoad ∧ u.clk.pendStep = s.clk.pendStep) ∧
        (good → s.clk.goodRun < 15 → u.clk.servo = .acquiring ∧ u.clk.goodRun = s.clk.goodRun + 1) ∧
        (¬ good → u.clk.servo = .acquiring ∧ u.clk.goodRun = 0) ∧
        (¬ good ∨ s.clk.goodRun < 15 → off ≠ 0 →
          ((∀ c < 32, (s.con c).st = .dark ∨ (s.con c).st = .held) → u.clk.pendLoad = some (s.clk.sidereal - BitVec.ofInt 64 off)) ∧
          ((∃ c < 32, (s.con c).st ≠ .dark ∧ (s.con c).st ≠ .held) → u.clk.pendLoad = s.clk.pendLoad ∧
            (off < 0 → u.clk.pendStep = s.clk.pendStep ++ [BitVec.ofInt 64 (-off)]) ∧
            (0 < off → u.clk.pendStep = s.clk.pendStep ∧ u.clk.trim ≤ 0)))) ∧
      (s.clk.servo = .locked ∨ s.clk.servo = .holdover →
        (off.natAbs ≤ 64 → u.clk.servo = .locked) ∧ (64 < off.natAbs → u.clk.servo = .acquiring ∧ u.clk.goodRun = 0))) ∧
  (∀ (s : State), (ExchangeDue s →
      (∀ p, Upstream s p → (s.port p).stamp = none → ∃ u, exec .timeExchange s = .next u ∧
        u = { s with clk := { s.clk with lastTry := s.clk.sidereal }, ports := u.ports } ∧ (∀ q, q ≠ p → u.port q = s.port q) ∧
        u.port p = { s.port p with asks := true }) ∧
      ((∀ p, ¬ Upstream s p) → exec .timeExchange s = .next { s with clk := { s.clk with lastTry := s.clk.sidereal } })) ∧
    (¬ ExchangeDue s → exec .timeExchange s = .next s) ∧
    ∀ p time hops e, 31 ≤ hops → exec (.controlFrameReceive p (.timestamp time hops e)) s = .next s) ∧
  ∀ (s : State), s.clk.servo = .locked →
    (s.clk.lastX.toNat + 1100000 ≤ s.clk.sidereal.toNat → exec .holdoverEntry s = .next { s with clk := { s.clk with servo := .holdover } }) ∧
    (s.clk.sidereal.toNat < s.clk.lastX.toNat + 1100000 → exec .holdoverEntry s = .next s)

/-! ## Resets and boot -/

namespace Sys2Proof.Claims

/-- Vector v of PF0 is sent, or is marked pending while it is masked. -/
def Tells (s u : State) (v : Nat) : Prop :=
  (s.func 0).msixEnable = true → (s.func 0).busMaster = true → let e := Map.get 0 (s.func 0).msixTable v
    ((s.func 0).msixMask = true ∨ e.getLsbD 96 = true → Map.get false (u.func 0).msixPba v = true) ∧
    ((s.func 0).msixMask = false → e.getLsbD 96 = false → s.host.linkUp = true → s.ideLost 0 (e.toNat % 2 ^ 64) = false → Tlp.msix 0 v e ∈ u.host.tlps)

/-- Nothing differs but the Keeper, the host bridge and the functions. -/
def RomOnly (s u : State) : Prop := u = { s with keeper := u.keeper, host := u.host, funcs := u.funcs }

/-- Thread t holds what START from held gives it (R431). -/
structure Started (s u : State) (t : Tid) (c : Nat) : Prop where
  pc : (u.thr t).pc = pcOf (BitVec.ofNat 64 ((s.con c).cfg.starts.getD (tnum t) 0))
  status : (u.thr t).level = (t == 4 * (s.con c).cfg.supervisor) ∧ (u.thr t).world = false ∧ (u.thr t).ie = false ∧ (u.thr t).el = false ∧
    (u.thr t).session = 0
  regs : ∀ r : Reg, (u.thr t).greg r = if r.val = 2 then BitVec.ofNat 64 (0x100000000000 + 0x2000000 * coreOf t + s.rstackBase t) else 0
  rest : (u.thr t).rsp = 0 ∧ (u.thr t).bankO = {} ∧ (u.thr t).bankS = {} ∧ (u.thr t).v = [] ∧ (u.thr t).ta = {} ∧ (u.thr t).z0 = {}
  debug : (u.thr t).stopped = (s.thr t).stopped ∧ (u.thr t).treset = false

end Sys2Proof.Claims

/-- R424–R429, R431–R434. -/
def Obligations.ResetsAndBoot : Prop :=
  (∀ (s : State), (s.ports.map (·.1)).Nodup → ∃ u, exec .perstNAssert s = .next u ∧
    u = { pending := s.pending, member := s.member, freeCtr := s.freeCtr, failed := s.failed, clk := { refPresent := s.clk.refPresent }
          ports := u.ports, ageing := u.ageing, power := u.power } ∧ (∀ p, u.port p = { cable := (s.port p).cable }) ∧
    u.power.perstLow = true ∧ u.power.faultN = false ∧ u.power.capW = s.member.maxW ∧ u.power.tjLimit = 95 ∧
    u.power.powerGood = s.power.powerGood ∧ u.power.tripped = s.power.tripped ∧ u.ageing.pages = s.ageing.pages ∧
    (s.ageing.recSeq = 0 → u.ageing.boots = 1 ∧ u.ageing.minutes = 0) ∧
    exec .perstNRelease s = .next { s with power := { s.power with perstLow := false, scan := 0 } }) ∧
  (∀ (s : State), s.clocksOn = true →
    (s.keeper.boot = .reset ∨ s.keeper.boot = .warm → ∃ u, exec .romSelfCheck s = .next u ∧ RomOnly s u ∧ Tells s u 0 ∧
      u.keeper = { s.keeper with boot := .waiting, image := [], fwMeas := 0, fwVersion := 0, stopped := false } ∧ u.host.ready = true) ∧
    (s.keeper.boot ≠ .reset → s.keeper.boot ≠ .warm → exec .romSelfCheck s = .next s)) ∧
  (∀ (s : State), s.clocksOn = true → s.hostSees 0 = true → let n := s.keeper.bootLen
    (s.keeper.boot ≠ .waiting → ∃ u, exec .bootGo s = .next u ∧ CountsOne s u ∧ u.host = s.host ∧
      u.keeper = { s.keeper with violPkg := u.keeper.violPkg, violNew := u.keeper.violNew, violAt := u.keeper.violAt }) ∧
    (s.keeper.boot = .waiting → n % 64 ≠ 0 ∨ n < 32768 ∨ 0x1000000 < n →
      exec .bootGo s = .next { s with keeper := { s.keeper with bootErr := 1, attempts := min 65535 (s.keeper.attempts + 1) } }) ∧
    (s.keeper.boot = .waiting → n % 64 = 0 → 32768 ≤ n → n ≤ 0x1000000 → (s.func 0).busMaster = true → s.chart.busy = none →
      (∀ i, 64 * i < n → (s.func 0).hwHolds (s.keeper.bootSrc.toNat + 64 * i) = true) → ∃ u, exec .bootGo s = .next u ∧ RomOnly s u ∧ Tells s u 0 ∧
        u.keeper = { s.keeper with boot := .loading, bootErr := 0 } ∧
        u.host.pf0Lines = n / 64 ∧ u.host.pf0Buf = [] ∧
        let a := ((s.func 0).hwhost.toNat + (s.keeper.bootSrc.toNat - (s.func 0).hwbase.toNat)) % 2 ^ 64 / 64 * 64
        (s.ideLost 0 a = false → 1 ≤ s.host.pf0Tokens → Tlp.memRead 0 s.host.nextTag a ∈ u.host.tlps)) ∧
    (s.keeper.boot = .loading ∨ s.keeper.boot = .verifying → ∃ u, exec .bootAbort s = .next u ∧ RomOnly s u ∧ Tells s u 0 ∧
      u.keeper = { s.keeper with boot := .waiting, bootErr := 7, image := [] } ∧ u.host.pf0Fetch = none) ∧
    (s.keeper.boot ≠ .loading → s.keeper.boot ≠ .verifying → exec .bootAbort s = .next s)) ∧
  (∀ (s : State), s.clocksOn = true → s.keeper.boot = .loading →
    (∀ tag r data, s.host.linkUp = true → s.host.reads.find? (fun x => x.tag == tag) = some r → r.pkt = none → ∃ u,
      exec (.hostCompletion tag data) s = .next u ∧ u.host.pf0Buf = Map.set 0 s.host.pf0Buf r.line data ∧ u.keeper = s.keeper) ∧
    (s.host.pf0Fetch ≠ none ∨ (∃ r ∈ s.host.reads, r.pkt = none) → exec .imageFetched s = .next s) ∧
    (s.host.pf0Fetch = none → (∀ r ∈ s.host.reads, r.pkt ≠ none) → ∃ u, exec .imageFetched s = .next u ∧ RomOnly s u ∧ Tells s u 0 ∧
      u.keeper = { s.keeper with boot := .verifying, image := u.keeper.image } ∧ u.keeper.image.length = s.keeper.bootLen ∧
      ∀ i < s.keeper.bootLen, u.keeper.image.getD i 0 = lineByte (Map.get 0 s.host.pf0Buf (i / 64)) (i % 64))) ∧
  (∀ (s : State), s.clocksOn = true → s.keeper.boot = .verifying → let im := s.keeper.image
    let sigOk := Config.slh256Verify (imgBytes im 32 64) (imgBytes im 0 168) (imgBytes im 168 29792)
    (∀ e : Nat, e = 2 ∧ imageHeaderOk im = false ∨ imageHeaderOk im = true ∧
        (e = 3 ∧ (im.getD 6 0).getLsbD s.member.imageBit = false ∨ (im.getD 6 0).getLsbD s.member.imageBit = true ∧
          (e = 4 ∧ Config.sha256 (imgBytes im 32 64) ≠ Config.romKeyHash ∨ Config.sha256 (imgBytes im 32 64) = Config.romKeyHash ∧
            (e = 5 ∧ sigOk = false ∨ e = 6 ∧ sigOk = true ∧ Config.sha256 (im.drop 32768) ≠ BitVec.ofNat 256 (imgNat im 136 32)))) →
      ∃ u, exec .verifyDone s = .next u ∧ RomOnly s u ∧ Tells s u 0 ∧
        u.keeper = { s.keeper with boot := .waiting, bootErr := e, attempts := min 65535 (s.keeper.attempts + 1), image := [] }) ∧
    (imageHeaderOk im = true → (im.getD 6 0).getLsbD s.member.imageBit = true → Config.sha256 (imgBytes im 32 64) = Config.romKeyHash →
      sigOk = true → Config.sha256 (im.drop 32768) = BitVec.ofNat 256 (imgNat im 136 32) → ∃ u e, exec .verifyDone s = .next u ∧ Tells s u 0 ∧
        u.keeper = { s.keeper with boot := .running, stopped := false, kickAt := s.clk.ccycle.toNat, fwMeas := Config.sha256 (imgBytes im 0 168)
                                   fwVersion := BitVec.ofNat 64 (imgNat im 8 8), events := u.keeper.events, eventSeq := s.keeper.eventSeq + 1 } ∧
        u.keeper.events.getLast? = some e ∧ e.kind = 4 ∧ e.seq = s.keeper.eventSeq ∧
        ∀ n, Map.get false u.chart.faulted n =
          (Map.get false s.chart.faulted n || decide (n < s.member.cores) && (s.recordField 104 144).testBit n))) ∧
  (∀ (s : State), s.clocksOn = true → s.hostSees 0 = true ∨ s.firmware = true →
    (s.keeper.boot = .warm → exec .warm s = .next s) ∧
    (s.keeper.boot ≠ .warm → ∃ u, exec .warm s = .next u ∧ Tells s u 0 ∧ u.keeper.boot = .warm ∧ (∀ c, u.con c = {}) ∧
      (∀ n < s.member.cores, CoreEmpty u n ∧ (u.core n).member = none ∧ (u.core n).locked = false ∧ (u.core n).foe = {}) ∧
      ((s.trust.slots.map (·.1)).Nodup → ∀ j, (u.slot j).st = .free ∧ (u.slot j).key = 0 ∧ (u.slot j).pair = 0) ∧
      (∀ b, u.barrier b = {}) ∧ u.keeper.events = s.keeper.events ∧ u.keeper.eventSeq = s.keeper.eventSeq ∧ u.keeper.mbBusy = false ∧
      u.clk = { s.clk with servo := .free, trim := 0, hops := 0, offset := 0, goodRun := 0 } ∧ u.mem = s.mem ∧ u.memTag = s.memTag ∧
      u.chart = { keyHash := s.chart.keyHash, faulted := s.chart.faulted } ∧ u.power.capW = s.member.maxW ∧ u.power.faultN = false ∧
      u.host.linkUp = s.host.linkUp ∧ u.host.ready = s.host.ready)) ∧
  (∀ (s : State) (d i c : Nat), d < s.member.dies → i < 144 → s.firmware = true → let n := s.dieCore d i
    ((s.core n).member = some c → (s.con c).st = .held ∨ (s.con c).st = .halted → (s.core n).locked = false → (s.die d).resetBusy = false →
      ∃ u, exec (.coreResetGo d i) s = .next u ∧ u = { s with dies := u.dies, cores := u.cores } ∧
        u.die d = { s.die d with resetBusy := true, resetIndex := i, resetCore := i } ∧ (∀ m, m ≠ n → u.core m = s.core m) ∧ (u.core n).resetPending = true ∧
        ∀ k < 4, (u.core n).chan k = ((s.core n).chan k).abort) ∧
    ((s.core n).member = none ∨ (∃ x, (s.core n).member = some x ∧ (s.con x).st ≠ .held ∧ (s.con x).st ≠ .halted) ∨ (s.core n).locked = true ∨
        (s.die d).resetBusy = true → ∃ u, exec (.coreResetGo d i) s = .next u ∧ CountsOne s u ∧ u.dies = s.dies ∧ u.cores = s.cores)) ∧
  (∀ (s : State) (d c : Nat), s.clocksOn = true → d < s.member.dies → let n := s.dieCore d (s.die d).resetCore
    (s.die d).resetBusy = true → (s.core n).resetPending = true → (s.core n).member = some c →
    (s.coreQuiet n = false → exec (.coreResetDone d) s = .next s) ∧
    (s.coreQuiet n = true → s.chart.waits = false → ∃ u, exec (.coreResetDone d) s = .next u ∧
      u.die d = { s.die d with resetBusy := false } ∧ (∀ m, m ≠ n → u.core m = s.core m) ∧ (u.core n).resetPending = false ∧
      (u.core n).member = some c ∧ (u.core n).dcache = [] ∧ (u.core n).pipes = [] ∧ (u.core n).rings = [] ∧
      (∀ k < 4, Started s u (4 * n + k) c) ∧ (∀ t, coreOf t ≠ n → u.thr t = s.thr t) ∧
      (∀ h < 2 ^ 19, u.half n h = 0 ∧ u.halfTag n h = {}) ∧ u.con c = s.con c)) ∧
  ∀ (s : State) (t : Tid) (c : Nat), s.clocksOn = true → (s.core (coreOf t)).member = some c →
    ((s.thr t).stopped = false → exec (.treset t) s = .next s) ∧
    ((s.thr t).stopped = true → ∃ u, exec (.treset t) s = .next u ∧ (u.thr t).treset = true ∧ (u.thr t).stopped = true ∧ (u.thr t).world = false ∧
      (u.thr t).blocked = none ∧ (u.thr t).long = none ∧ (∀ i, i ≠ t → u.thr i = s.thr i) ∧ u.mem = s.mem ∧
      ((s.thr t).world = false → u.ls = s.ls ∧ ∀ r : Reg, (u.thr t).greg r = (s.thr t).greg r)) ∧
    ((s.thr t).treset = true → (s.thr t).storeQ = [] → (s.streamsQuiet t = false → exec (.threadResetDone t) s = .next s) ∧
      (s.streamsQuiet t = true → (s.thr t).gather = [] → ∃ u, exec (.threadResetDone t) s = .next u ∧ Started s u t c ∧
        (∀ i, i ≠ t → u.thr i = s.thr i) ∧ u = { s with threads := u.threads, cores := u.cores } ∧ ∀ m, m ≠ coreOf t → u.core m = s.core m))

/-! ## Health and ageing -/

namespace Sys2Proof.Claims

/-- Rail r of a member with d dies has these limits, target, floor and slack per step (R444). -/
def RailIs (d r : Nat) (lo hi target floor k : Int) : Prop :=
  (r < 16 * d ∧ lo = -6 ∧ hi = 12 ∧ target = 50 ∧ floor = 20 ∧ k = 6) ∨
  (16 * d ≤ r ∧ r < 17 * d ∧ lo = -4 ∧ hi = 8 ∧ target = 30 ∧ floor = 12 ∧ k = 4) ∨
  (17 * d ≤ r ∧ r < 18 * d ∧ lo = -4 ∧ hi = 4 ∧ target = 200 ∧ floor = 100 ∧ k = 20) ∨
  (18 * d ≤ r ∧ r < 21 * d ∧ lo = -6 ∧ hi = 12 ∧ target = 8 ∧ floor = 3 ∧ k = 1)

/-- A slack read of rail r raises the rail by a step if it is below the floor and the rail below its maximum, and
leaves it otherwise (R445). -/
def RaisesIfLow (s u : State) (r : Nat) (slack : Int) : Prop :=
  ∀ lo hi target floor k, RailIs s.member.dies r lo hi target floor k →
    (floor ≤ slack → u.offset r = s.offset r) ∧
    (slack < floor → s.offset r < hi → u.offset r = s.offset r + 1) ∧
    (slack < floor → hi ≤ s.offset r → u.offset r = s.offset r ∧ u.keeper.pkgBits.getLsbD 14 = true)

/-- Rail r is at v or on its way there, and nowhere else: it moves by one step in each 10 µs (R445). -/
def HeadsTo (u : State) (r : Nat) (v : Int) : Prop :=
  (∀ x ∈ u.ageing.moves, x.1 = r → x.2.1 = v) ∧ (u.offset r = v ∨ ∃ x ∈ u.ageing.moves, x.1 = r)

/-- A sample is due (R443). -/
def SampleDue (s : State) : Prop :=
  (s.ageing.sampleAt = none ∧ ∃ k < s.member.stks, (s.stack k).trained = true ∨ (s.stack k).trainFailed = true) ∨
  ∃ t, s.ageing.sampleAt = some t ∧ t.toNat + 660000000000 ≤ s.clk.sidereal.toNat

end Sys2Proof.Claims

/-- R438–R440, R443–R448; log entries 40, 42 and 43. -/
def Obligations.HealthAndAgeing : Prop :=
  (∀ (s : State), s.firmware = true →
    exec .kick s = .next { s with keeper := { s.keeper with kickAt := s.clk.ccycle.toNat } } ∧
    (s.clk.ccycle.toNat < s.keeper.kickAt + 1100000000 → exec .watchdogExpiry s = .next s) ∧
    (s.keeper.kickAt + 1100000000 ≤ s.clk.ccycle.toNat → ∃ u, exec .watchdogExpiry s = .next u ∧
      u = { s with keeper := u.keeper, power := u.power, hwSet := u.hwSet, hwAt := u.hwAt } ∧
      u.keeper.stopped = true ∧ u.keeper.boot = .running ∧ u.power = { s.power with faultN := true } ∧
      Reports s u 13 (fun _ => False) 0xF80 false 0 ∧ exec .kick u = .next u)) ∧
  (∀ (s : State) (node k at_ : Nat), s.clocksOn = true → Map.get (0, 0) s.lantern node = (k, at_) →
    (k = 0 ∨ at_ + 4400 < s.fab → exec (.lanternRetry node) s = .next { s with lantern := Map.set (0, 0) s.lantern node (1, s.fab) }) ∧
    (k = 1 → s.fab ≤ at_ + 4400 → exec (.lanternRetry node) s = .next { s with lantern := Map.set (0, 0) s.lantern node (2, at_) }) ∧
    (k = 2 → s.fab ≤ at_ + 4400 → ∃ u, exec (.lanternRetry node) s = .next u ∧ Reports s u 11 (fun _ => False) node false 0 ∧
      u.lantern = Map.set (0, 0) s.lantern node (0, 0) ∧ u.cores = s.cores ∧ u.threads = s.threads)) ∧
  (∀ (s : State) (x y dir d : Nat), let p := { s.power with faultN := true }
    exec (.fabricWireFailure (.router x y)) s =
      .next { s with failed := s.failed ++ [.router x y], power := p, flits := s.flits.filter fun f => !(f.x == x && f.y == y) } ∧
    exec (.fabricWireFailure (.link x y dir)) s = .next { s with failed := s.failed ++ [.link x y dir], power := p } ∧
    exec (.fabricWireFailure (.beacon d)) s = .next { s with failed := s.failed ++ [.beacon d], power := p, beacon := Map.set [] s.beacon d [] }) ∧
  (∀ (s : State) (slacks : List Int), s.clocksOn = true →
    (slacks.length ≠ 21 * s.member.dies ∨ ¬ SampleDue s → exec (.ageingSample slacks) s = .next s) ∧
    (slacks.length = 21 * s.member.dies → SampleDue s → ∃ u, exec (.ageingSample slacks) s = .next u ∧ u.ageing.slacks = slacks ∧
      u.ageing.sampleAt = some s.clk.sidereal ∧ (s.ageing.history.length < 1008 → u.ageing.history = s.ageing.history ++ [slacks]) ∧
      (∀ r v, slacks[r]? = some v → RaisesIfLow s u r v) ∧ u.cores = s.cores ∧ u.threads = s.threads ∧ u.clk = s.clk)) ∧
  (∀ (s : State) (r : Nat) (slack : Int), s.clocksOn = true → r < s.ageing.slacks.length → r < 21 * s.member.dies →
    ∀ lo hi target floor k, RailIs s.member.dies r lo hi target floor k → let at_ := Map.get 0 s.ageing.raisedAt r
    (floor ≤ s.ageing.slacks.getD r 0 ∨ s.clk.ccycle.toNat < at_ + 1100000000 → exec (.floorRaise r slack) s = .next s) ∧
    (s.ageing.slacks.getD r 0 < floor → at_ + 1100000000 ≤ s.clk.ccycle.toNat → ∃ u, exec (.floorRaise r slack) s = .next u ∧
      u.ageing.slacks = s.ageing.slacks.set r slack ∧ RaisesIfLow s u r slack ∧ ∀ q, q ≠ r → u.offset q = s.offset q)) ∧
  (∀ (s : State) (n : Nat), s.clocksOn = true →
    (n < s.member.cores → exec (.monitorGate n) s = .next (s.modCore n fun c => { c with gatedTo := s.clk.ccycle + 64 })) ∧
    (s.member.cores ≤ n → exec (.monitorGate n) s = .next s)) ∧
  (∀ (s : State) (r due : Nat) (v : Int), s.pending = [] → s.clk.rootLock = true → s.clk.odd = true → s.ageing.moves = [(r, v, due)] →
    ∃ u, step s = .next u ∧ (∀ q, q ≠ r → u.offset q = s.offset q) ∧
      let now := (s.clk.ccycle + 1).toNat
      (now < due → u.offset r = s.offset r ∧ u.ageing.moves = s.ageing.moves) ∧
      (due ≤ now → u.offset r = (if s.offset r < v then s.offset r + 1 else s.offset r - 1) ∧
        u.ageing.moves = if u.offset r = v then [] else [(r, v, now + 11000)])) ∧
  (∀ (s : State), s.firmware = true →
    (s.ageing.slacks = [] ∨ s.ageing.planAtBoot = false ∧ s.poweredMin < s.ageing.planMin + 1440 → exec .planCompute s = .next s) ∧
    (s.ageing.slacks ≠ [] → s.ageing.planAtBoot = true ∨ s.ageing.planMin + 1440 ≤ s.poweredMin →
      (s.chart.pkg.policy = 2 → ∃ u, exec .planCompute s = .next u ∧
        u = { s with ageing := { s.ageing with planAtBoot := false, planMin := s.poweredMin, moves := u.ageing.moves } } ∧
        ∀ r < 21 * s.member.dies, HeadsTo u r 0) ∧
      (s.chart.pkg.policy ≠ 2 → ∃ u p, exec .planCompute s = .next u ∧ u.ageing.plans = s.ageing.plans ++ [p] ∧ u.ageing.planAtBoot = false ∧
        u.ageing.planMin = s.poweredMin ∧ p.offsets.length = 21 * s.member.dies ∧ p.boot = s.ageing.planAtBoot ∧ p.slacks = s.ageing.slacks ∧
        u.keeper.eventSeq = s.keeper.eventSeq + 1 ∧ u.ageing.offsets = s.ageing.offsets ∧
        ∀ r lo hi target floor k, RailIs s.member.dies r lo hi target floor k → ∃ v, p.offsets[r]? = some v ∧ lo ≤ v ∧ v ≤ hi ∧
          (s.ageing.planAtBoot = true ∨ s.offset r < v → HeadsTo u r v) ∧
          (s.ageing.planAtBoot = false → v ≤ s.offset r → ∀ x, x.1 = r → (x ∈ u.ageing.moves ↔ x ∈ s.ageing.moves)) ∧
          (0 ≤ Config.slopeNum (s.ageing.history.map fun l => l.getD r 0) → ∃ steps, target - s.ageing.slacks.getD r 0 ≤ k * steps ∧
            k * steps < target - s.ageing.slacks.getD r 0 + k ∧ let w := max lo (min hi (s.offset r + steps))
              v = if s.chart.pkg.policy = 1 then max lo (min hi (w + 1)) else w)))) ∧
  ∀ (s : State), s.firmware = true → s.trust.enrolled = false →
    (s.poweredMin < s.ageing.lastWrite + 60 → ∃ u, exec .logbookWriteCycle s = .next u ∧ CountsOne s u ∧ u.ageing = s.ageing) ∧
    (s.ageing.lastWrite + 60 ≤ s.poweredMin → ∃ u b, exec .logbookWriteCycle s = .next u ∧ u.ageing.recSeq = s.ageing.recSeq + 1 ∧
      u.ageing.lastWrite = s.poweredMin ∧ u.ageing.faultQ = [] ∧ u.ageing.plans = s.ageing.plans.drop 2 ∧
      u.ageing.planNo = s.ageing.planNo + min 2 s.ageing.plans.length ∧ u.ageing.faultNo = s.ageing.faultNo + min 40 s.ageing.faultQ.length ∧
      u.ageing.faultsDropped = s.ageing.faultsDropped + (s.ageing.faultQ.length - 40) ∧
      u.logPage (128 + s.ageing.recSeq % 256) = b ++ natBytes 4 (crc32c b) ++ natBytes 4 0 ∧ b.length = 248 ∧
      b.take 16 = natBytes 4 0x6B6F6F62 ++ natBytes 4 (s.ageing.recSeq + 1) ++ natBytes 4 s.poweredMin ++ natBytes 4 s.ageing.boots ∧
      u = { s with ageing := u.ageing, freeCtr := u.freeCtr })

/-! ## Mailbox, telemetry and sideband -/

namespace Sys2Proof.Claims

/-- The host can place a request, the running firmware can serve it, and none is in progress. -/
def MailboxFree (s : State) : Prop :=
  s.clocksOn = true ∧ s.hostSees 0 = true ∧ s.firmware = true ∧ s.keeper.mbBusy = false

/-- The request with an opcode is answered with a status and a payload: DONE, the next sequence number, and vector 1 of
PF0 (R454). -/
structure Replies (s u : State) (op status : Nat) (payload : List Byte) : Prop where
  flags : u.keeper.mbBusy = false ∧ u.keeper.mbDone = true ∧ u.keeper.mbSeq = s.keeper.mbSeq + 1 ∧ u.keeper.mbWait = none
  response : u.keeper.response = natBytes 2 op ++ natBytes 2 status ++ natBytes 4 payload.length ++ payload
  tells : Tells s u 1

/-- Nothing differs but the Keeper, the host bridge, the functions and the mark of DONE (R12). -/
def ReplyOnly (s u : State) : Prop := u = { s with keeper := u.keeper, host := u.host, funcs := u.funcs, hwSet := u.hwSet, hwAt := u.hwAt }

/-- A request that only reads was answered. -/
def Answered (i : Instr) (s : State) (op status : Nat) (payload : List Byte) : Prop :=
  ∃ u, exec i s = .next u ∧ ReplyOnly s u ∧ Replies s u op status payload ∧
    u.keeper = { s.keeper with mbBusy := false, mbDone := true, mbSeq := u.keeper.mbSeq, mbWait := none, request := u.keeper.request
                               response := u.keeper.response }

/-- A write of a cap: a higher value is ignored, and one below the member floor is the floor (R476, R477). -/
def newCap (s : State) (w : Nat) : Nat :=
  if s.power.capW < w then s.power.capW
  else max w (match s.member with
    | .nv2 => 640
    | .nv4 => 1180
    | .nv8 => 2150)

/-- A request of the mailbox. -/
def IsRequest (i : Instr) : Prop :=
  i = .info ∨ (∃ v, i = .setWallTime v) ∨ (∃ a, i = .chartLoad a) ∨ (∃ x y, i = .chartCmd x y) ∨ (∃ n, i = .faultedSet n ∨ i = .faultedClear n) ∨
    (∃ a b, i = .eventRead a b ∨ i = .logbookRead a b ∨ i = .stackWear a b) ∨ (∃ w, i = .powerCap w) ∨ i = .skeyRotate

/-- The chart-engine commands, by CMD. -/
def engineCmds (c : Nat) : List (BitVec 8 × Instr) :=
  [(1, .load), (2, .commit c), (3, .start c), (4, .stop c), (5, .reset c), (6, .release c), (7, .discard)]

end Sys2Proof.Claims

/-- R453–R455, R440, R449, R458, R477; log entry 46. -/
def Obligations.MailboxCommands : Prop :=
  (∀ (s : State) (i : Instr), s.clocksOn = true → s.hostSees 0 = true → IsRequest i →
    (s.keeper.boot ≠ .running → ∃ u, exec i s = .next u ∧ CountsOne s u ∧
      u.keeper = { s.keeper with violPkg := u.keeper.violPkg, violNew := u.keeper.violNew, violAt := u.keeper.violAt } ∧ u.chart = s.chart ∧ u.power = s.power) ∧
    (s.keeper.boot = .running → s.keeper.mbBusy = true → exec i s = .next s) ∧
    (s.keeper.boot = .running → s.keeper.mbBusy = false → s.keeper.stopped = true → ∃ u, exec i s = .next u ∧
      u = { s with keeper := { s.keeper with mbBusy := true, request := u.keeper.request } })) ∧
  (∀ (s : State), MailboxFree s →
    Answered .info s 1 0 (bvBytes s.keeper.fwVersion 8 ++ bvBytes Config.romVersion 2 ++ natBytes 1 s.member.dies ++
      natBytes 2 s.chart.pkg.fleetId ++ (List.finRange 16).map Config.serialNumber) ∧
    (∀ v, (s.keeper.wall = none → ∃ u, exec (.setWallTime v) s = .next u ∧ ReplyOnly s u ∧ Replies s u 2 0 (bvBytes s.clk.sidereal 8) ∧
        u.keeper.wall = some (v, s.clk.sidereal)) ∧
      (s.keeper.wall ≠ none → Answered (.setWallTime v) s 2 5 [])) ∧
    (∀ n, (n = 0 ∨ 120 < n → ∀ q, Answered (.eventRead q n) s 0x20 3 []) ∧
      (1 ≤ n → n ≤ 120 → ∀ q, Answered (.eventRead q n) s 0x20 0 (((s.keeper.events.filter fun e => decide (q ≤ e.seq)).take n).flatMap Event.bytes)) ∧
      (n = 0 ∨ 15 < n → ∀ p, Answered (.logbookRead p n) s 0x21 3 []) ∧
      (1 ≤ n → n ≤ 15 → ∀ p, (1024 < p + n → Answered (.logbookRead p n) s 0x21 3 []) ∧
        (p + n ≤ 1024 → Answered (.logbookRead p n) s 0x21 0 ((List.range n).flatMap fun i => s.logPage (p + i))))) ∧
    (∀ k ch, (s.member.stks ≤ k ∨ 32 ≤ ch → Answered (.stackWear k ch) s 0x22 3 []) ∧
      (k < s.member.stks → ch < 32 → Answered (.stackWear k ch) s 0x22 0
        ((List.range 32).flatMap fun b => natBytes 8 (Map.get 0 ((s.stack k).chan ch).wear b)))) ∧
    (∀ n, (s.member.cores ≤ n → Answered (.faultedSet n) s 0x12 3 [] ∧ Answered (.faultedClear n) s 0x12 3 []) ∧
      (n < s.member.cores → ∀ i on, (i = Instr.faultedSet n ∧ on = true) ∨ (i = .faultedClear n ∧ on = false) → ∃ u, exec i s = .next u ∧
        ReplyOnly { s with chart := { s.chart with faulted := u.chart.faulted } } u ∧
        Replies s u 0x12 0 [if on then 1 else 0] ∧
        ∀ m, Map.get false u.chart.faulted m = if m = n then on else Map.get false s.chart.faulted m)) ∧
    (∀ w : BitVec 32, ∃ u, exec (.powerCap w) s = .next u ∧ Replies s u 0x30 0 (natBytes 4 (newCap s w.toNat)) ∧
      u.power = { s.power with capW := newCap s w.toNat }) ∧
    (s.trust.keyRun ≠ none → Answered .skeyRotate s 0x31 5 []) ∧
    (s.trust.keyRun = none → s.trust.idReady = true → ∃ u, exec .skeyRotate s = .next u ∧ NewPair s u ∧
      Replies s u 0x31 0 (bvBytes (s.trust.skeyId + 1) 4))) ∧
  (∀ (s : State), MailboxFree s →
    (s.chart.busy ≠ none → ∀ w, ∃ u, exec (.chartLoad w) s = .next u ∧ Replies s u 0x10 4 (bvBytes u.chartStatus 8 ++ natBytes 8 7) ∧
      u.chart = { s.chart with src := w &&& 0x000FFFFFFFFFFFC0, dropped := true }) ∧
    (s.chart.busy = none → ∀ w, ∃ u, exec (.chartLoad w) s = .next u ∧ u.chart.busy = some .load ∧ u.chart.shadow = none ∧
      u.chart.src = w &&& 0x000FFFFFFFFFFFC0 ∧ u.keeper.mbBusy = true ∧ u.keeper.mbWait = some none) ∧
    (∀ x y : BitVec 8, x = 0 ∨ 7 < x.toNat ∨ 32 ≤ y.toNat → Answered (.chartCmd x y) s 0x11 3 []) ∧
    (∀ x y : BitVec 8, 1 ≤ x.toNat → x.toNat ≤ 7 → y.toNat < 32 → s.chart.busy ≠ none → ∃ u, exec (.chartCmd x y) s = .next u ∧
      Replies s u 0x11 4 (natBytes 8 7 ++ bvBytes (s.cstate y.toNat) 8) ∧ u.chart = { s.chart with dropped := true }) ∧
    (∀ x y : BitVec 8, y.toNat < 32 → s.chart.busy = none → ∀ i, (x, i) ∈ engineCmds y.toNat → ∃ u t, exec (.chartCmd x y) s = .next u ∧
      exec i t = .next u ∧ t = { s with keeper := { s.keeper with mbBusy := true, mbWait := some (some y.toNat), request := t.keeper.request } }) ∧
    (∀ y : BitVec 8, y.toNat < 32 → s.chart.busy = none → (s.con y.toNat).st = .running → ∃ u, exec (.chartCmd 4 y) s = .next u ∧
      (u.con y.toNat).st = .stopping ∧ u.chart.busy = some (.stop y.toNat) ∧ u.keeper.mbBusy = true)) ∧
  ∀ (s : State) (c : Nat), s.firmware = true → s.clocksOn = true → s.keeper.mbWait = some (some c) → (s.con c).st = .stopping →
    s.chart.busy = some (.stop c) → (∀ n ∈ s.members c, s.coreAtPoint n = true) → readBytes s.keeper.request 0 2 = natBytes 2 0x11 → ∃ u, exec (.stopComplete c) s = .next u ∧
      Replies s u 0x11 0 (bvBytes (BitVec.ofNat 64 (2 ^ 40 * (c % 32))) 8 ++ bvBytes (BitVec.ofNat 64 ((s.members c).length * 8 + 5)) 8)

namespace Sys2Proof.Claims

/-- What a tally holds after a clear: n refusals if they were counted in the present core cycle, none if not (R456). -/
def CountedNow {w : Nat} (s : State) (at_ : Word) (n : Nat) : BitVec w := if at_ = s.clk.ccycle then BitVec.ofNat w n else 0

end Sys2Proof.Claims

/-- R29, R456, R457, R459, R477. -/
def Obligations.TelemetryAndSideband : Prop :=
  (∀ (s : State) (t : Nat), s.firmware = true → s.keeper.mirrorAt = some t → s.clk.ccycle.toNat < t + 1100000 →
    exec .telemetryMirror s = .next s) ∧
  (∀ (s : State), s.firmware = true → (s.keeper.mirrorAt = none ∨ ∃ t, s.keeper.mirrorAt = some t ∧ t + 1100000 ≤ s.clk.ccycle.toNat) →
    ∃ u, exec .telemetryMirror s = .next u ∧
    u = { s with keeper := { s.keeper with
      mirrorSeq := s.keeper.mirrorSeq + 2, mirrorAt := some s.clk.ccycle.toNat, mirror := u.keeper.mirror } } ∧
    Map.get 0 u.keeper.mirror 8 = s.clk.sidereal ∧ Map.get 0 u.keeper.mirror 0x10 = s.telInput ∧ Map.get 0 u.keeper.mirror 0x18 = s.telEnergy ∧
    (∀ d < s.member.dies, Map.get 0 u.keeper.mirror (0x40 + 8 * d) = s.telDie d) ∧
    (∀ k < s.member.stks, Map.get 0 u.keeper.mirror (0x100 + 8 * k) = (s.stack k).statusWord) ∧
    (∀ c < 32, Map.get 0 u.keeper.mirror (0x200 + 8 * c) = (s.con c).viol.setWidth 64 ∧ Map.get 0 u.keeper.mirror (0x400 + 8 * c) = s.cstate c) ∧
    Map.get 0 u.keeper.mirror 0x300 = s.keeper.violPkg.setWidth 64 ∧ Map.get 0 u.keeper.mirror 0x308 = s.keeper.pkgFault ∧
    ∀ p < s.member.ports, Map.get 0 u.keeper.mirror (0x500 + 8 * p) = s.merStatus p) ∧
  (∀ (s : State) (v : Word), s.firmware = true → s.clocksOn = true → ∃ u, exec (.tallyClear .keeper v) s = .next u ∧
    u = { s with
      cons := u.cons
      keeper := { s.keeper with violPkg := if v.getLsbD 32 then CountedNow s s.keeper.violAt s.keeper.violNew else s.keeper.violPkg } } ∧
    ∀ c, u.con c = if c < 32 ∧ v.getLsbD c = true then { s.con c with viol := CountedNow s (s.con c).violAt (s.con c).violNew } else s.con c) ∧
  (∀ (s : State) (t : Tid) (c : Nat) (v : Word), s.clocksOn = true → c < 32 → (s.core (coreOf t)).member = some c → (s.thr t).world = false →
    (s.thr t).level = true →
    (v.getLsbD 32 = false → (∀ d < 32, v.getLsbD d = true → d = c) → v.getLsbD c = true →
      exec (.tallyClear (.thread t) v) s = .next (s.modCon c fun x => { x with viol := CountedNow s x.violAt x.violNew })) ∧
    (v.getLsbD 32 = true ∨ (∃ d < 32, v.getLsbD d = true ∧ d ≠ c) → ∃ u, exec (.tallyClear (.thread t) v) s = .next u ∧
      CountsRefusal s u t 5 0xF000F00000208)) ∧
  (∀ (s : State), s.power.powerGood = true → s.power.perstLow = false →
    (∃ b : Byte, exec .smbusStatus s = .next { s with power := { s.power with smbus := [b] } } ∧
      (b.getLsbD 0 = true ↔ ∃ p ∈ s.cores, p.2.locked = true) ∧ b.getLsbD 1 = s.power.faultN ∧ b.getLsbD 2 = s.power.tripped ∧
      b.getLsbD 3 = s.clk.rootLock ∧ b.extractLsb' 4 4 = BitVec.ofNat 4 s.keeper.boot.code) ∧
    (∃ m, (∀ d < s.member.dies, Map.get 0 s.power.tjMax d ≤ m) ∧ (m = 0 ∨ ∃ d < s.member.dies, Map.get 0 s.power.tjMax d = m) ∧
      exec .tjMax s = .next { s with power := { s.power with smbus := natBytes 1 m } }) ∧
    (∃ m, (∀ k < s.member.stks, (s.stack k).temp ≤ m) ∧ (m = 0 ∨ ∃ k < s.member.stks, (s.stack k).temp = m) ∧
      exec .stackTmax s = .next { s with power := { s.power with smbus := natBytes 1 m } }) ∧
    exec .inputPower s = .next { s with power := { s.power with smbus := natBytes 2 (s.powerMw / 1000) } } ∧
    exec .serial s = .next { s with power := { s.power with smbus := (List.finRange 16).map Config.serialNumber } } ∧
    (∀ w, exec (.smbusPowerCap w true) s = .next { s with power := { s.power with capW := newCap s w.toNat } }) ∧
    (s.clocksOn = true → s.keeper.boot ≠ .warm → ∃ u, exec (.warmReset 0xA5 true) s = .next u ∧ u.keeper.boot = .warm ∧ (∀ c, u.con c = {}) ∧
      u.mem = s.mem ∧ u.clk.sidereal = s.clk.sidereal ∧ ∀ n < s.member.cores, CoreEmpty u n)) ∧
  ∀ (s : State), (∀ w, exec (.smbusPowerCap w false) s = .next s) ∧ (∀ v, exec (.warmReset v false) s = .next s) ∧
    (∀ v ok, v ≠ 0xA5 → exec (.warmReset v ok) s = .next s) ∧
    (s.power.powerGood = false ∨ s.power.perstLow = true →
      ∀ i ∈ [Instr.smbusStatus, .tjMax, .stackTmax, .inputPower, .serial, .warmReset 0xA5 true], exec i s = .next s)

/-! ## JTAG, debug and power -/

namespace Sys2Proof.Claims

/-- Thread t stands between two instructions and no load, walk or reset holds it. -/
def AtBoundary (s : State) (t : Tid) : Prop :=
  (s.thr t).blocked = none ∧ (s.thr t).long = none ∧ (s.thr t).walk = none ∧ (s.thr t).pcWait = false ∧ (s.thr t).treset = false

/-- DBG_SEL of core n selects item i of a class of its thread k. -/
def Selects (s : State) (n k cls i : Nat) : Prop :=
  n < s.member.cores ∧ k < 4 ∧ cls < 16 ∧ i < 65536 ∧ Map.get 0 s.dbgSel n = BitVec.ofNat 64 (k + 16 * cls + 256 * i)

/-- The threads differ at most in g[r], which reads v. -/
def WritesOnlyG (a b : Thread) (r : Reg) (v : Word) : Prop :=
  b.greg r = v ∧ OtherG a b r ∧ b = { a with g := b.g, busy := b.busy }

/-- A demand and its run of evaluations below the release point move as R476 says. -/
def DemandMoves (above below : Prop) (d run d' run' : Nat) : Prop :=
  (above → d' = min 7 (d + 1) ∧ run' = 0) ∧ (¬ above → ¬ below → d' = d ∧ run' = 0) ∧
    (¬ above → below → run + 1 < 500 → d' = d ∧ run' = run + 1) ∧ (¬ above → below → 500 ≤ run + 1 → d' = d - 1 ∧ run' = 0)

end Sys2Proof.Claims

/-- R460–R466, R476–R478, R480; log entries 3 and 44. -/
def Obligations.DebugAndPower : Prop :=
  (∀ (s : State), s.power.powerGood = true →
    exec .bypass s = .next { s with power := { s.power with jtagIr := 0xFF, jtagDr := 0, scan := 0 } } ∧
    (∃ w : Word, exec .idcode s = .next { s with power := { s.power with jtagIr := 1, jtagDr := w, scan := 0 } } ∧ w.getLsbD 0 = true ∧
      w.extractLsb' 1 11 = 0x4A7#11 ∧ (w.extractLsb' 12 16).toNat = 0x4E00 + s.member.dies ∧ w.extractLsb' 28 4 = Config.siliconRevision ∧
      w.toNat < 2 ^ 32) ∧
    (∃ w, exec .samplePreload s = .next { s with power := { s.power with jtagIr := 2, jtagDr := w, scan := 0 }, freeCtr := s.freeCtr + 1 }) ∧
    (s.power.perstLow = true →
      (∃ w, exec .extest s = .next { s with power := { s.power with jtagIr := 0, jtagDr := w, scan := 1 }, freeCtr := s.freeCtr + 1 }) ∧
      exec .clamp s = .next { s with power := { s.power with jtagIr := 3, jtagDr := 0, scan := 2 } } ∧
      exec .highz s = .next { s with power := { s.power with jtagIr := 4, jtagDr := 0, scan := 3 } }) ∧
    (s.power.perstLow = false → ∀ i ir, (i, ir) ∈ [(Instr.extest, 0#8), (.clamp, 3#8), (.highz, 4#8)] →
      exec i s = .next { s with power := { s.power with jtagIr := ir, jtagDr := 0, scan := 0 } })) ∧
  (∀ (s : State) (n k : Nat) (off : BitVec 32) (v : Word), s.power.powerGood = true → s.clocksOn = true → n < s.member.cores → k < 4 →
    let p := { s.power with jtagIr := 0x10, jtagDr := v, scan := 0 }
    (off.toNat = 0x2000 * n + 0x400 → exec (.dbgAccess true off v) s =
      .next { s with power := p, dbgSel := Map.set 0 s.dbgSel n (v &&& 0xFFFFF3) }) ∧
    (off.toNat = 0x2000 * n + 0x100 * k + 8 → ∃ u, exec (.dbgAccess false off v) s = .next u ∧ u = { s with power := u.power, dbgData := u.dbgData } ∧
      u.power.jtagDr = u.dbgData ∧ u.dbgData.getLsbD 0 = (s.thr (4 * n + k)).stopped ∧ u.dbgData.getLsbD 1 = (s.thr (4 * n + k)).world ∧
      u.dbgData.extractLsb' 4 3 = BitVec.ofNat 3 (s.thr (4 * n + k)).reason) ∧
    (off.toNat = 0x2000 * n + 0x100 * k → v.toNat % 16 ∈ [3, 5, 6, 7, 9, 10, 11, 12, 13, 14, 15] → ∃ u, exec (.dbgAccess true off v) s = .next u ∧
      CountsOne s u ∧ u.threads = s.threads)) ∧
  (∀ (s : State) (t : Tid), s.clocksOn = true →
    ((s.thr t).stopped = true → exec (.dbgStop t) s = .next s ∧
      ∃ u, exec (.dbgResume t) s = .next u ∧ u = { s with threads := u.threads } ∧ (∀ i, i ≠ t → u.thr i = s.thr i) ∧
        u.thr t = { s.thr t with stopped := false, reason := 0, step := 0, ran := true }) ∧
    ((s.thr t).stopped = false → (∃ u, exec (.dbgResume t) s = .next u ∧ u = { s with threads := u.threads } ∧ ∀ i, u.thr i = s.thr i) ∧
      exec (.dbgStep t) s = .next s ∧
      ∀ c, (s.core (coreOf t)).member = some c → AtBoundary s t → ∃ u, exec (.dbgStop t) s = .next u ∧
        u = { s with threads := u.threads, freeCtr := s.freeCtr + 1 } ∧ (∀ i, i ≠ t → u.thr i = s.thr i) ∧
        u.thr t = { s.thr t with stopped := true, stopReq := false, step := 0, reason := 1 }) ∧
    ((s.thr t).stopped = true → (s.thr t).world = true → ∃ u, exec (.dbgStep t) s = .next u ∧ CountsOne s u ∧ u.threads = s.threads) ∧
    ((s.thr t).stopped = true → (s.thr t).world = false → ∃ u, exec (.dbgStep t) s = .next u ∧ u.thr t = { s.thr t with step := 1 } ∧
      u = { s with threads := u.threads } ∧ (∀ i, i ≠ t → u.thr i = s.thr i) ∧
      ∀ srcs, u.ready t srcs = true → ∃ x, exec (.nop t) u = .next x ∧ (x.thr t).step = 2 ∧ (x.thr t).pc = pcOf ((s.thr t).pc + 4)) ∧
    ((s.thr t).stopped = true → (s.thr t).step = 2 → (s.thr t).long = none → (s.thr t).walk = none → (s.thr t).pcWait = false →
      (s.thr t).treset = false → (∀ op, (s.thr t).blocked = some op → ∃ p l v, op = .pwr l p v) → ∃ u, exec (.stepStop t) s = .next u ∧
        u = { s with threads := u.threads } ∧ (∀ i, i ≠ t → u.thr i = s.thr i) ∧
        u.thr t = { s.thr t with stopped := true, stopReq := false, step := 0, reason := 2, blocked := none })) ∧
  (∀ (s : State) (n k cls i : Nat) (v : Word), s.clocksOn = true → Selects s n k cls i → let t := 4 * n + k
    ((s.thr t).stopped = false → (∃ u, exec (.dbgDataAccess n false v) s = .next u ∧ CountsOne s u ∧ u.dbgData = 0 ∧ u.threads = s.threads) ∧
      ∃ u, exec (.dbgDataAccess n true v) s = .next u ∧ CountsOne s u ∧ u.threads = s.threads) ∧
    ((s.thr t).stopped = true → (s.thr t).world = true → exec (.dbgDataAccess n false v) s = .next { s with dbgData := 0 } ∧
      exec (.dbgDataAccess n true v) s = .next s) ∧
    ((s.thr t).stopped = true → (s.thr t).world = false →
      (∀ d, (∃ r : Reg, cls = 0 ∧ i = r.val ∧ d = (s.thr t).greg r) ∨ (cls = 1 ∧ i = 0 ∧ d = (s.thr t).pc) ∨
          (cls = 1 ∧ i = 2 ∧ d = BitVec.ofNat 64 (s.thr t).rsp) ∨ (cls = 2 ∧ i < 8 ∧ d = (s.thr t).pgreg i) ∨
          (cls = 5 ∧ i = 5 ∧ (s.thr t).seedO = none ∧ d = BitVec.ofNat 64 t) ∨ (cls = 7 ∧ i < 4096 ∧ (s.thr t).z0.tag.sealed = true ∧ d = 0) ∨
          ((cls = 0 ∧ 32 ≤ i ∨ cls = 1 ∧ 3 ≤ i ∨ cls = 2 ∧ 8 ≤ i ∨ cls = 3 ∧ 256 ≤ i ∨ cls = 5 ∧ 7 ≤ i ∨ cls = 6 ∧ 1024 ≤ i ∨ cls = 7 ∧ 8192 ≤ i ∨
            9 ≤ cls) ∧ d = 0) →
        exec (.dbgDataAccess n false v) s = .next { s with dbgData := d }) ∧
      ∃ u, exec (.dbgDataAccess n true v) s = .next u ∧ (∀ j, j ≠ t → u.thr j = s.thr j) ∧
        (∀ r : Reg, cls = 0 → i = r.val → r.val ≠ 0 → WritesOnlyG (s.thr t) (u.thr t) r v) ∧
        (cls = 1 → i = 0 → u.thr t = { s.thr t with pc := pcOf v }) ∧ (cls = 1 → i = 2 → u.thr t = { s.thr t with rsp := min v.toNat 2048 }) ∧
        (cls = 1 → i = 1 → u = s) ∧
        (cls = 2 → i < 8 → (u.thr t).pgreg i = v &&& 0x000FFFFFFF000000 ∧ u.thr t = { s.thr t with pg := (u.thr t).pg }) ∧
        (5 ≤ cls → u = s))) ∧
  (∀ (s : State) (mw vin : Nat) (amps : List Nat) (tj : List (Nat × Nat)) (st : List Nat), s.clocksOn = true →
    (s.fab < s.power.evalAt + 4400 → exec (.powerComparatorEval mw vin amps tj st) s = .next s) ∧ (s.power.evalAt + 4400 ≤ s.fab → ∃ u,
    exec (.powerComparatorEval mw vin amps tj st) s = .next u ∧ u = { s with power := u.power, stks := u.stks, keeper := u.keeper, freeCtr := u.freeCtr } ∧
    DemandMoves (s.power.capW * 1000 < mw) (mw * 100 < s.power.capW * 970 * 100) s.power.powerDemand s.power.powerBelow u.power.powerDemand u.power.powerBelow ∧
    (∀ d < s.member.dies, let a := amps.getD d 0
      let hot := max (tj.getD d (0, 0)).1 (max (st.getD (3 * d) 0) (max (st.getD (3 * d + 1) 0) (st.getD (3 * d + 2) 0)))
      DemandMoves (3600 < a) (a < 3420) (Map.get 0 s.power.currentDemand d) (Map.get 0 s.power.currentBelow d)
        (Map.get 0 u.power.currentDemand d) (Map.get 0 u.power.currentBelow d) ∧
      DemandMoves (s.power.tjLimit < hot) (hot + 2 < s.power.tjLimit) (Map.get 0 s.power.tempDemand d) (Map.get 0 s.power.tempBelow d)
        (Map.get 0 u.power.tempDemand d) (Map.get 0 u.power.tempBelow d) ∧
      u.throttle d = max (max u.power.powerDemand s.power.thrMin) (max (Map.get 0 u.power.currentDemand d) (Map.get 0 u.power.tempDemand d)) ∧
      Map.get 0 u.power.coreAmps d = a ∧ Map.get 0 u.power.tjMax d = (tj.getD d (0, 0)).1 ∧ Map.get 0 u.power.tjMin d = (tj.getD d (0, 0)).2) ∧
    (∀ k < s.member.stks, u.stack k = { s.stack k with temp := st.getD k 0 }) ∧ u.power.vinMv = vin ∧ u.power.energyNj = s.power.energyNj + 2 * mw ∧
    u.power.capW = s.power.capW ∧ u.power.tripped = s.power.tripped ∧ u.power.evalAt = s.fab)) ∧
  (∀ (s : State) (v : Word), s.firmware = true → let tj := (v.extractLsb' 16 8).toNat
    exec (.pwrLimitsWrite v) s = .next { s with power := { s.power with
      thrMin := (v.extractLsb' 24 3).toNat, tjLimit := if tj ≤ s.power.tjLimit ∧ 70 ≤ tj then tj else s.power.tjLimit
      capW := newCap s (v.extractLsb' 0 16).toNat } }) ∧
  (∀ (s : State), (s.power.powerGood = false ∨ s.power.tripped = true → exec .thermalTrip s = .next s) ∧
    (s.power.powerGood = true → s.power.tripped = false → ∃ u, exec .thermalTrip s = .next u ∧ u.power.tripped = true ∧ u.power.railsOn = false ∧
      u.power.powerGood = true ∧ u.clocksOn = false ∧ u.mem = [] ∧ u.memTag = [] ∧ u.flits = [] ∧ u.host.linkUp = false ∧
      (∀ n < s.member.cores, CoreEmpty u n ∧ (u.core n).member = none) ∧ (∀ j, (u.slot j).key = 0 ∧ (u.slot j).pair = 0) ∧
      u.ageing.pages = s.ageing.pages ∧ u.clk = s.clk)) ∧
  ∀ (s : State),
    (s.power.tripped = true → s.power.perstSeen = true → exec .tripRelease s =
      .next { s with power := { s.power with tripped := false, perstSeen := false, railsOn := s.power.powerGood } }) ∧
    (s.power.tripped = false ∨ s.power.perstSeen = false → exec .tripRelease s = .next s) ∧
    exec .vinRise s = .next { s with power := { s.power with vinOn := true } } ∧
    (s.power.vinOn = true → s.power.powerGood = false → exec .powerGood s =
      .next { s with power := { s.power with powerGood := true, railsOn := true } }) ∧
    (s.power.vinOn = false → exec .powerGood s = .next s) ∧
    ∃ u, exec .vinFall s = .next u ∧
      u = { pending := s.pending, member := s.member, freeCtr := s.freeCtr, failed := s.failed, clk := { refPresent := s.clk.refPresent }
            ports := u.ports, ageing := u.ageing, power := u.power } ∧ u.power.vinOn = false ∧
      u.power.powerGood = false ∧ u.power.railsOn = false ∧ u.power.tripped = false ∧ u.ageing.pages = s.ageing.pages
end

