-- ==== Sys2Proof/Laws/Maps.lean ====
section
/-! SUPPORT. Laws of sparse tables: what a key reads as after a write, and the canonical form, which every operation
keeps. -/

namespace Sys2Proof

variable {α : Type} {d : α} {m : Map α} {j k : Nat} {v : α}

theorem Map.find_drop_same (m : Map α) (k : Nat) : Map.find (Map.drop m k) k = none := by
  induction m with
  | nil => rfl
  | cons p m ih =>
    by_cases h : p.1 = k
    · simpa [Map.drop, h] using ih
    · have h' : k ≠ p.1 := fun e => h e.symm
      simpa [Map.drop, h, Map.find, h'] using ih

theorem Map.find_drop_other (h : j ≠ k) (m : Map α) : Map.find (Map.drop m k) j = Map.find m j := by
  induction m with
  | nil => rfl
  | cons p m ih =>
    by_cases hp : p.1 = k
    · have : j ≠ p.1 := fun e => h (e.trans hp)
      simpa [Map.drop, hp, Map.find, h] using ih
    · by_cases hj : j = p.1
      · simp [Map.drop, hp, Map.find, hj]
      · simpa [Map.drop, hp, Map.find, hj] using ih

theorem Map.find_insert_same (h : Map.find m k = none) (v : α) : Map.find (Map.insert k v m) k = some v := by
  induction m with
  | nil => simp [Map.insert, Map.find]
  | cons p m ih =>
    have e : k ≠ p.1 := by
      intro e
      simp [Map.find, e] at h
    have h' : Map.find m k = none := by simpa [Map.find, e] using h
    by_cases l : k < p.1
    · simp [Map.insert, l, Map.find]
    · simp [Map.insert, l, Map.find, e, ih h']

theorem Map.find_insert_other (h : j ≠ k) (m : Map α) (v : α) : Map.find (Map.insert k v m) j = Map.find m j := by
  induction m with
  | nil => simp [Map.insert, Map.find, h]
  | cons p m ih =>
    by_cases l : k < p.1
    · simp [Map.insert, l, Map.find, h]
    · simp [Map.insert, l, Map.find, ih]

@[simp] theorem Map.get_nil (d : α) (k : Nat) : Map.get d [] k = d := rfl

theorem Map.mem_insert {p : Nat × α} (h : p ∈ Map.insert k v m) : p = (k, v) ∨ p ∈ m := by
  induction m with
  | nil => simpa [Map.insert] using h
  | cons q m ih =>
    by_cases l : k < q.1
    · simpa [Map.insert, l] using h
    · simp only [Map.insert, l, if_false, List.mem_cons] at h ⊢
      rcases h with h | h
      · exact Or.inr (Or.inl h)
      · rcases ih h with h | h
        · exact Or.inl h
        · exact Or.inr (Or.inr h)

variable [DecidableEq α]

/-- Read after write at one key. -/
@[simp] theorem Map.get_set_same (d : α) (m : Map α) (k : Nat) (v : α) : Map.get d (Map.set d m k v) k = v := by
  unfold Map.get Map.set
  split
  · rename_i h
    simp [Map.find_drop_same, h]
  · simp [Map.find_insert_same (Map.find_drop_same m k) v]

/-- A write leaves every other key alone. -/
theorem Map.get_set_other (h : j ≠ k) (d : α) (m : Map α) (v : α) : Map.get d (Map.set d m k v) j = Map.get d m j := by
  unfold Map.get Map.set
  split
  · rw [Map.find_drop_other h]
  · rw [Map.find_insert_other h, Map.find_drop_other h]

theorem Map.get_set (d : α) (m : Map α) (k j : Nat) (v : α) :
    Map.get d (Map.set d m k v) j = if j = k then v else Map.get d m j := by
  by_cases h : j = k
  · simp [h]
  · simp [h, Map.get_set_other h]

/-! ## The canonical form -/

theorem Map.wf_iff : Map.wf d m = true ↔ m.Pairwise (fun p q => p.1 < q.1) ∧ ∀ p ∈ m, p.2 ≠ d := by
  simp [Map.wf]

@[simp] theorem Map.wf_nil (d : α) : Map.wf d ([] : Map α) = true := by simp [Map.wf]

/-- A table from which entries are taken away keeps its form. -/
theorem Map.wf_filter (f : Nat × α → Bool) (h : Map.wf d m = true) : Map.wf d (m.filter f) = true := by
  rw [Map.wf_iff] at *
  exact ⟨h.1.filter f, fun p hp => h.2 p (List.mem_filter.mp hp).1⟩

theorem Map.wf_drop (h : Map.wf d m = true) (k : Nat) : Map.wf d (Map.drop m k) = true := Map.wf_filter _ h

theorem Map.wf_insert (h : Map.wf d m = true) (hk : ∀ p ∈ m, p.1 ≠ k) (hv : v ≠ d) :
    Map.wf d (Map.insert k v m) = true := by
  rw [Map.wf_iff] at *
  refine ⟨?_, fun p hp => ?_⟩
  · induction m with
    | nil => simp [Map.insert]
    | cons q m ih =>
      obtain ⟨h1, h2⟩ := h
      rw [List.pairwise_cons] at h1
      by_cases l : k < q.1
      · simp only [Map.insert, l, if_true, List.pairwise_cons, List.mem_cons]
        refine ⟨fun p hp => ?_, h1⟩
        rcases hp with rfl | hp
        · exact l
        · exact Nat.lt_trans l (h1.1 p hp)
      · simp only [Map.insert, l, if_false, List.pairwise_cons]
        refine ⟨fun p hp => ?_, ih ⟨h1.2, fun p hp => h2 p (List.mem_cons_of_mem _ hp)⟩
          fun p hp => hk p (List.mem_cons_of_mem _ hp)⟩
        rcases Map.mem_insert hp with rfl | hp
        · have := hk q (List.mem_cons_self ..)
          simp only
          omega
        · exact h1.1 p hp
  · rcases Map.mem_insert hp with rfl | hp
    · exact hv
    · exact h.2 p hp

/-- A write keeps the canonical form. -/
theorem Map.wf_set (h : Map.wf d m = true) (k : Nat) (v : α) : Map.wf d (Map.set d m k v) = true := by
  unfold Map.set
  split
  · exact Map.wf_drop h k
  · rename_i hv
    refine Map.wf_insert (Map.wf_drop h k) (fun p hp => ?_) hv
    have := (List.mem_filter.mp hp).2
    simpa using this

/-- Storing bytes keeps the canonical form. -/
theorem writeBytes_wf (bs : List Byte) : ∀ (m : Map Byte) (a : Nat), Map.wf 0 m = true → Map.wf 0 (writeBytes m a bs) = true := by
  induction bs with
  | nil => exact fun _ _ h => h
  | cons b bs ih => exact fun m a h => ih _ _ (Map.wf_set h a b)

/-- A byte outside the stored ones reads as before. -/
theorem writeBytes_other (bs : List Byte) : ∀ (m : Map Byte) (a j : Nat), (j < a ∨ a + bs.length ≤ j) →
    Map.get 0 (writeBytes m a bs) j = Map.get 0 m j := by
  induction bs with
  | nil => exact fun _ _ _ _ => rfl
  | cons b bs ih =>
    intro m a j h
    rw [List.length_cons] at h
    rw [writeBytes, ih _ _ _ (by omega), Map.get_set_other (by omega)]

/-- A stored byte reads back. -/
theorem writeBytes_get (bs : List Byte) : ∀ (m : Map Byte) (a i : Nat), i < bs.length →
    Map.get 0 (writeBytes m a bs) (a + i) = bs.getD i 0 := by
  induction bs with
  | nil => simp
  | cons b bs ih =>
    intro m a i h
    cases i with
    | zero => rw [writeBytes, writeBytes_other _ _ _ _ (by omega)]; simp
    | succ i =>
      have := ih (Map.set 0 m a b) (a + 1) i (by simpa using h)
      rw [writeBytes, show a + (i + 1) = a + 1 + i by omega, this]
      simp

end Sys2Proof
end

