-- ==== Sys2Proof/Laws/Keeps.lean ====
section
/-! SUPPORT. What no command touches and what every command keeps: the queue, the member, and the canonical form of
the memories. One lemma for each way a state is built; the files Laws/Keeps<n>.lean say it of each operation. -/

namespace Sys2Proof.Machine

open Sys2Proof

/-- The queue and the member of s are those of r, and if r's memories are in canonical form, so are those of s. -/
structure Keeps (r s : State) : Prop where
  pending : s.pending = r.pending
  member : s.member = r.member
  mem : r.memOk = true → s.memOk = true

theorem Keeps.rfl {r : State} : Keeps r r := ⟨.refl _, .refl _, id⟩

theorem Keeps.trans {r s t : State} (h : Keeps r s) (k : Keeps s t) : Keeps r t :=
  ⟨k.pending.trans h.pending, k.member.trans h.member, fun x => k.mem (h.mem x)⟩

/-- A state that differs elsewhere only. -/
theorem Keeps.upd {r s t : State} (h : Keeps r s) (h1 : t.pending = s.pending) (h2 : t.member = s.member)
    (h3 : t.ls = s.ls) (h4 : t.lsTag = s.lsTag) (h5 : t.lsSlot = s.lsSlot) (h6 : t.mem = s.mem) (h7 : t.memTag = s.memTag)
    (h8 : t.lsBad = s.lsBad) (h9 : t.memBad = s.memBad) : Keeps r t :=
  ⟨h1.trans h.pending, h2.trans h.member, fun x => by
    have := h.mem x
    simpa only [State.memOk, h3, h4, h5, h6, h7, h8, h9] using this⟩

/-- A state with other memories of canonical form. -/
theorem Keeps.mems {r s t : State} (h : Keeps r s) (h1 : t.pending = s.pending) (h2 : t.member = s.member)
    (h3 : Map.wf 0 s.ls = true → Map.wf 0 t.ls = true) (h4 : Map.wf {} s.lsTag = true → Map.wf {} t.lsTag = true)
    (h5 : Map.wf 0 s.lsSlot = true → Map.wf 0 t.lsSlot = true) (h6 : Map.wf 0 s.mem = true → Map.wf 0 t.mem = true)
    (h7 : Map.wf {} s.memTag = true → Map.wf {} t.memTag = true) (h8 : Map.wf 0 s.lsBad = true → Map.wf 0 t.lsBad = true)
    (h9 : Map.wf 0 s.memBad = true → Map.wf 0 t.memBad = true) : Keeps r t :=
  ⟨h1.trans h.pending, h2.trans h.member, fun x => by
    have := h.mem x
    simp only [State.memOk, Memory.wf, Bool.and_eq_true] at this ⊢
    obtain ⟨⟨⟨⟨⟨⟨a, b⟩, c⟩, d⟩, e⟩, f⟩, g⟩ := this
    exact ⟨⟨⟨⟨⟨⟨h3 a, h6 b⟩, h4 c⟩, h5 d⟩, h7 e⟩, h8 f⟩, h9 g⟩⟩

/-- A record update of other fields. -/
theorem Keeps.mk_iff {r s : State} {a b c d e f g i j k l m n o p q u v w x y z aa ab ac ad ae af ag ah ai aj ak al am an} :
    Keeps r (State.mk s.pending s.member a b c d e s.ls s.lsTag s.lsSlot s.lsBad s.mem s.memTag s.memBad f g i j k l m n o p q u v w x y z aa ab ac ad ae af ag ah ai aj ak al am an) ↔ Keeps r s :=
  by constructor <;> intro h <;> apply h.upd <;> exact .refl _

/-- A record update of the memories among others. -/
theorem Keeps.mems' {r s : State} {a b c d e f g i j k l m n o p q u v w x y z aa ab ac ad ae af ag ah ai aj ak al am an}
    {l1 : Map Byte} {l2 : Map Tag} {l3 : Map Nat} {l4 : Map Byte} {l5 : Map LineTag} {l6 : Map (BitVec 8)} {l7 : Map (BitVec 4)}
    (h : Keeps r s)
    (h3 : Map.wf 0 s.ls = true → Map.wf 0 l1 = true) (h4 : Map.wf {} s.lsTag = true → Map.wf {} l2 = true)
    (h5 : Map.wf 0 s.lsSlot = true → Map.wf 0 l3 = true) (h6 : Map.wf 0 s.mem = true → Map.wf 0 l4 = true)
    (h7 : Map.wf {} s.memTag = true → Map.wf {} l5 = true) (h8 : Map.wf 0 s.lsBad = true → Map.wf 0 l6 = true)
    (h9 : Map.wf 0 s.memBad = true → Map.wf 0 l7 = true) :
    Keeps r (State.mk s.pending s.member a b c d e l1 l2 l3 l6 l4 l5 l7 f g i j k l m n o p q u v w x y z aa ab ac ad ae af ag ah ai aj ak al am an) := h.mems (.refl _) (.refl _) h3 h4 h5 h6 h7 h8 h9

theorem Keeps.overAll {α : Type} {r s : State} (h : Keeps r s) {f : State → α → State}
    (k : ∀ s x, Keeps r s → Keeps r (f s x)) (xs : List α) : Keeps r (overAll xs f s) := by
  unfold Machine.overAll
  induction xs generalizing s with
  | nil => exact h
  | cons x xs ih => exact ih (k _ _ h)

theorem Keeps.foldl {α : Type} {r s : State} (h : Keeps r s) {f : State → α → State}
    (k : ∀ s x, Keeps r s → Keeps r (f s x)) (xs : List α) : Keeps r (xs.foldl f s) := by
  induction xs generalizing s with
  | nil => exact h
  | cons x xs ih => exact ih (k _ _ h)

/-- The same for a fold that carries the state as a part of something. -/
theorem Keeps.foldlP {σ α : Type} (π : σ → State) {r : State} {f : σ → α → σ} {b : σ} (h : Keeps r (π b))
    (k : ∀ b x, Keeps r (π b) → Keeps r (π (f b x))) (xs : List α) : Keeps r (π (xs.foldl f b)) := by
  induction xs generalizing b with
  | nil => exact h
  | cons x xs ih => exact ih (k _ _ h)

theorem Keeps.getD {r d : State} {o : Option State} (h : ∀ u, o = some u → Keeps r u) (hd : Keeps r d) : Keeps r (o.getD d) := by
  cases o with
  | none => exact hd
  | some u => exact h u (Eq.refl _)

end Sys2Proof.Machine
end

