-- ==== Sys2Proof/Laws/KeepsOps.lean ====
section
/-! SUPPORT. Keeps (Laws/Keeps.lean) of the operations of Machine/Ops.lean. -/

namespace Sys2Proof.Machine

open Sys2Proof

set_option simprocs false
set_option linter.unusedTactic false
set_option linter.unreachableTactic false
set_option linter.unusedSimpArgs false


theorem State.setThr_keeps {r₀ : State} {s : State} (hs : Keeps r₀ s) (t : Tid) (x : Thread) : Keeps r₀ (State.setThr s t x) := by
  unfold State.setThr
  try dsimp only
  repeat' first | with_reducible exact hs | split | simp only [Keeps.mk_iff] | with_reducible assumption | intro _ | dsimp only

theorem State.modThr_keeps {r₀ : State} {s : State} (hs : Keeps r₀ s) (t : Tid) (f : Thread → Thread) : Keeps r₀ (State.modThr s t f) := by
  unfold State.modThr
  try dsimp only
  repeat' first | with_reducible exact hs | with_reducible apply State.setThr_keeps | split | simp only [Keeps.mk_iff] | with_reducible assumption | intro _ | dsimp only

theorem State.setCore_keeps {r₀ : State} {s : State} (hs : Keeps r₀ s) (n : Nat) (x : Core) : Keeps r₀ (State.setCore s n x) := by
  unfold State.setCore
  try dsimp only
  repeat' first | with_reducible exact hs | split | simp only [Keeps.mk_iff] | with_reducible assumption | intro _ | dsimp only

theorem State.modCore_keeps {r₀ : State} {s : State} (hs : Keeps r₀ s) (n : Nat) (f : Core → Core) : Keeps r₀ (State.modCore s n f) := by
  unfold State.modCore
  try dsimp only
  repeat' first | with_reducible exact hs | with_reducible apply State.setCore_keeps | split | simp only [Keeps.mk_iff] | with_reducible assumption | intro _ | dsimp only

theorem State.setCon_keeps {r₀ : State} {s : State} (hs : Keeps r₀ s) (c : Nat) (x : Cons) : Keeps r₀ (State.setCon s c x) := by
  unfold State.setCon
  try dsimp only
  repeat' first | with_reducible exact hs | split | simp only [Keeps.mk_iff] | with_reducible assumption | intro _ | dsimp only

theorem State.modCon_keeps {r₀ : State} {s : State} (hs : Keeps r₀ s) (c : Nat) (f : Cons → Cons) : Keeps r₀ (State.modCon s c f) := by
  unfold State.modCon
  try dsimp only
  repeat' first | with_reducible exact hs | with_reducible apply State.setCon_keeps | split | simp only [Keeps.mk_iff] | with_reducible assumption | intro _ | dsimp only

theorem State.setStack_keeps {r₀ : State} {s : State} (hs : Keeps r₀ s) (k : Nat) (x : Stack) : Keeps r₀ (State.setStack s k x) := by
  unfold State.setStack
  try dsimp only
  repeat' first | with_reducible exact hs | split | simp only [Keeps.mk_iff] | with_reducible assumption | intro _ | dsimp only

theorem State.modStack_keeps {r₀ : State} {s : State} (hs : Keeps r₀ s) (k : Nat) (f : Stack → Stack) : Keeps r₀ (State.modStack s k f) := by
  unfold State.modStack
  try dsimp only
  repeat' first | with_reducible exact hs | with_reducible apply State.setStack_keeps | split | simp only [Keeps.mk_iff] | with_reducible assumption | intro _ | dsimp only

theorem State.modDie_keeps {r₀ : State} {s : State} (hs : Keeps r₀ s) (d : Nat) (f : Die → Die) : Keeps r₀ (State.modDie s d f) := by
  unfold State.modDie
  try dsimp only
  repeat' first | with_reducible exact hs | split | simp only [Keeps.mk_iff] | with_reducible assumption | intro _ | dsimp only

theorem State.modFunc_keeps {r₀ : State} {s : State} (hs : Keeps r₀ s) (f : Nat) (g : Func → Func) : Keeps r₀ (State.modFunc s f g) := by
  unfold State.modFunc
  try dsimp only
  repeat' first | with_reducible exact hs | split | simp only [Keeps.mk_iff] | with_reducible assumption | intro _ | dsimp only

theorem State.modPort_keeps {r₀ : State} {s : State} (hs : Keeps r₀ s) (p : Nat) (f : MPort → MPort) : Keeps r₀ (State.modPort s p f) := by
  unfold State.modPort
  try dsimp only
  repeat' first | with_reducible exact hs | split | simp only [Keeps.mk_iff] | with_reducible assumption | intro _ | dsimp only

theorem State.modBond_keeps {r₀ : State} {s : State} (hs : Keeps r₀ s) (p : Nat) (f : Bond → Bond) : Keeps r₀ (State.modBond s p f) := by
  unfold State.modBond
  try dsimp only
  repeat' first | with_reducible exact hs | split | simp only [Keeps.mk_iff] | with_reducible assumption | intro _ | dsimp only

theorem State.modEng_keeps {r₀ : State} {s : State} (hs : Keeps r₀ s) (d : Nat) (f : TEngine → TEngine) : Keeps r₀ (State.modEng s d f) := by
  unfold State.modEng
  try dsimp only
  repeat' first | with_reducible exact hs | split | simp only [Keeps.mk_iff] | with_reducible assumption | intro _ | dsimp only

theorem State.modSlot_keeps {r₀ : State} {s : State} (hs : Keeps r₀ s) (n : Nat) (f : Slot → Slot) : Keeps r₀ (State.modSlot s n f) := by
  unfold State.modSlot
  try dsimp only
  repeat' first | with_reducible exact hs | split | simp only [Keeps.mk_iff] | with_reducible assumption | intro _ | dsimp only

theorem State.modArea_keeps {r₀ : State} {s : State} (hs : Keeps r₀ s) (c : Nat) (f : Area → Area) : Keeps r₀ (State.modArea s c f) := by
  unfold State.modArea
  try dsimp only
  repeat' first | with_reducible exact hs | split | simp only [Keeps.mk_iff] | with_reducible assumption | intro _ | dsimp only

theorem State.modBarrier_keeps {r₀ : State} {s : State} (hs : Keeps r₀ s) (b : Nat) (f : Barrier → Barrier) : Keeps r₀ (State.modBarrier s b f) := by
  unfold State.modBarrier
  try dsimp only
  repeat' first | with_reducible exact hs | split | simp only [Keeps.mk_iff] | with_reducible assumption | intro _ | dsimp only

theorem State.setInb_keeps {r₀ : State} {s : State} (hs : Keeps r₀ s) (n : Nat) (l : List Packet) : Keeps r₀ (State.setInb s n l) := by
  unfold State.setInb
  try dsimp only
  repeat' first | with_reducible exact hs | split | simp only [Keeps.mk_iff] | with_reducible assumption | intro _ | dsimp only

theorem State.setOutb_keeps {r₀ : State} {s : State} (hs : Keeps r₀ s) (n : Nat) (l : List Packet) : Keeps r₀ (State.setOutb s n l) := by
  unfold State.setOutb
  try dsimp only
  repeat' first | with_reducible exact hs | split | simp only [Keeps.mk_iff] | with_reducible assumption | intro _ | dsimp only

theorem overAll_keeps {r₀ : State} {s : State} (hs : Keeps r₀ s) {α : Type} (xs : List α) (f : State → α → State) (hf : ∀ x y, Keeps r₀ x → Keeps r₀ (f x y)) : Keeps r₀ (overAll xs f s) := by
  unfold overAll
  try dsimp only
  repeat' first | with_reducible exact hs | with_reducible apply hf | (with_reducible refine Keeps.foldlP Hop.s ?_ (fun _ _ _ => ?_) _) | (with_reducible refine Keeps.foldlP EngRun.s ?_ (fun _ _ _ => ?_) _) | (with_reducible refine Keeps.foldlP Prod.snd ?_ (fun _ _ _ => ?_) _) | (with_reducible refine Keeps.foldlP Prod.fst ?_ (fun _ _ _ => ?_) _) | (with_reducible refine Keeps.foldlP (fun p => EngRun.s (Prod.snd p)) ?_ (fun _ _ _ => ?_) _) | (with_reducible refine Keeps.foldlP (fun p => Prod.snd (Prod.snd p)) ?_ (fun _ _ _ => ?_) _) | (with_reducible refine Keeps.foldl ?_ (fun _ _ _ => ?_) _) | split | simp only [Keeps.mk_iff] | with_reducible assumption | intro _ | dsimp only

theorem State.draw_keeps {r₀ : State} {s : State} (hs : Keeps r₀ s) : Keeps r₀ (State.draw s).2 := by
  unfold State.draw
  try dsimp only
  repeat' first | with_reducible exact hs | split | simp only [Keeps.mk_iff] | with_reducible assumption | intro _ | dsimp only

theorem State.tlp_keeps {r₀ : State} {s : State} (hs : Keeps r₀ s) (f : Nat) (t : Tlp) : Keeps r₀ (State.tlp s f t) := by
  unfold State.tlp
  try dsimp only
  repeat' first | with_reducible exact hs | split | simp only [Keeps.mk_iff] | with_reducible assumption | intro _ | dsimp only

theorem State.hwMark_keeps {r₀ : State} {s : State} (hs : Keeps r₀ s) (b : StatusBit) : Keeps r₀ (State.hwMark s b) := by
  unfold State.hwMark
  try dsimp only
  repeat' first | with_reducible exact hs | split | simp only [Keeps.mk_iff] | with_reducible assumption | intro _ | dsimp only

theorem State.event_keeps {r₀ : State} {s : State} (hs : Keeps r₀ s) (kind : Nat) (cid : Nat) (node : Nat) (detail : Nat) (addr : Word) : Keeps r₀ (State.event s kind cid node detail addr) := by
  unfold State.event
  try dsimp only
  repeat' first | with_reducible exact hs | split | simp only [Keeps.mk_iff] | with_reducible assumption | intro _ | dsimp only

theorem State.report_keeps {r₀ : State} {s : State} (hs : Keeps r₀ s) (cls : Nat) (cons : List Nat) (node : Nat) (sld : Bool) (addr : Word) : Keeps r₀ (State.report s cls cons node sld addr) := by
  unfold State.report
  try dsimp only
  repeat' first | with_reducible exact hs | with_reducible apply State.event_keeps | with_reducible apply State.hwMark_keeps | with_reducible apply State.modCon_keeps | with_reducible apply overAll_keeps | (with_reducible refine Keeps.overAll ?_ (fun _ _ _ => ?_) _) | split | simp only [Keeps.mk_iff] | with_reducible assumption | intro _ | dsimp only

theorem State.tallyUp_keeps {r₀ : State} {s : State} (hs : Keeps r₀ s) (c : Option Nat) : Keeps r₀ (State.tallyUp s c) := by
  unfold State.tallyUp
  try dsimp only
  repeat' first | with_reducible exact hs | with_reducible apply State.modCon_keeps | split | simp only [Keeps.mk_iff] | with_reducible assumption | intro _ | dsimp only

theorem State.refuseAt_keeps {r₀ : State} {s : State} (hs : Keeps r₀ s) (n : Nat) (issuer : Nat) (tag : Tag) (level : Bool) (kind : Nat) (addr : Nat) : Keeps r₀ (State.refuseAt s n issuer tag level kind addr) := by
  unfold State.refuseAt
  try dsimp only
  repeat' first | with_reducible exact hs | with_reducible apply State.modCore_keeps | with_reducible apply State.tallyUp_keeps | split | simp only [Keeps.mk_iff] | with_reducible assumption | intro _ | dsimp only

theorem State.refuse_keeps {r₀ : State} {s : State} (hs : Keeps r₀ s) (t : Tid) (kind : Nat) (addr : Nat) : Keeps r₀ (State.refuse s t kind addr) := by
  unfold State.refuse
  try dsimp only
  repeat' first | with_reducible exact hs | with_reducible apply State.refuseAt_keeps | split | simp only [Keeps.mk_iff] | with_reducible assumption | intro _ | dsimp only

theorem State.refuseOut_keeps {r₀ : State} {s : State} (hs : Keeps r₀ s) (c : Option Nat) (node : Nat) (func : Nat) (kind : Nat) (addr : Nat) : Keeps r₀ (State.refuseOut s c node func kind addr) := by
  unfold State.refuseOut
  try dsimp only
  repeat' first | with_reducible exact hs | with_reducible apply State.tallyUp_keeps | split | simp only [Keeps.mk_iff] | with_reducible assumption | intro _ | dsimp only

theorem State.setG_keeps {r₀ : State} {s : State} (hs : Keeps r₀ s) (t : Tid) (r : Reg) (v : Word) : Keeps r₀ (State.setG s t r v) := by
  unfold State.setG
  try dsimp only
  repeat' first | with_reducible exact hs | with_reducible apply State.modThr_keeps | split | simp only [Keeps.mk_iff] | with_reducible assumption | intro _ | dsimp only

theorem State.setV_keeps {r₀ : State} {s : State} (hs : Keeps r₀ s) (t : Tid) (r : Reg) (v : Line) : Keeps r₀ (State.setV s t r v) := by
  unfold State.setV
  try dsimp only
  repeat' first | with_reducible exact hs | with_reducible apply State.modThr_keeps | split | simp only [Keeps.mk_iff] | with_reducible assumption | intro _ | dsimp only

theorem State.past_keeps {r₀ : State} {s : State} (hs : Keeps r₀ s) (t : Tid) (n : Nat) : Keeps r₀ (State.past s t n) := by
  unfold State.past
  try dsimp only
  repeat' first | with_reducible exact hs | with_reducible apply State.modThr_keeps | split | simp only [Keeps.mk_iff] | with_reducible assumption | intro _ | dsimp only

theorem State.dropLong_keeps {r₀ : State} {s : State} (hs : Keeps r₀ s) (t : Tid) : Keeps r₀ (State.dropLong s t) := by
  unfold State.dropLong
  try dsimp only
  repeat' first | with_reducible exact hs | with_reducible apply State.modCore_keeps | with_reducible apply State.modThr_keeps | split | simp only [Keeps.mk_iff] | with_reducible assumption | intro _ | dsimp only

theorem State.lockup_keeps {r₀ : State} {s : State} (hs : Keeps r₀ s) (t : Tid) (cause : Nat) : Keeps r₀ (State.lockup s t cause) := by
  unfold State.lockup
  try dsimp only
  repeat' first | with_reducible exact hs | with_reducible apply State.modCon_keeps | with_reducible apply State.modCore_keeps | with_reducible apply State.report_keeps | split | simp only [Keeps.mk_iff] | with_reducible assumption | intro _ | dsimp only

theorem State.raiseAt_keeps {r₀ : State} {s : State} (hs : Keeps r₀ s) (t : Tid) (code : Nat) (acc : Nat) (progress : Bool) (info : Word) (epc : Word) : Keeps r₀ (State.raiseAt s t code acc progress info epc) := by
  unfold State.raiseAt
  try dsimp only
  repeat' first | with_reducible exact hs | with_reducible apply State.dropLong_keeps | with_reducible apply State.lockup_keeps | with_reducible apply State.setThr_keeps | split | simp only [Keeps.mk_iff] | with_reducible assumption | intro _ | dsimp only

theorem State.raise_keeps {r₀ : State} {s : State} (hs : Keeps r₀ s) (t : Tid) (code : Nat) (acc : Nat) (info : Word) : Keeps r₀ (State.raise s t code acc info) := by
  unfold State.raise
  try dsimp only
  repeat' first | with_reducible exact hs | with_reducible apply State.raiseAt_keeps | split | simp only [Keeps.mk_iff] | with_reducible assumption | intro _ | dsimp only

theorem State.tileFault_keeps {r₀ : State} {s : State} (hs : Keeps r₀ s) (t : Tid) (why : Nat) : Keeps r₀ (State.tileFault s t why) := by
  unfold State.tileFault
  try dsimp only
  repeat' first | with_reducible exact hs | with_reducible apply State.modThr_keeps | with_reducible apply State.raise_keeps | split | simp only [Keeps.mk_iff] | with_reducible assumption | intro _ | dsimp only

theorem State.zeroLs_keeps {r₀ s : State} (h : Keeps r₀ s) (n a b : Nat) : Keeps r₀ (s.zeroLs n a b) :=
  h.mems (.refl _) (.refl _) (Map.wf_filter _) id id id id (Map.wf_filter _) id

theorem State.leaveSealed_keeps {r₀ : State} {s : State} (hs : Keeps r₀ s) (t : Tid) (evict : Bool) : Keeps r₀ (State.leaveSealed s t evict) := by
  unfold State.leaveSealed
  try dsimp only
  repeat' first | with_reducible exact hs | with_reducible apply EngRun.gather_keeps | with_reducible apply State.evict_keeps | with_reducible apply State.modCore_keeps | with_reducible apply State.setThr_keeps | with_reducible apply State.zeroLs_keeps | split | simp only [Keeps.mk_iff] | with_reducible assumption | intro _ | dsimp only

theorem State.noteDemand_keeps {r₀ : State} {s : State} (hs : Keeps r₀ s) (t : Tid) : Keeps r₀ (State.noteDemand s t) := by
  unfold State.noteDemand
  try dsimp only
  repeat' first | with_reducible exact hs | with_reducible apply State.setThr_keeps | split | simp only [Keeps.mk_iff] | with_reducible assumption | intro _ | dsimp only

theorem State.noteDemands_keeps {r₀ : State} {s : State} (hs : Keeps r₀ s) (c : Nat) : Keeps r₀ (State.noteDemands s c) := by
  unfold State.noteDemands
  try dsimp only
  repeat' first | with_reducible exact hs | with_reducible apply State.noteDemand_keeps | with_reducible apply overAll_keeps | (with_reducible refine Keeps.overAll ?_ (fun _ _ _ => ?_) _) | split | simp only [Keeps.mk_iff] | with_reducible assumption | intro _ | dsimp only

end Sys2Proof.Machine
end

