-- ==== Sys2Proof/Laws/KeepsMemory.lean ====
section
/-! SUPPORT. Keeps (Laws/Keeps.lean) of the operations of Machine/Memory.lean. -/

namespace Sys2Proof.Machine

open Sys2Proof

set_option simprocs false
set_option linter.unusedTactic false
set_option linter.unreachableTactic false
set_option linter.unusedSimpArgs false


theorem State.setStkLine_keeps {r₀ : State} {s : State} (hs : Keeps r₀ s) (k : Nat) (l : Nat) (v : Line) : Keeps r₀ (State.setStkLine s k l v) := by
  unfold State.setStkLine
  try dsimp only
  repeat' first | with_reducible exact hs | split | simp only [Keeps.mk_iff] | with_reducible assumption | intro _ | dsimp only | (refine Keeps.mems' ?_ ?_ ?_ ?_ ?_ ?_ ?_ ?_ <;> first | assumption | exact id | exact fun h => Map.wf_set h _ _ | exact fun h => writeBytes_wf _ _ _ h | exact Map.wf_filter _ | exact fun _ => Map.wf_nil _)

theorem State.setStkTag_keeps {r₀ : State} {s : State} (hs : Keeps r₀ s) (k : Nat) (l : Nat) (t : LineTag) : Keeps r₀ (State.setStkTag s k l t) := by
  unfold State.setStkTag
  try dsimp only
  repeat' first | with_reducible exact hs | split | simp only [Keeps.mk_iff] | with_reducible assumption | intro _ | dsimp only | (refine Keeps.mems' ?_ ?_ ?_ ?_ ?_ ?_ ?_ ?_ <;> first | assumption | exact id | exact fun h => Map.wf_set h _ _ | exact fun h => writeBytes_wf _ _ _ h | exact Map.wf_filter _ | exact fun _ => Map.wf_nil _)

theorem State.setRowBad_keeps {r₀ : State} {s : State} (hs : Keeps r₀ s) (n : Nat) (line : Nat) (b : BitVec 8) : Keeps r₀ (State.setRowBad s n line b) := by
  unfold State.setRowBad
  try dsimp only
  repeat' first | with_reducible exact hs | split | simp only [Keeps.mk_iff] | with_reducible assumption | intro _ | dsimp only | (refine Keeps.mems' ?_ ?_ ?_ ?_ ?_ ?_ ?_ ?_ <;> first | assumption | exact id | exact fun h => Map.wf_set h _ _ | exact fun h => writeBytes_wf _ _ _ h | exact Map.wf_filter _ | exact fun _ => Map.wf_nil _)

theorem State.strikeLs_keeps {r₀ : State} {s : State} (hs : Keeps r₀ s) (n : Nat) (line : Nat) (b : BitVec 8) : Keeps r₀ (State.strikeLs s n line b) := by
  unfold State.strikeLs
  try dsimp only
  repeat' first | with_reducible exact hs | with_reducible apply State.setRowBad_keeps | split | simp only [Keeps.mk_iff] | with_reducible assumption | intro _ | dsimp only

theorem State.mendHalf_keeps {r₀ : State} {s : State} (hs : Keeps r₀ s) (n : Nat) (h : Nat) (ws : Nat) : Keeps r₀ (State.mendHalf s n h ws) := by
  unfold State.mendHalf
  try dsimp only
  repeat' first | with_reducible exact hs | with_reducible apply State.setRowBad_keeps | split | simp only [Keeps.mk_iff] | with_reducible assumption | intro _ | dsimp only

theorem State.setLineBad_keeps {r₀ : State} {s : State} (hs : Keeps r₀ s) (k : Nat) (l : Nat) (b : BitVec 4) : Keeps r₀ (State.setLineBad s k l b) := by
  unfold State.setLineBad
  try dsimp only
  repeat' first | with_reducible exact hs | split | simp only [Keeps.mk_iff] | with_reducible assumption | intro _ | dsimp only | (refine Keeps.mems' ?_ ?_ ?_ ?_ ?_ ?_ ?_ ?_ <;> first | assumption | exact id | exact fun h => Map.wf_set h _ _ | exact fun h => writeBytes_wf _ _ _ h | exact Map.wf_filter _ | exact fun _ => Map.wf_nil _)

theorem State.strikeLine_keeps {r₀ : State} {s : State} (hs : Keeps r₀ s) (k : Nat) (l : Nat) (b : BitVec 4) : Keeps r₀ (State.strikeLine s k l b) := by
  unfold State.strikeLine
  try dsimp only
  repeat' first | with_reducible exact hs | with_reducible apply State.setLineBad_keeps | split | simp only [Keeps.mk_iff] | with_reducible assumption | intro _ | dsimp only

theorem State.mendLine_keeps {r₀ : State} {s : State} (hs : Keeps r₀ s) (k : Nat) (l : Nat) (ws : Nat) : Keeps r₀ (State.mendLine s k l ws) := by
  unfold State.mendLine
  try dsimp only
  repeat' first | with_reducible exact hs | with_reducible apply State.setLineBad_keeps | split | simp only [Keeps.mk_iff] | with_reducible assumption | intro _ | dsimp only

theorem State.setHalf_keeps {r₀ : State} {s : State} (hs : Keeps r₀ s) (n : Nat) (h : Nat) (v : Line) (t : Tag) : Keeps r₀ (State.setHalf s n h v t) := by
  unfold State.setHalf
  try dsimp only
  repeat' first | with_reducible exact hs | split | simp only [Keeps.mk_iff] | with_reducible assumption | intro _ | dsimp only | (refine Keeps.mems' ?_ ?_ ?_ ?_ ?_ ?_ ?_ ?_ <;> first | assumption | exact id | exact fun h => Map.wf_set h _ _ | exact fun h => writeBytes_wf _ _ _ h | exact Map.wf_filter _ | exact fun _ => Map.wf_nil _)

theorem State.setSlotSt_keeps {r₀ : State} {s : State} (hs : Keeps r₀ s) (n : Nat) (h : Nat) (st : Nat) : Keeps r₀ (State.setSlotSt s n h st) := by
  unfold State.setSlotSt
  try dsimp only
  repeat' first | with_reducible exact hs | split | simp only [Keeps.mk_iff] | with_reducible assumption | intro _ | dsimp only | (refine Keeps.mems' ?_ ?_ ?_ ?_ ?_ ?_ ?_ ?_ <;> first | assumption | exact id | exact fun h => Map.wf_set h _ _ | exact fun h => writeBytes_wf _ _ _ h | exact Map.wf_filter _ | exact fun _ => Map.wf_nil _)

theorem State.writeHalf_keeps {r₀ : State} {s : State} (hs : Keeps r₀ s) (n : Nat) (h : Nat) (mask : BitVec 64) (data : Line) (tag : Tag) : Keeps r₀ (State.writeHalf s n h mask data tag) := by
  unfold State.writeHalf
  try dsimp only
  repeat' first | with_reducible exact hs | with_reducible apply State.mendHalf_keeps | with_reducible apply State.setHalf_keeps | split | simp only [Keeps.mk_iff] | with_reducible assumption | intro _ | dsimp only

theorem State.meetHalf_keeps {r₀ : State} {s : State} (hs : Keeps r₀ s) (n : Nat) (h : Nat) (ws : Nat) (cons : List Nat) (sld : Bool) (addr : Nat) : Keeps r₀ (State.meetHalf s n h ws cons sld addr) := by
  unfold State.meetHalf
  try dsimp only
  repeat' first | with_reducible exact hs | with_reducible apply State.modCore_keeps | with_reducible apply State.report_keeps | with_reducible apply overAll_keeps | (with_reducible refine Keeps.overAll ?_ (fun _ _ _ => ?_) _) | split | simp only [Keeps.mk_iff] | with_reducible assumption | intro _ | dsimp only

theorem State.writeLine_keeps {r₀ : State} {s : State} (hs : Keeps r₀ s) (k : Nat) (l : Nat) (fline : Nat) (tag : Tag) (mask : BitVec 64) (data : Line) : Keeps r₀ (State.writeLine s k l fline tag mask data) := by
  unfold State.writeLine
  try dsimp only
  repeat' first | with_reducible exact hs | with_reducible apply State.mendLine_keeps | with_reducible apply State.setStkLine_keeps | with_reducible apply State.setStkTag_keeps | split | simp only [Keeps.mk_iff] | with_reducible assumption | intro _ | dsimp only

theorem State.homeWrite_keeps {r₀ : State} {s : State} (hs : Keeps r₀ s) (tag : Tag) (pa : Nat) (first : Nat) (last : Nat) (data : Line) : Keeps r₀ (State.homeWrite s tag pa first last data) := by
  unfold State.homeWrite
  try dsimp only
  repeat' first | with_reducible exact hs | with_reducible apply State.writeHalf_keeps | with_reducible apply State.writeLine_keeps | split | simp only [Keeps.mk_iff] | with_reducible assumption | intro _ | dsimp only

theorem State.stkQueue_keeps {r₀ : State} {s : State} (hs : Keeps r₀ s) (k : Nat) (l : Nat) (r : SReq) : Keeps r₀ (State.stkQueue s k l r) := by
  unfold State.stkQueue
  try dsimp only
  repeat' first | with_reducible exact hs | with_reducible apply State.modChan_keeps | with_reducible apply State.modStack_keeps | split | simp only [Keeps.mk_iff] | with_reducible assumption | intro _ | dsimp only

theorem State.dropScrub_keeps {r₀ : State} {s : State} (hs : Keeps r₀ s) (k : Nat) (l : Nat) : Keeps r₀ (State.dropScrub s k l) := by
  unfold State.dropScrub
  try dsimp only
  repeat' first | with_reducible exact hs | with_reducible apply State.modChan_keeps | with_reducible apply State.modStack_keeps | split | simp only [Keeps.mk_iff] | with_reducible assumption | intro _ | dsimp only

theorem State.writeSlots_keeps {r₀ : State} {s : State} (hs : Keeps r₀ s) (k : Nat) (l : Nat) (mask : BitVec 64) : Keeps r₀ (State.writeSlots s k l mask) := by
  unfold State.writeSlots
  try dsimp only
  repeat' first | with_reducible exact hs | with_reducible apply EngRun.bytes_keeps | with_reducible apply State.dropScrub_keeps | with_reducible apply State.modStack_keeps | with_reducible apply State.stkQueue_keeps | split | simp only [Keeps.mk_iff] | with_reducible assumption | intro _ | dsimp only

theorem State.stkUe_keeps {r₀ : State} {s : State} (hs : Keeps r₀ s) (k : Nat) (l : Nat) (ws : Nat) (cons : List Nat) (sld : Bool) (addr : Nat) : Keeps r₀ (State.stkUe s k l ws cons sld addr) := by
  unfold State.stkUe
  try dsimp only
  repeat' first | with_reducible exact hs | with_reducible apply State.modChan_keeps | with_reducible apply State.modStack_keeps | with_reducible apply State.report_keeps | with_reducible apply overAll_keeps | (with_reducible refine Keeps.overAll ?_ (fun _ _ _ => ?_) _) | split | simp only [Keeps.mk_iff] | with_reducible assumption | intro _ | dsimp only

theorem State.homeFault_keeps {r₀ : State} {s : State} (hs : Keeps r₀ s) (pa : Nat) (ws : Nat) (cons : List Nat) (sld : Bool) : Keeps r₀ (State.homeFault s pa ws cons sld) := by
  unfold State.homeFault
  try dsimp only
  repeat' first | with_reducible exact hs | with_reducible apply State.meetHalf_keeps | with_reducible apply State.stkUe_keeps | split | simp only [Keeps.mk_iff] | with_reducible assumption | intro _ | dsimp only

theorem State.homeGet_keeps {r₀ : State} {s : State} (hs : Keeps r₀ s) (tag : Tag) (pa : Nat) (cons : List Nat) : Keeps r₀ (State.homeGet s tag pa cons).2.2 := by
  unfold State.homeGet
  try dsimp only
  repeat' first | with_reducible exact hs | with_reducible apply State.homeFault_keeps | with_reducible apply State.stkQueue_keeps | split | simp only [Keeps.mk_iff] | with_reducible assumption | intro _ | dsimp only

theorem State.homePut_keeps {r₀ : State} {s : State} (hs : Keeps r₀ s) (tag : Tag) (pa : Nat) (first : Nat) (last : Nat) (data : Line) (cons : List Nat) : Keeps r₀ (State.homePut s tag pa first last data cons) := by
  unfold State.homePut
  try dsimp only
  repeat' first | with_reducible exact hs | with_reducible apply State.homeFault_keeps | with_reducible apply State.homeWrite_keeps | with_reducible apply State.writeSlots_keeps | split | simp only [Keeps.mk_iff] | with_reducible assumption | intro _ | dsimp only

theorem State.setWalk_keeps {r₀ : State} {s : State} (hs : Keeps r₀ s) (n : Nat) (key : Nat) (w : Option Walk) : Keeps r₀ (State.setWalk s n key w) := by
  unfold State.setWalk
  try dsimp only
  repeat' first | with_reducible exact hs | with_reducible apply State.modCore_keeps | split | simp only [Keeps.mk_iff] | with_reducible assumption | intro _ | dsimp only

theorem State.endWalk_keeps {r₀ : State} {s : State} (hs : Keeps r₀ s) (n : Nat) (key : Nat) : Keeps r₀ (State.endWalk s n key) := by
  unfold State.endWalk
  try dsimp only
  repeat' first | with_reducible exact hs | with_reducible apply State.setWalk_keeps | split | simp only [Keeps.mk_iff] | with_reducible assumption | intro _ | dsimp only

theorem State.translate_keeps {r₀ : State} {s : State} (hs : Keeps r₀ s) (n : Nat) (key : Nat) (acc : Tag) (need : Need) (a : Nat) : Keeps r₀ (State.translate s n key acc need a).2 := by
  unfold State.translate
  try dsimp only
  repeat' first | with_reducible exact hs | with_reducible apply State.modCore_keeps | with_reducible apply State.setWalk_keeps | split | simp only [Keeps.mk_iff] | with_reducible assumption | intro _ | dsimp only

theorem State.tableLine_keeps {r₀ : State} {s : State} (hs : Keeps r₀ s) (c : Nat) (i : Nat) : Keeps r₀ (State.tableLine s c i).2 := by
  unfold State.tableLine
  try dsimp only
  repeat' first | with_reducible exact hs | with_reducible apply State.homeGet_keeps | split | simp only [Keeps.mk_iff] | with_reducible assumption | intro _ | dsimp only

theorem State.walkReturn_keeps {r₀ : State} {s : State} (hs : Keeps r₀ s) (c : Nat) (k : Nat) (w : Walk) : Keeps r₀ (State.walkReturn s c k w).2 := by
  unfold State.walkReturn
  try dsimp only
  repeat' first | with_reducible exact hs | with_reducible apply State.tableLine_keeps | split | simp only [Keeps.mk_iff] | with_reducible assumption | intro _ | dsimp only

end Sys2Proof.Machine
end

