-- ==== Sys2Proof/Laws/KeepsEntitle.lean ====
section
/-! SUPPORT. Keeps (Laws/Keeps.lean) of the operations of Machine/Entitle.lean. -/

namespace Sys2Proof.Machine

open Sys2Proof

set_option simprocs false
set_option linter.unusedTactic false
set_option linter.unreachableTactic false
set_option linter.unusedSimpArgs false


theorem State.refuseAccessor_keeps {r₀ : State} {s : State} (hs : Keeps r₀ s) (acc : Accessor) (a : Nat) : Keeps r₀ (State.refuseAccessor s acc a) := by
  unfold State.refuseAccessor
  try dsimp only
  repeat' first | with_reducible exact hs | with_reducible apply EngRun.refuse_keeps | with_reducible apply State.refuse_keeps | with_reducible apply State.refuseOut_keeps | split | simp only [Keeps.mk_iff] | with_reducible assumption | intro _ | dsimp only

theorem State.regCmd_keeps {r₀ : State} {s : State} (hs : Keeps r₀ s) (acc : Accessor) (a : Nat) (k : State → State) (hk : ∀ x, Keeps r₀ x → Keeps r₀ (k x)) : Keeps r₀ (State.regCmd s acc a k) := by
  unfold State.regCmd
  try dsimp only
  repeat' first | with_reducible exact hs | with_reducible apply hk | with_reducible apply State.refuseAccessor_keeps | split | simp only [Keeps.mk_iff] | with_reducible assumption | intro _ | dsimp only

theorem State.eventOpen_keeps {r₀ : State} {s : State} (hs : Keeps r₀ s) (kind : Nat) (cid : Nat) (detail : Option Nat) : Keeps r₀ (State.eventOpen s kind cid detail) := by
  unfold State.eventOpen
  try dsimp only
  repeat' first | with_reducible exact hs | with_reducible apply State.draw_keeps | with_reducible apply State.event_keeps | (with_reducible refine Keeps.getD (fun u hu => ?_) ?_) | split | simp only [Keeps.mk_iff] | with_reducible assumption | intro _ | dsimp only

end Sys2Proof.Machine
end

