-- ==== Sys2Proof/Laws/KeepsMesh.lean ====
section
/-! SUPPORT. Keeps (Laws/Keeps.lean) of the operations of Machine/Mesh.lean. -/

namespace Sys2Proof.Machine

open Sys2Proof

set_option simprocs false
set_option linter.unusedTactic false
set_option linter.unreachableTactic false
set_option linter.unusedSimpArgs false


theorem State.present_keeps {r₀ : State} {s : State} (hs : Keeps r₀ s) (n : Nat) (p : Packet) (o : Option Outst) : Keeps r₀ (State.present s n p o) := by
  unfold State.present
  try dsimp only
  repeat' first | with_reducible exact hs | with_reducible apply State.modCore_keeps | with_reducible apply State.modThr_keeps | split | simp only [Keeps.mk_iff] | with_reducible assumption | intro _ | dsimp only

theorem pumpList_keeps {r₀ : State} (n : Nat) (l : List (Packet × Option Outst)) : ∀ (held : List Engine) {s : State},
    Keeps r₀ s → Keeps r₀ (pumpList n l held s).1 := by
  induction l with
  | nil => exact fun _ _ h => h
  | cons p l ih =>
    intro held s h
    unfold pumpList
    split
    · exact ih _ (State.present_keeps h _ _ _)
    · exact ih _ h

theorem State.pump_keeps {r₀ : State} {s : State} (hs : Keeps r₀ s) (n : Nat) : Keeps r₀ (State.pump s n) := by
  unfold State.pump
  try dsimp only
  repeat' first | with_reducible exact hs | with_reducible apply State.modCore_keeps | with_reducible apply pumpList_keeps | split | simp only [Keeps.mk_iff] | with_reducible assumption | intro _ | dsimp only

theorem State.send_keeps {r₀ : State} {s : State} (hs : Keeps r₀ s) (n : Nat) (p : Packet) (o : Option Outst) : Keeps r₀ (State.send s n p o) := by
  unfold State.send
  try dsimp only
  repeat' first | with_reducible exact hs | with_reducible apply State.modCore_keeps | with_reducible apply State.pump_keeps | split | simp only [Keeps.mk_iff] | with_reducible assumption | intro _ | dsimp only

theorem State.injectOn_keeps {r₀ : State} {s : State} (hs : Keeps r₀ s) (p : Packet) (plane : Nat) (x : Nat) (y : Nat) (dport : Nat) : Keeps r₀ (State.injectOn s p plane x y dport) := by
  unfold State.injectOn
  try dsimp only
  repeat' first | with_reducible exact hs | split | simp only [Keeps.mk_iff] | with_reducible assumption | intro _ | dsimp only

theorem State.injectResponse_keeps {r₀ : State} {s : State} (hs : Keeps r₀ s) (node : Nat) : Keeps r₀ (State.injectResponse s node) := by
  unfold State.injectResponse
  try dsimp only
  repeat' first | with_reducible exact hs | with_reducible apply State.injectOn_keeps | with_reducible apply State.setOutb_keeps | split | simp only [Keeps.mk_iff] | with_reducible assumption | intro _ | dsimp only

theorem State.injectRequest_keeps {r₀ : State} {s : State} (hs : Keeps r₀ s) (n : Nat) : Keeps r₀ (State.injectRequest s n) := by
  unfold State.injectRequest
  try dsimp only
  repeat' first | with_reducible exact hs | with_reducible apply State.arrive_keeps | with_reducible apply State.injectOn_keeps | with_reducible apply State.modCore_keeps | with_reducible apply State.pump_keeps | with_reducible apply State.signal_keeps | split | simp only [Keeps.mk_iff] | with_reducible assumption | intro _ | dsimp only

theorem State.answer_keeps {r₀ : State} {s : State} (hs : Keeps r₀ s) (node : Nat) (p : Packet) (typ : PType) (data : Line) (refused : Bool) : Keeps r₀ (State.answer s node p typ data refused) := by
  unfold State.answer
  try dsimp only
  repeat' first | with_reducible exact hs | with_reducible apply State.setOutb_keeps | split | simp only [Keeps.mk_iff] | with_reducible assumption | intro _ | dsimp only

theorem State.ejectAnswer_keeps {r₀ : State} {s : State} (hs : Keeps r₀ s) (p : Packet) : Keeps r₀ (State.ejectAnswer s p) := by
  unfold State.ejectAnswer
  try dsimp only
  repeat' first | with_reducible exact hs | with_reducible apply State.modPort_keeps | split | simp only [Keeps.mk_iff] | with_reducible assumption | intro _ | dsimp only

theorem State.eject_keeps {r₀ : State} {s : State} (hs : Keeps r₀ s) (p : Packet) : Keeps r₀ (State.eject s p) := by
  unfold State.eject
  try dsimp only
  repeat' first | with_reducible exact hs | with_reducible apply State.answer_keeps | with_reducible apply State.ejectAnswer_keeps | with_reducible apply State.setInb_keeps | split | simp only [Keeps.mk_iff] | with_reducible assumption | intro _ | dsimp only

theorem Hop.place_keeps {r₀ : State} {h : Hop} (hh : Keeps r₀ h.s) (f : Flit) : Keeps r₀ (Hop.place h f).s := by
  unfold Hop.place
  try dsimp only
  repeat' first | with_reducible exact hh | with_reducible apply State.eject_keeps | with_reducible apply State.free_keeps | with_reducible apply State.modCore_keeps | with_reducible apply State.modDie_keeps | (with_reducible refine Keeps.getD (fun u hu => ?_) ?_) | split | simp only [Keeps.mk_iff] | with_reducible assumption | intro _ | dsimp only

theorem State.dropHeaders_keeps {r₀ : State} {s : State} (hs : Keeps r₀ s) (n : Nat) (bad : Damage) (l : List Flit) : Keeps r₀ (State.dropHeaders s n bad l).1 := by
  unfold State.dropHeaders
  try dsimp only
  repeat' first | with_reducible exact hs | with_reducible apply State.modDie_keeps | with_reducible apply State.report_keeps | with_reducible apply overAll_keeps | (with_reducible refine Keeps.overAll ?_ (fun _ _ _ => ?_) _) | split | simp only [Keeps.mk_iff] | with_reducible assumption | intro _ | dsimp only

theorem State.hop_keeps {r₀ : State} {s : State} (hs : Keeps r₀ s) (plane : Nat) (x : Nat) (y : Nat) (bad : Damage) : Keeps r₀ (State.hop s plane x y bad) := by
  unfold State.hop
  try dsimp only
  repeat' first | with_reducible exact hs | with_reducible apply Hop.place_keeps | with_reducible apply State.dropHeaders_keeps | with_reducible apply State.modDie_keeps | (with_reducible refine Keeps.foldlP Hop.s ?_ (fun _ _ _ => ?_) _) | (with_reducible refine Keeps.foldlP EngRun.s ?_ (fun _ _ _ => ?_) _) | (with_reducible refine Keeps.foldlP Prod.snd ?_ (fun _ _ _ => ?_) _) | (with_reducible refine Keeps.foldlP Prod.fst ?_ (fun _ _ _ => ?_) _) | (with_reducible refine Keeps.foldlP (fun p => EngRun.s (Prod.snd p)) ?_ (fun _ _ _ => ?_) _) | (with_reducible refine Keeps.foldlP (fun p => Prod.snd (Prod.snd p)) ?_ (fun _ _ _ => ?_) _) | (with_reducible refine Keeps.foldl ?_ (fun _ _ _ => ?_) _) | split | simp only [Keeps.mk_iff] | with_reducible assumption | intro _ | dsimp only

theorem State.refusePkt_keeps {r₀ : State} {s : State} (hs : Keeps r₀ s) (p : Packet) (kind : Nat) : Keeps r₀ (State.refusePkt s p kind) := by
  unfold State.refusePkt
  try dsimp only
  repeat' first | with_reducible exact hs | with_reducible apply State.refuseAt_keeps | with_reducible apply State.refuseOut_keeps | with_reducible apply State.tallyUp_keeps | split | simp only [Keeps.mk_iff] | with_reducible assumption | intro _ | dsimp only

theorem State.payloadUe_keeps {r₀ : State} {s : State} (hs : Keeps r₀ s) (cls : Nat) (node : Nat) (p : Packet) : Keeps r₀ (State.payloadUe s cls node p) := by
  unfold State.payloadUe
  try dsimp only
  repeat' first | with_reducible exact hs | with_reducible apply State.report_keeps | with_reducible apply overAll_keeps | (with_reducible refine Keeps.overAll ?_ (fun _ _ _ => ?_) _) | split | simp only [Keeps.mk_iff] | with_reducible assumption | intro _ | dsimp only

theorem State.meetPkt_keeps {r₀ : State} {s : State} (hs : Keeps r₀ s) (n : Nat) (h : Nat) (ws : Nat) (p : Packet) : Keeps r₀ (State.meetPkt s n h ws p) := by
  unfold State.meetPkt
  try dsimp only
  repeat' first | with_reducible exact hs | with_reducible apply State.meetHalf_keeps | split | simp only [Keeps.mk_iff] | with_reducible assumption | intro _ | dsimp only

theorem State.performLs_keeps {r₀ : State} {s : State} (hs : Keeps r₀ s) (n : Nat) (p : Packet) : Keeps r₀ (State.performLs s n p) := by
  unfold State.performLs
  try dsimp only
  repeat' first | with_reducible exact hs | with_reducible apply State.answer_keeps | with_reducible apply State.meetPkt_keeps | with_reducible apply State.modCore_keeps | with_reducible apply State.payloadUe_keeps | with_reducible apply State.refusePkt_keeps | with_reducible apply State.writeHalf_keeps | split | simp only [Keeps.mk_iff] | with_reducible assumption | intro _ | dsimp only

theorem State.p7Perform_keeps {r₀ : State} {s : State} (hs : Keeps r₀ s) (n : Nat) (i : Nat) (bad : BitVec 8) : Keeps r₀ (State.p7Perform s n i bad) := by
  unfold State.p7Perform
  try dsimp only
  repeat' first | with_reducible exact hs | with_reducible apply State.performLs_keeps | with_reducible apply State.setInb_keeps | with_reducible apply State.strikeLs_keeps | split | simp only [Keeps.mk_iff] | with_reducible assumption | intro _ | dsimp only

theorem State.writeBack_keeps {r₀ : State} {s : State} (hs : Keeps r₀ s) (n : Nat) (t : Nat) (eng : Engine) (l : CLine) : Keeps r₀ (State.writeBack s n t eng l) := by
  unfold State.writeBack
  try dsimp only
  repeat' first | with_reducible exact hs | exact (EngRun.send_keeps (by assumption) _ _ _ _ ‹_›) | with_reducible apply State.send_keeps | with_reducible apply overAll_keeps | (with_reducible refine Keeps.overAll ?_ (fun _ _ _ => ?_) _) | split | simp only [Keeps.mk_iff] | with_reducible assumption | intro _ | dsimp only

theorem State.cacheFill_keeps {r₀ : State} {s : State} (hs : Keeps r₀ s) (n : Nat) (t : Nat) (l : CLine) : Keeps r₀ (State.cacheFill s n t l) := by
  unfold State.cacheFill
  try dsimp only
  repeat' first | with_reducible exact hs | with_reducible apply State.modCore_keeps | with_reducible apply State.writeBack_keeps | split | simp only [Keeps.mk_iff] | with_reducible assumption | intro _ | dsimp only

theorem State.complete_keeps {r₀ : State} {s : State} (hs : Keeps r₀ s) (n : Nat) (i : Nat) (o : Outst) (data : Line) (refused : Bool) : Keeps r₀ (State.complete s n i o data refused) := by
  unfold State.complete
  try dsimp only
  repeat' first | with_reducible exact hs | with_reducible apply State.cacheFill_keeps | with_reducible apply State.modCore_keeps | with_reducible apply State.modThr_keeps | with_reducible apply State.pump_keeps | with_reducible apply State.writeBack_keeps | split | simp only [Keeps.mk_iff] | with_reducible assumption | intro _ | dsimp only

theorem State.arrive_keeps {r₀ : State} {s : State} (hs : Keeps r₀ s) (n : Nat) (i : Nat) (typ : PType) (ue : Nat) : Keeps r₀ (State.arrive s n i typ ue) := by
  unfold State.arrive
  try dsimp only
  repeat' first | with_reducible exact hs | with_reducible apply State.complete_keeps | with_reducible apply State.report_keeps | with_reducible apply State.setInb_keeps | with_reducible apply overAll_keeps | (with_reducible refine Keeps.overAll ?_ (fun _ _ _ => ?_) _) | split | simp only [Keeps.mk_iff] | with_reducible assumption | intro _ | dsimp only

end Sys2Proof.Machine
end

