-- ==== Sys2Proof/Laws/KeepsAccess.lean ====
section
/-! SUPPORT. Keeps (Laws/Keeps.lean) of the operations of Machine/Access.lean. -/

namespace Sys2Proof.Machine

open Sys2Proof

set_option simprocs false
set_option linter.unusedTactic false
set_option linter.unreachableTactic false
set_option linter.unusedSimpArgs false


theorem State.p4Write_keeps {r₀ : State} {s : State} (hs : Keeps r₀ s) (t : Nat) (line : Nat) : Keeps r₀ (State.p4Write s t line) := by
  unfold State.p4Write
  try dsimp only
  repeat' first | with_reducible exact hs | with_reducible apply EngRun.gather_keeps | with_reducible apply State.modThr_keeps | with_reducible apply State.writeHalf_keeps | split | simp only [Keeps.mk_iff] | with_reducible assumption | intro _ | dsimp only

theorem State.p4Do_keeps {r₀ : State} {s : State} (hs : Keeps r₀ s) (t : Tid) (it : P4Item) : Keeps r₀ (State.p4Do s t it) := by
  unfold State.p4Do
  try dsimp only
  repeat' first | with_reducible exact hs | with_reducible apply State.modThr_keeps | with_reducible apply State.refuseAt_keeps | with_reducible apply State.ringPop_keeps | with_reducible apply State.ringPush_keeps | with_reducible apply State.setSlotSt_keeps | with_reducible apply State.writeHalf_keeps | split | simp only [Keeps.mk_iff] | with_reducible assumption | intro _ | dsimp only

theorem State.p4Meet_keeps {r₀ : State} {s : State} (hs : Keeps r₀ s) (t : Nat) (line : Nat) (reads : Bool) : Keeps r₀ (State.p4Meet s t line reads) := by
  unfold State.p4Meet
  try dsimp only
  repeat' first | with_reducible exact hs | with_reducible apply EngRun.meet_keeps | with_reducible apply State.meetHalf_keeps | split | simp only [Keeps.mk_iff] | with_reducible assumption | intro _ | dsimp only

theorem State.p4Slot_keeps {r₀ : State} {s : State} (hs : Keeps r₀ s) (t : Tid) (sub : Nat) (bad : BitVec 8) : Keeps r₀ (State.p4Slot s t sub bad) := by
  unfold State.p4Slot
  try dsimp only
  repeat' first | with_reducible exact hs | with_reducible apply State.modThr_keeps | with_reducible apply State.p4Do_keeps | with_reducible apply State.p4Meet_keeps | with_reducible apply State.p4Write_keeps | with_reducible apply State.ringPush_keeps | with_reducible apply State.strikeLs_keeps | with_reducible apply overAll_keeps | (with_reducible refine Keeps.overAll ?_ (fun _ _ _ => ?_) _) | split | simp only [Keeps.mk_iff] | with_reducible assumption | intro _ | dsimp only

theorem State.refuseLoad_keeps {r₀ : State} {s : State} (hs : Keeps r₀ s) (t : Tid) (kind : Nat) (addr : Nat) (rd : Reg) : Keeps r₀ (State.refuseLoad s t kind addr rd) := by
  unfold State.refuseLoad
  try dsimp only
  repeat' first | with_reducible exact hs | with_reducible apply EngRun.refuse_keeps | with_reducible apply State.modThr_keeps | with_reducible apply State.refuse_keeps | split | simp only [Keeps.mk_iff] | with_reducible assumption | intro _ | dsimp only

theorem State.refuseAcc_keeps {r₀ : State} {s : State} (hs : Keeps r₀ s) (t : Tid) (a : Access) (kind : Nat) : Keeps r₀ (State.refuseAcc s t a kind) := by
  unfold State.refuseAcc
  try dsimp only
  repeat' first | with_reducible exact hs | with_reducible apply EngRun.refuse_keeps | with_reducible apply State.past_keeps | with_reducible apply State.refuse_keeps | with_reducible apply State.refuseLoad_keeps | split | simp only [Keeps.mk_iff] | with_reducible assumption | intro _ | dsimp only

theorem State.lineMaint_keeps {r₀ : State} {s : State} (hs : Keeps r₀ s) (t : Nat) (line : Nat) (tag : Tag) (inv : Bool) : Keeps r₀ (State.lineMaint s t line tag inv).1 := by
  unfold State.lineMaint
  try dsimp only
  repeat' first | with_reducible exact hs | with_reducible apply State.modCore_keeps | with_reducible apply State.writeBack_keeps | split | simp only [Keeps.mk_iff] | with_reducible assumption | intro _ | dsimp only

theorem State.translated_keeps {r₀ : State} {s : State} (hs : Keeps r₀ s) (t : Tid) (a : Access) (pa : Nat) (tag : Tag) (cache : Bool) : Keeps r₀ (State.translated s t a pa tag cache) := by
  unfold State.translated
  try dsimp only
  repeat' first | with_reducible exact hs | exact (EngRun.send_keeps (by assumption) _ _ _ _ ‹_›) | with_reducible apply State.lineMaint_keeps | with_reducible apply State.modCore_keeps | with_reducible apply State.modThr_keeps | with_reducible apply State.past_keeps | with_reducible apply State.refuseAcc_keeps | with_reducible apply State.send_keeps | with_reducible apply State.setG_keeps | with_reducible apply State.setThr_keeps | (with_reducible refine Keeps.getD (fun u hu => ?_) ?_) | refine EngRun.send_keeps ?_ _ _ _ _ (by assumption) | split | simp only [Keeps.mk_iff] | with_reducible assumption | intro _ | dsimp only

theorem State.useFor_keeps {r₀ : State} {s : State} (hs : Keeps r₀ s) (t : Tid) (a : Access) (raw : BitVec 256) : Keeps r₀ (State.useFor s t a raw) := by
  unfold State.useFor
  try dsimp only
  repeat' first | with_reducible exact hs | with_reducible apply State.past_keeps | with_reducible apply State.raise_keeps | with_reducible apply State.refuseAcc_keeps | with_reducible apply State.translated_keeps | split | simp only [Keeps.mk_iff] | with_reducible assumption | intro _ | dsimp only

theorem State.ownAccess_keeps {r₀ : State} {s : State} (hs : Keeps r₀ s) (t : Tid) (a : Access) (off : Nat) : Keeps r₀ (State.ownAccess s t a off) := by
  unfold State.ownAccess
  try dsimp only
  repeat' first | with_reducible exact hs | with_reducible apply State.modThr_keeps | with_reducible apply State.past_keeps | with_reducible apply State.refuseAcc_keeps | with_reducible apply State.setG_keeps | with_reducible apply State.setThr_keeps | with_reducible apply State.translated_keeps | split | simp only [Keeps.mk_iff] | with_reducible assumption | intro _ | dsimp only

theorem State.ctlAccess_keeps {r₀ : State} {s : State} (hs : Keeps r₀ s) (t : Tid) (a : Access) : Keeps r₀ (State.ctlAccess s t a) := by
  unfold State.ctlAccess
  try dsimp only
  repeat' first | with_reducible exact hs | exact (EngRun.send_keeps (by assumption) _ _ _ _ ‹_›) | with_reducible apply State.modThr_keeps | with_reducible apply State.past_keeps | with_reducible apply State.refuseAcc_keeps | with_reducible apply State.send_keeps | with_reducible apply State.setThr_keeps | split | simp only [Keeps.mk_iff] | with_reducible assumption | intro _ | dsimp only

theorem State.windowAccess_keeps {r₀ : State} {s : State} (hs : Keeps r₀ s) (t : Tid) (a : Access) : Keeps r₀ (State.windowAccess s t a) := by
  unfold State.windowAccess
  try dsimp only
  repeat' first | with_reducible exact hs | with_reducible apply State.modCore_keeps | with_reducible apply State.modThr_keeps | with_reducible apply State.refuseAcc_keeps | with_reducible apply State.useFor_keeps | (with_reducible refine Keeps.getD (fun u hu => ?_) ?_) | split | simp only [Keeps.mk_iff] | with_reducible assumption | intro _ | dsimp only

theorem State.access_keeps {r₀ : State} {s : State} (hs : Keeps r₀ s) (t : Tid) (a : Access) : Keeps r₀ (State.access s t a) := by
  unfold State.access
  repeat' first | with_reducible exact hs | with_reducible apply State.ctlAccess_keeps | with_reducible apply State.ownAccess_keeps | with_reducible apply State.raise_keeps | with_reducible apply State.windowAccess_keeps | split | simp only [Keeps.mk_iff] | with_reducible assumption | intro _ | dsimp only

theorem State.walkLine_keeps {r₀ : State} {s : State} (hs : Keeps r₀ s) (t : Tid) (k : Nat) : Keeps r₀ (State.walkLine s t k) := by
  unfold State.walkLine
  try dsimp only
  repeat' first | with_reducible exact hs | with_reducible apply State.modCore_keeps | with_reducible apply State.modThr_keeps | with_reducible apply State.refuseAcc_keeps | with_reducible apply State.useFor_keeps | with_reducible apply State.walkReturn_keeps | split | simp only [Keeps.mk_iff] | with_reducible assumption | intro _ | dsimp only

theorem State.engineWalk_keeps {r₀ : State} {s : State} (hs : Keeps r₀ s) (n : Nat) (key : Nat) (k : Nat) : Keeps r₀ (State.engineWalk s n key k) := by
  unfold State.engineWalk
  try dsimp only
  repeat' first | with_reducible exact hs | with_reducible apply State.modCore_keeps | with_reducible apply State.setWalk_keeps | with_reducible apply State.walkReturn_keeps | split | simp only [Keeps.mk_iff] | with_reducible assumption | intro _ | dsimp only

theorem State.drain_keeps {r₀ : State} {s : State} (hs : Keeps r₀ s) (t : Tid) : Keeps r₀ (State.drain s t) := by
  unfold State.drain
  try dsimp only
  repeat' first | with_reducible exact hs | exact (EngRun.send_keeps (by assumption) _ _ _ _ ‹_›) | with_reducible apply State.modThr_keeps | with_reducible apply State.present_keeps | with_reducible apply State.send_keeps | with_reducible apply State.setCore_keeps | with_reducible apply State.setThr_keeps | (with_reducible refine Keeps.getD (fun u hu => ?_) ?_) | refine EngRun.send_keeps ?_ _ _ _ _ (by assumption) | split | simp only [Keeps.mk_iff] | with_reducible assumption | intro _ | dsimp only

theorem State.refusalDone_keeps {r₀ : State} {s : State} (hs : Keeps r₀ s) (t : Tid) : Keeps r₀ (State.refusalDone s t) := by
  unfold State.refusalDone
  try dsimp only
  repeat' first | with_reducible exact hs | with_reducible apply State.setThr_keeps | split | simp only [Keeps.mk_iff] | with_reducible assumption | intro _ | dsimp only

end Sys2Proof.Machine
end

