-- ==== Sys2Proof/Laws/KeepsFlow.lean ====
section
/-! SUPPORT. Keeps (Laws/Keeps.lean) of the operations of Machine/Flow.lean. -/

namespace Sys2Proof.Machine

open Sys2Proof

set_option simprocs false
set_option linter.unusedTactic false
set_option linter.unreachableTactic false
set_option linter.unusedSimpArgs false


theorem State.doCall_keeps {r₀ : State} {s : State} (hs : Keeps r₀ s) (t : Tid) (target : Thread → Word) : Keeps r₀ (State.doCall s t target) := by
  unfold State.doCall
  try dsimp only
  repeat' first | with_reducible exact hs | with_reducible apply State.raise_keeps | with_reducible apply State.setThr_keeps | split | simp only [Keeps.mk_iff] | with_reducible assumption | intro _ | dsimp only

theorem State.doRet_keeps {r₀ : State} {s : State} (hs : Keeps r₀ s) (t : Tid) : Keeps r₀ (State.doRet s t) := by
  unfold State.doRet
  try dsimp only
  repeat' first | with_reducible exact hs | with_reducible apply State.raise_keeps | with_reducible apply State.setThr_keeps | split | simp only [Keeps.mk_iff] | with_reducible assumption | intro _ | dsimp only

end Sys2Proof.Machine
end

