-- ==== Sys2Proof/Laws/KeepsWorlds.lean ====
section
/-! SUPPORT. Keeps (Laws/Keeps.lean) of the operations of Machine/Worlds.lean. -/

namespace Sys2Proof.Machine

open Sys2Proof

set_option simprocs false
set_option linter.unusedTactic false
set_option linter.unreachableTactic false
set_option linter.unusedSimpArgs false


theorem State.refuseInstr_keeps {r₀ : State} {s : State} (hs : Keeps r₀ s) (t : Tid) : Keeps r₀ (State.refuseInstr s t) := by
  unfold State.refuseInstr
  try dsimp only
  repeat' first | with_reducible exact hs | with_reducible apply EngRun.refuse_keeps | with_reducible apply State.past_keeps | with_reducible apply State.refuse_keeps | split | simp only [Keeps.mk_iff] | with_reducible assumption | intro _ | dsimp only

theorem State.doGate_keeps {r₀ : State} {s : State} (hs : Keeps r₀ s) (t : Tid) (slot : Nat) : Keeps r₀ (State.doGate s t slot) := by
  unfold State.doGate
  try dsimp only
  repeat' first | with_reducible exact hs | with_reducible apply State.modCore_keeps | with_reducible apply State.setThr_keeps | (with_reducible refine Keeps.getD (fun u hu => ?_) ?_) | split | simp only [Keeps.mk_iff] | with_reducible assumption | intro _ | dsimp only

theorem State.writeEntry_keeps {r₀ : State} {s : State} (hs : Keeps r₀ s) (t : Nat) (n : Nat) (v : Word) (world : Bool) (level : Bool) (session : BitVec 12) : Keeps r₀ (State.writeEntry s t n v world level session) := by
  unfold State.writeEntry
  try dsimp only
  repeat' first | with_reducible exact hs | with_reducible apply State.modSlot_keeps | with_reducible apply State.setThr_keeps | split | simp only [Keeps.mk_iff] | with_reducible assumption | intro _ | dsimp only

theorem State.evict_keeps {r₀ : State} {s : State} (hs : Keeps r₀ s) (t : Tid) : Keeps r₀ (State.evict s t) := by
  unfold State.evict
  try dsimp only
  repeat' first | with_reducible exact hs | with_reducible apply State.leaveSealed_keeps | with_reducible apply State.modThr_keeps | split | simp only [Keeps.mk_iff] | with_reducible assumption | intro _ | dsimp only

end Sys2Proof.Machine
end

