-- ==== Sys2Proof/Laws/KeepsCache.lean ====
section
/-! SUPPORT. Keeps (Laws/Keeps.lean) of the operations of Machine/Cache.lean. -/

namespace Sys2Proof.Machine

open Sys2Proof

set_option simprocs false
set_option linter.unusedTactic false
set_option linter.unreachableTactic false
set_option linter.unusedSimpArgs false


theorem State.scanLines_keeps {r₀ : State} {s : State} (hs : Keeps r₀ s) (t : Tid) (eng : Engine) (inv : Bool) (p : CLine → Bool) : Keeps r₀ (State.scanLines s t eng inv p) := by
  unfold State.scanLines
  try dsimp only
  repeat' first | with_reducible exact hs | with_reducible apply State.modCore_keeps | with_reducible apply State.writeBack_keeps | with_reducible apply overAll_keeps | (with_reducible refine Keeps.overAll ?_ (fun _ _ _ => ?_) _) | split | simp only [Keeps.mk_iff] | with_reducible assumption | intro _ | dsimp only | (refine Keeps.mems' ?_ ?_ ?_ ?_ ?_ ?_ ?_ ?_ <;> first | assumption | exact id | exact fun h => Map.wf_set h _ _ | exact fun h => writeBytes_wf _ _ _ h | exact Map.wf_filter _ | exact fun _ => Map.wf_nil _)

theorem State.scanCache_keeps {r₀ : State} {s : State} (hs : Keeps r₀ s) (t : Tid) (eng : Engine) (inv : Bool) : Keeps r₀ (State.scanCache s t eng inv) := by
  unfold State.scanCache
  try dsimp only
  repeat' first | with_reducible exact hs | with_reducible apply State.scanLines_keeps | split | simp only [Keeps.mk_iff] | with_reducible assumption | intro _ | dsimp only

theorem State.orBlock_keeps {r₀ : State} {s : State} (hs : Keeps r₀ s) (t : Tid) (op : BlockOp) (r : Option State) (hr : ∀ x, r = some x → Keeps r₀ x) : Keeps r₀ (State.orBlock s t op r) := by
  unfold State.orBlock
  try dsimp only
  repeat' first | with_reducible exact hs | (exact hr _ (by assumption)) | (exact hr _ rfl) | with_reducible apply State.modThr_keeps | split | simp only [Keeps.mk_iff] | with_reducible assumption | intro _ | dsimp only

theorem State.tryMaint_keeps {r₀ : State} {s : State} (hs : Keeps r₀ s) (t : Tid) : ∀ u, State.tryMaint s t = some u → Keeps r₀ u := by
  intro u hu
  unfold State.tryMaint at hu
  try dsimp only at hu
  repeat' split at hu
  all_goals try cases hu
  repeat' first | with_reducible exact hs | with_reducible apply State.past_keeps | split | simp only [Keeps.mk_iff] | with_reducible assumption | intro _ | dsimp only

theorem State.fenceOn_keeps {r₀ : State} {s : State} (hs : Keeps r₀ s) (t : Tid) : Keeps r₀ (State.fenceOn s t) := by
  unfold State.fenceOn
  try dsimp only
  repeat' first | with_reducible exact hs | with_reducible apply State.modThr_keeps | with_reducible apply State.past_keeps | split | simp only [Keeps.mk_iff] | with_reducible assumption | intro _ | dsimp only

theorem State.scanOn_keeps {r₀ : State} {s : State} (hs : Keeps r₀ s) (t : Tid) (inv : Bool) (thenFence : Bool) (start : Option Word) (sets : Nat) : Keeps r₀ (State.scanOn s t inv thenFence start sets) := by
  unfold State.scanOn
  try dsimp only
  repeat' first | with_reducible exact hs | with_reducible apply State.fenceOn_keeps | with_reducible apply State.modThr_keeps | with_reducible apply State.past_keeps | with_reducible apply State.scanLines_keeps | (with_reducible refine Keeps.getD (fun u hu => ?_) ?_) | split | simp only [Keeps.mk_iff] | with_reducible assumption | intro _ | dsimp only

end Sys2Proof.Machine
end

