-- ==== Sys2Proof/Laws/KeepsPipes.lean ====
section
/-! SUPPORT. Keeps (Laws/Keeps.lean) of the operations of Machine/Pipes.lean. -/

namespace Sys2Proof.Machine

open Sys2Proof

set_option simprocs false
set_option linter.unusedTactic false
set_option linter.unreachableTactic false
set_option linter.unusedSimpArgs false


theorem State.tryPwr_keeps {r₀ : State} {s : State} (hs : Keeps r₀ s) (t : Tid) (last : Bool) (peer : Nat) (v : Word) : ∀ u, State.tryPwr s t last peer v = some u → Keeps r₀ u := by
  intro u hu
  unfold State.tryPwr at hu
  try dsimp only at hu
  repeat' split at hu
  all_goals try cases hu
  repeat' first | with_reducible exact hs | with_reducible apply EngRun.refuse_keeps | with_reducible apply State.modCore_keeps | with_reducible apply State.past_keeps | with_reducible apply State.raise_keeps | with_reducible apply State.refuse_keeps | split | simp only [Keeps.mk_iff] | with_reducible assumption | intro _ | dsimp only

theorem State.tryPrd_keeps {r₀ : State} {s : State} (hs : Keeps r₀ s) (t : Tid) (rd : Reg) (peer : Nat) : ∀ u, State.tryPrd s t rd peer = some u → Keeps r₀ u := by
  intro u hu
  unfold State.tryPrd at hu
  try dsimp only at hu
  repeat' split at hu
  all_goals try cases hu
  repeat' first | with_reducible exact hs | with_reducible apply EngRun.refuse_keeps | with_reducible apply State.modCore_keeps | with_reducible apply State.past_keeps | with_reducible apply State.refuse_keeps | with_reducible apply State.setG_keeps | split | simp only [Keeps.mk_iff] | with_reducible assumption | intro _ | dsimp only

end Sys2Proof.Machine
end

