-- ==== Sys2Proof/Laws/KeepsLocalStore.lean ====
section
/-! SUPPORT. Keeps (Laws/Keeps.lean) of the operations of Machine/LocalStore.lean. -/

namespace Sys2Proof.Machine

open Sys2Proof

set_option simprocs false
set_option linter.unusedTactic false
set_option linter.unreachableTactic false
set_option linter.unusedSimpArgs false


theorem State.scrub_keeps {r₀ : State} {s : State} (hs : Keeps r₀ s) (core : Nat) (sub : Nat) (bad : BitVec 8) : Keeps r₀ (State.scrub s core sub bad) := by
  unfold State.scrub
  try dsimp only
  repeat' first | with_reducible exact hs | with_reducible apply State.modCore_keeps | with_reducible apply State.report_keeps | with_reducible apply State.setRowBad_keeps | with_reducible apply State.strikeLs_keeps | with_reducible apply overAll_keeps | (with_reducible refine Keeps.overAll ?_ (fun _ _ _ => ?_) _) | split | simp only [Keeps.mk_iff] | with_reducible assumption | intro _ | dsimp only

theorem State.modRing_keeps {r₀ : State} {s : State} (hs : Keeps r₀ s) (n : Nat) (r : Nat) (f : Ring → Ring) : Keeps r₀ (State.modRing s n r f) := by
  unfold State.modRing
  try dsimp only
  repeat' first | with_reducible exact hs | with_reducible apply State.modCore_keeps | split | simp only [Keeps.mk_iff] | with_reducible assumption | intro _ | dsimp only

theorem State.refuseRing_keeps {r₀ : State} {s : State} (hs : Keeps r₀ s) (t : Tid) : Keeps r₀ (State.refuseRing s t) := by
  unfold State.refuseRing
  try dsimp only
  repeat' first | with_reducible exact hs | with_reducible apply EngRun.refuse_keeps | with_reducible apply State.refuse_keeps | split | simp only [Keeps.mk_iff] | with_reducible assumption | intro _ | dsimp only

theorem State.addItem_keeps {r₀ : State} {s : State} (hs : Keeps r₀ s) (t : Nat) (half : Nat) (k : P4Kind) : Keeps r₀ (State.addItem s t half k) := by
  unfold State.addItem
  try dsimp only
  repeat' first | with_reducible exact hs | with_reducible apply State.modThr_keeps | split | simp only [Keeps.mk_iff] | with_reducible assumption | intro _ | dsimp only

theorem State.ringPush_keeps {r₀ : State} {s : State} (hs : Keeps r₀ s) (t : Nat) (r : Nat) (half : Nat) (data : Line) : Keeps r₀ (State.ringPush s t r half data) := by
  unfold State.ringPush
  try dsimp only
  repeat' first | with_reducible exact hs | with_reducible apply State.addItem_keeps | with_reducible apply State.modRing_keeps | with_reducible apply State.setSlotSt_keeps | split | simp only [Keeps.mk_iff] | with_reducible assumption | intro _ | dsimp only

theorem State.ringPop_keeps {r₀ : State} {s : State} (hs : Keeps r₀ s) (t : Nat) (r : Nat) (half : Nat) (toV : Bool) (rd : Reg) : Keeps r₀ (State.ringPop s t r half toV rd) := by
  unfold State.ringPop
  try dsimp only
  repeat' first | with_reducible exact hs | with_reducible apply State.addItem_keeps | with_reducible apply State.modRing_keeps | with_reducible apply State.setSlotSt_keeps | with_reducible apply State.setThr_keeps | split | simp only [Keeps.mk_iff] | with_reducible assumption | intro _ | dsimp only

theorem State.popZero_keeps {r₀ : State} {s : State} (hs : Keeps r₀ s) (t : Tid) (toV : Bool) (rd : Reg) : Keeps r₀ (State.popZero s t toV rd) := by
  unfold State.popZero
  try dsimp only
  repeat' first | with_reducible exact hs | with_reducible apply State.setG_keeps | with_reducible apply State.setV_keeps | split | simp only [Keeps.mk_iff] | with_reducible assumption | intro _ | dsimp only

theorem State.tryPush_keeps {r₀ : State} {s : State} (hs : Keeps r₀ s) (t : Nat) (r : Nat) (data : Line) : ∀ u, State.tryPush s t r data = some u → Keeps r₀ u := by
  intro u hu
  unfold State.tryPush at hu
  try dsimp only at hu
  repeat' split at hu
  all_goals try cases hu
  repeat' first | with_reducible exact hs | with_reducible apply EngRun.wait_keeps | with_reducible apply State.past_keeps | with_reducible apply State.refuseRing_keeps | with_reducible apply State.ringPush_keeps | split | simp only [Keeps.mk_iff] | with_reducible assumption | intro _ | dsimp only

theorem State.tryPop_keeps {r₀ : State} {s : State} (hs : Keeps r₀ s) (t : Nat) (r : Nat) (toV : Bool) (rd : Reg) : ∀ u, State.tryPop s t r toV rd = some u → Keeps r₀ u := by
  intro u hu
  unfold State.tryPop at hu
  try dsimp only at hu
  repeat' split at hu
  all_goals try cases hu
  repeat' first | with_reducible exact hs | with_reducible apply EngRun.wait_keeps | with_reducible apply State.past_keeps | with_reducible apply State.popZero_keeps | with_reducible apply State.refuseRing_keeps | with_reducible apply State.ringPop_keeps | split | simp only [Keeps.mk_iff] | with_reducible assumption | intro _ | dsimp only

theorem State.testPush_keeps {r₀ : State} {s : State} (hs : Keeps r₀ s) (t : Nat) (r : Nat) (data : Line) (rd : Reg) : Keeps r₀ (State.testPush s t r data rd) := by
  unfold State.testPush
  try dsimp only
  repeat' first | with_reducible exact hs | with_reducible apply EngRun.wait_keeps | with_reducible apply State.past_keeps | with_reducible apply State.refuseRing_keeps | with_reducible apply State.ringPush_keeps | with_reducible apply State.setG_keeps | split | simp only [Keeps.mk_iff] | with_reducible assumption | intro _ | dsimp only

theorem State.testPop_keeps {r₀ : State} {s : State} (hs : Keeps r₀ s) (t : Nat) (r : Nat) (toV : Bool) (dst : Reg) (rd : Reg) : Keeps r₀ (State.testPop s t r toV dst rd) := by
  unfold State.testPop
  try dsimp only
  repeat' first | with_reducible exact hs | with_reducible apply EngRun.wait_keeps | with_reducible apply State.past_keeps | with_reducible apply State.popZero_keeps | with_reducible apply State.refuseRing_keeps | with_reducible apply State.ringPop_keeps | with_reducible apply State.setG_keeps | split | simp only [Keeps.mk_iff] | with_reducible assumption | intro _ | dsimp only

theorem State.tryRclr_keeps {r₀ : State} {s : State} (hs : Keeps r₀ s) (t : Nat) (r : Nat) : ∀ u, State.tryRclr s t r = some u → Keeps r₀ u := by
  intro u hu
  unfold State.tryRclr at hu
  try dsimp only at hu
  repeat' split at hu
  all_goals try cases hu
  repeat' first | with_reducible exact hs | with_reducible apply State.modRing_keeps | with_reducible apply State.past_keeps | with_reducible apply State.refuseRing_keeps | split | simp only [Keeps.mk_iff] | with_reducible assumption | intro _ | dsimp only | (refine Keeps.mems' ?_ ?_ ?_ ?_ ?_ ?_ ?_ ?_ <;> first | assumption | exact id | exact fun h => Map.wf_set h _ _ | exact fun h => writeBytes_wf _ _ _ h | exact Map.wf_filter _ | exact fun _ => Map.wf_nil _)

end Sys2Proof.Machine
end

