-- ==== Sys2Proof/Laws/KeepsEngine.lean ====
section
/-! SUPPORT. Keeps (Laws/Keeps.lean) of the operations of Machine/Engine.lean. -/

namespace Sys2Proof.Machine

open Sys2Proof

set_option simprocs false
set_option linter.unusedTactic false
set_option linter.unreachableTactic false
set_option linter.unusedSimpArgs false


theorem State.drawLine_keeps {r₀ : State} {s : State} (hs : Keeps r₀ s) : Keeps r₀ (State.drawLine s).2 := by
  unfold State.drawLine
  try dsimp only
  repeat' first | with_reducible exact hs | (with_reducible refine Keeps.foldlP Hop.s ?_ (fun _ _ _ => ?_) _) | (with_reducible refine Keeps.foldlP EngRun.s ?_ (fun _ _ _ => ?_) _) | (with_reducible refine Keeps.foldlP Prod.snd ?_ (fun _ _ _ => ?_) _) | (with_reducible refine Keeps.foldlP Prod.fst ?_ (fun _ _ _ => ?_) _) | (with_reducible refine Keeps.foldlP (fun p => EngRun.s (Prod.snd p)) ?_ (fun _ _ _ => ?_) _) | (with_reducible refine Keeps.foldlP (fun p => Prod.snd (Prod.snd p)) ?_ (fun _ _ _ => ?_) _) | (with_reducible refine Keeps.foldl ?_ (fun _ _ _ => ?_) _) | split | simp only [Keeps.mk_iff] | with_reducible assumption | intro _ | dsimp only

theorem State.routeFor_keeps {r₀ : State} {s : State} (hs : Keeps r₀ s) (w : EngWho) (key : Nat) (a : Nat) (len : Nat) (need : Need) (write : Bool) : Keeps r₀ (State.routeFor s w key a len need write).2 := by
  unfold State.routeFor
  try dsimp only
  repeat' first | with_reducible exact hs | with_reducible apply State.translate_keeps | split | simp only [Keeps.mk_iff] | with_reducible assumption | intro _ | dsimp only

theorem EngRun.route_keeps {r₀ : State} {x : EngRun} (hx : Keeps r₀ x.s) (w : EngWho) (a : Nat) (len : Nat) (write : Bool) : Keeps r₀ (EngRun.route x w a len write).2.s := by
  unfold EngRun.route
  try dsimp only
  repeat' first | with_reducible exact hx | with_reducible apply State.endWalk_keeps | with_reducible apply State.routeFor_keeps | split | simp only [Keeps.mk_iff] | with_reducible assumption | intro _ | dsimp only

theorem State.farRead_keeps {r₀ : State} {s : State} (hs : Keeps r₀ s) (host : Option (Nat × Nat)) : Keeps r₀ (State.farRead s host) := by
  unfold State.farRead
  try dsimp only
  repeat' first | with_reducible exact hs | with_reducible apply State.tlp_keeps | split | simp only [Keeps.mk_iff] | with_reducible assumption | intro _ | dsimp only

theorem EngRun.pass_keeps {r₀ : State} {x : EngRun} (hx : Keeps r₀ x.s) (p : Nat) (cur : Option (Nat × Nat)) : Keeps r₀ (EngRun.pass x p cur).s := by
  unfold EngRun.pass
  try dsimp only
  repeat' first | with_reducible exact hx | split | simp only [Keeps.mk_iff] | with_reducible assumption | intro _ | dsimp only

theorem EngRun.wait_keeps {r₀ : State} {x : EngRun} (hx : Keeps r₀ x.s) : Keeps r₀ (EngRun.wait x).s := by
  unfold EngRun.wait
  try dsimp only
  repeat' first | with_reducible exact hx | split | simp only [Keeps.mk_iff] | with_reducible assumption | intro _ | dsimp only

theorem EngRun.halt_keeps {r₀ : State} {x : EngRun} (hx : Keeps r₀ x.s) (p : Nat) : Keeps r₀ (EngRun.halt x p).s := by
  unfold EngRun.halt
  try dsimp only
  repeat' first | with_reducible exact hx | split | simp only [Keeps.mk_iff] | with_reducible assumption | intro _ | dsimp only

theorem EngRun.shown_keeps {r₀ : State} {x : EngRun} (hx : Keeps r₀ x.s) (p : Nat) : Keeps r₀ (EngRun.shown x p).s := by
  unfold EngRun.shown
  try dsimp only
  repeat' first | with_reducible exact hx | split | simp only [Keeps.mk_iff] | with_reducible assumption | intro _ | dsimp only

theorem EngRun.refuse_keeps {r₀ : State} {x : EngRun} (hx : Keeps r₀ x.s) (w : EngWho) (k : Nat) (kind : Nat) (a : Nat) : Keeps r₀ (EngRun.refuse x w k kind a).s := by
  unfold EngRun.refuse
  try dsimp only
  repeat' first | with_reducible exact hx | with_reducible apply State.refuseAt_keeps | split | simp only [Keeps.mk_iff] | with_reducible assumption | intro _ | dsimp only

theorem EngRun.send_keeps {r₀ : State} {x : EngRun} (hx : Keeps r₀ x.s) (w : EngWho) (p : Packet) (u : Use) :
    ∀ y, x.send w p u = some y → Keeps r₀ y.s := by
  intro y hy
  unfold EngRun.send at hy
  dsimp only at hy
  split at hy
  · cases hy
    have h := State.present_keeps hx (coreOf w.t) p (some
      { engine := .unit (coreOf w.t) w.port, thread := tnum w.t, stream := w.stream, seq := 0, line := p.line, tag := p.tag
        host := p.host, use := u })
    exact h
  · cases hy

theorem EngRun.readHalf_keeps {r₀ : State} {x : EngRun} (hx : Keeps r₀ x.s) (w : EngWho) (k : Nat) (h : Nat) (half : Nat) : Keeps r₀ (EngRun.readHalf x w k h half).s := by
  unfold EngRun.readHalf
  try dsimp only
  repeat' first | with_reducible exact hx | with_reducible apply State.meetHalf_keeps | split | simp only [Keeps.mk_iff] | with_reducible assumption | intro _ | dsimp only

theorem EngRun.presentRead_both {r₀ : State} {x : EngRun} (hx : Keeps r₀ x.s) (w : EngWho) (k a : Nat) :
    (∀ y, (x.presentRead w k a).1 = some y → Keeps r₀ y.s) ∧ Keeps r₀ (x.presentRead w k a).2.s := by
  have h := EngRun.route_keeps hx w a 1 false
  unfold EngRun.presentRead
  dsimp only
  repeat' split
  · exact ⟨fun _ e => (by cases e), h⟩
  · exact ⟨fun _ e => (by cases e; exact h), h⟩
  · exact ⟨fun _ e => (by cases e), h⟩
  · exact ⟨fun _ e => (by cases e; exact EngRun.readHalf_keeps (EngRun.readHalf_keeps h _ _ _ _) _ _ _ _), h⟩
  · exact ⟨fun _ e => (by cases e; exact EngRun.readHalf_keeps h _ _ _ _), h⟩
  · refine ⟨fun y e => ?_, h⟩
    obtain ⟨z, hz, rfl⟩ := Option.map_eq_some_iff.1 e
    have := EngRun.send_keeps h _ _ _ _ hz
    exact this
theorem EngRun.presentRead_keeps {r₀ : State} {x : EngRun} (hx : Keeps r₀ x.s) (w : EngWho) (k a : Nat) :
    Keeps r₀ (x.presentRead w k a).2.s := (EngRun.presentRead_both hx w k a).2

theorem EngRun.meetNext_keeps {r₀ : State} {x : EngRun} (hx : Keeps r₀ x.s) (w : EngWho) (a : Nat) : Keeps r₀ (x.meetNext w a).2.s := by
  have h := EngRun.presentRead_both hx w (x.key w.port) a
  unfold EngRun.meetNext
  dsimp only
  split
  · exact hx
  · split
    · exact hx
    · split
      · rename_i e; rw [e] at h; have := h.1 _ rfl; exact this
      · rename_i e; rw [e] at h; have := h.2; exact this

theorem EngRun.meet_keeps {r₀ : State} {x : EngRun} (hx : Keeps r₀ x.s) (w : EngWho) (a : Nat) : Keeps r₀ (EngRun.meet x w a).2.s := by
  unfold EngRun.meet
  try dsimp only
  repeat' first | with_reducible exact hx | with_reducible apply EngRun.meetNext_keeps | split | simp only [Keeps.mk_iff] | with_reducible assumption | intro _ | dsimp only

theorem EngRun.readIn_keeps {r₀ : State} {x : EngRun} (hx : Keeps r₀ x.s) (w : EngWho) (k : Nat) (a : Nat) (n : Nat) : Keeps r₀ (EngRun.readIn x w k a n).2.s := by
  unfold EngRun.readIn
  try dsimp only
  repeat' first | with_reducible exact hx | with_reducible apply EngRun.refuse_keeps | with_reducible apply EngRun.wait_keeps | with_reducible apply State.refuse_keeps | split | simp only [Keeps.mk_iff] | with_reducible assumption | intro _ | dsimp only

theorem EngRun.piece_keeps {r₀ : State} {x : EngRun} (hx : Keeps r₀ x.s) (w : EngWho) (a n : Nat) : Keeps r₀ (x.piece w a n).2.s := by
  have h := EngRun.meet_keeps hx w a
  unfold EngRun.piece
  split
  · rename_i e; rw [e] at h; exact EngRun.readIn_keeps h _ _ _ _
  · rename_i e; rw [e] at h; exact h

theorem EngRun.bytes_keeps {r₀ : State} {x : EngRun} (hx : Keeps r₀ x.s) (w : EngWho) (a : Nat) (n : Nat) : Keeps r₀ (EngRun.bytes x w a n).2.s := by
  unfold EngRun.bytes
  try dsimp only
  repeat' first | with_reducible exact hx | with_reducible apply EngRun.piece_keeps | (with_reducible refine Keeps.foldlP Hop.s ?_ (fun _ _ _ => ?_) _) | (with_reducible refine Keeps.foldlP EngRun.s ?_ (fun _ _ _ => ?_) _) | (with_reducible refine Keeps.foldlP Prod.snd ?_ (fun _ _ _ => ?_) _) | (with_reducible refine Keeps.foldlP Prod.fst ?_ (fun _ _ _ => ?_) _) | (with_reducible refine Keeps.foldlP (fun p => EngRun.s (Prod.snd p)) ?_ (fun _ _ _ => ?_) _) | (with_reducible refine Keeps.foldlP (fun p => Prod.snd (Prod.snd p)) ?_ (fun _ _ _ => ?_) _) | (with_reducible refine Keeps.foldl ?_ (fun _ _ _ => ?_) _) | split | simp only [Keeps.mk_iff] | with_reducible assumption | intro _ | dsimp only

theorem EngRun.writeOwn_keeps {r₀ : State} {x : EngRun} (hx : Keeps r₀ x.s) (w : EngWho) (half : Nat) (bs : List (Nat × Byte)) : Keeps r₀ (EngRun.writeOwn x w half bs).s := by
  unfold EngRun.writeOwn
  try dsimp only
  repeat' first | with_reducible exact hx | with_reducible apply State.meetHalf_keeps | with_reducible apply State.writeHalf_keeps | split | simp only [Keeps.mk_iff] | with_reducible assumption | intro _ | dsimp only

theorem EngRun.presentWrite_both {r₀ : State} {x : EngRun} (hx : Keeps r₀ x.s) (w : EngWho) (k a : Nat) (bs : List (Nat × Byte)) :
    (∀ y, (x.presentWrite w k a bs).1 = some y → Keeps r₀ y.s) ∧ Keeps r₀ (x.presentWrite w k a bs).2.s := by
  have h := EngRun.route_keeps hx w a bs.length true
  unfold EngRun.presentWrite
  dsimp only
  repeat' split
  · exact ⟨fun _ e => (by cases e), h⟩
  · exact ⟨fun _ e => (by cases e; exact EngRun.refuse_keeps h _ _ _ _), h⟩
  · exact ⟨fun _ e => (by cases e), h⟩
  · exact ⟨fun _ e => (by cases e; exact EngRun.writeOwn_keeps (EngRun.writeOwn_keeps h _ _ _) _ _ _), h⟩
  · exact ⟨fun _ e => (by cases e; exact EngRun.writeOwn_keeps h _ _ _), h⟩
  · exact ⟨EngRun.send_keeps h _ _ _, h⟩
theorem EngRun.presentWrite_keeps {r₀ : State} {x : EngRun} (hx : Keeps r₀ x.s) (w : EngWho) (k a : Nat) (bs : List (Nat × Byte)) :
    Keeps r₀ (x.presentWrite w k a bs).2.s := (EngRun.presentWrite_both hx w k a bs).2

theorem EngRun.meetWrite_keeps {r₀ : State} {x : EngRun} (hx : Keeps r₀ x.s) (w : EngWho) (a : Nat) (bs : List (Nat × Byte)) :
    Keeps r₀ (x.meetWrite w a bs).s := by
  have h := EngRun.presentWrite_both hx w (x.key w.port) a bs
  unfold EngRun.meetWrite
  split
  · exact hx
  · split
    · exact hx
    · split
      · rename_i e; rw [e] at h; have := h.1 _ rfl; exact this
      · rename_i e; rw [e] at h; have := h.2; exact this

theorem EngRun.put_keeps {r₀ : State} {x : EngRun} (hx : Keeps r₀ x.s) (w : EngWho) (bs : List (Nat × Byte)) : Keeps r₀ (EngRun.put x w bs).s := by
  unfold EngRun.put
  try dsimp only
  repeat' first | with_reducible exact hx | with_reducible apply EngRun.meetWrite_keeps | (with_reducible refine Keeps.getD (fun u hu => ?_) ?_) | (with_reducible refine Keeps.foldlP Hop.s ?_ (fun _ _ _ => ?_) _) | (with_reducible refine Keeps.foldlP EngRun.s ?_ (fun _ _ _ => ?_) _) | (with_reducible refine Keeps.foldlP Prod.snd ?_ (fun _ _ _ => ?_) _) | (with_reducible refine Keeps.foldlP Prod.fst ?_ (fun _ _ _ => ?_) _) | (with_reducible refine Keeps.foldlP (fun p => EngRun.s (Prod.snd p)) ?_ (fun _ _ _ => ?_) _) | (with_reducible refine Keeps.foldlP (fun p => Prod.snd (Prod.snd p)) ?_ (fun _ _ _ => ?_) _) | (with_reducible refine Keeps.foldl ?_ (fun _ _ _ => ?_) _) | split | simp only [Keeps.mk_iff] | with_reducible assumption | intro _ | dsimp only

theorem eachRow_keeps {σ : Type} {r₀ : State} {f : σ → EngRun → Nat → σ × EngRun} (l : List Nat)
    (hf : ∀ a x i, Keeps r₀ x.s → Keeps r₀ (f a x i).2.s) : ∀ (a : σ) (x : EngRun), Keeps r₀ x.s →
    Keeps r₀ (eachRow f l a x).2.1.s := by
  induction l with
  | nil => exact fun _ _ h => h
  | cons i l ih =>
    intro a x h
    have k := ih (f a { x with hole := false } i).1
      { (f a { x with hole := false } i).2 with gap := (f a { x with hole := false } i).2.gap || (f a { x with hole := false } i).2.hole }
      (hf a { x with hole := false } i h)
    unfold eachRow
    dsimp only
    split
    · exact k
    · exact k

theorem engRun_keeps {r₀ : State} {s : State} (hs : Keeps r₀ s) (l : Long) (limit : Nat) : Keeps r₀ (engRun s l limit).s := by
  unfold engRun
  try dsimp only
  repeat' first | with_reducible exact hs | split | simp only [Keeps.mk_iff] | with_reducible assumption | intro _ | dsimp only

theorem EngRun.close_keeps {r₀ : State} {x : EngRun} (hx : Keeps r₀ x.s) (t : Tid) : Keeps r₀ (EngRun.close x t) := by
  unfold EngRun.close
  try dsimp only
  repeat' first | with_reducible exact hx | with_reducible apply State.modThr_keeps | split | simp only [Keeps.mk_iff] | with_reducible assumption | intro _ | dsimp only

end Sys2Proof.Machine
end

