-- ==== Sys2Proof/Laws/KeepsMatrix.lean ====
section
/-! SUPPORT. Keeps (Laws/Keeps.lean) of the operations of Machine/Matrix.lean. -/

namespace Sys2Proof.Machine

open Sys2Proof

set_option simprocs false
set_option linter.unusedTactic false
set_option linter.unreachableTactic false
set_option linter.unusedSimpArgs false
set_option linter.unusedVariables false


theorem State.startLong_keeps {r₀ : State} {s : State} (hs : Keeps r₀ s) (t : Tid) (op : LongOp) : Keeps r₀ (State.startLong s t op) := by
  unfold State.startLong
  try dsimp only
  repeat' first | with_reducible exact hs | with_reducible apply State.modThr_keeps | split | simp only [Keeps.mk_iff] | with_reducible assumption | intro _ | dsimp only

theorem State.startAligned_keeps {r₀ : State} {s : State} (hs : Keeps r₀ s) (t : Nat) (addr : Nat) (acc : Nat) (op : LongOp) : Keeps r₀ (State.startAligned s t addr acc op) := by
  unfold State.startAligned
  try dsimp only
  repeat' first | with_reducible exact hs | with_reducible apply State.raise_keeps | with_reducible apply State.startLong_keeps | split | simp only [Keeps.mk_iff] | with_reducible assumption | intro _ | dsimp only

theorem tileRows_keeps {r₀ : State} {x : EngRun} (hx : Keeps r₀ x.s) (f : TileGain → EngRun → Nat → TileGain × EngRun) (lo hi : Nat)
    (g : TileGain) (hf : ∀ a x i, Keeps r₀ x.s → Keeps r₀ (f a x i).2.s) : Keeps r₀ (tileRows f lo hi g x).x.s :=
  eachRow_keeps _ hf _ _ hx

theorem EngRun.loadRow_keeps {r₀ : State} {x : EngRun} (hx : Keeps r₀ x.s) (w : EngWho) (page : Nat) (base : Nat) (stride : Nat) (n : Nat) (i : Nat) : Keeps r₀ (EngRun.loadRow x w page base stride n i).2.s := by
  unfold EngRun.loadRow
  try dsimp only
  repeat' first | with_reducible exact hx | with_reducible apply EngRun.bytes_keeps | split | simp only [Keeps.mk_iff] | with_reducible assumption | intro _ | dsimp only

theorem State.runTld_keeps {r₀ : State} {s : State} {x : EngRun} (hs : Keeps r₀ s) (hx : Keeps r₀ x.s) (t : Tid) (toA : Bool) (toB : Bool) (baseA : Nat) (baseB : Nat) (stride : Nat) (pgA : Nat) (pgB : Nat) (rowsA : Nat) (bytesA : Nat) (rowsB : Nat) (bytesB : Nat) (lo : Nat) (hi : Nat) (g : TileGain) : Keeps r₀ (State.runTld s t toA toB baseA baseB stride pgA pgB rowsA bytesA rowsB bytesB lo hi g x).x.s := by
  unfold State.runTld
  try dsimp only
  repeat' first | with_reducible exact hs | with_reducible exact hx | with_reducible apply EngRun.loadRow_keeps | with_reducible apply tileRows_keeps | split | simp only [Keeps.mk_iff] | with_reducible assumption | intro _ | dsimp only

theorem State.runTst_keeps {r₀ : State} {s : State} {x : EngRun} (hs : Keeps r₀ s) (hx : Keeps r₀ x.s) (t : Nat) (z : Nat) (page : Nat) (base : Nat) (stride : Nat) (fmt : Nat) (sc : Bool) (bi : Bool) (cl : Bool) (sr : Bool) (vs : Nat) (l : BitVec 32) (u : BitVec 32) (lo : Nat) (hi : Nat) (g : TileGain) : Keeps r₀ (State.runTst s t z page base stride fmt sc bi cl sr vs l u lo hi g x).x.s := by
  unfold State.runTst
  try dsimp only
  repeat' first | with_reducible exact hs | with_reducible exact hx | with_reducible apply EngRun.put_keeps | with_reducible apply tileRows_keeps | split | simp only [Keeps.mk_iff] | with_reducible assumption | intro _ | dsimp only

theorem State.runRange_keeps {r₀ : State} {s : State} {x : EngRun} (hs : Keeps r₀ s) (hx : Keeps r₀ x.s) (t : Nat) (src : Nat) (dst : Nat) (n : Nat) (fmt : Nat) (tgt : Nat) (mode : Bool) (lo : Nat) (hi : Nat) (g : TileGain) : Keeps r₀ (State.runRange s t src dst n fmt tgt mode lo hi g x).x.s := by
  unfold State.runRange
  try dsimp only
  repeat' first | with_reducible exact hs | with_reducible exact hx | with_reducible apply EngRun.bytes_keeps | with_reducible apply EngRun.halt_keeps | with_reducible apply EngRun.put_keeps | with_reducible apply tileRows_keeps | split | simp only [Keeps.mk_iff] | with_reducible assumption | intro _ | dsimp only

theorem State.runTxld_keeps {r₀ : State} {s : State} {x : EngRun} (hs : Keeps r₀ s) (hx : Keeps r₀ x.s) (t : Nat) (addr : Nat) (lo : Nat) (hi : Nat) (g : TileGain) : Keeps r₀ (State.runTxld s t addr lo hi g x).x.s := by
  unfold State.runTxld
  try dsimp only
  repeat' first | with_reducible exact hs | with_reducible exact hx | with_reducible apply EngRun.bytes_keeps | with_reducible apply tileRows_keeps | split | simp only [Keeps.mk_iff] | with_reducible assumption | intro _ | dsimp only

theorem State.runTsave_keeps {r₀ : State} {s : State} {x : EngRun} (hs : Keeps r₀ s) (hx : Keeps r₀ x.s) (t : Nat) (addr : Nat) (tile : Nat) (lo : Nat) (hi : Nat) (g : TileGain) : Keeps r₀ (State.runTsave s t addr tile lo hi g x).x.s := by
  unfold State.runTsave
  try dsimp only
  repeat' first | with_reducible exact hs | with_reducible exact hx | with_reducible apply EngRun.put_keeps | with_reducible apply tileRows_keeps | split | simp only [Keeps.mk_iff] | with_reducible assumption | intro _ | dsimp only

theorem State.extentOf_keeps {r₀ : State} {s : State} (hs : Keeps r₀ s) (b : Nat) : Keeps r₀ (State.extentOf s b).2 := by
  unfold State.extentOf
  try dsimp only
  repeat' first | with_reducible exact hs | with_reducible apply State.draw_keeps | split | simp only [Keeps.mk_iff] | with_reducible assumption | intro _ | dsimp only

theorem State.runTrestore_keeps {r₀ : State} {s : State} {x : EngRun} (hs : Keeps r₀ s) (hx : Keeps r₀ x.s) (t : Nat) (addr : Nat) (tile : Nat) (lo : Nat) (hi : Nat) (g : TileGain) : Keeps r₀ (State.runTrestore s t addr tile lo hi g x).x.s := by
  unfold State.runTrestore
  try dsimp only
  repeat' first | with_reducible exact hs | with_reducible exact hx | with_reducible apply EngRun.bytes_keeps | with_reducible apply tileRows_keeps | split | simp only [Keeps.mk_iff] | with_reducible assumption | intro _ | dsimp only

theorem State.tileRun_keeps {r₀ : State} {s : State} (hs : Keeps r₀ s) (t : Tid) (l : Long) (limit : Nat) : Keeps r₀ (State.tileRun s t l limit).x.s := by
  unfold State.tileRun
  try dsimp only
  repeat' first | with_reducible exact hs | with_reducible apply State.runRange_keeps | with_reducible apply State.runTld_keeps | with_reducible apply State.runTrestore_keeps | with_reducible apply State.runTsave_keeps | with_reducible apply State.runTst_keeps | with_reducible apply State.runTxld_keeps | with_reducible apply engRun_keeps | split | simp only [Keeps.mk_iff] | with_reducible assumption | intro _ | dsimp only

theorem State.tileGain_keeps {r₀ : State} {s : State} (hs : Keeps r₀ s) (t : Tid) (op : LongOp) (g : TileGain) : Keeps r₀ (State.tileGain s t op g) := by
  unfold State.tileGain
  try dsimp only
  repeat' first | with_reducible exact hs | with_reducible apply EngRun.bytes_keeps | with_reducible apply State.extentOf_keeps | with_reducible apply State.modThr_keeps | split | simp only [Keeps.mk_iff] | with_reducible assumption | intro _ | dsimp only

theorem State.leaveTile_keeps {r₀ : State} {s : State} (hs : Keeps r₀ s) (t : Tid) (op : LongOp) (g : TileGain) (pos : Nat) : Keeps r₀ (State.leaveTile s t op g pos) := by
  unfold State.leaveTile
  try dsimp only
  repeat' first | with_reducible exact hs | with_reducible apply State.modThr_keeps | with_reducible apply State.tileGain_keeps | (with_reducible refine Keeps.foldlP Hop.s ?_ (fun _ _ _ => ?_) _) | (with_reducible refine Keeps.foldlP EngRun.s ?_ (fun _ _ _ => ?_) _) | (with_reducible refine Keeps.foldlP Prod.snd ?_ (fun _ _ _ => ?_) _) | (with_reducible refine Keeps.foldlP Prod.fst ?_ (fun _ _ _ => ?_) _) | (with_reducible refine Keeps.foldlP (fun p => EngRun.s (Prod.snd p)) ?_ (fun _ _ _ => ?_) _) | (with_reducible refine Keeps.foldlP (fun p => Prod.snd (Prod.snd p)) ?_ (fun _ _ _ => ?_) _) | (with_reducible refine Keeps.foldl ?_ (fun _ _ _ => ?_) _) | split | simp only [Keeps.mk_iff] | with_reducible assumption | intro _ | dsimp only

theorem State.tileEnd_keeps {r₀ : State} {s : State} (hs : Keeps r₀ s) (t : Tid) (op : LongOp) : Keeps r₀ (State.tileEnd s t op) := by
  unfold State.tileEnd
  try dsimp only
  repeat' first | with_reducible exact hs | with_reducible apply State.modThr_keeps | split | simp only [Keeps.mk_iff] | with_reducible assumption | intro _ | dsimp only

theorem State.tileRetire_keeps {r₀ : State} {s : State} (hs : Keeps r₀ s) (t : Tid) (op : LongOp) (g : TileGain) : Keeps r₀ (State.tileRetire s t op g) := by
  unfold State.tileRetire
  try dsimp only
  repeat' first | with_reducible exact hs | with_reducible apply State.dropLong_keeps | with_reducible apply State.modThr_keeps | with_reducible apply State.past_keeps | with_reducible apply State.tileEnd_keeps | with_reducible apply State.tileGain_keeps | split | simp only [Keeps.mk_iff] | with_reducible assumption | intro _ | dsimp only

theorem State.tileStep_keeps {r₀ : State} {s : State} (hs : Keeps r₀ s) (t : Tid) (l : Long) (limit : Nat) : Keeps r₀ (State.tileStep s t l limit).2 := by
  unfold State.tileStep
  try dsimp only
  repeat' first | with_reducible exact hs | with_reducible apply EngRun.close_keeps | with_reducible apply State.leaveTile_keeps | with_reducible apply State.raiseAt_keeps | with_reducible apply State.tileFault_keeps | with_reducible apply State.tileRetire_keeps | with_reducible apply State.tileRun_keeps | split | simp only [Keeps.mk_iff] | with_reducible assumption | intro _ | dsimp only

theorem State.tileLeave_keeps {r₀ : State} {s : State} (hs : Keeps r₀ s) (t : Tid) (l : Long) : Keeps r₀ (State.tileLeave s t l) := by
  unfold State.tileLeave
  try dsimp only
  repeat' first | with_reducible exact hs | with_reducible apply State.dropLong_keeps | with_reducible apply State.leaveTile_keeps | with_reducible apply State.tileRun_keeps | (with_reducible refine Keeps.getD (fun u hu => ?_) ?_) | split | simp only [Keeps.mk_iff] | with_reducible assumption | intro _ | dsimp only

end Sys2Proof.Machine
end

