-- ==== Sys2Proof/Laws/KeepsVector.lean ====
section
/-! SUPPORT. Keeps (Laws/Keeps.lean) of the operations of Machine/Vector.lean. -/

namespace Sys2Proof.Machine

open Sys2Proof

set_option simprocs false
set_option linter.unusedTactic false
set_option linter.unreachableTactic false
set_option linter.unusedSimpArgs false
set_option linter.unusedVariables false


theorem EngRun.gather_keeps {r₀ : State} {x : EngRun} (hx : Keeps r₀ x.s) (w : EngWho) (as : List Nat) (n : Nat) : Keeps r₀ (EngRun.gather x w as n).2.s := by
  unfold EngRun.gather
  try dsimp only
  repeat' first | with_reducible exact hx | with_reducible apply EngRun.meetNext_keeps | with_reducible apply EngRun.readIn_keeps | (with_reducible refine Keeps.foldlP Hop.s ?_ (fun _ _ _ => ?_) _) | (with_reducible refine Keeps.foldlP EngRun.s ?_ (fun _ _ _ => ?_) _) | (with_reducible refine Keeps.foldlP Prod.snd ?_ (fun _ _ _ => ?_) _) | (with_reducible refine Keeps.foldlP Prod.fst ?_ (fun _ _ _ => ?_) _) | (with_reducible refine Keeps.foldlP (fun p => EngRun.s (Prod.snd p)) ?_ (fun _ _ _ => ?_) _) | (with_reducible refine Keeps.foldlP (fun p => Prod.snd (Prod.snd p)) ?_ (fun _ _ _ => ?_) _) | (with_reducible refine Keeps.foldl ?_ (fun _ _ _ => ?_) _) | split | simp only [Keeps.mk_iff] | with_reducible assumption | intro _ | dsimp only

theorem EngRun.scatter_keeps {r₀ : State} {x : EngRun} (hx : Keeps r₀ x.s) (w : EngWho) (as : List Nat) (n : Nat) (val : Nat → Nat) : Keeps r₀ (EngRun.scatter x w as n val).s := by
  unfold EngRun.scatter
  try dsimp only
  repeat' first | with_reducible exact hx | with_reducible apply EngRun.meetWrite_keeps | (with_reducible refine Keeps.foldlP Hop.s ?_ (fun _ _ _ => ?_) _) | (with_reducible refine Keeps.foldlP EngRun.s ?_ (fun _ _ _ => ?_) _) | (with_reducible refine Keeps.foldlP Prod.snd ?_ (fun _ _ _ => ?_) _) | (with_reducible refine Keeps.foldlP Prod.fst ?_ (fun _ _ _ => ?_) _) | (with_reducible refine Keeps.foldlP (fun p => EngRun.s (Prod.snd p)) ?_ (fun _ _ _ => ?_) _) | (with_reducible refine Keeps.foldlP (fun p => Prod.snd (Prod.snd p)) ?_ (fun _ _ _ => ?_) _) | (with_reducible refine Keeps.foldl ?_ (fun _ _ _ => ?_) _) | split | simp only [Keeps.mk_iff] | with_reducible assumption | intro _ | dsimp only

theorem State.column_keeps {r₀ : State} {s : State} (hs : Keeps r₀ s) (w : EngWho) (a : Nat) : Keeps r₀ (State.column s w a).2 := by
  unfold State.column
  try dsimp only
  repeat' first | with_reducible exact hs | with_reducible apply State.draw_keeps | with_reducible apply State.meetHalf_keeps | with_reducible apply State.refuseAt_keeps | with_reducible apply overAll_keeps | (with_reducible refine Keeps.overAll ?_ (fun _ _ _ => ?_) _) | (with_reducible refine Keeps.foldlP Hop.s ?_ (fun _ _ _ => ?_) _) | (with_reducible refine Keeps.foldlP EngRun.s ?_ (fun _ _ _ => ?_) _) | (with_reducible refine Keeps.foldlP Prod.snd ?_ (fun _ _ _ => ?_) _) | (with_reducible refine Keeps.foldlP Prod.fst ?_ (fun _ _ _ => ?_) _) | (with_reducible refine Keeps.foldlP (fun p => EngRun.s (Prod.snd p)) ?_ (fun _ _ _ => ?_) _) | (with_reducible refine Keeps.foldlP (fun p => Prod.snd (Prod.snd p)) ?_ (fun _ _ _ => ?_) _) | (with_reducible refine Keeps.foldl ?_ (fun _ _ _ => ?_) _) | split | simp only [Keeps.mk_iff] | with_reducible assumption | intro _ | dsimp only

theorem EngRun.meetColumn_keeps {r₀ : State} {x : EngRun} (hx : Keeps r₀ x.s) (w : EngWho) (a : Nat) : Keeps r₀ (EngRun.meetColumn x w a).2.2.s := by
  unfold EngRun.meetColumn
  try dsimp only
  repeat' first | with_reducible exact hx | with_reducible apply EngRun.halt_keeps | with_reducible apply EngRun.pass_keeps | with_reducible apply EngRun.shown_keeps | with_reducible apply State.column_keeps | with_reducible apply State.past_keeps | split | simp only [Keeps.mk_iff] | with_reducible assumption | intro _ | dsimp only

theorem EngRun.getElem_keeps {r₀ : State} {x : EngRun} (hx : Keeps r₀ x.s) (w : EngWho) (pg : Nat) (base : Nat) (et : EType) (i : Nat) : Keeps r₀ (EngRun.getElem x w pg base et i).2.s := by
  unfold EngRun.getElem
  try dsimp only
  repeat' first | with_reducible exact hx | with_reducible apply EngRun.bytes_keeps | with_reducible apply EngRun.piece_keeps | split | simp only [Keeps.mk_iff] | with_reducible assumption | intro _ | dsimp only

theorem EngRun.getElems_keeps {r₀ : State} (w : EngWho) (pg base : Nat) (et : EType) (l : List Nat) : ∀ {x : EngRun},
    Keeps r₀ x.s → Keeps r₀ (EngRun.getElems w pg base et l x).2.s := by
  induction l with
  | nil => exact fun h => h
  | cons i l ih =>
    intro x h
    have k := EngRun.getElem_keeps h w pg base et i
    unfold EngRun.getElems
    dsimp only
    split
    · exact k
    · exact ih k

theorem EngRun.putElems_keeps {r₀ : State} (w : EngWho) (pg base : Nat) (et : EType) (n : Nat) : ∀ (i : Nat) (vs : List Nat) {x : EngRun},
    Keeps r₀ x.s → Keeps r₀ (EngRun.putElems w pg base et n i vs x).2.s := by
  induction n with
  | zero => exact fun _ _ _ h => h
  | succ n ih =>
    intro i vs x h
    unfold EngRun.putElems
    dsimp only
    split
    · exact h
    · split
      · exact EngRun.meetWrite_keeps h _ _ _
      · exact ih _ _ (EngRun.meetWrite_keeps h _ _ _)

theorem blockLoop_keeps {r₀ : State} {rd : EngRun → Nat × Nat → List Nat × EngRun}
    {wr : EngRun → Nat × Nat → List Nat → Option Nat × EngRun} (l : List (Nat × Nat))
    (hrd : ∀ x b, Keeps r₀ x.s → Keeps r₀ (rd x b).2.s) (hwr : ∀ x b v, Keeps r₀ x.s → Keeps r₀ (wr x b v).2.s) :
    ∀ (held : Option ((Nat × Nat) × List Nat)) (x : EngRun), Keeps r₀ x.s → Keeps r₀ (blockLoop rd wr l held x).2.s := by
  induction l with
  | nil =>
    intro held x h
    cases held with
    | none => exact h
    | some _ => exact hwr _ _ _ h
  | cons b l ih =>
    intro held x h
    unfold blockLoop
    dsimp only
    cases held with
    | none =>
      dsimp only
      split
      · exact hrd _ _ h
      · exact ih _ _ (hrd _ _ h)
    | some v =>
      dsimp only
      split
      · exact hrd _ _ h
      · split
        · exact hwr _ _ _ (hrd _ _ h)
        · exact ih _ _ (hwr _ _ _ (hrd _ _ h))

theorem vecBlocks_keeps {r₀ : State} {x : EngRun} (hx : Keeps r₀ x.s) (w : EngWho) (pg : Nat) (dst : Nat) (src : Nat) (et : EType) (et2 : EType) (f : Nat → Nat → Nat) (lo : Nat) (hi : Nat) : Keeps r₀ (vecBlocks w pg dst src et et2 f lo hi x).x.s := by
  unfold vecBlocks
  try dsimp only
  repeat' first | with_reducible exact hx | with_reducible apply EngRun.getElems_keeps | with_reducible apply EngRun.putElems_keeps | with_reducible apply blockLoop_keeps | split | simp only [Keeps.mk_iff] | with_reducible assumption | intro _ | dsimp only

theorem vecRed_keeps {r₀ : State} {x : EngRun} (hx : Keeps r₀ x.s) (w : EngWho) (pg : Nat) (src : Nat) (et : EType) (sub : RedOp) (u : Bool) (lo : Nat) (hi : Nat) (a : Word) : Keeps r₀ (vecRed w pg src et sub u lo hi a x).x.s := by
  unfold vecRed
  try dsimp only
  repeat' first | with_reducible exact hx | with_reducible apply EngRun.getElems_keeps | split | simp only [Keeps.mk_iff] | with_reducible assumption | intro _ | dsimp only

theorem State.vecRun_keeps {r₀ : State} {s : State} (hs : Keeps r₀ s) (t : Tid) (l : Long) (limit : Nat) : Keeps r₀ (State.vecRun s t l limit).x.s := by
  unfold State.vecRun
  try dsimp only
  repeat' first | with_reducible exact hs | with_reducible apply EngRun.bytes_keeps | with_reducible apply EngRun.gather_keeps | with_reducible apply EngRun.meetColumn_keeps | with_reducible apply EngRun.meetWrite_keeps | with_reducible apply EngRun.scatter_keeps | with_reducible apply engRun_keeps | with_reducible apply vecBlocks_keeps | with_reducible apply vecRed_keeps | split | simp only [Keeps.mk_iff] | with_reducible assumption | intro _ | dsimp only

theorem State.vecOut_keeps {r₀ : State} {s : State} {r : VecRun} (hs : Keeps r₀ s) (hr : Keeps r₀ r.x.s) (t : Tid) (op : LongOp) : Keeps r₀ (State.vecOut s t op r) := by
  unfold State.vecOut
  try dsimp only
  repeat' first | with_reducible exact hs | with_reducible exact hr | with_reducible apply State.modThr_keeps | with_reducible apply State.setG_keeps | with_reducible apply State.setV_keeps | split | simp only [Keeps.mk_iff] | with_reducible assumption | intro _ | dsimp only

theorem State.vecRetire_keeps {r₀ : State} {s : State} {r : VecRun} (hs : Keeps r₀ s) (hr : Keeps r₀ r.x.s) (t : Tid) (op : LongOp) : Keeps r₀ (State.vecRetire s t op r) := by
  unfold State.vecRetire
  try dsimp only
  repeat' first | with_reducible exact hs | with_reducible exact hr | with_reducible apply State.dropLong_keeps | with_reducible apply State.modThr_keeps | with_reducible apply State.past_keeps | with_reducible apply State.vecOut_keeps | split | simp only [Keeps.mk_iff] | with_reducible assumption | intro _ | dsimp only

theorem State.vecStep_keeps {r₀ : State} {s : State} (hs : Keeps r₀ s) (t : Tid) (l : Long) (limit : Nat) : Keeps r₀ (State.vecStep s t l limit).2 := by
  unfold State.vecStep
  try dsimp only
  repeat' first | with_reducible exact hs | with_reducible apply EngRun.close_keeps | with_reducible apply State.vecRetire_keeps | with_reducible apply State.vecRun_keeps | split | simp only [Keeps.mk_iff] | with_reducible assumption | intro _ | dsimp only

theorem State.vecLeave_keeps {r₀ : State} {s : State} (hs : Keeps r₀ s) (t : Tid) (l : Long) : Keeps r₀ (State.vecLeave s t l) := by
  unfold State.vecLeave
  try dsimp only
  repeat' first | with_reducible exact hs | with_reducible apply State.dropLong_keeps | with_reducible apply State.modThr_keeps | with_reducible apply State.vecRun_keeps | (with_reducible refine Keeps.getD (fun u hu => ?_) ?_) | split | simp only [Keeps.mk_iff] | with_reducible assumption | intro _ | dsimp only

end Sys2Proof.Machine
end

