-- ==== Sys2Proof/Laws/KeepsFences.lean ====
section
/-! SUPPORT. Keeps (Laws/Keeps.lean) of the operations of Machine/Fences.lean. -/

namespace Sys2Proof.Machine

open Sys2Proof

set_option simprocs false
set_option linter.unusedTactic false
set_option linter.unreachableTactic false
set_option linter.unusedSimpArgs false
set_option linter.unusedVariables false


theorem State.tryCwait_keeps {r₀ : State} {s : State} (hs : Keeps r₀ s) (t : Nat) (k : Nat) (n : Word) : ∀ u, State.tryCwait s t k n = some u → Keeps r₀ u := by
  intro u hu
  unfold State.tryCwait at hu
  try dsimp only at hu
  repeat' split at hu
  all_goals try cases hu
  repeat' first | with_reducible exact hs | with_reducible apply State.past_keeps | split | simp only [Keeps.mk_iff] | with_reducible assumption | intro _ | dsimp only

theorem State.tryCwaita_keeps {r₀ : State} {s : State} (hs : Keeps r₀ s) (t : Tid) : ∀ u, State.tryCwaita s t = some u → Keeps r₀ u := by
  intro u hu
  unfold State.tryCwaita at hu
  try dsimp only at hu
  repeat' split at hu
  all_goals try cases hu
  repeat' first | with_reducible exact hs | with_reducible apply State.past_keeps | split | simp only [Keeps.mk_iff] | with_reducible assumption | intro _ | dsimp only

end Sys2Proof.Machine
end

