-- ==== Sys2Proof/Laws/KeepsSync.lean ====
section
/-! SUPPORT. Keeps (Laws/Keeps.lean) of the operations of Machine/Sync.lean. -/

namespace Sys2Proof.Machine

open Sys2Proof

set_option simprocs false
set_option linter.unusedTactic false
set_option linter.unreachableTactic false
set_option linter.unusedSimpArgs false
set_option linter.unusedVariables false


theorem State.refuseBarrier_keeps {r₀ : State} {s : State} (hs : Keeps r₀ s) (t : Nat) (b : Nat) : Keeps r₀ (State.refuseBarrier s t b) := by
  unfold State.refuseBarrier
  try dsimp only
  repeat' first | with_reducible exact hs | with_reducible apply EngRun.refuse_keeps | with_reducible apply State.refuse_keeps | split | simp only [Keeps.mk_iff] | with_reducible assumption | intro _ | dsimp only

theorem State.post_keeps {r₀ : State} {s : State} (hs : Keeps r₀ s) (t : Tid) (p : Packet) : Keeps r₀ (State.post s t p) := by
  unfold State.post
  try dsimp only
  repeat' first | with_reducible exact hs | with_reducible apply State.modThr_keeps | split | simp only [Keeps.mk_iff] | with_reducible assumption | intro _ | dsimp only

theorem State.tryBarr_keeps {r₀ : State} {s : State} (hs : Keeps r₀ s) (t : Tid) (rd : Reg) (b : Nat) : ∀ u, State.tryBarr s t rd b = some u → Keeps r₀ u := by
  intro u hu
  unfold State.tryBarr at hu
  try dsimp only at hu
  repeat' split at hu
  all_goals try cases hu
  repeat' first | with_reducible exact hs | with_reducible apply State.modThr_keeps | with_reducible apply State.past_keeps | with_reducible apply State.post_keeps | with_reducible apply State.setG_keeps | split | simp only [Keeps.mk_iff] | with_reducible assumption | intro _ | dsimp only

theorem State.tryWait_keeps {r₀ : State} {s : State} (hs : Keeps r₀ s) (t : Tid) (rd : Reg) (mask : BitVec 16) (token : Word) : ∀ u, State.tryWait s t rd mask token = some u → Keeps r₀ u := by
  intro u hu
  unfold State.tryWait at hu
  try dsimp only at hu
  repeat' split at hu
  all_goals try cases hu
  repeat' first | with_reducible exact hs | with_reducible apply State.modThr_keeps | with_reducible apply State.past_keeps | with_reducible apply State.setG_keeps | split | simp only [Keeps.mk_iff] | with_reducible assumption | intro _ | dsimp only

theorem State.signal_keeps {r₀ : State} {s : State} (hs : Keeps r₀ s) (core : Nat) (p : Packet) : Keeps r₀ (State.signal s core p) := by
  unfold State.signal
  try dsimp only
  repeat' first | with_reducible exact hs | with_reducible apply State.modThr_keeps | with_reducible apply State.tallyUp_keeps | split | simp only [Keeps.mk_iff] | with_reducible assumption | intro _ | dsimp only

theorem State.emit_keeps {r₀ : State} {s : State} (hs : Keeps r₀ s) (die : Nat) (e : BEvent) : Keeps r₀ (State.emit s die e) := by
  unfold State.emit
  try dsimp only
  repeat' first | with_reducible exact hs | split | simp only [Keeps.mk_iff] | with_reducible assumption | intro _ | dsimp only

theorem State.declare_keeps {r₀ : State} {s : State} (hs : Keeps r₀ s) (die : Nat) (p : Packet) : Keeps r₀ (State.declare s die p) := by
  unfold State.declare
  try dsimp only
  repeat' first | with_reducible exact hs | with_reducible apply State.emit_keeps | with_reducible apply State.modBarrier_keeps | split | simp only [Keeps.mk_iff] | with_reducible assumption | intro _ | dsimp only

theorem State.free_keeps {r₀ : State} {s : State} (hs : Keeps r₀ s) (die : Nat) (p : Packet) : Keeps r₀ (State.free s die p) := by
  unfold State.free
  try dsimp only
  repeat' first | with_reducible exact hs | with_reducible apply State.emit_keeps | with_reducible apply State.modBarrier_keeps | split | simp only [Keeps.mk_iff] | with_reducible assumption | intro _ | dsimp only

theorem State.release_keeps {r₀ : State} {s : State} (hs : Keeps r₀ s) (die : Nat) (b : Nat) (cid : Nat) : Keeps r₀ (State.release s die b cid) := by
  unfold State.release
  try dsimp only
  repeat' first | with_reducible exact hs | with_reducible apply State.emit_keeps | with_reducible apply State.modBarrier_keeps | split | simp only [Keeps.mk_iff] | with_reducible assumption | intro _ | dsimp only

theorem State.arriveHome_keeps {r₀ : State} {s : State} (hs : Keeps r₀ s) (die : Nat) (p : Packet) : Keeps r₀ (State.arriveHome s die p) := by
  unfold State.arriveHome
  try dsimp only
  repeat' first | with_reducible exact hs | with_reducible apply State.modBarrier_keeps | with_reducible apply State.release_keeps | with_reducible apply overAll_keeps | (with_reducible refine Keeps.overAll ?_ (fun _ _ _ => ?_) _) | split | simp only [Keeps.mk_iff] | with_reducible assumption | intro _ | dsimp only

theorem State.beaconPkt_keeps {r₀ : State} {s : State} (hs : Keeps r₀ s) (die : Nat) (i : Nat) (kind : Nat) (k : State → Packet → State) (hk : ∀ x y, Keeps r₀ x → Keeps r₀ (k x y)) : Keeps r₀ (State.beaconPkt s die i kind k) := by
  unfold State.beaconPkt
  try dsimp only
  repeat' first | with_reducible exact hs | with_reducible apply hk | with_reducible apply State.arrive_keeps | with_reducible apply State.setInb_keeps | split | simp only [Keeps.mk_iff] | with_reducible assumption | intro _ | dsimp only

theorem State.applyEvent_keeps {r₀ : State} {s : State} (hs : Keeps r₀ s) (e : BEvent) : Keeps r₀ (State.applyEvent s e) := by
  unfold State.applyEvent
  try dsimp only
  repeat' first | with_reducible exact hs | with_reducible apply State.declare_keeps | with_reducible apply State.free_keeps | with_reducible apply State.modThr_keeps | with_reducible apply State.past_keeps | split | simp only [Keeps.mk_iff] | with_reducible assumption | intro _ | dsimp only

theorem State.busied_keeps {r₀ : State} {s : State} (hs : Keeps r₀ s) (c : Nat) : Keeps r₀ (State.busied s c) := by
  unfold State.busied
  try dsimp only
  repeat' first | with_reducible exact hs | with_reducible apply State.modCon_keeps | split | simp only [Keeps.mk_iff] | with_reducible assumption | intro _ | dsimp only

theorem State.deliverEvent_keeps {r₀ : State} {s : State} (hs : Keeps r₀ s) (kind : BKind) (k : State → BEvent → State) (hk : ∀ x y, Keeps r₀ x → Keeps r₀ (k x y)) : Keeps r₀ (State.deliverEvent s kind k) := by
  unfold State.deliverEvent
  try dsimp only
  repeat' first | with_reducible exact hs | with_reducible apply hk | with_reducible apply State.busied_keeps | split | simp only [Keeps.mk_iff] | with_reducible assumption | intro _ | dsimp only

theorem State.flushCore_keeps {r₀ : State} {s : State} (hs : Keeps r₀ s) (n : Nat) : Keeps r₀ (State.flushCore s n) := by
  unfold State.flushCore
  try dsimp only
  repeat' first | with_reducible exact hs | with_reducible apply EngRun.gather_keeps | with_reducible apply State.modCore_keeps | with_reducible apply State.modThr_keeps | with_reducible apply State.p4Meet_keeps | with_reducible apply State.p4Write_keeps | with_reducible apply State.scanCache_keeps | with_reducible apply overAll_keeps | (with_reducible refine Keeps.overAll ?_ (fun _ _ _ => ?_) _) | split | simp only [Keeps.mk_iff] | with_reducible assumption | intro _ | dsimp only

theorem State.clearBarriers_keeps {r₀ : State} {s : State} (hs : Keeps r₀ s) (c : Nat) : Keeps r₀ (State.clearBarriers s c) := by
  unfold State.clearBarriers
  try dsimp only
  repeat' first | with_reducible exact hs | with_reducible apply State.barCount_keeps | split | simp only [Keeps.mk_iff] | with_reducible assumption | intro _ | dsimp only

theorem State.escalate_keeps {r₀ : State} {s : State} (hs : Keeps r₀ s) (c : Nat) : Keeps r₀ (State.escalate s c) := by
  unfold State.escalate
  try dsimp only
  repeat' first | with_reducible exact hs | with_reducible apply State.eventOpen_keeps | with_reducible apply State.hwMark_keeps | with_reducible apply State.modCon_keeps | split | simp only [Keeps.mk_iff] | with_reducible assumption | intro _ | dsimp only

theorem State.fogRaise_keeps {r₀ : State} {s : State} (hs : Keeps r₀ s) (c : Nat) : Keeps r₀ (State.fogRaise s c) := by
  unfold State.fogRaise
  try dsimp only
  repeat' first | with_reducible exact hs | with_reducible apply State.escalate_keeps | with_reducible apply State.hwMark_keeps | with_reducible apply State.modCon_keeps | with_reducible apply State.modThr_keeps | split | simp only [Keeps.mk_iff] | with_reducible assumption | intro _ | dsimp only

theorem State.fogClear_keeps {r₀ : State} {s : State} (hs : Keeps r₀ s) (c : Nat) : Keeps r₀ (State.fogClear s c) := by
  unfold State.fogClear
  try dsimp only
  repeat' first | with_reducible exact hs | with_reducible apply State.modCon_keeps | with_reducible apply State.modThr_keeps | with_reducible apply overAll_keeps | (with_reducible refine Keeps.overAll ?_ (fun _ _ _ => ?_) _) | split | simp only [Keeps.mk_iff] | with_reducible assumption | intro _ | dsimp only

theorem State.fogSample_keeps {r₀ : State} {s : State} (hs : Keeps r₀ s) (c : Nat) : Keeps r₀ (State.fogSample s c) := by
  unfold State.fogSample
  try dsimp only
  repeat' first | with_reducible exact hs | with_reducible apply State.draw_keeps | with_reducible apply State.fogClear_keeps | with_reducible apply State.fogRaise_keeps | with_reducible apply State.modCon_keeps | split | simp only [Keeps.mk_iff] | with_reducible assumption | intro _ | dsimp only

theorem State.fogStatusWrite_keeps {r₀ : State} {s : State} (hs : Keeps r₀ s) (acc : Accessor) (c : Nat) (v : Word) : Keeps r₀ (State.fogStatusWrite s acc c v) := by
  unfold State.fogStatusWrite
  try dsimp only
  repeat' first | with_reducible exact hs | with_reducible apply State.modCon_keeps | split | simp only [Keeps.mk_iff] | with_reducible assumption | intro _ | dsimp only

theorem State.liveLimits_keeps {r₀ : State} {s : State} (hs : Keeps r₀ s) (c : Nat) (v : Word) : Keeps r₀ (State.liveLimits s c v) := by
  unfold State.liveLimits
  try dsimp only
  repeat' first | with_reducible exact hs | with_reducible apply State.modCon_keeps | split | simp only [Keeps.mk_iff] | with_reducible assumption | intro _ | dsimp only

end Sys2Proof.Machine
end

