-- ==== Sys2Proof/Laws/KeepsMeshCmds.lean ====
section
/-! SUPPORT. Keeps (Laws/Keeps.lean) of the operations of Machine/MeshCmds.lean. -/

namespace Sys2Proof.Machine

open Sys2Proof

set_option simprocs false
set_option linter.unusedTactic false
set_option linter.unreachableTactic false
set_option linter.unusedSimpArgs false
set_option linter.unusedVariables false


theorem State.inject_keeps {r₀ : State} {s : State} (hs : Keeps r₀ s) (node : Nat) : Keeps r₀ (State.inject s node) := by
  unfold State.inject
  try dsimp only
  repeat' first | with_reducible exact hs | with_reducible apply State.injectRequest_keeps | with_reducible apply State.injectResponse_keeps | split | simp only [Keeps.mk_iff] | with_reducible assumption | intro _ | dsimp only

theorem State.meshLimits_keeps {r₀ : State} {s : State} (hs : Keeps r₀ s) (c : Nat) (v : Word) : Keeps r₀ (State.meshLimits s c v) := by
  unfold State.meshLimits
  try dsimp only
  repeat' first | with_reducible exact hs | with_reducible apply State.modCon_keeps | split | simp only [Keeps.mk_iff] | with_reducible assumption | intro _ | dsimp only

theorem State.meshClear_keeps {r₀ : State} {s : State} (hs : Keeps r₀ s) (die : Nat) (v : Word) : Keeps r₀ (State.meshClear s die v) := by
  unfold State.meshClear
  try dsimp only
  repeat' first | with_reducible exact hs | with_reducible apply State.modDie_keeps | split | simp only [Keeps.mk_iff] | with_reducible assumption | intro _ | dsimp only

end Sys2Proof.Machine
end

