-- ==== Sys2Proof/Laws/KeepsCopy.lean ====
section
/-! SUPPORT. Keeps (Laws/Keeps.lean) of the operations of Machine/Copy.lean. -/

namespace Sys2Proof.Machine

open Sys2Proof

set_option simprocs false
set_option linter.unusedTactic false
set_option linter.unreachableTactic false
set_option linter.unusedSimpArgs false
set_option linter.unusedVariables false


theorem State.refuseChan_keeps {r₀ : State} {s : State} (hs : Keeps r₀ s) (t : Tid) : Keeps r₀ (State.refuseChan s t) := by
  unfold State.refuseChan
  try dsimp only
  repeat' first | with_reducible exact hs | with_reducible apply EngRun.refuse_keeps | with_reducible apply State.refuse_keeps | split | simp only [Keeps.mk_iff] | with_reducible assumption | intro _ | dsimp only

theorem State.modChan_keeps {r₀ : State} {s : State} (hs : Keeps r₀ s) (t : Nat) (k : Nat) (f : Chan → Chan) : Keeps r₀ (State.modChan s t k f) := by
  unfold State.modChan
  try dsimp only
  repeat' first | with_reducible exact hs | with_reducible apply State.modCore_keeps | split | simp only [Keeps.mk_iff] | with_reducible assumption | intro _ | dsimp only

theorem State.chanControl_keeps {r₀ : State} {s : State} (hs : Keeps r₀ s) (t : Nat) (k : Nat) (v : Word) : Keeps r₀ (State.chanControl s t k v) := by
  unfold State.chanControl
  try dsimp only
  repeat' first | with_reducible exact hs | with_reducible apply State.modChan_keeps | with_reducible apply State.refuseChan_keeps | split | simp only [Keeps.mk_iff] | with_reducible assumption | intro _ | dsimp only

theorem State.chanData_keeps {r₀ : State} {s : State} (hs : Keeps r₀ s) (t : Nat) (k : Nat) (f : Nat) (v : Word) : Keeps r₀ (State.chanData s t k f v) := by
  unfold State.chanData
  try dsimp only
  repeat' first | with_reducible exact hs | with_reducible apply State.modChan_keeps | with_reducible apply State.refuseChan_keeps | split | simp only [Keeps.mk_iff] | with_reducible assumption | intro _ | dsimp only

theorem State.chanOwner_keeps {r₀ : State} {s : State} (hs : Keeps r₀ s) (t : Nat) (v : Word) : Keeps r₀ (State.chanOwner s t v) := by
  unfold State.chanOwner
  try dsimp only
  repeat' first | with_reducible exact hs | with_reducible apply State.modCore_keeps | with_reducible apply State.refuseChan_keeps | split | simp only [Keeps.mk_iff] | with_reducible assumption | intro _ | dsimp only

theorem State.cpset_keeps {r₀ : State} {s : State} (hs : Keeps r₀ s) (t : Nat) (k : Nat) (f : Nat) (v : Word) : Keeps r₀ (State.cpset s t k f v) := by
  unfold State.cpset
  try dsimp only
  repeat' first | with_reducible exact hs | with_reducible apply State.chanControl_keeps | with_reducible apply State.chanData_keeps | with_reducible apply State.chanOwner_keeps | with_reducible apply State.event_keeps | with_reducible apply State.modChan_keeps | with_reducible apply State.refuseChan_keeps | split | simp only [Keeps.mk_iff] | with_reducible assumption | intro _ | dsimp only

theorem State.tryCpwait_keeps {r₀ : State} {s : State} (hs : Keeps r₀ s) (t : Nat) (k : Nat) : ∀ u, State.tryCpwait s t k = some u → Keeps r₀ u := by
  intro u hu
  unfold State.tryCpwait at hu
  try dsimp only at hu
  repeat' split at hu
  all_goals try cases hu
  repeat' first | with_reducible exact hs | with_reducible apply State.past_keeps | with_reducible apply State.refuseChan_keeps | split | simp only [Keeps.mk_iff] | with_reducible assumption | intro _ | dsimp only

theorem State.orBlockLong_keeps {r₀ : State} {s : State} (hs : Keeps r₀ s) (t : Tid) (op : BlockOp) (r : Option State) (hr : ∀ x, r = some x → Keeps r₀ x) : Keeps r₀ (State.orBlockLong s t op r) := by
  unfold State.orBlockLong
  try dsimp only
  repeat' first | with_reducible exact hs | (exact hr _ (by assumption)) | (exact hr _ rfl) | with_reducible apply State.modThr_keeps | split | simp only [Keeps.mk_iff] | with_reducible assumption | intro _ | dsimp only

theorem routeAll_keeps {r₀ : State} (w : EngWho) (need : Need) (write : Bool) (l : List Nat) :
    ∀ (key : Nat) {s : State}, Keeps r₀ s → Keeps r₀ (routeAll w need write key l s).2 := by
  induction l with
  | nil => exact fun _ _ h => h
  | cons a l ih => exact fun key s h => ih (key + 1) (State.routeFor_keeps h w key a 64 need write)

theorem State.chanSend_keeps {r₀ : State} {s : State} (hs : Keeps r₀ s) (n : Nat) (k : Nat) (off : Nat) (port : Nat) (typ : PType) (data : Line) (use : Use) (to_ : EngTo) : Keeps r₀ (State.chanSend s n k off port typ data use to_) := by
  unfold State.chanSend
  try dsimp only
  repeat' first | with_reducible exact hs | exact (EngRun.send_keeps (by assumption) _ _ _ _ ‹_›) | with_reducible apply State.send_keeps | split | simp only [Keeps.mk_iff] | with_reducible assumption | intro _ | dsimp only

theorem State.burstReads_keeps {r₀ : State} {s : State} (hs : Keeps r₀ s) (n : Nat) (k : Nat) (b : Burst) : Keeps r₀ (State.burstReads s n k b) := by
  unfold State.burstReads
  try dsimp only
  repeat' first | with_reducible exact hs | with_reducible apply State.chanSend_keeps | with_reducible apply overAll_keeps | (with_reducible refine Keeps.overAll ?_ (fun _ _ _ => ?_) _) | split | simp only [Keeps.mk_iff] | with_reducible assumption | intro _ | dsimp only

theorem State.offer_keeps {r₀ : State} {s : State} (hs : Keeps r₀ s) (n : Nat) (k : Nat) : Keeps r₀ (State.offer s n k).1 := by
  unfold State.offer
  try dsimp only
  repeat' first | with_reducible exact hs | with_reducible apply State.burstReads_keeps | with_reducible apply State.modCore_keeps | with_reducible apply routeAll_keeps | split | simp only [Keeps.mk_iff] | with_reducible assumption | intro _ | dsimp only

theorem State.burstIssue_keeps {r₀ : State} {s : State} (hs : Keeps r₀ s) (n : Nat) : Keeps r₀ (State.burstIssue s n) := by
  unfold State.burstIssue
  try dsimp only
  repeat' first | with_reducible exact hs | with_reducible apply State.offer_keeps | (with_reducible refine Keeps.foldlP Hop.s ?_ (fun _ _ _ => ?_) _) | (with_reducible refine Keeps.foldlP EngRun.s ?_ (fun _ _ _ => ?_) _) | (with_reducible refine Keeps.foldlP Prod.snd ?_ (fun _ _ _ => ?_) _) | (with_reducible refine Keeps.foldlP Prod.fst ?_ (fun _ _ _ => ?_) _) | (with_reducible refine Keeps.foldlP (fun p => EngRun.s (Prod.snd p)) ?_ (fun _ _ _ => ?_) _) | (with_reducible refine Keeps.foldlP (fun p => Prod.snd (Prod.snd p)) ?_ (fun _ _ _ => ?_) _) | (with_reducible refine Keeps.foldl ?_ (fun _ _ _ => ?_) _) | split | simp only [Keeps.mk_iff] | with_reducible assumption | intro _ | dsimp only

theorem State.refuseLine_keeps {r₀ : State} {s : State} (hs : Keeps r₀ s) (w : EngWho) (kind : Nat) (a : Nat) : Keeps r₀ (State.refuseLine s w kind a) := by
  unfold State.refuseLine
  try dsimp only
  repeat' first | with_reducible exact hs | with_reducible apply State.refuseAt_keeps | split | simp only [Keeps.mk_iff] | with_reducible assumption | intro _ | dsimp only

theorem State.burstRead_keeps {r₀ : State} {s : State} (hs : Keeps r₀ s) (w : EngWho) (got : Map Line) (i : Nat) (a : Nat) (to_ : EngTo) : Keeps r₀ (State.burstRead s w got i a to_).2 := by
  unfold State.burstRead
  try dsimp only
  repeat' first | with_reducible exact hs | with_reducible apply State.meetHalf_keeps | with_reducible apply State.refuseLine_keeps | split | simp only [Keeps.mk_iff] | with_reducible assumption | intro _ | dsimp only

theorem State.burstWrite_keeps {r₀ : State} {s : State} (hs : Keeps r₀ s) (n : Nat) (k : Nat) (off : Nat) (a : Nat) (to_ : EngTo) (v : Line) : Keeps r₀ (State.burstWrite s n k off a to_ v) := by
  unfold State.burstWrite
  try dsimp only
  repeat' first | with_reducible exact hs | with_reducible apply State.chanSend_keeps | with_reducible apply State.meetHalf_keeps | with_reducible apply State.refuseLine_keeps | with_reducible apply State.writeHalf_keeps | split | simp only [Keeps.mk_iff] | with_reducible assumption | intro _ | dsimp only

theorem State.copyAdd_keeps {r₀ : State} {s : State} (hs : Keeps r₀ s) (n : Nat) (k : Nat) (off : Nat) (a : Nat) (to_ : EngTo) (v : Line) : Keeps r₀ (State.copyAdd s n k off a to_ v) := by
  unfold State.copyAdd
  try dsimp only
  repeat' first | with_reducible exact hs | exact (EngRun.send_keeps (by assumption) _ _ _ _ ‹_›) | with_reducible apply State.refuseAt_keeps | with_reducible apply State.send_keeps | (with_reducible refine Keeps.getD (fun u hu => ?_) ?_) | refine EngRun.send_keeps ?_ _ _ _ _ (by assumption) | split | simp only [Keeps.mk_iff] | with_reducible assumption | intro _ | dsimp only

theorem State.burstLine_keeps {r₀ : State} {s : State} (hs : Keeps r₀ s) (n : Nat) (k : Nat) (i : Nat) (b : Burst) (early : Option Line) (wrote : List (EngTo × Line)) : Keeps r₀ (State.burstLine s n k i b early wrote).1 := by
  unfold State.burstLine
  try dsimp only
  repeat' first | with_reducible exact hs | with_reducible apply State.burstRead_keeps | with_reducible apply State.burstWrite_keeps | with_reducible apply State.copyAdd_keeps | with_reducible apply State.modCore_keeps | (with_reducible refine Keeps.getD (fun u hu => ?_) ?_) | split | simp only [Keeps.mk_iff] | with_reducible assumption | intro _ | dsimp only

theorem State.earlyLines_keeps {r₀ : State} {s : State} (hs : Keeps r₀ s) (n : Nat) (k : Nat) (b : Burst) (pick : Word) : Keeps r₀ (State.earlyLines s n k b pick).1 := by
  unfold State.earlyLines
  try dsimp only
  repeat' first | with_reducible exact hs | with_reducible apply State.burstRead_keeps | (with_reducible refine Keeps.getD (fun u hu => ?_) ?_) | (with_reducible refine Keeps.foldlP Hop.s ?_ (fun _ _ _ => ?_) _) | (with_reducible refine Keeps.foldlP EngRun.s ?_ (fun _ _ _ => ?_) _) | (with_reducible refine Keeps.foldlP Prod.snd ?_ (fun _ _ _ => ?_) _) | (with_reducible refine Keeps.foldlP Prod.fst ?_ (fun _ _ _ => ?_) _) | (with_reducible refine Keeps.foldlP (fun p => EngRun.s (Prod.snd p)) ?_ (fun _ _ _ => ?_) _) | (with_reducible refine Keeps.foldlP (fun p => Prod.snd (Prod.snd p)) ?_ (fun _ _ _ => ?_) _) | (with_reducible refine Keeps.foldl ?_ (fun _ _ _ => ?_) _) | split | simp only [Keeps.mk_iff] | with_reducible assumption | intro _ | dsimp only

theorem State.burstWrites_keeps {r₀ : State} {s : State} (hs : Keeps r₀ s) (n : Nat) (k : Nat) (i : Nat) (b : Burst) : Keeps r₀ (State.burstWrites s n k i b) := by
  unfold State.burstWrites
  try dsimp only
  repeat' first | with_reducible exact hs | with_reducible apply State.burstLine_keeps | with_reducible apply State.draw_keeps | with_reducible apply State.earlyLines_keeps | with_reducible apply State.modCore_keeps | (with_reducible refine Keeps.getD (fun u hu => ?_) ?_) | (with_reducible refine Keeps.foldlP Hop.s ?_ (fun _ _ _ => ?_) _) | (with_reducible refine Keeps.foldlP EngRun.s ?_ (fun _ _ _ => ?_) _) | (with_reducible refine Keeps.foldlP Prod.snd ?_ (fun _ _ _ => ?_) _) | (with_reducible refine Keeps.foldlP Prod.fst ?_ (fun _ _ _ => ?_) _) | (with_reducible refine Keeps.foldlP (fun p => EngRun.s (Prod.snd p)) ?_ (fun _ _ _ => ?_) _) | (with_reducible refine Keeps.foldlP (fun p => Prod.snd (Prod.snd p)) ?_ (fun _ _ _ => ?_) _) | (with_reducible refine Keeps.foldl ?_ (fun _ _ _ => ?_) _) | split | simp only [Keeps.mk_iff] | with_reducible assumption | intro _ | dsimp only

theorem State.burstEnd_keeps {r₀ : State} {s : State} (hs : Keeps r₀ s) (n : Nat) (k : Nat) (i : Nat) : Keeps r₀ (State.burstEnd s n k i) := by
  unfold State.burstEnd
  try dsimp only
  repeat' first | with_reducible exact hs | with_reducible apply State.modCore_keeps | split | simp only [Keeps.mk_iff] | with_reducible assumption | intro _ | dsimp only

theorem State.burstDone_keeps {r₀ : State} {s : State} (hs : Keeps r₀ s) (n : Nat) (k : Nat) (i : Nat) : Keeps r₀ (State.burstDone s n k i) := by
  unfold State.burstDone
  try dsimp only
  repeat' first | with_reducible exact hs | with_reducible apply State.burstEnd_keeps | with_reducible apply State.burstWrites_keeps | split | simp only [Keeps.mk_iff] | with_reducible assumption | intro _ | dsimp only

end Sys2Proof.Machine
end

