-- ==== Sys2Proof/Laws/KeepsStacks.lean ====
section
/-! SUPPORT. Keeps (Laws/Keeps.lean) of the operations of Machine/Stacks.lean. -/

namespace Sys2Proof.Machine

open Sys2Proof

set_option simprocs false
set_option linter.unusedTactic false
set_option linter.unreachableTactic false
set_option linter.unusedSimpArgs false
set_option linter.unusedVariables false


theorem State.placeAll_keeps {r₀ : State} {s : State} (hs : Keeps r₀ s) (k : Nat) : Keeps r₀ (State.placeAll s k) := by
  unfold State.placeAll
  try dsimp only
  repeat' first | with_reducible exact hs | with_reducible apply Hop.place_keeps | with_reducible apply State.modStack_keeps | with_reducible apply overAll_keeps | (with_reducible refine Keeps.overAll ?_ (fun _ _ _ => ?_) _) | split | simp only [Keeps.mk_iff] | with_reducible assumption | intro _ | dsimp only

theorem State.stkReady_keeps {r₀ : State} {s : State} (hs : Keeps r₀ s) (k : Nat) (p : Packet) (typ : PType) (data : Line) (refused : Bool) : Keeps r₀ (State.stkReady s k p typ data refused) := by
  unfold State.stkReady
  try dsimp only
  repeat' first | with_reducible exact hs | with_reducible apply State.modStack_keeps | split | simp only [Keeps.mk_iff] | with_reducible assumption | intro _ | dsimp only

theorem State.stkZero_keeps {r₀ : State} {s : State} (hs : Keeps r₀ s) (k : Nat) (p : Packet) : Keeps r₀ (State.stkZero s k p) := by
  unfold State.stkZero
  try dsimp only
  repeat' first | with_reducible exact hs | with_reducible apply State.stkReady_keeps | split | simp only [Keeps.mk_iff] | with_reducible assumption | intro _ | dsimp only

theorem State.stkCount_keeps {r₀ : State} {s : State} (hs : Keeps r₀ s) (k : Nat) (p : Packet) : Keeps r₀ (State.stkCount s k p) := by
  unfold State.stkCount
  try dsimp only
  repeat' first | with_reducible exact hs | with_reducible apply State.modStack_keeps | split | simp only [Keeps.mk_iff] | with_reducible assumption | intro _ | dsimp only

theorem State.pktUe_keeps {r₀ : State} {s : State} (hs : Keeps r₀ s) (k : Nat) (l : Nat) (ws : Nat) (p : Packet) : Keeps r₀ (State.pktUe s k l ws p) := by
  unfold State.pktUe
  try dsimp only
  repeat' first | with_reducible exact hs | with_reducible apply State.stkUe_keeps | split | simp only [Keeps.mk_iff] | with_reducible assumption | intro _ | dsimp only

theorem State.stkRead_keeps {r₀ : State} {s : State} (hs : Keeps r₀ s) (k : Nat) (l : Nat) (p : Packet) : Keeps r₀ (State.stkRead s k l p) := by
  unfold State.stkRead
  try dsimp only
  repeat' first | with_reducible exact hs | with_reducible apply State.answer_keeps | with_reducible apply State.modStack_keeps | with_reducible apply State.pktUe_keeps | with_reducible apply State.refusePkt_keeps | with_reducible apply State.stkQueue_keeps | with_reducible apply State.stkReady_keeps | split | simp only [Keeps.mk_iff] | with_reducible assumption | intro _ | dsimp only

theorem State.stkWrite_keeps {r₀ : State} {s : State} (hs : Keeps r₀ s) (k : Nat) (l : Nat) (p : Packet) : Keeps r₀ (State.stkWrite s k l p) := by
  unfold State.stkWrite
  try dsimp only
  repeat' first | with_reducible exact hs | with_reducible apply State.payloadUe_keeps | with_reducible apply State.pktUe_keeps | with_reducible apply State.stkReady_keeps | with_reducible apply State.writeLine_keeps | with_reducible apply State.writeSlots_keeps | split | simp only [Keeps.mk_iff] | with_reducible assumption | intro _ | dsimp only

theorem State.stkAtomic_keeps {r₀ : State} {s : State} (hs : Keeps r₀ s) (k : Nat) (l : Nat) (p : Packet) : Keeps r₀ (State.stkAtomic s k l p) := by
  unfold State.stkAtomic
  try dsimp only
  repeat' first | with_reducible exact hs | with_reducible apply State.dropScrub_keeps | with_reducible apply State.modStack_keeps | with_reducible apply State.payloadUe_keeps | with_reducible apply State.pktUe_keeps | with_reducible apply State.placeAll_keeps | with_reducible apply State.writeLine_keeps | split | simp only [Keeps.mk_iff] | with_reducible assumption | intro _ | dsimp only

theorem State.stkStrike_keeps {r₀ : State} {s : State} (hs : Keeps r₀ s) (k : Nat) (l : Nat) (bad : BitVec 4) : Keeps r₀ (State.stkStrike s k l bad) := by
  unfold State.stkStrike
  try dsimp only
  repeat' first | with_reducible exact hs | with_reducible apply State.strikeLine_keeps | split | simp only [Keeps.mk_iff] | with_reducible assumption | intro _ | dsimp only

theorem State.stkPerform_keeps {r₀ : State} {s : State} (hs : Keeps r₀ s) (k : Nat) (p : Packet) (bad : BitVec 4) : Keeps r₀ (State.stkPerform s k p bad) := by
  unfold State.stkPerform
  try dsimp only
  repeat' first | with_reducible exact hs | with_reducible apply State.stkAtomic_keeps | with_reducible apply State.stkCount_keeps | with_reducible apply State.stkRead_keeps | with_reducible apply State.stkStrike_keeps | with_reducible apply State.stkWrite_keeps | with_reducible apply State.stkZero_keeps | split | simp only [Keeps.mk_iff] | with_reducible assumption | intro _ | dsimp only

theorem State.stkAccept_keeps {r₀ : State} {s : State} (hs : Keeps r₀ s) (k : Nat) (i : Nat) (bad : BitVec 4) : Keeps r₀ (State.stkAccept s k i bad) := by
  unfold State.stkAccept
  try dsimp only
  repeat' first | with_reducible exact hs | with_reducible apply State.setInb_keeps | with_reducible apply State.stkPerform_keeps | split | simp only [Keeps.mk_iff] | with_reducible assumption | intro _ | dsimp only

theorem State.stkRespond_keeps {r₀ : State} {s : State} (hs : Keeps r₀ s) (k : Nat) (i : Nat) (ue : Nat) : Keeps r₀ (State.stkRespond s k i ue) := by
  unfold State.stkRespond
  try dsimp only
  repeat' first | with_reducible exact hs | with_reducible apply State.modStack_keeps | with_reducible apply State.pktUe_keeps | with_reducible apply State.setOutb_keeps | with_reducible apply State.stkStrike_keeps | split | simp only [Keeps.mk_iff] | with_reducible assumption | intro _ | dsimp only

theorem State.atomicDo_keeps {r₀ : State} {s : State} (hs : Keeps r₀ s) (k : Nat) (l : Nat) (p : Packet) : Keeps r₀ (State.atomicDo s k l p) := by
  unfold State.atomicDo
  try dsimp only
  repeat' first | with_reducible exact hs | with_reducible apply State.refusePkt_keeps | with_reducible apply State.setStkLine_keeps | with_reducible apply State.setStkTag_keeps | with_reducible apply State.stkCount_keeps | with_reducible apply State.stkReady_keeps | with_reducible apply State.stkZero_keeps | split | simp only [Keeps.mk_iff] | with_reducible assumption | intro _ | dsimp only

theorem State.atomicOp_keeps {r₀ : State} {s : State} (hs : Keeps r₀ s) (k : Nat) : Keeps r₀ (State.atomicOp s k) := by
  unfold State.atomicOp
  try dsimp only
  repeat' first | with_reducible exact hs | with_reducible apply State.atomicDo_keeps | with_reducible apply State.modStack_keeps | with_reducible apply State.placeAll_keeps | with_reducible apply State.stkZero_keeps | split | simp only [Keeps.mk_iff] | with_reducible assumption | intro _ | dsimp only

theorem State.evictBack_keeps {r₀ : State} {s : State} (hs : Keeps r₀ s) (k : Nat) : Keeps r₀ (State.evictBack s k) := by
  unfold State.evictBack
  try dsimp only
  repeat' first | with_reducible exact hs | with_reducible apply EngRun.bytes_keeps | with_reducible apply State.modStack_keeps | with_reducible apply State.placeAll_keeps | with_reducible apply State.stkQueue_keeps | split | simp only [Keeps.mk_iff] | with_reducible assumption | intro _ | dsimp only

theorem State.cellFaults_keeps {r₀ : State} {s : State} (hs : Keeps r₀ s) (k : Nat) (l : Nat) : Keeps r₀ (State.cellFaults s k l) := by
  unfold State.cellFaults
  try dsimp only
  repeat' first | with_reducible exact hs | with_reducible apply State.draw_keeps | with_reducible apply State.strikeLine_keeps | split | simp only [Keeps.mk_iff] | with_reducible assumption | intro _ | dsimp only

theorem State.corrected_keeps {r₀ : State} {s : State} (hs : Keeps r₀ s) (k : Nat) (l : Nat) : Keeps r₀ (State.corrected s k l).2 := by
  unfold State.corrected
  try dsimp only
  repeat' first | with_reducible exact hs | with_reducible apply State.modChan_keeps | with_reducible apply State.modStack_keeps | split | simp only [Keeps.mk_iff] | with_reducible assumption | intro _ | dsimp only

theorem State.takeReq_keeps {r₀ : State} {s : State} (hs : Keeps r₀ s) (k : Nat) (ch : Nat) (i : Nat) (n : Nat) : Keeps r₀ (State.takeReq s k ch i n) := by
  unfold State.takeReq
  try dsimp only
  repeat' first | with_reducible exact hs | with_reducible apply EngRun.bytes_keeps | with_reducible apply State.answer_keeps | with_reducible apply State.corrected_keeps | with_reducible apply State.modChan_keeps | with_reducible apply State.modStack_keeps | split | simp only [Keeps.mk_iff] | with_reducible assumption | intro _ | dsimp only

theorem State.takeBg_keeps {r₀ : State} {s : State} (hs : Keeps r₀ s) (k : Nat) (ch : Nat) (i : Nat) (n : Nat) : Keeps r₀ (State.takeBg s k ch i n) := by
  unfold State.takeBg
  try dsimp only
  repeat' first | with_reducible exact hs | with_reducible apply State.cellFaults_keeps | with_reducible apply State.corrected_keeps | with_reducible apply State.draw_keeps | with_reducible apply State.modChan_keeps | with_reducible apply State.modStack_keeps | with_reducible apply State.setLineBad_keeps | with_reducible apply State.stkUe_keeps | split | simp only [Keeps.mk_iff] | with_reducible assumption | intro _ | dsimp only

theorem State.stkSlot_keeps {r₀ : State} {s : State} (hs : Keeps r₀ s) (k : Nat) (ch : Nat) : Keeps r₀ (State.stkSlot s k ch) := by
  unfold State.stkSlot
  try dsimp only
  repeat' first | with_reducible exact hs | with_reducible apply State.modChan_keeps | with_reducible apply State.modStack_keeps | with_reducible apply State.takeBg_keeps | with_reducible apply State.takeReq_keeps | split | simp only [Keeps.mk_iff] | with_reducible assumption | intro _ | dsimp only

theorem State.newBg_keeps {r₀ : State} {s : State} (hs : Keeps r₀ s) (k : Nat) (ch : Nat) (f : SChan → SChan) : Keeps r₀ (State.newBg s k ch f) := by
  unfold State.newBg
  try dsimp only
  repeat' first | with_reducible exact hs | with_reducible apply State.modChan_keeps | with_reducible apply State.modStack_keeps | split | simp only [Keeps.mk_iff] | with_reducible assumption | intro _ | dsimp only

theorem State.regionLog_keeps {r₀ : State} {s : State} (hs : Keeps r₀ s) (k : Nat) (ch : Nat) (q : Nat) : Keeps r₀ (State.regionLog s k ch q) := by
  unfold State.regionLog
  try dsimp only
  repeat' first | with_reducible exact hs | with_reducible apply State.modStack_keeps | with_reducible apply State.report_keeps | split | simp only [Keeps.mk_iff] | with_reducible assumption | intro _ | dsimp only

theorem State.stkFail_keeps {r₀ : State} {s : State} (hs : Keeps r₀ s) (k : Nat) : Keeps r₀ (State.stkFail s k) := by
  unfold State.stkFail
  try dsimp only
  repeat' first | with_reducible exact hs | with_reducible apply State.answer_keeps | with_reducible apply State.report_keeps | with_reducible apply State.setStack_keeps | with_reducible apply State.stkCount_keeps | with_reducible apply State.stkZero_keeps | with_reducible apply overAll_keeps | (with_reducible refine Keeps.overAll ?_ (fun _ _ _ => ?_) _) | split | simp only [Keeps.mk_iff] | with_reducible assumption | intro _ | dsimp only

theorem State.train_keeps {r₀ : State} {s : State} (hs : Keeps r₀ s) (k : Nat) : Keeps r₀ (State.train s k) := by
  unfold State.train
  try dsimp only
  repeat' first | with_reducible exact hs | with_reducible apply State.setStack_keeps | split | simp only [Keeps.mk_iff] | with_reducible assumption | intro _ | dsimp only

theorem State.trainingDone_keeps {r₀ : State} {s : State} (hs : Keeps r₀ s) (k : Nat) (ok : Bool) : Keeps r₀ (State.trainingDone s k ok) := by
  unfold State.trainingDone
  try dsimp only
  repeat' first | with_reducible exact hs | with_reducible apply State.setStack_keeps | split | simp only [Keeps.mk_iff] | with_reducible assumption | intro _ | dsimp only | (refine Keeps.mems' ?_ ?_ ?_ ?_ ?_ ?_ ?_ ?_ <;> first | assumption | exact id | exact fun h => Map.wf_set h _ _ | exact fun h => writeBytes_wf _ _ _ h | exact Map.wf_filter _ | exact fun _ => Map.wf_nil _)

theorem State.stkClear_keeps {r₀ : State} {s : State} (hs : Keeps r₀ s) (k : Nat) (v : Word) : Keeps r₀ (State.stkClear s k v) := by
  unfold State.stkClear
  try dsimp only
  repeat' first | with_reducible exact hs | with_reducible apply State.modStack_keeps | split | simp only [Keeps.mk_iff] | with_reducible assumption | intro _ | dsimp only

end Sys2Proof.Machine
end

