-- ==== Sys2Proof/Laws/KeepsWindows.lean ====
section
/-! SUPPORT. Keeps (Laws/Keeps.lean) of the operations of Machine/Windows.lean. -/

namespace Sys2Proof.Machine

open Sys2Proof

set_option simprocs false
set_option linter.unusedTactic false
set_option linter.unreachableTactic false
set_option linter.unusedSimpArgs false
set_option linter.unusedVariables false


theorem State.dropEntries_keeps {r₀ : State} {s : State} (hs : Keeps r₀ s) (c : Nat) (p : WCached → Bool) : Keeps r₀ (State.dropEntries s c p) := by
  unfold State.dropEntries
  try dsimp only
  repeat' first | with_reducible exact hs | with_reducible apply State.modCore_keeps | with_reducible apply State.modThr_keeps | with_reducible apply overAll_keeps | (with_reducible refine Keeps.overAll ?_ (fun _ _ _ => ?_) _) | split | simp only [Keeps.mk_iff] | with_reducible assumption | intro _ | dsimp only

theorem State.windowWrite_keeps {r₀ : State} {s : State} (hs : Keeps r₀ s) (c : Nat) (off : Nat) (v : Word) : Keeps r₀ (State.windowWrite s c off v) := by
  unfold State.windowWrite
  try dsimp only
  repeat' first | with_reducible exact hs | with_reducible apply State.dropEntries_keeps | with_reducible apply State.modCon_keeps | split | simp only [Keeps.mk_iff] | with_reducible assumption | intro _ | dsimp only

end Sys2Proof.Machine
end

