-- ==== Sys2Proof/Laws/KeepsTrust.lean ====
section
/-! SUPPORT. Keeps (Laws/Keeps.lean) of the operations of Machine/Trust.lean. -/

namespace Sys2Proof.Machine

open Sys2Proof

set_option simprocs false
set_option linter.unusedTactic false
set_option linter.unreachableTactic false
set_option linter.unusedSimpArgs false
set_option linter.unusedVariables false


theorem State.modTrust_keeps {r₀ : State} {s : State} (hs : Keeps r₀ s) (f : Trust → Trust) : Keeps r₀ (State.modTrust s f) := by
  unfold State.modTrust
  try dsimp only
  repeat' first | with_reducible exact hs | split | simp only [Keeps.mk_iff] | with_reducible assumption | intro _ | dsimp only

theorem State.sessDone_keeps {r₀ : State} {s : State} (hs : Keeps r₀ s) (c : Nat) (n : Nat) (code : Nat) : Keeps r₀ (State.sessDone s c n code) := by
  unfold State.sessDone
  try dsimp only
  repeat' first | with_reducible exact hs | with_reducible apply State.hwMark_keeps | with_reducible apply State.modArea_keeps | split | simp only [Keeps.mk_iff] | with_reducible assumption | intro _ | dsimp only

theorem State.dropTag_keeps {r₀ : State} {s : State} (hs : Keeps r₀ s) (n : Nat) (tag : Tag) : Keeps r₀ (State.dropTag s n tag) := by
  unfold State.dropTag
  try dsimp only
  repeat' first | with_reducible exact hs | with_reducible apply EngRun.gather_keeps | with_reducible apply State.modCore_keeps | with_reducible apply State.modThr_keeps | with_reducible apply overAll_keeps | (with_reducible refine Keeps.overAll ?_ (fun _ _ _ => ?_) _) | (with_reducible refine Keeps.foldlP Hop.s ?_ (fun _ _ _ => ?_) _) | (with_reducible refine Keeps.foldlP EngRun.s ?_ (fun _ _ _ => ?_) _) | (with_reducible refine Keeps.foldlP Prod.snd ?_ (fun _ _ _ => ?_) _) | (with_reducible refine Keeps.foldlP Prod.fst ?_ (fun _ _ _ => ?_) _) | (with_reducible refine Keeps.foldlP (fun p => EngRun.s (Prod.snd p)) ?_ (fun _ _ _ => ?_) _) | (with_reducible refine Keeps.foldlP (fun p => Prod.snd (Prod.snd p)) ?_ (fun _ _ _ => ?_) _) | (with_reducible refine Keeps.foldl ?_ (fun _ _ _ => ?_) _) | split | simp only [Keeps.mk_iff] | with_reducible assumption | intro _ | dsimp only

theorem State.dropBuffered_keeps {r₀ : State} {s : State} (hs : Keeps r₀ s) (tag : Tag) : Keeps r₀ (State.dropBuffered s tag) := by
  unfold State.dropBuffered
  try dsimp only
  repeat' first | with_reducible exact hs | with_reducible apply EngRun.bytes_keeps | with_reducible apply State.modStack_keeps | with_reducible apply State.placeAll_keeps | with_reducible apply State.stkQueue_keeps | with_reducible apply overAll_keeps | (with_reducible refine Keeps.overAll ?_ (fun _ _ _ => ?_) _) | split | simp only [Keeps.mk_iff] | with_reducible assumption | intro _ | dsimp only

theorem State.retireSlot_keeps {r₀ : State} {s : State} (hs : Keeps r₀ s) (n : Nat) (fill : Bool) : Keeps r₀ (State.retireSlot s n fill) := by
  unfold State.retireSlot
  try dsimp only
  repeat' first | with_reducible exact hs | with_reducible apply State.dropBuffered_keeps | with_reducible apply State.dropTag_keeps | with_reducible apply State.evict_keeps | with_reducible apply State.modSlot_keeps | with_reducible apply overAll_keeps | (with_reducible refine Keeps.overAll ?_ (fun _ _ _ => ?_) _) | split | simp only [Keeps.mk_iff] | with_reducible assumption | intro _ | dsimp only

theorem State.retireOwned_keeps {r₀ : State} {s : State} (hs : Keeps r₀ s) (c : Nat) : Keeps r₀ (State.retireOwned s c) := by
  unfold State.retireOwned
  try dsimp only
  repeat' first | with_reducible exact hs | with_reducible apply State.retireSlot_keeps | with_reducible apply overAll_keeps | (with_reducible refine Keeps.overAll ?_ (fun _ _ _ => ?_) _) | split | simp only [Keeps.mk_iff] | with_reducible assumption | intro _ | dsimp only

theorem State.purge_keeps {r₀ : State} {s : State} (hs : Keeps r₀ s) (tag : Tag) : Keeps r₀ (State.purge s tag) := by
  unfold State.purge
  try dsimp only
  repeat' first | with_reducible exact hs | split | simp only [Keeps.mk_iff] | with_reducible assumption | intro _ | dsimp only | (refine Keeps.mems' ?_ ?_ ?_ ?_ ?_ ?_ ?_ ?_ <;> first | assumption | exact id | exact fun h => Map.wf_set h _ _ | exact fun h => writeBytes_wf _ _ _ h | exact Map.wf_filter _ | exact fun _ => Map.wf_nil _)

theorem State.fillRanges_keeps {r₀ : State} {s : State} (hs : Keeps r₀ s) (rs : List (Nat × Nat)) : Keeps r₀ (State.fillRanges s rs) := by
  unfold State.fillRanges
  try dsimp only
  repeat' first | with_reducible exact hs | split | simp only [Keeps.mk_iff] | with_reducible assumption | intro _ | dsimp only | (refine Keeps.mems' ?_ ?_ ?_ ?_ ?_ ?_ ?_ ?_ <;> first | assumption | exact id | exact fun h => Map.wf_set h _ _ | exact fun h => writeBytes_wf _ _ _ h | exact Map.wf_filter _ | exact fun _ => Map.wf_nil _)

theorem State.slotCmd_keeps {r₀ : State} {s : State} (hs : Keeps r₀ s) (c : Nat) (n : Nat) (cmd : Nat) (fill : Bool) : Keeps r₀ (State.slotCmd s c n cmd fill) := by
  unfold State.slotCmd
  try dsimp only
  repeat' first | with_reducible exact hs | with_reducible apply State.modSlot_keeps | with_reducible apply State.retireSlot_keeps | with_reducible apply State.sessDone_keeps | split | simp only [Keeps.mk_iff] | with_reducible assumption | intro _ | dsimp only

theorem State.sessCmd_keeps {r₀ : State} {s : State} (hs : Keeps r₀ s) (acc : Accessor) (c : Nat) (v : Word) : Keeps r₀ (State.sessCmd s acc c v) := by
  unfold State.sessCmd
  try dsimp only
  repeat' first | with_reducible exact hs | with_reducible apply State.modArea_keeps | with_reducible apply State.modTrust_keeps | with_reducible apply State.refuseAccessor_keeps | with_reducible apply State.slotCmd_keeps | split | simp only [Keeps.mk_iff] | with_reducible assumption | intro _ | dsimp only

theorem State.keyBegin_keeps {r₀ : State} {s : State} (hs : Keeps r₀ s) (c : Nat) (n : Nat) : Keeps r₀ (State.keyBegin s c n) := by
  unfold State.keyBegin
  try dsimp only
  repeat' first | with_reducible exact hs | with_reducible apply State.modSlot_keeps | with_reducible apply State.modTrust_keeps | split | simp only [Keeps.mk_iff] | with_reducible assumption | intro _ | dsimp only

theorem State.keyStart_keeps {r₀ : State} {s : State} (hs : Keeps r₀ s) : Keeps r₀ (State.keyStart s) := by
  unfold State.keyStart
  try dsimp only
  repeat' first | with_reducible exact hs | with_reducible apply State.keyBegin_keeps | with_reducible apply State.modTrust_keeps | with_reducible apply State.sessDone_keeps | split | simp only [Keeps.mk_iff] | with_reducible assumption | intro _ | dsimp only

theorem State.newPair_keeps {r₀ : State} {s : State} (hs : Keeps r₀ s) : Keeps r₀ (State.newPair s) := by
  unfold State.newPair
  try dsimp only
  repeat' first | with_reducible exact hs | with_reducible apply State.modTrust_keeps | split | simp only [Keeps.mk_iff] | with_reducible assumption | intro _ | dsimp only

theorem State.rotate_keeps {r₀ : State} {s : State} (hs : Keeps r₀ s) : Keeps r₀ (State.rotate s) := by
  unfold State.rotate
  try dsimp only
  repeat' first | with_reducible exact hs | with_reducible apply State.modTrust_keeps | with_reducible apply State.newPair_keeps | split | simp only [Keeps.mk_iff] | with_reducible assumption | intro _ | dsimp only

theorem State.keyEnd_keeps {r₀ : State} {s : State} (hs : Keeps r₀ s) : Keeps r₀ (State.keyEnd s) := by
  unfold State.keyEnd
  try dsimp only
  repeat' first | with_reducible exact hs | with_reducible apply State.modTrust_keeps | with_reducible apply State.newPair_keeps | split | simp only [Keeps.mk_iff] | with_reducible assumption | intro _ | dsimp only

theorem State.keyRetry_keeps {r₀ : State} {s : State} (hs : Keeps r₀ s) (k : Nat) : Keeps r₀ (State.keyRetry s k) := by
  unfold State.keyRetry
  try dsimp only
  repeat' first | with_reducible exact hs | with_reducible apply State.keyEnd_keeps | with_reducible apply State.modSlot_keeps | with_reducible apply State.modTrust_keeps | with_reducible apply State.report_keeps | with_reducible apply State.sessDone_keeps | split | simp only [Keeps.mk_iff] | with_reducible assumption | intro _ | dsimp only

theorem State.clearArea_keeps {r₀ : State} {s : State} (hs : Keeps r₀ s) (c : Nat) : Keeps r₀ (State.clearArea s c) := by
  unfold State.clearArea
  try dsimp only
  repeat' first | with_reducible exact hs | with_reducible apply State.keyEnd_keeps | with_reducible apply State.modTrust_keeps | split | simp only [Keeps.mk_iff] | with_reducible assumption | intro _ | dsimp only

theorem State.idCmd_keeps {r₀ : State} {s : State} (hs : Keeps r₀ s) (acc : Accessor) (v : Word) : Keeps r₀ (State.idCmd s acc v) := by
  unfold State.idCmd
  try dsimp only
  repeat' first | with_reducible exact hs | with_reducible apply State.modTrust_keeps | with_reducible apply State.refuseAccessor_keeps | split | simp only [Keeps.mk_iff] | with_reducible assumption | intro _ | dsimp only

theorem State.identify_keeps {r₀ : State} {s : State} (hs : Keeps r₀ s) (seed : BitVec 256) : Keeps r₀ (State.identify s seed) := by
  unfold State.identify
  try dsimp only
  repeat' first | with_reducible exact hs | with_reducible apply State.modTrust_keeps | with_reducible apply State.newPair_keeps | split | simp only [Keeps.mk_iff] | with_reducible assumption | intro _ | dsimp only

theorem State.quoteGo_keeps {r₀ : State} {s : State} (hs : Keeps r₀ s) (acc : Accessor) (c : Nat) (pkg : Bool) : Keeps r₀ (State.quoteGo s acc c pkg) := by
  unfold State.quoteGo
  try dsimp only
  repeat' first | with_reducible exact hs | with_reducible apply State.modTrust_keeps | with_reducible apply State.refuseAccessor_keeps | split | simp only [Keeps.mk_iff] | with_reducible assumption | intro _ | dsimp only

theorem State.quoteSigned_keeps {r₀ : State} {s : State} (hs : Keeps r₀ s) : Keeps r₀ (State.quoteSigned s) := by
  unfold State.quoteSigned
  try dsimp only
  repeat' first | with_reducible exact hs | with_reducible apply State.hwMark_keeps | with_reducible apply State.modTrust_keeps | split | simp only [Keeps.mk_iff] | with_reducible assumption | intro _ | dsimp only

end Sys2Proof.Machine
end

