-- ==== Sys2Proof/Laws/KeepsTally.lean ====
section
/-! SUPPORT. Keeps (Laws/Keeps.lean) of the operations of Machine/Tally.lean. -/

namespace Sys2Proof.Machine

open Sys2Proof

set_option simprocs false
set_option linter.unusedTactic false
set_option linter.unreachableTactic false
set_option linter.unusedSimpArgs false
set_option linter.unusedVariables false


theorem State.tallyRefuse_keeps {r₀ : State} {s : State} (hs : Keeps r₀ s) (d : Nat) (c : Nat) (kind : Nat) (a : Nat) : Keeps r₀ (State.tallyRefuse s d c kind a) := by
  unfold State.tallyRefuse
  try dsimp only
  repeat' first | with_reducible exact hs | with_reducible apply State.refuseOut_keeps | split | simp only [Keeps.mk_iff] | with_reducible assumption | intro _ | dsimp only

theorem State.tallyRead_keeps {r₀ : State} {s : State} (hs : Keeps r₀ s) (d : Nat) (c : Nat) (a : Nat) : Keeps r₀ (State.tallyRead s d c a).2 := by
  unfold State.tallyRead
  try dsimp only
  repeat' first | with_reducible exact hs | with_reducible apply State.drawLine_keeps | with_reducible apply State.farRead_keeps | with_reducible apply State.homeGet_keeps | with_reducible apply State.tallyRefuse_keeps | split | simp only [Keeps.mk_iff] | with_reducible assumption | intro _ | dsimp only

theorem State.tallyBytes_keeps {r₀ : State} {s : State} (hs : Keeps r₀ s) (d : Nat) (c : Nat) (a : Nat) (n : Nat) : Keeps r₀ (State.tallyBytes s d c a n).2 := by
  unfold State.tallyBytes
  try dsimp only
  repeat' first | with_reducible exact hs | with_reducible apply State.tallyRead_keeps | (with_reducible refine Keeps.foldlP Hop.s ?_ (fun _ _ _ => ?_) _) | (with_reducible refine Keeps.foldlP EngRun.s ?_ (fun _ _ _ => ?_) _) | (with_reducible refine Keeps.foldlP Prod.snd ?_ (fun _ _ _ => ?_) _) | (with_reducible refine Keeps.foldlP Prod.fst ?_ (fun _ _ _ => ?_) _) | (with_reducible refine Keeps.foldlP (fun p => EngRun.s (Prod.snd p)) ?_ (fun _ _ _ => ?_) _) | (with_reducible refine Keeps.foldlP (fun p => Prod.snd (Prod.snd p)) ?_ (fun _ _ _ => ?_) _) | (with_reducible refine Keeps.foldl ?_ (fun _ _ _ => ?_) _) | split | simp only [Keeps.mk_iff] | with_reducible assumption | intro _ | dsimp only

theorem State.tallyWrite_keeps {r₀ : State} {s : State} (hs : Keeps r₀ s) (d : Nat) (c : Nat) (a : Nat) (first : Nat) (last : Nat) (data : Line) : Keeps r₀ (State.tallyWrite s d c a first last data) := by
  unfold State.tallyWrite
  try dsimp only
  repeat' first | with_reducible exact hs | with_reducible apply State.homePut_keeps | with_reducible apply State.setInb_keeps | with_reducible apply State.tallyRefuse_keeps | with_reducible apply State.tlp_keeps | split | simp only [Keeps.mk_iff] | with_reducible assumption | intro _ | dsimp only

theorem State.tallyPut_keeps {r₀ : State} {s : State} (hs : Keeps r₀ s) (d : Nat) (c : Nat) (a : Nat) (bs : List Byte) : Keeps r₀ (State.tallyPut s d c a bs) := by
  unfold State.tallyPut
  try dsimp only
  repeat' first | with_reducible exact hs | with_reducible apply State.tallyWrite_keeps | (with_reducible refine Keeps.foldlP Hop.s ?_ (fun _ _ _ => ?_) _) | (with_reducible refine Keeps.foldlP EngRun.s ?_ (fun _ _ _ => ?_) _) | (with_reducible refine Keeps.foldlP Prod.snd ?_ (fun _ _ _ => ?_) _) | (with_reducible refine Keeps.foldlP Prod.fst ?_ (fun _ _ _ => ?_) _) | (with_reducible refine Keeps.foldlP (fun p => EngRun.s (Prod.snd p)) ?_ (fun _ _ _ => ?_) _) | (with_reducible refine Keeps.foldlP (fun p => Prod.snd (Prod.snd p)) ?_ (fun _ _ _ => ?_) _) | (with_reducible refine Keeps.foldl ?_ (fun _ _ _ => ?_) _) | split | simp only [Keeps.mk_iff] | with_reducible assumption | intro _ | dsimp only

theorem State.markInbound_keeps {r₀ : State} {s : State} (hs : Keeps r₀ s) (pa : Nat) : Keeps r₀ (State.markInbound s pa) := by
  unfold State.markInbound
  try dsimp only
  repeat' first | with_reducible exact hs | with_reducible apply State.modCon_keeps | with_reducible apply overAll_keeps | (with_reducible refine Keeps.overAll ?_ (fun _ _ _ => ?_) _) | split | simp only [Keeps.mk_iff] | with_reducible assumption | intro _ | dsimp only

theorem State.tallyInbound_keeps {r₀ : State} {s : State} (hs : Keeps r₀ s) (c : Nat) (dst : Nat) : Keeps r₀ (State.tallyInbound s c dst) := by
  unfold State.tallyInbound
  try dsimp only
  repeat' first | with_reducible exact hs | with_reducible apply State.markInbound_keeps | with_reducible apply State.modCon_keeps | split | simp only [Keeps.mk_iff] | with_reducible assumption | intro _ | dsimp only

theorem State.tallySubmit_keeps {r₀ : State} {s : State} (hs : Keeps r₀ s) (t : Tid) (tag : Tag) (d : Nat) (addr : Word) : Keeps r₀ (State.tallySubmit s t tag d addr) := by
  unfold State.tallySubmit
  try dsimp only
  repeat' first | with_reducible exact hs | with_reducible apply EngRun.refuse_keeps | with_reducible apply State.modEng_keeps | with_reducible apply State.refuse_keeps | split | simp only [Keeps.mk_iff] | with_reducible assumption | intro _ | dsimp only

theorem State.tallySend_keeps {r₀ : State} {s : State} (hs : Keeps r₀ s) (d : Nat) (bond : Nat) (l : MLine) : Keeps r₀ (State.tallySend s d bond l) := by
  unfold State.tallySend
  try dsimp only
  repeat' first | with_reducible exact hs | with_reducible apply State.modEng_keeps | split | simp only [Keeps.mk_iff] | with_reducible assumption | intro _ | dsimp only

theorem State.modRun_keeps {r₀ : State} {s : State} (hs : Keeps r₀ s) (d : Nat) (f : TRun → TRun) : Keeps r₀ (State.modRun s d f) := by
  unfold State.modRun
  try dsimp only
  repeat' first | with_reducible exact hs | with_reducible apply State.modEng_keeps | split | simp only [Keeps.mk_iff] | with_reducible assumption | intro _ | dsimp only

theorem State.tallySendAbort_keeps {r₀ : State} {s : State} (hs : Keeps r₀ s) (d : Nat) (x : TDesc) (step : Nat) : Keeps r₀ (State.tallySendAbort s d x step) := by
  unfold State.tallySendAbort
  try dsimp only
  repeat' first | with_reducible exact hs | with_reducible apply State.tallySend_keeps | with_reducible apply overAll_keeps | (with_reducible refine Keeps.overAll ?_ (fun _ _ _ => ?_) _) | split | simp only [Keeps.mk_iff] | with_reducible assumption | intro _ | dsimp only

theorem State.tallyFail_keeps {r₀ : State} {s : State} (hs : Keeps r₀ s) (d : Nat) (code : Nat) : Keeps r₀ (State.tallyFail s d code) := by
  unfold State.tallyFail
  try dsimp only
  repeat' first | with_reducible exact hs | with_reducible apply State.modRun_keeps | with_reducible apply State.tallySendAbort_keeps | split | simp only [Keeps.mk_iff] | with_reducible assumption | intro _ | dsimp only

theorem State.tallyScramble_keeps {r₀ : State} {s : State} (hs : Keeps r₀ s) (c : Nat) (x : TDesc) : Keeps r₀ (State.tallyScramble s c x) := by
  unfold State.tallyScramble
  try dsimp only
  repeat' first | with_reducible exact hs | with_reducible apply State.drawLine_keeps | with_reducible apply State.homePut_keeps | with_reducible apply overAll_keeps | (with_reducible refine Keeps.overAll ?_ (fun _ _ _ => ?_) _) | split | simp only [Keeps.mk_iff] | with_reducible assumption | intro _ | dsimp only

theorem State.tallySignal_keeps {r₀ : State} {s : State} (hs : Keeps r₀ s) (d : Nat) (c : Nat) (x : TDesc) : Keeps r₀ (State.tallySignal s d c x) := by
  unfold State.tallySignal
  try dsimp only
  repeat' first | with_reducible exact hs | with_reducible apply State.setOutb_keeps | with_reducible apply State.signal_keeps | split | simp only [Keeps.mk_iff] | with_reducible assumption | intro _ | dsimp only

theorem State.tallyRecord_keeps {r₀ : State} {s : State} (hs : Keeps r₀ s) (d : Nat) (job : TJob) (x : TDesc) (code : Nat) (run : Option TRun) : Keeps r₀ (State.tallyRecord s d job x code run) := by
  unfold State.tallyRecord
  try dsimp only
  repeat' first | with_reducible exact hs | with_reducible apply State.draw_keeps | with_reducible apply State.free_keeps | with_reducible apply State.tallyPut_keeps | split | simp only [Keeps.mk_iff] | with_reducible assumption | intro _ | dsimp only

theorem State.modHalf_keeps {r₀ : State} {s : State} (hs : Keeps r₀ s) (d : Nat) (half : Bool) (f : THalf → THalf) : Keeps r₀ (State.modHalf s d half f) := by
  unfold State.modHalf
  try dsimp only
  repeat' first | with_reducible exact hs | with_reducible apply State.modRun_keeps | with_reducible apply State.setHalf_keeps | split | simp only [Keeps.mk_iff] | with_reducible assumption | intro _ | dsimp only

theorem State.tallyFirst_keeps {r₀ : State} {s : State} (hs : Keeps r₀ s) (d : Nat) (x : TDesc) (half : Bool) (h : THalf) : Keeps r₀ (State.tallyFirst s d x half h) := by
  unfold State.tallyFirst
  try dsimp only
  repeat' first | with_reducible exact hs | with_reducible apply State.tallySend_keeps | with_reducible apply overAll_keeps | (with_reducible refine Keeps.overAll ?_ (fun _ _ _ => ?_) _) | split | simp only [Keeps.mk_iff] | with_reducible assumption | intro _ | dsimp only

theorem State.tallySource_keeps {r₀ : State} {s : State} (hs : Keeps r₀ s) (d : Nat) (c : Nat) (x : TDesc) (half : Bool) : Keeps r₀ (State.tallySource s d c x half).2 := by
  unfold State.tallySource
  try dsimp only
  repeat' first | with_reducible exact hs | with_reducible apply State.tallyBytes_keeps | split | simp only [Keeps.mk_iff] | with_reducible assumption | intro _ | dsimp only

theorem State.tallyCompress_keeps {r₀ : State} {s : State} (hs : Keeps r₀ s) (d : Nat) (c : Nat) (x : TDesc) (half : Bool) : Keeps r₀ (State.tallyCompress s d c x half).2 := by
  unfold State.tallyCompress
  try dsimp only
  repeat' first | with_reducible exact hs | with_reducible apply State.tallyBytes_keeps | with_reducible apply State.tallyPut_keeps | with_reducible apply State.tallySource_keeps | (with_reducible refine Keeps.getD (fun u hu => ?_) ?_) | (with_reducible refine Keeps.foldlP Hop.s ?_ (fun _ _ _ => ?_) _) | (with_reducible refine Keeps.foldlP EngRun.s ?_ (fun _ _ _ => ?_) _) | (with_reducible refine Keeps.foldlP Prod.snd ?_ (fun _ _ _ => ?_) _) | (with_reducible refine Keeps.foldlP Prod.fst ?_ (fun _ _ _ => ?_) _) | (with_reducible refine Keeps.foldlP (fun p => EngRun.s (Prod.snd p)) ?_ (fun _ _ _ => ?_) _) | (with_reducible refine Keeps.foldlP (fun p => Prod.snd (Prod.snd p)) ?_ (fun _ _ _ => ?_) _) | (with_reducible refine Keeps.foldl ?_ (fun _ _ _ => ?_) _) | split | simp only [Keeps.mk_iff] | with_reducible assumption | intro _ | dsimp only

theorem State.tallyAgree_keeps {r₀ : State} {s : State} (hs : Keeps r₀ s) (d : Nat) (c : Nat) (x : TDesc) (half : Bool) : Keeps r₀ (State.tallyAgree s d c x half) := by
  unfold State.tallyAgree
  try dsimp only
  repeat' first | with_reducible exact hs | with_reducible apply State.modHalf_keeps | with_reducible apply State.tallyBytes_keeps | with_reducible apply State.tallyCompress_keeps | with_reducible apply State.tallyFirst_keeps | split | simp only [Keeps.mk_iff] | with_reducible assumption | intro _ | dsimp only

theorem State.tallyShifts_keeps {r₀ : State} {s : State} (hs : Keeps r₀ s) (x : TDesc) (half : Bool) (m : Map (BitVec 32)) : Keeps r₀ (State.tallyShifts s x half m).2.2 := by
  unfold State.tallyShifts
  try dsimp only
  repeat' first | with_reducible exact hs | with_reducible apply State.draw_keeps | (with_reducible refine Keeps.foldlP Hop.s ?_ (fun _ _ _ => ?_) _) | (with_reducible refine Keeps.foldlP EngRun.s ?_ (fun _ _ _ => ?_) _) | (with_reducible refine Keeps.foldlP Prod.snd ?_ (fun _ _ _ => ?_) _) | (with_reducible refine Keeps.foldlP Prod.fst ?_ (fun _ _ _ => ?_) _) | (with_reducible refine Keeps.foldlP (fun p => EngRun.s (Prod.snd p)) ?_ (fun _ _ _ => ?_) _) | (with_reducible refine Keeps.foldlP (fun p => Prod.snd (Prod.snd p)) ?_ (fun _ _ _ => ?_) _) | (with_reducible refine Keeps.foldl ?_ (fun _ _ _ => ?_) _) | split | simp only [Keeps.mk_iff] | with_reducible assumption | intro _ | dsimp only

theorem State.tallyReduce_keeps {r₀ : State} {s : State} (hs : Keeps r₀ s) (d : Nat) (c : Nat) (x : TDesc) (half : Bool) (h : THalf) : Keeps r₀ (State.tallyReduce s d c x half h) := by
  unfold State.tallyReduce
  try dsimp only
  repeat' first | with_reducible exact hs | with_reducible apply State.draw_keeps | with_reducible apply State.modHalf_keeps | with_reducible apply State.tallyFail_keeps | with_reducible apply State.tallyFirst_keeps | with_reducible apply State.tallyShifts_keeps | with_reducible apply State.tallySource_keeps | (with_reducible refine Keeps.foldlP Hop.s ?_ (fun _ _ _ => ?_) _) | (with_reducible refine Keeps.foldlP EngRun.s ?_ (fun _ _ _ => ?_) _) | (with_reducible refine Keeps.foldlP Prod.snd ?_ (fun _ _ _ => ?_) _) | (with_reducible refine Keeps.foldlP Prod.fst ?_ (fun _ _ _ => ?_) _) | (with_reducible refine Keeps.foldlP (fun p => EngRun.s (Prod.snd p)) ?_ (fun _ _ _ => ?_) _) | (with_reducible refine Keeps.foldlP (fun p => Prod.snd (Prod.snd p)) ?_ (fun _ _ _ => ?_) _) | (with_reducible refine Keeps.foldl ?_ (fun _ _ _ => ?_) _) | split | simp only [Keeps.mk_iff] | with_reducible assumption | intro _ | dsimp only

theorem State.tallyOutput_keeps {r₀ : State} {s : State} (hs : Keeps r₀ s) (d : Nat) (c : Nat) (x : TDesc) (half : Bool) (h : THalf) : Keeps r₀ (State.tallyOutput s d c x half h) := by
  unfold State.tallyOutput
  try dsimp only
  repeat' first | with_reducible exact hs | with_reducible apply State.modHalf_keeps | with_reducible apply State.tallyPut_keeps | split | simp only [Keeps.mk_iff] | with_reducible assumption | intro _ | dsimp only

theorem State.tallySettle_keeps {r₀ : State} (d : Nat) (half : Bool) (n : Nat) : ∀ {s : State}, Keeps r₀ s →
    Keeps r₀ (s.tallySettle d half n) := by
  induction n with
  | zero => exact fun h => h
  | succ n ih =>
    intro s h
    unfold State.tallySettle
    try dsimp only
    repeat' first | with_reducible exact h | with_reducible apply ih | with_reducible apply State.tallyAgree_keeps | with_reducible apply State.tallyReduce_keeps | with_reducible apply State.tallyOutput_keeps | with_reducible apply State.modHalf_keeps | split

theorem State.tallyCheck_keeps {r₀ : State} {s : State} (hs : Keeps r₀ s) (d : Nat) : Keeps r₀ (State.tallyCheck s d) := by
  unfold State.tallyCheck
  try dsimp only
  repeat' first | with_reducible exact hs | with_reducible apply State.modRun_keeps | split | simp only [Keeps.mk_iff] | with_reducible assumption | intro _ | dsimp only

theorem State.tallyTake_keeps {r₀ : State} {s : State} (hs : Keeps r₀ s) (d : Nat) (half : Bool) (step : Nat) (index : Nat) (data : Line) : Keeps r₀ (State.tallyTake s d half step index data) := by
  unfold State.tallyTake
  try dsimp only
  repeat' first | with_reducible exact hs | with_reducible apply State.modHalf_keeps | with_reducible apply State.modRun_keeps | with_reducible apply State.tallyCheck_keeps | with_reducible apply State.tallyFail_keeps | with_reducible apply State.tallyInbound_keeps | with_reducible apply State.tallySend_keeps | with_reducible apply State.tallySettle_keeps | split | simp only [Keeps.mk_iff] | with_reducible assumption | intro _ | dsimp only

theorem State.tallyInput_keeps {r₀ : State} {s : State} (hs : Keeps r₀ s) (d : Nat) (bond : Nat) (l : MLine) : Keeps r₀ (State.tallyInput s d bond l) := by
  unfold State.tallyInput
  try dsimp only
  repeat' first | with_reducible exact hs | with_reducible apply State.draw_keeps | with_reducible apply State.modEng_keeps | with_reducible apply State.tallyFail_keeps | with_reducible apply State.tallyInbound_keeps | with_reducible apply State.tallyTake_keeps | split | simp only [Keeps.mk_iff] | with_reducible assumption | intro _ | dsimp only

theorem State.tallyStart_keeps {r₀ : State} {s : State} (hs : Keeps r₀ s) (d : Nat) : Keeps r₀ (State.tallyStart s d) := by
  unfold State.tallyStart
  try dsimp only
  repeat' first | with_reducible exact hs | exact (EngRun.send_keeps (by assumption) _ _ _ _ ‹_›) | with_reducible apply State.modEng_keeps | with_reducible apply State.send_keeps | with_reducible apply State.tallyBytes_keeps | with_reducible apply State.tallyInput_keeps | with_reducible apply State.tallySend_keeps | with_reducible apply overAll_keeps | (with_reducible refine Keeps.overAll ?_ (fun _ _ _ => ?_) _) | split | simp only [Keeps.mk_iff] | with_reducible assumption | intro _ | dsimp only

theorem State.tallyLeave_keeps {r₀ : State} {s : State} (hs : Keeps r₀ s) (d : Nat) (x : TDesc) : Keeps r₀ (State.tallyLeave s d x) := by
  unfold State.tallyLeave
  try dsimp only
  repeat' first | with_reducible exact hs | with_reducible apply State.modEng_keeps | split | simp only [Keeps.mk_iff] | with_reducible assumption | intro _ | dsimp only

theorem State.tallyAbort_keeps {r₀ : State} {s : State} (hs : Keeps r₀ s) (d : Nat) (c : Nat) (tag : BitVec 32) : Keeps r₀ (State.tallyAbort s d c tag) := by
  unfold State.tallyAbort
  try dsimp only
  repeat' first | with_reducible exact hs | with_reducible apply State.modEng_keeps | with_reducible apply State.tallyFail_keeps | with_reducible apply State.tallyRecord_keeps | with_reducible apply State.tallyScramble_keeps | with_reducible apply State.tallySendAbort_keeps | with_reducible apply State.tallySignal_keeps | with_reducible apply overAll_keeps | (with_reducible refine Keeps.overAll ?_ (fun _ _ _ => ?_) _) | split | simp only [Keeps.mk_iff] | with_reducible assumption | intro _ | dsimp only

theorem State.tallyDrop_keeps {r₀ : State} {s : State} (hs : Keeps r₀ s) (c : Nat) : Keeps r₀ (State.tallyDrop s c) := by
  unfold State.tallyDrop
  try dsimp only
  repeat' first | with_reducible exact hs | with_reducible apply State.modEng_keeps | with_reducible apply State.tallyFail_keeps | with_reducible apply State.tallyLeave_keeps | with_reducible apply State.tallyScramble_keeps | with_reducible apply overAll_keeps | (with_reducible refine Keeps.overAll ?_ (fun _ _ _ => ?_) _) | split | simp only [Keeps.mk_iff] | with_reducible assumption | intro _ | dsimp only

end Sys2Proof.Machine
end

