-- ==== Sys2Proof/Laws/KeepsMeridian.lean ====
section
/-! SUPPORT. Keeps (Laws/Keeps.lean) of the operations of Machine/Meridian.lean. -/

namespace Sys2Proof.Machine

open Sys2Proof

set_option simprocs false
set_option linter.unusedTactic false
set_option linter.unreachableTactic false
set_option linter.unusedSimpArgs false
set_option linter.unusedVariables false


theorem State.snap_keeps {r₀ : State} {s : State} (hs : Keeps r₀ s) : Keeps r₀ (State.snap s) := by
  unfold State.snap
  try dsimp only
  repeat' first | with_reducible exact hs | split | simp only [Keeps.mk_iff] | with_reducible assumption | intro _ | dsimp only

theorem State.digClear_keeps {r₀ : State} {s : State} (hs : Keeps r₀ s) : Keeps r₀ (State.digClear s) := by
  unfold State.digClear
  try dsimp only
  repeat' first | with_reducible exact hs | with_reducible apply State.modBond_keeps | with_reducible apply overAll_keeps | (with_reducible refine Keeps.overAll ?_ (fun _ _ _ => ?_) _) | split | simp only [Keeps.mk_iff] | with_reducible assumption | intro _ | dsimp only

theorem State.finishRemote_keeps {r₀ : State} {s : State} (hs : Keeps r₀ s) (p : Nat) (pkt : Packet) (data : Line) : Keeps r₀ (State.finishRemote s p pkt data) := by
  unfold State.finishRemote
  try dsimp only
  repeat' first | with_reducible exact hs | with_reducible apply State.answer_keeps | split | simp only [Keeps.mk_iff] | with_reducible assumption | intro _ | dsimp only

theorem State.tallyLink_keeps {r₀ : State} {s : State} (hs : Keeps r₀ s) (b : Nat) : Keeps r₀ (State.tallyLink s b) := by
  unfold State.tallyLink
  try dsimp only
  repeat' first | with_reducible exact hs | with_reducible apply State.report_keeps | with_reducible apply State.tallyFail_keeps | with_reducible apply overAll_keeps | (with_reducible refine Keeps.overAll ?_ (fun _ _ _ => ?_) _) | split | simp only [Keeps.mk_iff] | with_reducible assumption | intro _ | dsimp only

theorem State.bondDown_keeps {r₀ : State} {s : State} (hs : Keeps r₀ s) (b : Nat) : Keeps r₀ (State.bondDown s b) := by
  unfold State.bondDown
  try dsimp only
  repeat' first | with_reducible exact hs | with_reducible apply State.finishRemote_keeps | with_reducible apply State.modBond_keeps | with_reducible apply State.modEng_keeps | with_reducible apply State.modPort_keeps | with_reducible apply State.report_keeps | with_reducible apply State.setInb_keeps | with_reducible apply State.tallyLink_keeps | with_reducible apply overAll_keeps | (with_reducible refine Keeps.overAll ?_ (fun _ _ _ => ?_) _) | split | simp only [Keeps.mk_iff] | with_reducible assumption | intro _ | dsimp only

theorem State.portTo_keeps {r₀ : State} {s : State} (hs : Keeps r₀ s) (p : Nat) (st : PState) (lanes : Nat) : Keeps r₀ (State.portTo s p st lanes) := by
  unfold State.portTo
  try dsimp only
  repeat' first | with_reducible exact hs | with_reducible apply State.eventOpen_keeps | with_reducible apply State.modPort_keeps | split | simp only [Keeps.mk_iff] | with_reducible assumption | intro _ | dsimp only

theorem State.leaveUp_keeps {r₀ : State} {s : State} (hs : Keeps r₀ s) (p : Nat) (st : PState) : Keeps r₀ (State.leaveUp s p st) := by
  unfold State.leaveUp
  try dsimp only
  repeat' first | with_reducible exact hs | with_reducible apply State.bondDown_keeps | with_reducible apply State.modBond_keeps | with_reducible apply State.portTo_keeps | with_reducible apply State.report_keeps | split | simp only [Keeps.mk_iff] | with_reducible assumption | intro _ | dsimp only

theorem State.joinUp_keeps {r₀ : State} {s : State} (hs : Keeps r₀ s) (p : Nat) (lanes : Nat) : Keeps r₀ (State.joinUp s p lanes) := by
  unfold State.joinUp
  try dsimp only
  repeat' first | with_reducible exact hs | with_reducible apply State.modBond_keeps | with_reducible apply State.portTo_keeps | split | simp only [Keeps.mk_iff] | with_reducible assumption | intro _ | dsimp only

theorem State.train__keeps {r₀ : State} {s : State} (hs : Keeps r₀ s) (p : Nat) : Keeps r₀ (State.train_ s p) := by
  unfold State.train_
  try dsimp only
  repeat' first | with_reducible exact hs | with_reducible apply State.portTo_keeps | split | simp only [Keeps.mk_iff] | with_reducible assumption | intro _ | dsimp only

theorem State.disablePort_keeps {r₀ : State} {s : State} (hs : Keeps r₀ s) (p : Nat) : Keeps r₀ (State.disablePort s p) := by
  unfold State.disablePort
  try dsimp only
  repeat' first | with_reducible exact hs | with_reducible apply State.leaveUp_keeps | with_reducible apply State.portTo_keeps | split | simp only [Keeps.mk_iff] | with_reducible assumption | intro _ | dsimp only

theorem State.portsCommitted_keeps {r₀ : State} {s : State} (hs : Keeps r₀ s) : Keeps r₀ (State.portsCommitted s) := by
  unfold State.portsCommitted
  try dsimp only
  repeat' first | with_reducible exact hs | with_reducible apply State.disablePort_keeps | with_reducible apply State.modPort_keeps | with_reducible apply State.train__keeps | with_reducible apply overAll_keeps | (with_reducible refine Keeps.overAll ?_ (fun _ _ _ => ?_) _) | split | simp only [Keeps.mk_iff] | with_reducible assumption | intro _ | dsimp only

theorem State.retrainCmd_keeps {r₀ : State} {s : State} (hs : Keeps r₀ s) (p : Nat) : Keeps r₀ (State.retrainCmd s p) := by
  unfold State.retrainCmd
  try dsimp only
  repeat' first | with_reducible exact hs | with_reducible apply State.leaveUp_keeps | with_reducible apply State.modPort_keeps | with_reducible apply State.train__keeps | split | simp only [Keeps.mk_iff] | with_reducible assumption | intro _ | dsimp only

theorem State.disableCmd_keeps {r₀ : State} {s : State} (hs : Keeps r₀ s) (p : Nat) : Keeps r₀ (State.disableCmd s p) := by
  unfold State.disableCmd
  try dsimp only
  repeat' first | with_reducible exact hs | with_reducible apply State.disablePort_keeps | with_reducible apply State.modPort_keeps | split | simp only [Keeps.mk_iff] | with_reducible assumption | intro _ | dsimp only

theorem State.merCmd_keeps {r₀ : State} {s : State} (hs : Keeps r₀ s) (p : Nat) (v : Word) : Keeps r₀ (State.merCmd s p v) := by
  unfold State.merCmd
  try dsimp only
  repeat' first | with_reducible exact hs | with_reducible apply State.disableCmd_keeps | with_reducible apply State.retrainCmd_keeps | split | simp only [Keeps.mk_iff] | with_reducible assumption | intro _ | dsimp only

theorem State.takeRequest_keeps {r₀ : State} {s : State} (hs : Keeps r₀ s) (p : Nat) : ∀ u, State.takeRequest s p = some u → Keeps r₀ u.2 := by
  intro u hu
  unfold State.takeRequest at hu
  try dsimp only at hu
  repeat' split at hu
  all_goals try cases hu
  repeat' first | with_reducible exact hs | with_reducible apply State.modPort_keeps | with_reducible apply State.setInb_keeps | split | simp only [Keeps.mk_iff] | with_reducible assumption | intro _ | dsimp only

theorem State.takeAnswer_keeps {r₀ : State} {s : State} (hs : Keeps r₀ s) (p : Nat) : ∀ u, State.takeAnswer s p = some u → Keeps r₀ u.2 := by
  intro u hu
  unfold State.takeAnswer at hu
  try dsimp only at hu
  repeat' split at hu
  all_goals try cases hu
  repeat' first | with_reducible exact hs | with_reducible apply State.modPort_keeps | split | simp only [Keeps.mk_iff] | with_reducible assumption | intro _ | dsimp only

theorem State.takeTally_keeps {r₀ : State} {s : State} (hs : Keeps r₀ s) (p : Nat) : ∀ u, State.takeTally s p = some u → Keeps r₀ u.2 := by
  intro u hu
  unfold State.takeTally at hu
  try dsimp only at hu
  repeat' split at hu
  all_goals try cases hu
  repeat' first | with_reducible exact hs | with_reducible apply State.modEng_keeps | split | simp only [Keeps.mk_iff] | with_reducible assumption | intro _ | dsimp only

theorem State.fillSlots_keeps {r₀ : State} (p n : Nat) : ∀ (turn : Bool) {s : State}, Keeps r₀ s →
    Keeps r₀ (s.fillSlots p turn n).2 := by
  induction n with
  | zero => exact fun _ _ h => h
  | succ n ih =>
    intro turn s h
    have ha : ∀ (b : Bool) u, (if b then s.takeTally p else s.takeRequest p) = some u → Keeps r₀ u.2 := by
      intro b u hu
      split at hu
      · exact State.takeTally_keeps h _ _ hu
      · exact State.takeRequest_keeps h _ _ hu
    unfold State.fillSlots
    dsimp only
    split
    · exact h
    · refine ih _ ?_
      rename_i hr
      split at hr
      · rename_i hk
        cases hr
        exact State.takeAnswer_keeps h _ _ hk
      · split at hr
        · rename_i hk
          cases hr
          exact ha _ _ hk
        · cases turn
          · cases hk : s.takeTally p with
            | none => simp only [hk] at hr; cases hr
            | some v =>
              simp [hk] at hr
              obtain ⟨_, rfl, _⟩ := hr
              exact State.takeTally_keeps h _ _ hk
          · cases hk : s.takeRequest p with
            | none => simp only [hk] at hr; cases hr
            | some v =>
              simp [hk] at hr
              obtain ⟨_, rfl, _⟩ := hr
              exact State.takeRequest_keeps h _ _ hk

theorem State.frameOut_keeps {r₀ : State} {s : State} (hs : Keeps r₀ s) (p : Nat) : Keeps r₀ (State.frameOut s p).2 := by
  unfold State.frameOut
  try dsimp only
  repeat' first | with_reducible exact hs | with_reducible apply State.fillSlots_keeps | with_reducible apply State.modBond_keeps | split | simp only [Keeps.mk_iff] | with_reducible assumption | intro _ | dsimp only

theorem State.putControl_keeps {r₀ : State} {s : State} (hs : Keeps r₀ s) (p : Nat) (m : ControlMsg) : Keeps r₀ (State.putControl s p m) := by
  unfold State.putControl
  try dsimp only
  repeat' first | with_reducible exact hs | with_reducible apply State.modPort_keeps | split | simp only [Keeps.mk_iff] | with_reducible assumption | intro _ | dsimp only

theorem State.sendFrame_keeps {r₀ : State} {s : State} (hs : Keeps r₀ s) (p : Nat) : Keeps r₀ (State.sendFrame s p) := by
  unfold State.sendFrame
  try dsimp only
  repeat' first | with_reducible exact hs | with_reducible apply State.frameOut_keeps | with_reducible apply State.identify_keeps | with_reducible apply State.modPort_keeps | with_reducible apply State.putControl_keeps | split | simp only [Keeps.mk_iff] | with_reducible assumption | intro _ | dsimp only

theorem State.transmit_keeps {r₀ : State} {s : State} (hs : Keeps r₀ s) (p : Nat) : Keeps r₀ (State.transmit s p) := by
  unfold State.transmit
  try dsimp only
  repeat' first | with_reducible exact hs | with_reducible apply State.modBond_keeps | with_reducible apply State.modPort_keeps | with_reducible apply State.sendFrame_keeps | split | simp only [Keeps.mk_iff] | with_reducible assumption | intro _ | dsimp only

theorem State.startReplay_keeps {r₀ : State} {s : State} (hs : Keeps r₀ s) (p : Nat) : Keeps r₀ (State.startReplay s p) := by
  unfold State.startReplay
  try dsimp only
  repeat' first | with_reducible exact hs | with_reducible apply State.modBond_keeps | with_reducible apply State.modPort_keeps | split | simp only [Keeps.mk_iff] | with_reducible assumption | intro _ | dsimp only

theorem State.takeHeader_keeps {r₀ : State} {s : State} (hs : Keeps r₀ s) (p : Nat) (f : Frame) : Keeps r₀ (State.takeHeader s p f) := by
  unfold State.takeHeader
  try dsimp only
  repeat' first | with_reducible exact hs | with_reducible apply State.modBond_keeps | with_reducible apply State.startReplay_keeps | split | simp only [Keeps.mk_iff] | with_reducible assumption | intro _ | dsimp only

theorem State.receive_keeps {r₀ : State} {s : State} (hs : Keeps r₀ s) (p : Nat) (f : Frame) : Keeps r₀ (State.receive s p f) := by
  unfold State.receive
  try dsimp only
  repeat' first | with_reducible exact hs | with_reducible apply State.modBond_keeps | with_reducible apply State.modPort_keeps | with_reducible apply State.takeHeader_keeps | split | simp only [Keeps.mk_iff] | with_reducible assumption | intro _ | dsimp only

theorem State.serve_keeps {r₀ : State} {s : State} (hs : Keeps r₀ s) (p : Nat) (l : MLine) : ∀ u, State.serve s p l = some u → Keeps r₀ u := by
  intro u hu
  unfold State.serve at hu
  try dsimp only at hu
  repeat' split at hu
  all_goals try cases hu
  repeat' first | with_reducible exact hs | with_reducible apply State.markInbound_keeps | with_reducible apply State.modPort_keeps | with_reducible apply State.refuseOut_keeps | with_reducible apply State.setOutb_keeps | split | simp only [Keeps.mk_iff] | with_reducible assumption | intro _ | dsimp only

theorem State.takeBack_keeps {r₀ : State} {s : State} (hs : Keeps r₀ s) (p : Nat) (l : MLine) : Keeps r₀ (State.takeBack s p l) := by
  unfold State.takeBack
  try dsimp only
  repeat' first | with_reducible exact hs | with_reducible apply State.finishRemote_keeps | with_reducible apply State.modPort_keeps | split | simp only [Keeps.mk_iff] | with_reducible assumption | intro _ | dsimp only

theorem State.handoff_keeps {r₀ : State} {s : State} (hs : Keeps r₀ s) (p : Nat) : Keeps r₀ (State.handoff s p) := by
  unfold State.handoff
  try dsimp only
  repeat' first | with_reducible exact hs | with_reducible apply State.modBond_keeps | with_reducible apply State.modPort_keeps | exact (State.serve_keeps (by assumption) _ _ _ ‹_›) | with_reducible apply State.takeBack_keeps | with_reducible apply State.tallyInput_keeps | (with_reducible refine Keeps.getD (fun u hu => ?_) ?_) | refine State.serve_keeps ?_ _ _ _ (by assumption) | split | simp only [Keeps.mk_iff] | with_reducible assumption | intro _ | dsimp only

theorem State.digCtrl_keeps {r₀ : State} {s : State} (hs : Keeps r₀ s) (v : Word) : Keeps r₀ (State.digCtrl s v) := by
  unfold State.digCtrl
  try dsimp only
  repeat' first | with_reducible exact hs | with_reducible apply State.digClear_keeps | with_reducible apply State.snap_keeps | split | simp only [Keeps.mk_iff] | with_reducible assumption | intro _ | dsimp only

end Sys2Proof.Machine
end

