-- ==== Sys2Proof/Laws/KeepsClock.lean ====
section
/-! SUPPORT. Keeps (Laws/Keeps.lean) of the operations of Machine/Clock.lean. -/

namespace Sys2Proof.Machine

open Sys2Proof

set_option simprocs false
set_option linter.unusedTactic false
set_option linter.unreachableTactic false
set_option linter.unusedSimpArgs false
set_option linter.unusedVariables false


theorem State.modClk_keeps {r₀ : State} {s : State} (hs : Keeps r₀ s) (f : Clock → Clock) : Keeps r₀ (State.modClk s f) := by
  unfold State.modClk
  try dsimp only
  repeat' first | with_reducible exact hs | split | simp only [Keeps.mk_iff] | with_reducible assumption | intro _ | dsimp only

theorem State.loseLock_keeps {r₀ : State} {s : State} (hs : Keeps r₀ s) : Keeps r₀ (State.loseLock s) := by
  unfold State.loseLock
  try dsimp only
  repeat' first | with_reducible exact hs | with_reducible apply State.modClk_keeps | split | simp only [Keeps.mk_iff] | with_reducible assumption | intro _ | dsimp only

theorem State.physLost_keeps {r₀ : State} {s : State} (hs : Keeps r₀ s) : Keeps r₀ (State.physLost s) := by
  unfold State.physLost
  try dsimp only
  repeat' first | with_reducible exact hs | with_reducible apply State.modPort_keeps | with_reducible apply State.modStack_keeps | with_reducible apply overAll_keeps | (with_reducible refine Keeps.overAll ?_ (fun _ _ _ => ?_) _) | split | simp only [Keeps.mk_iff] | with_reducible assumption | intro _ | dsimp only

theorem State.sidLoad_keeps {r₀ : State} {s : State} (hs : Keeps r₀ s) (acc : Accessor) (v : Word) : Keeps r₀ (State.sidLoad s acc v) := by
  unfold State.sidLoad
  try dsimp only
  repeat' first | with_reducible exact hs | with_reducible apply State.modClk_keeps | with_reducible apply State.refuseAccessor_keeps | split | simp only [Keeps.mk_iff] | with_reducible assumption | intro _ | dsimp only

theorem State.sidStep_keeps {r₀ : State} {s : State} (hs : Keeps r₀ s) (v : Word) : Keeps r₀ (State.sidStep s v) := by
  unfold State.sidStep
  try dsimp only
  repeat' first | with_reducible exact hs | with_reducible apply State.free_keeps | with_reducible apply State.modClk_keeps | split | simp only [Keeps.mk_iff] | with_reducible assumption | intro _ | dsimp only

theorem State.tick_keeps {r₀ : State} {s : State} (hs : Keeps r₀ s) : Keeps r₀ (State.tick s) := by
  unfold State.tick
  try dsimp only
  repeat' first | with_reducible exact hs | with_reducible apply State.modClk_keeps | with_reducible apply State.noteDemand_keeps | with_reducible apply overAll_keeps | (with_reducible refine Keeps.overAll ?_ (fun _ _ _ => ?_) _) | split | simp only [Keeps.mk_iff] | with_reducible assumption | intro _ | dsimp only

theorem State.chooseTrim_keeps {r₀ : State} {s : State} (hs : Keeps r₀ s) (hi : Int) : Keeps r₀ (State.chooseTrim s hi) := by
  unfold State.chooseTrim
  try dsimp only
  repeat' first | with_reducible exact hs | with_reducible apply State.draw_keeps | with_reducible apply State.modClk_keeps | split | simp only [Keeps.mk_iff] | with_reducible assumption | intro _ | dsimp only

theorem State.acquire_keeps {r₀ : State} {s : State} (hs : Keeps r₀ s) (offset : Int) : Keeps r₀ (State.acquire s offset) := by
  unfold State.acquire
  try dsimp only
  repeat' first | with_reducible exact hs | with_reducible apply State.chooseTrim_keeps | with_reducible apply State.modClk_keeps | split | simp only [Keeps.mk_iff] | with_reducible assumption | intro _ | dsimp only

theorem State.exchange_keeps {r₀ : State} {s : State} (hs : Keeps r₀ s) (offset : Int) (upHops : Nat) : Keeps r₀ (State.exchange s offset upHops) := by
  unfold State.exchange
  try dsimp only
  repeat' first | with_reducible exact hs | with_reducible apply State.acquire_keeps | with_reducible apply State.chooseTrim_keeps | with_reducible apply State.modClk_keeps | split | simp only [Keeps.mk_iff] | with_reducible assumption | intro _ | dsimp only

theorem State.timeExchange_keeps {r₀ : State} {s : State} (hs : Keeps r₀ s) : Keeps r₀ (State.timeExchange s) := by
  unfold State.timeExchange
  try dsimp only
  repeat' first | with_reducible exact hs | with_reducible apply State.exchange_keeps | with_reducible apply State.modClk_keeps | with_reducible apply State.modPort_keeps | split | simp only [Keeps.mk_iff] | with_reducible assumption | intro _ | dsimp only

theorem State.servoCommit_keeps {r₀ : State} {s : State} (hs : Keeps r₀ s) : Keeps r₀ (State.servoCommit s) := by
  unfold State.servoCommit
  try dsimp only
  repeat' first | with_reducible exact hs | with_reducible apply State.free_keeps | with_reducible apply State.modClk_keeps | split | simp only [Keeps.mk_iff] | with_reducible assumption | intro _ | dsimp only

theorem State.controlFrame_keeps {r₀ : State} {s : State} (hs : Keeps r₀ s) (p : Nat) (m : ControlMsg) : Keeps r₀ (State.controlFrame s p m) := by
  unfold State.controlFrame
  try dsimp only
  repeat' first | with_reducible exact hs | with_reducible apply State.identify_keeps | with_reducible apply State.modPort_keeps | split | simp only [Keeps.mk_iff] | with_reducible assumption | intro _ | dsimp only

theorem State.capWrite_keeps {r₀ : State} {s : State} (hs : Keeps r₀ s) (w : Nat) : Keeps r₀ (State.capWrite s w) := by
  unfold State.capWrite
  try dsimp only
  repeat' first | with_reducible exact hs | split | simp only [Keeps.mk_iff] | with_reducible assumption | intro _ | dsimp only

end Sys2Proof.Machine
end

