-- ==== Sys2Proof/Laws/KeepsHost.lean ====
section
/-! SUPPORT. Keeps (Laws/Keeps.lean) of the operations of Machine/Host.lean. -/

namespace Sys2Proof.Machine

open Sys2Proof

set_option simprocs false
set_option linter.unusedTactic false
set_option linter.unreachableTactic false
set_option linter.unusedSimpArgs false
set_option linter.unusedVariables false


theorem State.modHost_keeps {r₀ : State} {s : State} (hs : Keeps r₀ s) (f : HostBridge → HostBridge) : Keeps r₀ (State.modHost s f) := by
  unfold State.modHost
  try dsimp only
  repeat' first | with_reducible exact hs | split | simp only [Keeps.mk_iff] | with_reducible assumption | intro _ | dsimp only

theorem State.aer_keeps {r₀ : State} {s : State} (hs : Keeps r₀ s) (f : Nat) (e : AerErr) : Keeps r₀ (State.aer s f e) := by
  unfold State.aer
  try dsimp only
  repeat' first | with_reducible exact hs | with_reducible apply State.modHost_keeps | split | simp only [Keeps.mk_iff] | with_reducible assumption | intro _ | dsimp only

theorem State.hostFault_keeps {r₀ : State} {s : State} (hs : Keeps r₀ s) (cs : List Nat) : Keeps r₀ (State.hostFault s cs) := by
  unfold State.hostFault
  try dsimp only
  repeat' first | with_reducible exact hs | with_reducible apply State.report_keeps | split | simp only [Keeps.mk_iff] | with_reducible assumption | intro _ | dsimp only

theorem State.inboundBytes_keeps {r₀ : State} {s : State} (hs : Keeps r₀ s) (f : Nat) (off : Nat) (len : Nat) : Keeps r₀ (State.inboundBytes s f off len).s := by
  unfold State.inboundBytes
  try dsimp only
  repeat' first | with_reducible exact hs | with_reducible apply EngRun.bytes_keeps | with_reducible apply State.homeGet_keeps | (with_reducible refine Keeps.foldlP InboundGot.s ?_ (fun _ _ _ => ?_) _) | (with_reducible refine Keeps.foldlP Hop.s ?_ (fun _ _ _ => ?_) _) | (with_reducible refine Keeps.foldlP EngRun.s ?_ (fun _ _ _ => ?_) _) | (with_reducible refine Keeps.foldlP Prod.snd ?_ (fun _ _ _ => ?_) _) | (with_reducible refine Keeps.foldlP Prod.fst ?_ (fun _ _ _ => ?_) _) | (with_reducible refine Keeps.foldlP (fun p => EngRun.s (Prod.snd p)) ?_ (fun _ _ _ => ?_) _) | (with_reducible refine Keeps.foldlP (fun p => Prod.snd (Prod.snd p)) ?_ (fun _ _ _ => ?_) _) | (with_reducible refine Keeps.foldl ?_ (fun _ _ _ => ?_) _) | split | simp only [Keeps.mk_iff] | with_reducible assumption | intro _ | dsimp only

theorem State.refuseHost_keeps {r₀ : State} {s : State} (hs : Keeps r₀ s) (f : Nat) (kind : Nat) (a : Nat) : Keeps r₀ (State.refuseHost s f kind a) := by
  unfold State.refuseHost
  try dsimp only
  repeat' first | with_reducible exact hs | with_reducible apply State.refuseOut_keeps | split | simp only [Keeps.mk_iff] | with_reducible assumption | intro _ | dsimp only

theorem State.hostReply_keeps {r₀ : State} {s : State} (hs : Keeps r₀ s) (f : Nat) (bs : List Byte) (poisoned : Bool := false) : Keeps r₀ (State.hostReply s f bs poisoned) := by
  unfold State.hostReply
  try dsimp only
  repeat' first | with_reducible exact hs | with_reducible apply State.tlp_keeps | split | simp only [Keeps.mk_iff] | with_reducible assumption | intro _ | dsimp only

theorem State.hostRead_keeps {r₀ : State} {s : State} (hs : Keeps r₀ s) (f : Nat) (off : Nat) (len : Nat) : Keeps r₀ (State.hostRead s f off len) := by
  unfold State.hostRead
  try dsimp only
  repeat' first | with_reducible exact hs | with_reducible apply EngRun.bytes_keeps | with_reducible apply State.hostReply_keeps | with_reducible apply State.inboundBytes_keeps | with_reducible apply State.markInbound_keeps | with_reducible apply State.refuseHost_keeps | split | simp only [Keeps.mk_iff] | with_reducible assumption | intro _ | dsimp only

theorem State.hostWrite_keeps {r₀ : State} {s : State} (hs : Keeps r₀ s) (f : Nat) (off : Nat) (data : List Byte) : Keeps r₀ (State.hostWrite s f off data) := by
  unfold State.hostWrite
  try dsimp only
  repeat' first | with_reducible exact hs | with_reducible apply State.homePut_keeps | with_reducible apply State.markInbound_keeps | with_reducible apply State.refuseHost_keeps | (with_reducible refine Keeps.foldlP InboundGot.s ?_ (fun _ _ _ => ?_) _) | (with_reducible refine Keeps.foldlP Hop.s ?_ (fun _ _ _ => ?_) _) | (with_reducible refine Keeps.foldlP EngRun.s ?_ (fun _ _ _ => ?_) _) | (with_reducible refine Keeps.foldlP Prod.snd ?_ (fun _ _ _ => ?_) _) | (with_reducible refine Keeps.foldlP Prod.fst ?_ (fun _ _ _ => ?_) _) | (with_reducible refine Keeps.foldlP (fun p => EngRun.s (Prod.snd p)) ?_ (fun _ _ _ => ?_) _) | (with_reducible refine Keeps.foldlP (fun p => Prod.snd (Prod.snd p)) ?_ (fun _ _ _ => ?_) _) | (with_reducible refine Keeps.foldl ?_ (fun _ _ _ => ?_) _) | split | simp only [Keeps.mk_iff] | with_reducible assumption | intro _ | dsimp only

theorem State.doorbell_keeps {r₀ : State} {s : State} (hs : Keeps r₀ s) (f : Nat) (i : Nat) (size : Nat) (v : Word) : Keeps r₀ (State.doorbell s f i size v) := by
  unfold State.doorbell
  try dsimp only
  repeat' first | with_reducible exact hs | with_reducible apply State.hwMark_keeps | with_reducible apply State.modFunc_keeps | with_reducible apply State.refuseHost_keeps | split | simp only [Keeps.mk_iff] | with_reducible assumption | intro _ | dsimp only

theorem State.dbPendWrite_keeps {r₀ : State} {s : State} (hs : Keeps r₀ s) (f : Nat) (v : Word) : Keeps r₀ (State.dbPendWrite s f v) := by
  unfold State.dbPendWrite
  try dsimp only
  repeat' first | with_reducible exact hs | with_reducible apply State.doorbell_keeps | with_reducible apply State.modFunc_keeps | split | simp only [Keeps.mk_iff] | with_reducible assumption | intro _ | dsimp only

theorem State.msix_keeps {r₀ : State} {s : State} (hs : Keeps r₀ s) (f : Nat) (v : Nat) : Keeps r₀ (State.msix s f v) := by
  unfold State.msix
  try dsimp only
  repeat' first | with_reducible exact hs | with_reducible apply State.modFunc_keeps | with_reducible apply State.tlp_keeps | split | simp only [Keeps.mk_iff] | with_reducible assumption | intro _ | dsimp only

theorem State.msixFlush_keeps {r₀ : State} {s : State} (hs : Keeps r₀ s) (f : Nat) : Keeps r₀ (State.msixFlush s f) := by
  unfold State.msixFlush
  try dsimp only
  repeat' first | with_reducible exact hs | with_reducible apply State.modFunc_keeps | with_reducible apply State.msix_keeps | with_reducible apply overAll_keeps | (with_reducible refine Keeps.overAll ?_ (fun _ _ _ => ?_) _) | split | simp only [Keeps.mk_iff] | with_reducible assumption | intro _ | dsimp only

theorem State.msixSend_keeps {r₀ : State} {s : State} (hs : Keeps r₀ s) (acc : Accessor) (f : Nat) (v : Word) : Keeps r₀ (State.msixSend s acc f v) := by
  unfold State.msixSend
  try dsimp only
  repeat' first | with_reducible exact hs | with_reducible apply State.msix_keeps | with_reducible apply State.refuseAccessor_keeps | split | simp only [Keeps.mk_iff] | with_reducible assumption | intro _ | dsimp only

theorem State.hostPacket_keeps {r₀ : State} {s : State} (hs : Keeps r₀ s) (i : Nat) (p : Packet) : Keeps r₀ (State.hostPacket s i p) := by
  unfold State.hostPacket
  try dsimp only
  repeat' first | with_reducible exact hs | with_reducible apply State.answer_keeps | with_reducible apply State.modHost_keeps | with_reducible apply State.setInb_keeps | with_reducible apply State.tlp_keeps | split | simp only [Keeps.mk_iff] | with_reducible assumption | intro _ | dsimp only

theorem State.hostPerform_keeps {r₀ : State} {s : State} (hs : Keeps r₀ s) (i : Nat) (typ : PType) : Keeps r₀ (State.hostPerform s i typ) := by
  unfold State.hostPerform
  try dsimp only
  repeat' first | with_reducible exact hs | with_reducible apply State.hostPacket_keeps | split | simp only [Keeps.mk_iff] | with_reducible assumption | intro _ | dsimp only

theorem State.pf0Extend_keeps {r₀ : State} {s : State} (hs : Keeps r₀ s) : Keeps r₀ (State.pf0Extend s) := by
  unfold State.pf0Extend
  try dsimp only
  repeat' first | with_reducible exact hs | with_reducible apply State.modHost_keeps | split | simp only [Keeps.mk_iff] | with_reducible assumption | intro _ | dsimp only

theorem State.endRead_keeps {r₀ : State} {s : State} (hs : Keeps r₀ s) (r : HostRead) (data : Line) : Keeps r₀ (State.endRead s r data) := by
  unfold State.endRead
  try dsimp only
  repeat' first | with_reducible exact hs | with_reducible apply State.answer_keeps | with_reducible apply State.modHost_keeps | with_reducible apply State.pf0Extend_keeps | split | simp only [Keeps.mk_iff] | with_reducible assumption | intro _ | dsimp only

theorem State.takeRead_keeps {r₀ s : State} (hs : Keeps r₀ s) (tag : Nat) {r : HostRead} {t : State}
    (h : s.takeRead tag = some (r, t)) : Keeps r₀ t := by
  unfold State.takeRead at h
  cases hf : s.host.reads.find? fun r => r.tag == tag with
  | none => rw [hf] at h; cases h
  | some v => rw [hf] at h; cases h; exact State.modHost_keeps hs _

theorem State.failRead_keeps {r₀ s : State} (hs : Keeps r₀ s) (tag : Nat) (e : AerErr) :
    Keeps r₀ (State.failRead s tag e) := by
  unfold State.failRead
  split
  · exact hs
  · exact State.hostFault_keeps (State.aer_keeps (State.endRead_keeps (State.takeRead_keeps hs tag ‹_›) _ _) _ _) _

theorem State.endReads_keeps {r₀ : State} {s : State} (hs : Keeps r₀ s) (which : HostRead → Bool) : Keeps r₀ (State.endReads s which) := by
  unfold State.endReads
  try dsimp only
  repeat' first | with_reducible exact hs | with_reducible apply State.endRead_keeps | with_reducible apply State.modHost_keeps | with_reducible apply overAll_keeps | (with_reducible refine Keeps.overAll ?_ (fun _ _ _ => ?_) _) | split | simp only [Keeps.mk_iff] | with_reducible assumption | intro _ | dsimp only

theorem State.dropOutbound_keeps {r₀ : State} {s : State} (hs : Keeps r₀ s) (which : Nat → Nat → Bool) : Keeps r₀ (State.dropOutbound s which) := by
  unfold State.dropOutbound
  try dsimp only
  repeat' first | with_reducible exact hs | with_reducible apply State.answer_keeps | with_reducible apply State.endReads_keeps | with_reducible apply State.hostFault_keeps | with_reducible apply State.setInb_keeps | with_reducible apply overAll_keeps | (with_reducible refine Keeps.overAll ?_ (fun _ _ _ => ?_) _) | split | simp only [Keeps.mk_iff] | with_reducible assumption | intro _ | dsimp only

theorem State.linkDrop_keeps {r₀ : State} {s : State} (hs : Keeps r₀ s) : Keeps r₀ (State.linkDrop s) := by
  unfold State.linkDrop
  try dsimp only
  repeat' first | with_reducible exact hs | with_reducible apply State.dropOutbound_keeps | with_reducible apply State.modHost_keeps | split | simp only [Keeps.mk_iff] | with_reducible assumption | intro _ | dsimp only

theorem State.pf0Issue_keeps {r₀ : State} {s : State} (hs : Keeps r₀ s) : Keeps r₀ (State.pf0Issue s) := by
  unfold State.pf0Issue
  try dsimp only
  repeat' first | with_reducible exact hs | with_reducible apply State.modHost_keeps | with_reducible apply State.pf0Extend_keeps | with_reducible apply State.refuseHost_keeps | with_reducible apply State.tlp_keeps | split | simp only [Keeps.mk_iff] | with_reducible assumption | intro _ | dsimp only

theorem State.pf0Begin_keeps {r₀ : State} {s : State} (hs : Keeps r₀ s) (a : Nat) (n : Nat) : Keeps r₀ (State.pf0Begin s a n) := by
  unfold State.pf0Begin
  try dsimp only
  repeat' first | with_reducible exact hs | with_reducible apply State.modHost_keeps | with_reducible apply State.pf0Issue_keeps | with_reducible apply overAll_keeps | (with_reducible refine Keeps.overAll ?_ (fun _ _ _ => ?_) _) | split | simp only [Keeps.mk_iff] | with_reducible assumption | intro _ | dsimp only

theorem State.pf0Drop_keeps {r₀ : State} {s : State} (hs : Keeps r₀ s) : Keeps r₀ (State.pf0Drop s) := by
  unfold State.pf0Drop
  try dsimp only
  repeat' first | with_reducible exact hs | with_reducible apply State.modHost_keeps | split | simp only [Keeps.mk_iff] | with_reducible assumption | intro _ | dsimp only

theorem State.vfReset_keeps {r₀ : State} {s : State} (hs : Keeps r₀ s) (f : Nat) : Keeps r₀ (State.vfReset s f) := by
  unfold State.vfReset
  try dsimp only
  repeat' first | with_reducible exact hs | with_reducible apply State.modFunc_keeps | with_reducible apply overAll_keeps | (with_reducible refine Keeps.overAll ?_ (fun _ _ _ => ?_) _) | split | simp only [Keeps.mk_iff] | with_reducible assumption | intro _ | dsimp only

theorem State.vfFlr_keeps {r₀ : State} {s : State} (hs : Keeps r₀ s) (f : Nat) : Keeps r₀ (State.vfFlr s f) := by
  unfold State.vfFlr
  try dsimp only
  repeat' first | with_reducible exact hs | with_reducible apply State.modCon_keeps | with_reducible apply State.modFunc_keeps | split | simp only [Keeps.mk_iff] | with_reducible assumption | intro _ | dsimp only

theorem State.vfsGone_keeps {r₀ : State} {s : State} (hs : Keeps r₀ s) : Keeps r₀ (State.vfsGone s) := by
  unfold State.vfsGone
  try dsimp only
  repeat' first | with_reducible exact hs | with_reducible apply State.modHost_keeps | with_reducible apply State.vfFlr_keeps | with_reducible apply overAll_keeps | (with_reducible refine Keeps.overAll ?_ (fun _ _ _ => ?_) _) | split | simp only [Keeps.mk_iff] | with_reducible assumption | intro _ | dsimp only

theorem State.mailboxReset_keeps {r₀ : State} {s : State} (hs : Keeps r₀ s) : Keeps r₀ (State.mailboxReset s) := by
  unfold State.mailboxReset
  try dsimp only
  repeat' first | with_reducible exact hs | split | simp only [Keeps.mk_iff] | with_reducible assumption | intro _ | dsimp only

theorem State.pf0Reset_keeps {r₀ : State} {s : State} (hs : Keeps r₀ s) : Keeps r₀ (State.pf0Reset s) := by
  unfold State.pf0Reset
  try dsimp only
  repeat' first | with_reducible exact hs | with_reducible apply State.mailboxReset_keeps | with_reducible apply State.modFunc_keeps | with_reducible apply State.modHost_keeps | with_reducible apply State.vfsGone_keeps | split | simp only [Keeps.mk_iff] | with_reducible assumption | intro _ | dsimp only

theorem State.ideWrite_keeps {r₀ : State} {s : State} (hs : Keeps r₀ s) (k : Fin 8) (put : IdeRange → IdeRange) : Keeps r₀ (State.ideWrite s k put) := by
  unfold State.ideWrite
  try dsimp only
  repeat' first | with_reducible exact hs | with_reducible apply EngRun.put_keeps | with_reducible apply State.modHost_keeps | split | simp only [Keeps.mk_iff] | with_reducible assumption | intro _ | dsimp only

theorem State.configure_keeps {r₀ : State} {s : State} (hs : Keeps r₀ s) (f : Nat) (fld : ConfigField) (v : Word) : Keeps r₀ (State.configure s f fld v) := by
  unfold State.configure
  try dsimp only
  repeat' first | with_reducible exact hs | with_reducible apply State.ideWrite_keeps | with_reducible apply State.modFunc_keeps | with_reducible apply State.modHost_keeps | with_reducible apply State.msixFlush_keeps | with_reducible apply State.tlp_keeps | with_reducible apply State.vfsGone_keeps | split | simp only [Keeps.mk_iff] | with_reducible assumption | intro _ | dsimp only

theorem State.doeAnswer_keeps {r₀ : State} {s : State} (hs : Keeps r₀ s) (bs : List Byte) : Keeps r₀ (State.doeAnswer s bs) := by
  unfold State.doeAnswer
  try dsimp only
  repeat' first | with_reducible exact hs | with_reducible apply State.modHost_keeps | split | simp only [Keeps.mk_iff] | with_reducible assumption | intro _ | dsimp only

theorem State.atHome_keeps {r₀ : State} {s : State} (hs : Keeps r₀ s) (node : Nat) (i : Nat) (ue : Nat) (typ : PType) : Keeps r₀ (State.atHome s node i ue typ) := by
  unfold State.atHome
  try dsimp only
  repeat' first | with_reducible exact hs | with_reducible apply State.hostPerform_keeps | with_reducible apply State.p7Perform_keeps | with_reducible apply State.stkAccept_keeps | split | simp only [Keeps.mk_iff] | with_reducible assumption | intro _ | dsimp only

end Sys2Proof.Machine
end

