-- ==== Sys2Proof/Laws/KeepsChart.lean ====
section
/-! SUPPORT. Keeps (Laws/Keeps.lean) of the operations of Machine/Chart.lean. -/

namespace Sys2Proof.Machine

open Sys2Proof

set_option simprocs false
set_option linter.unusedTactic false
set_option linter.unreachableTactic false
set_option linter.unusedSimpArgs false
set_option linter.unusedVariables false


theorem State.modChart_keeps {r₀ : State} {s : State} (hs : Keeps r₀ s) (f : ChartEngine → ChartEngine) : Keeps r₀ (State.modChart s f) := by
  unfold State.modChart
  try dsimp only
  repeat' first | with_reducible exact hs | split | simp only [Keeps.mk_iff] | with_reducible assumption | intro _ | dsimp only

theorem State.clearLs_keeps {r₀ : State} {s : State} (hs : Keeps r₀ s) (n : Nat) : Keeps r₀ (State.clearLs s n) := by
  unfold State.clearLs
  try dsimp only
  repeat' first | with_reducible exact hs | split | simp only [Keeps.mk_iff] | with_reducible assumption | intro _ | dsimp only | (refine Keeps.mems' ?_ ?_ ?_ ?_ ?_ ?_ ?_ ?_ <;> first | assumption | exact id | exact fun h => Map.wf_set h _ _ | exact fun h => writeBytes_wf _ _ _ h | exact Map.wf_filter _ | exact fun _ => Map.wf_nil _)

theorem State.clearCore_keeps {r₀ : State} {s : State} (hs : Keeps r₀ s) (n : Nat) : Keeps r₀ (State.clearCore s n) := by
  unfold State.clearCore
  try dsimp only
  repeat' first | with_reducible exact hs | with_reducible apply State.clearLs_keeps | with_reducible apply State.modCore_keeps | with_reducible apply State.modThr_keeps | with_reducible apply overAll_keeps | (with_reducible refine Keeps.overAll ?_ (fun _ _ _ => ?_) _) | split | simp only [Keeps.mk_iff] | with_reducible assumption | intro _ | dsimp only

theorem State.powerDown_keeps {r₀ : State} {s : State} (hs : Keeps r₀ s) (n : Nat) : Keeps r₀ (State.powerDown s n) := by
  unfold State.powerDown
  try dsimp only
  repeat' first | with_reducible exact hs | with_reducible apply State.clearLs_keeps | with_reducible apply State.modCore_keeps | with_reducible apply State.setThr_keeps | with_reducible apply overAll_keeps | (with_reducible refine Keeps.overAll ?_ (fun _ _ _ => ?_) _) | split | simp only [Keeps.mk_iff] | with_reducible assumption | intro _ | dsimp only

theorem State.clearRcount_keeps {r₀ : State} {s : State} (hs : Keeps r₀ s) (c : Nat) : Keeps r₀ (State.clearRcount s c) := by
  unfold State.clearRcount
  try dsimp only
  repeat' first | with_reducible exact hs | split | simp only [Keeps.mk_iff] | with_reducible assumption | intro _ | dsimp only

theorem State.dropCons_keeps {r₀ : State} {s : State} (hs : Keeps r₀ s) (c : Nat) : Keeps r₀ (State.dropCons s c) := by
  unfold State.dropCons
  try dsimp only
  repeat' first | with_reducible exact hs | with_reducible apply State.clearArea_keeps | with_reducible apply State.clearBarriers_keeps | with_reducible apply State.clearRcount_keeps | split | simp only [Keeps.mk_iff] | with_reducible assumption | intro _ | dsimp only

theorem State.startThread_keeps {r₀ : State} {s : State} (hs : Keeps r₀ s) (t : Tid) : Keeps r₀ (State.startThread s t) := by
  unfold State.startThread
  try dsimp only
  repeat' first | with_reducible exact hs | with_reducible apply State.modThr_keeps | (with_reducible refine Keeps.getD (fun u hu => ?_) ?_) | split | simp only [Keeps.mk_iff] | with_reducible assumption | intro _ | dsimp only

theorem State.mbReply_keeps {r₀ : State} {s : State} (hs : Keeps r₀ s) (status : Nat) (payload : List Byte) : Keeps r₀ (State.mbReply s status payload) := by
  unfold State.mbReply
  try dsimp only
  repeat' first | with_reducible exact hs | with_reducible apply State.hwMark_keeps | with_reducible apply State.msix_keeps | split | simp only [Keeps.mk_iff] | with_reducible assumption | intro _ | dsimp only

theorem State.mbChart_keeps {r₀ : State} {s : State} (hs : Keeps r₀ s) : Keeps r₀ (State.mbChart s) := by
  unfold State.mbChart
  try dsimp only
  repeat' first | with_reducible exact hs | with_reducible apply State.mbReply_keeps | split | simp only [Keeps.mk_iff] | with_reducible assumption | intro _ | dsimp only

theorem State.chartEnd_keeps {r₀ : State} {s : State} (hs : Keeps r₀ s) (cid : Nat) (e : LoadErr) : Keeps r₀ (State.chartEnd s cid e) := by
  unfold State.chartEnd
  try dsimp only
  repeat' first | with_reducible exact hs | with_reducible apply State.eventOpen_keeps | with_reducible apply State.hwMark_keeps | with_reducible apply State.mbChart_keeps | with_reducible apply State.modChart_keeps | split | simp only [Keeps.mk_iff] | with_reducible assumption | intro _ | dsimp only

theorem State.chartFail_keeps {r₀ : State} {s : State} (hs : Keeps r₀ s) (cid : Nat) (code : Nat) : Keeps r₀ (State.chartFail s cid code) := by
  unfold State.chartFail
  try dsimp only
  repeat' first | with_reducible exact hs | with_reducible apply State.chartEnd_keeps | split | simp only [Keeps.mk_iff] | with_reducible assumption | intro _ | dsimp only

theorem State.loadBegin_keeps {r₀ : State} {s : State} (hs : Keeps r₀ s) : Keeps r₀ (State.loadBegin s) := by
  unfold State.loadBegin
  try dsimp only
  repeat' first | with_reducible exact hs | with_reducible apply State.modChart_keeps | with_reducible apply State.pf0Begin_keeps | split | simp only [Keeps.mk_iff] | with_reducible assumption | intro _ | dsimp only

theorem State.loadEnd_keeps {r₀ : State} {s : State} (hs : Keeps r₀ s) : Keeps r₀ (State.loadEnd s) := by
  unfold State.loadEnd
  try dsimp only
  repeat' first | with_reducible exact hs | with_reducible apply State.chartEnd_keeps | with_reducible apply State.modChart_keeps | with_reducible apply State.pf0Drop_keeps | split | simp only [Keeps.mk_iff] | with_reducible assumption | intro _ | dsimp only

theorem State.commitCores_keeps {r₀ : State} {s : State} (hs : Keeps r₀ s) (c : Nat) (g : ConsCfg) : Keeps r₀ (State.commitCores s c g) := by
  unfold State.commitCores
  try dsimp only
  repeat' first | with_reducible exact hs | with_reducible apply State.clearCore_keeps | with_reducible apply State.modCore_keeps | with_reducible apply State.powerDown_keeps | with_reducible apply overAll_keeps | (with_reducible refine Keeps.overAll ?_ (fun _ _ _ => ?_) _) | split | simp only [Keeps.mk_iff] | with_reducible assumption | intro _ | dsimp only

theorem State.bindFuncs_keeps {r₀ : State} {s : State} (hs : Keeps r₀ s) (c : Nat) (fs : List (Nat × Nat)) : Keeps r₀ (State.bindFuncs s c fs) := by
  unfold State.bindFuncs
  try dsimp only
  repeat' first | with_reducible exact hs | with_reducible apply State.modFunc_keeps | with_reducible apply overAll_keeps | (with_reducible refine Keeps.overAll ?_ (fun _ _ _ => ?_) _) | split | simp only [Keeps.mk_iff] | with_reducible assumption | intro _ | dsimp only

theorem State.writeTable_keeps {r₀ : State} {s : State} (hs : Keeps r₀ s) (c : Nat) (g : ConsCfg) : Keeps r₀ (State.writeTable s c g) := by
  unfold State.writeTable
  try dsimp only
  repeat' first | with_reducible exact hs | with_reducible apply State.homePut_keeps | with_reducible apply overAll_keeps | (with_reducible refine Keeps.overAll ?_ (fun _ _ _ => ?_) _) | split | simp only [Keeps.mk_iff] | with_reducible assumption | intro _ | dsimp only

theorem State.commitPkg_keeps {r₀ : State} {s : State} (hs : Keeps r₀ s) (sh : Chart) : Keeps r₀ (State.commitPkg s sh) := by
  unfold State.commitPkg
  try dsimp only
  repeat' first | with_reducible exact hs | with_reducible apply State.capWrite_keeps | with_reducible apply State.modChart_keeps | with_reducible apply State.portsCommitted_keeps | with_reducible apply State.servoCommit_keeps | split | simp only [Keeps.mk_iff] | with_reducible assumption | intro _ | dsimp only

theorem State.commitBegin_keeps {r₀ : State} {s : State} (hs : Keeps r₀ s) (c : Nat) (release : State → State) (hrelease : ∀ x, Keeps r₀ x → Keeps r₀ (release x)) : Keeps r₀ (State.commitBegin s c release) := by
  unfold State.commitBegin
  try dsimp only
  repeat' first | with_reducible exact hs | with_reducible apply hrelease | with_reducible apply State.chartEnd_keeps | with_reducible apply State.chartFail_keeps | with_reducible apply State.commitCores_keeps | with_reducible apply State.modChart_keeps | with_reducible apply State.modCon_keeps | with_reducible apply State.release_keeps | split | simp only [Keeps.mk_iff] | with_reducible assumption | intro _ | dsimp only

theorem State.commitEnd_keeps {r₀ : State} {s : State} (hs : Keeps r₀ s) (c : Nat) : Keeps r₀ (State.commitEnd s c) := by
  unfold State.commitEnd
  try dsimp only
  repeat' first | with_reducible exact hs | with_reducible apply State.bindFuncs_keeps | with_reducible apply State.chartEnd_keeps | with_reducible apply State.clearBarriers_keeps | with_reducible apply State.commitPkg_keeps | with_reducible apply State.dropCons_keeps | with_reducible apply State.setCon_keeps | with_reducible apply State.writeTable_keeps | split | simp only [Keeps.mk_iff] | with_reducible assumption | intro _ | dsimp only

theorem State.startGo_keeps {r₀ : State} {s : State} (hs : Keeps r₀ s) (c : Nat) : Keeps r₀ (State.startGo s c) := by
  unfold State.startGo
  try dsimp only
  repeat' first | with_reducible exact hs | with_reducible apply State.chartEnd_keeps | with_reducible apply State.chartFail_keeps | with_reducible apply State.modCon_keeps | with_reducible apply State.startThread_keeps | with_reducible apply overAll_keeps | (with_reducible refine Keeps.overAll ?_ (fun _ _ _ => ?_) _) | split | simp only [Keeps.mk_iff] | with_reducible assumption | intro _ | dsimp only

theorem State.stopGo_keeps {r₀ : State} {s : State} (hs : Keeps r₀ s) (c : Nat) : Keeps r₀ (State.stopGo s c) := by
  unfold State.stopGo
  try dsimp only
  repeat' first | with_reducible exact hs | with_reducible apply State.chartFail_keeps | with_reducible apply State.modChart_keeps | with_reducible apply State.modCon_keeps | split | simp only [Keeps.mk_iff] | with_reducible assumption | intro _ | dsimp only

theorem State.resetCores_keeps {r₀ : State} {s : State} (hs : Keeps r₀ s) (c : Nat) : Keeps r₀ (State.resetCores s c) := by
  unfold State.resetCores
  try dsimp only
  repeat' first | with_reducible exact hs | with_reducible apply State.clearCore_keeps | with_reducible apply State.modCon_keeps | with_reducible apply State.retireOwned_keeps | with_reducible apply State.tallyDrop_keeps | with_reducible apply overAll_keeps | (with_reducible refine Keeps.overAll ?_ (fun _ _ _ => ?_) _) | split | simp only [Keeps.mk_iff] | with_reducible assumption | intro _ | dsimp only

theorem State.resetBegin_keeps {r₀ : State} {s : State} (hs : Keeps r₀ s) (c : Nat) : Keeps r₀ (State.resetBegin s c) := by
  unfold State.resetBegin
  try dsimp only
  repeat' first | with_reducible exact hs | with_reducible apply State.modCore_keeps | with_reducible apply State.resetCores_keeps | with_reducible apply overAll_keeps | (with_reducible refine Keeps.overAll ?_ (fun _ _ _ => ?_) _) | split | simp only [Keeps.mk_iff] | with_reducible assumption | intro _ | dsimp only

theorem State.resetGo_keeps {r₀ : State} {s : State} (hs : Keeps r₀ s) (c : Nat) : Keeps r₀ (State.resetGo s c) := by
  unfold State.resetGo
  try dsimp only
  repeat' first | with_reducible exact hs | with_reducible apply State.chartFail_keeps | with_reducible apply State.modChart_keeps | with_reducible apply State.resetBegin_keeps | split | simp only [Keeps.mk_iff] | with_reducible assumption | intro _ | dsimp only

theorem State.releaseGo_keeps {r₀ : State} {s : State} (hs : Keeps r₀ s) (c : Nat) : Keeps r₀ (State.releaseGo s c) := by
  unfold State.releaseGo
  try dsimp only
  repeat' first | with_reducible exact hs | with_reducible apply State.chartFail_keeps | with_reducible apply State.modChart_keeps | with_reducible apply State.release_keeps | with_reducible apply State.resetCores_keeps | split | simp only [Keeps.mk_iff] | with_reducible assumption | intro _ | dsimp only

theorem State.resetEnd_keeps {r₀ : State} {s : State} (hs : Keeps r₀ s) (c : Nat) : Keeps r₀ (State.resetEnd s c) := by
  unfold State.resetEnd
  try dsimp only
  repeat' first | with_reducible exact hs | with_reducible apply State.chartEnd_keeps | with_reducible apply State.dropCons_keeps | with_reducible apply State.hwMark_keeps | with_reducible apply State.modChart_keeps | with_reducible apply State.setCon_keeps | with_reducible apply State.vfReset_keeps | with_reducible apply State.writeTable_keeps | with_reducible apply overAll_keeps | (with_reducible refine Keeps.overAll ?_ (fun _ _ _ => ?_) _) | split | simp only [Keeps.mk_iff] | with_reducible assumption | intro _ | dsimp only

theorem State.releaseEnd_keeps {r₀ : State} {s : State} (hs : Keeps r₀ s) (c : Nat) : Keeps r₀ (State.releaseEnd s c) := by
  unfold State.releaseEnd
  try dsimp only
  repeat' first | with_reducible exact hs | with_reducible apply State.bindFuncs_keeps | with_reducible apply State.chartEnd_keeps | with_reducible apply State.dropCons_keeps | with_reducible apply State.powerDown_keeps | with_reducible apply State.setCon_keeps | with_reducible apply State.vfReset_keeps | with_reducible apply overAll_keeps | (with_reducible refine Keeps.overAll ?_ (fun _ _ _ => ?_) _) | split | simp only [Keeps.mk_iff] | with_reducible assumption | intro _ | dsimp only

theorem State.chartPerform_keeps {r₀ : State} {s : State} (hs : Keeps r₀ s) (cmd : Nat) (c : Nat) : Keeps r₀ (State.chartPerform s cmd c) := by
  unfold State.chartPerform
  try dsimp only
  repeat' first | with_reducible exact hs | with_reducible apply State.chartEnd_keeps | with_reducible apply State.commitBegin_keeps | with_reducible apply State.loadBegin_keeps | with_reducible apply State.modChart_keeps | with_reducible apply State.release_keeps | with_reducible apply State.releaseGo_keeps | with_reducible apply State.resetGo_keeps | with_reducible apply State.startGo_keeps | with_reducible apply State.stopGo_keeps | split | simp only [Keeps.mk_iff] | with_reducible assumption | intro _ | dsimp only

theorem State.chartCtrl_keeps {r₀ : State} {s : State} (hs : Keeps r₀ s) (cmd : Nat) (c : Nat) : Keeps r₀ (State.chartCtrl s cmd c) := by
  unfold State.chartCtrl
  try dsimp only
  repeat' first | with_reducible exact hs | with_reducible apply State.chartPerform_keeps | with_reducible apply State.hwMark_keeps | with_reducible apply State.modChart_keeps | split | simp only [Keeps.mk_iff] | with_reducible assumption | intro _ | dsimp only

theorem State.chartResume_keeps {r₀ : State} {s : State} (hs : Keeps r₀ s) : Keeps r₀ (State.chartResume s) := by
  unfold State.chartResume
  try dsimp only
  repeat' first | with_reducible exact hs | with_reducible apply State.modChart_keeps | with_reducible apply State.release_keeps | with_reducible apply State.releaseGo_keeps | with_reducible apply State.resetGo_keeps | with_reducible apply State.startGo_keeps | split | simp only [Keeps.mk_iff] | with_reducible assumption | intro _ | dsimp only

theorem State.firmwareCmd_keeps {r₀ : State} {s : State} (hs : Keeps r₀ s) (cmd : Nat) (c : Nat) : Keeps r₀ (State.firmwareCmd s cmd c) := by
  unfold State.firmwareCmd
  try dsimp only
  repeat' first | with_reducible exact hs | with_reducible apply State.chartCtrl_keeps | split | simp only [Keeps.mk_iff] | with_reducible assumption | intro _ | dsimp only

theorem State.chartStatusWrite_keeps {r₀ : State} {s : State} (hs : Keeps r₀ s) (v : Word) : Keeps r₀ (State.chartStatusWrite s v) := by
  unfold State.chartStatusWrite
  try dsimp only
  repeat' first | with_reducible exact hs | with_reducible apply State.modChart_keeps | split | simp only [Keeps.mk_iff] | with_reducible assumption | intro _ | dsimp only

theorem State.faultedWrite_keeps {r₀ : State} {s : State} (hs : Keeps r₀ s) (i : Nat) (v : Word) : Keeps r₀ (State.faultedWrite s i v) := by
  unfold State.faultedWrite
  try dsimp only
  repeat' first | with_reducible exact hs | with_reducible apply State.modChart_keeps | with_reducible apply overAll_keeps | (with_reducible refine Keeps.overAll ?_ (fun _ _ _ => ?_) _) | split | simp only [Keeps.mk_iff] | with_reducible assumption | intro _ | dsimp only

end Sys2Proof.Machine
end

