-- ==== Sys2Proof/Laws/KeepsBoot.lean ====
section
/-! SUPPORT. Keeps (Laws/Keeps.lean) of the operations of Machine/Boot.lean. -/

namespace Sys2Proof.Machine

open Sys2Proof

set_option simprocs false
set_option linter.unusedTactic false
set_option linter.unreachableTactic false
set_option linter.unusedSimpArgs false
set_option linter.unusedVariables false


theorem State.modKeeper_keeps {r₀ : State} {s : State} (hs : Keeps r₀ s) (f : Keeper → Keeper) : Keeps r₀ (State.modKeeper s f) := by
  unfold State.modKeeper
  try dsimp only
  repeat' first | with_reducible exact hs | split | simp only [Keeps.mk_iff] | with_reducible assumption | intro _ | dsimp only

theorem State.modPower_keeps {r₀ : State} {s : State} (hs : Keeps r₀ s) (f : Power → Power) : Keeps r₀ (State.modPower s f) := by
  unfold State.modPower
  try dsimp only
  repeat' first | with_reducible exact hs | split | simp only [Keeps.mk_iff] | with_reducible assumption | intro _ | dsimp only

theorem State.modAgeing_keeps {r₀ : State} {s : State} (hs : Keeps r₀ s) (f : Ageing → Ageing) : Keeps r₀ (State.modAgeing s f) := by
  unfold State.modAgeing
  try dsimp only
  repeat' first | with_reducible exact hs | split | simp only [Keeps.mk_iff] | with_reducible assumption | intro _ | dsimp only

theorem State.coldReset_keeps {r₀ s : State} (hs : Keeps r₀ s) : Keeps r₀ s.coldReset :=
  by refine hs.mems rfl rfl ?_ ?_ ?_ ?_ ?_ ?_ ?_ <;> exact fun _ => Map.wf_nil _

theorem State.bootTo_keeps {r₀ : State} {s : State} (hs : Keeps r₀ s) (st : BootSt) : Keeps r₀ (State.bootTo s st) := by
  unfold State.bootTo
  try dsimp only
  repeat' first | with_reducible exact hs | with_reducible apply State.modKeeper_keeps | with_reducible apply State.msix_keeps | split | simp only [Keeps.mk_iff] | with_reducible assumption | intro _ | dsimp only

theorem State.bootWait_keeps {r₀ : State} {s : State} (hs : Keeps r₀ s) (err : Nat) (rejected : Bool) : Keeps r₀ (State.bootWait s err rejected) := by
  unfold State.bootWait
  try dsimp only
  repeat' first | with_reducible exact hs | with_reducible apply State.bootTo_keeps | with_reducible apply State.modKeeper_keeps | split | simp only [Keeps.mk_iff] | with_reducible assumption | intro _ | dsimp only

theorem State.bootGo_keeps {r₀ : State} {s : State} (hs : Keeps r₀ s) (acc : Accessor) : Keeps r₀ (State.bootGo s acc) := by
  unfold State.bootGo
  try dsimp only
  repeat' first | with_reducible exact hs | with_reducible apply State.bootTo_keeps | with_reducible apply State.modKeeper_keeps | with_reducible apply State.pf0Begin_keeps | with_reducible apply State.refuseAccessor_keeps | split | simp only [Keeps.mk_iff] | with_reducible assumption | intro _ | dsimp only

theorem State.bootAbort_keeps {r₀ : State} {s : State} (hs : Keeps r₀ s) : Keeps r₀ (State.bootAbort s) := by
  unfold State.bootAbort
  try dsimp only
  repeat' first | with_reducible exact hs | with_reducible apply State.bootWait_keeps | with_reducible apply State.pf0Drop_keeps | split | simp only [Keeps.mk_iff] | with_reducible assumption | intro _ | dsimp only

theorem State.setOffset_keeps {r₀ : State} {s : State} (hs : Keeps r₀ s) (r : Nat) (v : Int) : Keeps r₀ (State.setOffset s r v) := by
  unfold State.setOffset
  try dsimp only
  repeat' first | with_reducible exact hs | with_reducible apply State.modAgeing_keeps | split | simp only [Keeps.mk_iff] | with_reducible assumption | intro _ | dsimp only

theorem State.restoreFaulted_keeps {r₀ : State} {s : State} (hs : Keeps r₀ s) : Keeps r₀ (State.restoreFaulted s) := by
  unfold State.restoreFaulted
  try dsimp only
  repeat' first | with_reducible exact hs | with_reducible apply State.modChart_keeps | with_reducible apply overAll_keeps | (with_reducible refine Keeps.overAll ?_ (fun _ _ _ => ?_) _) | split | simp only [Keeps.mk_iff] | with_reducible assumption | intro _ | dsimp only

theorem State.runImage_keeps {r₀ : State} {s : State} (hs : Keeps r₀ s) : Keeps r₀ (State.runImage s) := by
  unfold State.runImage
  try dsimp only
  repeat' first | with_reducible exact hs | with_reducible apply State.bootTo_keeps | with_reducible apply State.eventOpen_keeps | with_reducible apply State.modKeeper_keeps | with_reducible apply State.restoreFaulted_keeps | with_reducible apply State.setOffset_keeps | with_reducible apply overAll_keeps | (with_reducible refine Keeps.overAll ?_ (fun _ _ _ => ?_) _) | split | simp only [Keeps.mk_iff] | with_reducible assumption | intro _ | dsimp only

theorem State.warmCores_keeps {r₀ : State} {s : State} (hs : Keeps r₀ s) : Keeps r₀ (State.warmCores s) := by
  unfold State.warmCores
  try dsimp only
  repeat' first | with_reducible exact hs | with_reducible apply State.powerDown_keeps | with_reducible apply overAll_keeps | (with_reducible refine Keeps.overAll ?_ (fun _ _ _ => ?_) _) | split | simp only [Keeps.mk_iff] | with_reducible assumption | intro _ | dsimp only

theorem State.warmReset_keeps {r₀ : State} {s : State} (hs : Keeps r₀ s) : Keeps r₀ (State.warmReset s) := by
  unfold State.warmReset
  try dsimp only
  repeat' first | with_reducible exact hs | with_reducible apply State.free_keeps | with_reducible apply State.modHost_keeps | with_reducible apply State.msix_keeps | with_reducible apply State.pf0Drop_keeps | with_reducible apply State.warmCores_keeps | split | simp only [Keeps.mk_iff] | with_reducible assumption | intro _ | dsimp only

theorem State.warmGo_keeps {r₀ : State} {s : State} (hs : Keeps r₀ s) : Keeps r₀ (State.warmGo s) := by
  unfold State.warmGo
  try dsimp only
  repeat' first | with_reducible exact hs | with_reducible apply State.warmReset_keeps | split | simp only [Keeps.mk_iff] | with_reducible assumption | intro _ | dsimp only

theorem State.coreResetGo_keeps {r₀ : State} {s : State} (hs : Keeps r₀ s) (d : Nat) (i : Nat) : Keeps r₀ (State.coreResetGo s d i) := by
  unfold State.coreResetGo
  try dsimp only
  repeat' first | with_reducible exact hs | with_reducible apply State.modCore_keeps | with_reducible apply State.modDie_keeps | with_reducible apply State.refuseAccessor_keeps | (with_reducible refine Keeps.foldlP InboundGot.s ?_ (fun _ _ _ => ?_) _) | (with_reducible refine Keeps.foldlP Hop.s ?_ (fun _ _ _ => ?_) _) | (with_reducible refine Keeps.foldlP EngRun.s ?_ (fun _ _ _ => ?_) _) | (with_reducible refine Keeps.foldlP Prod.snd ?_ (fun _ _ _ => ?_) _) | (with_reducible refine Keeps.foldlP Prod.fst ?_ (fun _ _ _ => ?_) _) | (with_reducible refine Keeps.foldlP (fun p => EngRun.s (Prod.snd p)) ?_ (fun _ _ _ => ?_) _) | (with_reducible refine Keeps.foldlP (fun p => Prod.snd (Prod.snd p)) ?_ (fun _ _ _ => ?_) _) | (with_reducible refine Keeps.foldl ?_ (fun _ _ _ => ?_) _) | split | simp only [Keeps.mk_iff] | with_reducible assumption | intro _ | dsimp only

theorem State.coreResetEnd_keeps {r₀ : State} {s : State} (hs : Keeps r₀ s) (d : Nat) (n : Nat) : Keeps r₀ (State.coreResetEnd s d n) := by
  unfold State.coreResetEnd
  try dsimp only
  repeat' first | with_reducible exact hs | with_reducible apply State.chartResume_keeps | with_reducible apply State.clearCore_keeps | with_reducible apply State.modCore_keeps | with_reducible apply State.modDie_keeps | with_reducible apply State.startThread_keeps | with_reducible apply overAll_keeps | (with_reducible refine Keeps.overAll ?_ (fun _ _ _ => ?_) _) | split | simp only [Keeps.mk_iff] | with_reducible assumption | intro _ | dsimp only

theorem State.tresetGo_keeps {r₀ : State} {s : State} (hs : Keeps r₀ s) (t : Tid) : Keeps r₀ (State.tresetGo s t) := by
  unfold State.tresetGo
  try dsimp only
  repeat' first | with_reducible exact hs | with_reducible apply State.dropLong_keeps | with_reducible apply State.leaveSealed_keeps | with_reducible apply State.modCore_keeps | with_reducible apply State.modThr_keeps | (with_reducible refine Keeps.foldlP InboundGot.s ?_ (fun _ _ _ => ?_) _) | (with_reducible refine Keeps.foldlP Hop.s ?_ (fun _ _ _ => ?_) _) | (with_reducible refine Keeps.foldlP EngRun.s ?_ (fun _ _ _ => ?_) _) | (with_reducible refine Keeps.foldlP Prod.snd ?_ (fun _ _ _ => ?_) _) | (with_reducible refine Keeps.foldlP Prod.fst ?_ (fun _ _ _ => ?_) _) | (with_reducible refine Keeps.foldlP (fun p => EngRun.s (Prod.snd p)) ?_ (fun _ _ _ => ?_) _) | (with_reducible refine Keeps.foldlP (fun p => Prod.snd (Prod.snd p)) ?_ (fun _ _ _ => ?_) _) | (with_reducible refine Keeps.foldl ?_ (fun _ _ _ => ?_) _) | split | simp only [Keeps.mk_iff] | with_reducible assumption | intro _ | dsimp only

theorem State.tresetEnd_keeps {r₀ : State} {s : State} (hs : Keeps r₀ s) (t : Tid) : Keeps r₀ (State.tresetEnd s t) := by
  unfold State.tresetEnd
  try dsimp only
  repeat' first | with_reducible exact hs | with_reducible apply EngRun.gather_keeps | with_reducible apply State.modCore_keeps | with_reducible apply State.modThr_keeps | with_reducible apply State.p4Meet_keeps | with_reducible apply State.p4Write_keeps | with_reducible apply State.startThread_keeps | with_reducible apply overAll_keeps | (with_reducible refine Keeps.overAll ?_ (fun _ _ _ => ?_) _) | split | simp only [Keeps.mk_iff] | with_reducible assumption | intro _ | dsimp only

end Sys2Proof.Machine
end

