-- ==== Sys2Proof/Laws/KeepsHealth.lean ====
section
/-! SUPPORT. Keeps (Laws/Keeps.lean) of the operations of Machine/Health.lean. -/

namespace Sys2Proof.Machine

open Sys2Proof

set_option simprocs false
set_option linter.unusedTactic false
set_option linter.unreachableTactic false
set_option linter.unusedSimpArgs false
set_option linter.unusedVariables false


theorem State.kick_keeps {r₀ : State} {s : State} (hs : Keeps r₀ s) : Keeps r₀ (State.kick s) := by
  unfold State.kick
  try dsimp only
  repeat' first | with_reducible exact hs | with_reducible apply State.modKeeper_keeps | split | simp only [Keeps.mk_iff] | with_reducible assumption | intro _ | dsimp only

theorem State.watchdog_keeps {r₀ : State} {s : State} (hs : Keeps r₀ s) : Keeps r₀ (State.watchdog s) := by
  unfold State.watchdog
  try dsimp only
  repeat' first | with_reducible exact hs | with_reducible apply State.modKeeper_keeps | with_reducible apply State.modPower_keeps | with_reducible apply State.report_keeps | split | simp only [Keeps.mk_iff] | with_reducible assumption | intro _ | dsimp only

theorem State.lanternRetry_keeps {r₀ : State} {s : State} (hs : Keeps r₀ s) (node : Nat) : Keeps r₀ (State.lanternRetry s node) := by
  unfold State.lanternRetry
  try dsimp only
  repeat' first | with_reducible exact hs | with_reducible apply State.report_keeps | split | simp only [Keeps.mk_iff] | with_reducible assumption | intro _ | dsimp only

theorem State.loseTraffic_keeps {r₀ : State} {s : State} (hs : Keeps r₀ s) (u : FabricUnit) : Keeps r₀ (State.loseTraffic s u) := by
  unfold State.loseTraffic
  try dsimp only
  repeat' first | with_reducible exact hs | split | simp only [Keeps.mk_iff] | with_reducible assumption | intro _ | dsimp only

theorem State.raiseRail_keeps {r₀ : State} {s : State} (hs : Keeps r₀ s) (r : Nat) : Keeps r₀ (State.raiseRail s r) := by
  unfold State.raiseRail
  try dsimp only
  repeat' first | with_reducible exact hs | with_reducible apply State.modAgeing_keeps | split | simp only [Keeps.mk_iff] | with_reducible assumption | intro _ | dsimp only

theorem State.margin_keeps {r₀ : State} {s : State} (hs : Keeps r₀ s) (r : Nat) : Keeps r₀ (State.margin s r) := by
  unfold State.margin
  try dsimp only
  repeat' first | with_reducible exact hs | with_reducible apply State.draw_keeps | with_reducible apply State.report_keeps | split | simp only [Keeps.mk_iff] | with_reducible assumption | intro _ | dsimp only

theorem State.railFloor_keeps {r₀ : State} {s : State} (hs : Keeps r₀ s) (r : Nat) (slack : Int) : Keeps r₀ (State.railFloor s r slack) := by
  unfold State.railFloor
  try dsimp only
  repeat' first | with_reducible exact hs | with_reducible apply State.margin_keeps | with_reducible apply State.raiseRail_keeps | split | simp only [Keeps.mk_iff] | with_reducible assumption | intro _ | dsimp only

theorem State.sample_keeps {r₀ : State} {s : State} (hs : Keeps r₀ s) (slacks : List Int) : Keeps r₀ (State.sample s slacks) := by
  unfold State.sample
  try dsimp only
  repeat' first | with_reducible exact hs | with_reducible apply State.modAgeing_keeps | with_reducible apply State.railFloor_keeps | with_reducible apply overAll_keeps | (with_reducible refine Keeps.overAll ?_ (fun _ _ _ => ?_) _) | split | simp only [Keeps.mk_iff] | with_reducible assumption | intro _ | dsimp only

theorem State.applyPlan_keeps {r₀ : State} {s : State} (hs : Keeps r₀ s) (new : List Int) (boot : Bool) : Keeps r₀ (State.applyPlan s new boot) := by
  unfold State.applyPlan
  try dsimp only
  repeat' first | with_reducible exact hs | with_reducible apply State.setOffset_keeps | with_reducible apply overAll_keeps | (with_reducible refine Keeps.overAll ?_ (fun _ _ _ => ?_) _) | split | simp only [Keeps.mk_iff] | with_reducible assumption | intro _ | dsimp only

theorem State.planCompute_keeps {r₀ : State} {s : State} (hs : Keeps r₀ s) : Keeps r₀ (State.planCompute s) := by
  unfold State.planCompute
  try dsimp only
  repeat' first | with_reducible exact hs | with_reducible apply State.applyPlan_keeps | with_reducible apply State.eventOpen_keeps | with_reducible apply State.modAgeing_keeps | with_reducible apply State.setOffset_keeps | with_reducible apply overAll_keeps | (with_reducible refine Keeps.overAll ?_ (fun _ _ _ => ?_) _) | split | simp only [Keeps.mk_iff] | with_reducible assumption | intro _ | dsimp only

theorem State.setPage_keeps {r₀ : State} {s : State} (hs : Keeps r₀ s) (p : Nat) (bs : List Byte) : Keeps r₀ (State.setPage s p bs) := by
  unfold State.setPage
  try dsimp only
  repeat' first | with_reducible exact hs | with_reducible apply State.modAgeing_keeps | split | simp only [Keeps.mk_iff] | with_reducible assumption | intro _ | dsimp only

theorem State.writePlan_keeps {r₀ : State} {s : State} (hs : Keeps r₀ s) (p : Plan) : Keeps r₀ (State.writePlan s p) := by
  unfold State.writePlan
  try dsimp only
  repeat' first | with_reducible exact hs | with_reducible apply EngRun.bytes_keeps | with_reducible apply State.modAgeing_keeps | with_reducible apply State.setPage_keeps | split | simp only [Keeps.mk_iff] | with_reducible assumption | intro _ | dsimp only

theorem State.writeFault_keeps {r₀ : State} {s : State} (hs : Keeps r₀ s) (e : List Byte) : Keeps r₀ (State.writeFault s e) := by
  unfold State.writeFault
  try dsimp only
  repeat' first | with_reducible exact hs | with_reducible apply State.modAgeing_keeps | with_reducible apply State.setPage_keeps | split | simp only [Keeps.mk_iff] | with_reducible assumption | intro _ | dsimp only

theorem State.writeHelper_keeps {r₀ : State} {s : State} (hs : Keeps r₀ s) : Keeps r₀ (State.writeHelper s) := by
  unfold State.writeHelper
  try dsimp only
  repeat' first | with_reducible exact hs | with_reducible apply EngRun.put_keeps | with_reducible apply State.modAgeing_keeps | with_reducible apply State.setPage_keeps | with_reducible apply overAll_keeps | (with_reducible refine Keeps.overAll ?_ (fun _ _ _ => ?_) _) | split | simp only [Keeps.mk_iff] | with_reducible assumption | intro _ | dsimp only

theorem State.writeCycle_keeps {r₀ : State} {s : State} (hs : Keeps r₀ s) : Keeps r₀ (State.writeCycle s) := by
  unfold State.writeCycle
  try dsimp only
  repeat' first | with_reducible exact hs | with_reducible apply State.draw_keeps | with_reducible apply State.modAgeing_keeps | with_reducible apply State.setPage_keeps | with_reducible apply State.writeFault_keeps | with_reducible apply State.writePlan_keeps | with_reducible apply overAll_keeps | (with_reducible refine Keeps.overAll ?_ (fun _ _ _ => ?_) _) | split | simp only [Keeps.mk_iff] | with_reducible assumption | intro _ | dsimp only

end Sys2Proof.Machine
end

