-- ==== Sys2Proof/Laws/KeepsPower.lean ====
section
/-! SUPPORT. Keeps (Laws/Keeps.lean) of the operations of Machine/Power.lean. -/

namespace Sys2Proof.Machine

open Sys2Proof

set_option simprocs false
set_option linter.unusedTactic false
set_option linter.unreachableTactic false
set_option linter.unusedSimpArgs false
set_option linter.unusedVariables false


theorem State.comparators_keeps {r₀ : State} {s : State} (hs : Keeps r₀ s) (mw : Nat) (vin : Nat) (currents : List Nat) (temps : List (Nat × Nat)) (stackTemps : List Nat) : Keeps r₀ (State.comparators s mw vin currents temps stackTemps) := by
  unfold State.comparators
  try dsimp only
  repeat' first | with_reducible exact hs | with_reducible apply State.eventOpen_keeps | with_reducible apply State.modPower_keeps | with_reducible apply State.modStack_keeps | with_reducible apply overAll_keeps | (with_reducible refine Keeps.getD (fun u hu => ?_) ?_) | (with_reducible refine Keeps.overAll ?_ (fun _ _ _ => ?_) _) | (with_reducible refine Keeps.foldlP InboundGot.s ?_ (fun _ _ _ => ?_) _) | (with_reducible refine Keeps.foldlP Hop.s ?_ (fun _ _ _ => ?_) _) | (with_reducible refine Keeps.foldlP EngRun.s ?_ (fun _ _ _ => ?_) _) | (with_reducible refine Keeps.foldlP Prod.snd ?_ (fun _ _ _ => ?_) _) | (with_reducible refine Keeps.foldlP Prod.fst ?_ (fun _ _ _ => ?_) _) | (with_reducible refine Keeps.foldlP (fun p => EngRun.s (Prod.snd p)) ?_ (fun _ _ _ => ?_) _) | (with_reducible refine Keeps.foldlP (fun p => Prod.snd (Prod.snd p)) ?_ (fun _ _ _ => ?_) _) | (with_reducible refine Keeps.foldl ?_ (fun _ _ _ => ?_) _) | split | simp only [Keeps.mk_iff] | with_reducible assumption | intro _ | dsimp only

theorem State.pwrLimits_keeps {r₀ : State} {s : State} (hs : Keeps r₀ s) (v : Word) : Keeps r₀ (State.pwrLimits s v) := by
  unfold State.pwrLimits
  try dsimp only
  repeat' first | with_reducible exact hs | with_reducible apply State.capWrite_keeps | with_reducible apply State.modPower_keeps | split | simp only [Keeps.mk_iff] | with_reducible assumption | intro _ | dsimp only

theorem State.railsLost_keeps {r₀ s : State} (hs : Keeps r₀ s) : Keeps r₀ s.railsLost :=
  (Keeps.overAll (State.linkDrop_keeps hs) (fun _ _ h => State.powerDown_keeps h _) _).mems (.refl _) (.refl _) id id id
    (fun _ => Map.wf_nil _) (fun _ => Map.wf_nil _) id (fun _ => Map.wf_nil _)

theorem State.trip_keeps {r₀ : State} {s : State} (hs : Keeps r₀ s) : Keeps r₀ (State.trip s) := by
  unfold State.trip
  try dsimp only
  repeat' first | with_reducible exact hs | with_reducible apply State.modAgeing_keeps | with_reducible apply State.modPower_keeps | with_reducible apply State.railsLost_keeps | split | simp only [Keeps.mk_iff] | with_reducible assumption | intro _ | dsimp only

end Sys2Proof.Machine
end

