-- ==== Sys2Proof/Laws/KeepsInterrupt.lean ====
section
/-! SUPPORT. Keeps (Laws/Keeps.lean) of the operations of Machine/Interrupt.lean. -/

namespace Sys2Proof.Machine

open Sys2Proof

set_option simprocs false
set_option linter.unusedTactic false
set_option linter.unreachableTactic false
set_option linter.unusedSimpArgs false
set_option linter.unusedVariables false


theorem State.retry_keeps {r₀ s : State} (hs : Keeps r₀ s) (t : Tid) (op : BlockOp) : ∀ u, s.retry t op = some u → Keeps r₀ u := by
  intro u hu
  have h := State.modThr_keeps hs t fun th => { th with blocked := none }
  cases op with
  | pwr last peer v => exact State.tryPwr_keeps h _ _ _ _ _ hu
  | prd rd peer => exact State.tryPrd_keeps h _ _ _ _ hu
  | rpush r d => exact State.tryPush_keeps h _ _ _ _ hu
  | rpop r toV rd => exact State.tryPop_keeps h _ _ _ _ _ hu
  | rclr r => exact State.tryRclr_keeps h _ _ _ hu
  | fence => cases hu; exact State.fenceOn_keeps h _
  | scan _ _ _ _ => cases hu; exact State.scanOn_keeps h _ _ _ _ _
  | cwait k n => exact State.tryCwait_keeps h _ _ _ _ hu
  | cwaita => exact State.tryCwaita_keeps h _ _ hu
  | cpwait ch => exact State.tryCpwait_keeps h _ _ _ hu
  | wait rd mask token => exact State.tryWait_keeps h _ _ _ _ _ hu
  | barrKernel rd b => exact State.tryBarr_keeps h _ _ _ _ hu
  | bdecl _ => cases hu
  | bfree _ => cases hu
  | maint => exact State.tryMaint_keeps h _ _ hu

theorem State.leaveLong_keeps {r₀ : State} {s : State} (hs : Keeps r₀ s) (t : Tid) (l : Long) (pos : Nat) : Keeps r₀ (State.leaveLong s t l pos).s := by
  unfold State.leaveLong
  try dsimp only
  repeat' first | with_reducible exact hs | with_reducible apply State.tileLeave_keeps | with_reducible apply State.tileStep_keeps | with_reducible apply State.vecLeave_keeps | with_reducible apply State.vecStep_keeps | (with_reducible refine Keeps.getD (fun u hu => ?_) ?_) | split | simp only [Keeps.mk_iff] | with_reducible assumption | intro _ | dsimp only

theorem State.leave_keeps {r₀ : State} {s : State} (hs : Keeps r₀ s) (t : Tid) (pos : Nat) : ∀ u, State.leave s t pos = some u → Keeps r₀ u.s := by
  intro u hu
  unfold State.leave at hu
  try dsimp only at hu
  repeat' split at hu
  all_goals try cases hu
  repeat' first | with_reducible exact hs | with_reducible apply State.dropLong_keeps | with_reducible apply State.leaveLong_keeps | with_reducible apply State.modThr_keeps | split | simp only [Keeps.mk_iff] | with_reducible assumption | intro _ | dsimp only

theorem State.takeIrq_keeps {r₀ : State} {s : State} (hs : Keeps r₀ s) (t : Tid) (i : Nat) (progress : Bool) : Keeps r₀ (State.takeIrq s t i progress) := by
  unfold State.takeIrq
  try dsimp only
  repeat' first | with_reducible exact hs | with_reducible apply State.setThr_keeps | split | simp only [Keeps.mk_iff] | with_reducible assumption | intro _ | dsimp only

theorem State.interrupt_keeps {r₀ : State} {s : State} (hs : Keeps r₀ s) (t : Tid) (pos : Nat) : Keeps r₀ (State.interrupt s t pos) := by
  unfold State.interrupt
  try dsimp only
  repeat' first | with_reducible exact hs | exact (State.leave_keeps (by assumption) _ _ _ ‹_›) | with_reducible apply State.takeIrq_keeps | split | simp only [Keeps.mk_iff] | with_reducible assumption | intro _ | dsimp only

end Sys2Proof.Machine
end

