-- ==== Sys2Proof/Laws/KeepsDebug.lean ====
section
/-! SUPPORT. Keeps (Laws/Keeps.lean) of the operations of Machine/Debug.lean. -/

namespace Sys2Proof.Machine

open Sys2Proof

set_option simprocs false
set_option linter.unusedTactic false
set_option linter.unreachableTactic false
set_option linter.unusedSimpArgs false
set_option linter.unusedVariables false


theorem State.stopNow_keeps {r₀ : State} {s : State} (hs : Keeps r₀ s) (t : Tid) (pos : Nat) : Keeps r₀ (State.stopNow s t pos) := by
  unfold State.stopNow
  try dsimp only
  repeat' first | with_reducible exact hs | exact (State.leave_keeps (by assumption) _ _ _ ‹_›) | with_reducible apply State.modThr_keeps | split | simp only [Keeps.mk_iff] | with_reducible assumption | intro _ | dsimp only

theorem State.dbgStop_keeps {r₀ : State} {s : State} (hs : Keeps r₀ s) (t : Tid) : Keeps r₀ (State.dbgStop s t) := by
  unfold State.dbgStop
  try dsimp only
  repeat' first | with_reducible exact hs | with_reducible apply State.draw_keeps | with_reducible apply State.modThr_keeps | with_reducible apply State.stopNow_keeps | split | simp only [Keeps.mk_iff] | with_reducible assumption | intro _ | dsimp only

theorem State.dbgStep_keeps {r₀ : State} {s : State} (hs : Keeps r₀ s) (acc : Accessor) (t : Tid) : Keeps r₀ (State.dbgStep s acc t) := by
  unfold State.dbgStep
  try dsimp only
  repeat' first | with_reducible exact hs | with_reducible apply State.refuseAccessor_keeps | with_reducible apply State.setThr_keeps | split | simp only [Keeps.mk_iff] | with_reducible assumption | intro _ | dsimp only

theorem State.stepStop_keeps {r₀ : State} {s : State} (hs : Keeps r₀ s) (t : Tid) : Keeps r₀ (State.stepStop s t) := by
  unfold State.stepStop
  try dsimp only
  repeat' first | with_reducible exact hs | with_reducible apply State.draw_keeps | exact (State.leave_keeps (by assumption) _ _ _ ‹_›) | with_reducible apply State.modThr_keeps | with_reducible apply State.stopNow_keeps | split | simp only [Keeps.mk_iff] | with_reducible assumption | intro _ | dsimp only

theorem State.dbgCtrl_keeps {r₀ : State} {s : State} (hs : Keeps r₀ s) (acc : Accessor) (t : Tid) (v : Word) : Keeps r₀ (State.dbgCtrl s acc t v) := by
  unfold State.dbgCtrl
  try dsimp only
  repeat' first | with_reducible exact hs | with_reducible apply EngRun.put_keeps | with_reducible apply State.dbgStep_keeps | with_reducible apply State.dbgStop_keeps | with_reducible apply State.modThr_keeps | with_reducible apply State.refuseAccessor_keeps | with_reducible apply State.tresetGo_keeps | split | simp only [Keeps.mk_iff] | with_reducible assumption | intro _ | dsimp only

theorem State.dbgPut_keeps {r₀ : State} {s : State} (hs : Keeps r₀ s) (acc : Accessor) (t : Tid) (cls : Nat) (i : Nat) (v : Word) : Keeps r₀ (State.dbgPut s acc t cls i v) := by
  unfold State.dbgPut
  try dsimp only
  repeat' first | with_reducible exact hs | with_reducible apply State.modThr_keeps | with_reducible apply State.refuseAccessor_keeps | with_reducible apply State.setG_keeps | with_reducible apply State.setV_keeps | with_reducible apply State.writeEntry_keeps | split | simp only [Keeps.mk_iff] | with_reducible assumption | intro _ | dsimp only

theorem State.dbgRead_keeps {r₀ : State} {s : State} (hs : Keeps r₀ s) (acc : Accessor) (n : Nat) : Keeps r₀ (State.dbgRead s acc n).2 := by
  unfold State.dbgRead
  try dsimp only
  repeat' first | with_reducible exact hs | with_reducible apply State.refuseAccessor_keeps | split | simp only [Keeps.mk_iff] | with_reducible assumption | intro _ | dsimp only

theorem State.dbgWrite_keeps {r₀ : State} {s : State} (hs : Keeps r₀ s) (acc : Accessor) (n : Nat) (v : Word) : Keeps r₀ (State.dbgWrite s acc n v) := by
  unfold State.dbgWrite
  try dsimp only
  repeat' first | with_reducible exact hs | with_reducible apply State.dbgPut_keeps | with_reducible apply State.refuseAccessor_keeps | split | simp only [Keeps.mk_iff] | with_reducible assumption | intro _ | dsimp only

end Sys2Proof.Machine
end

