-- ==== Sys2Proof/Laws/KeepsMgmt.lean ====
section
/-! SUPPORT. Keeps (Laws/Keeps.lean) of the operations of Machine/Mgmt.lean. -/

namespace Sys2Proof.Machine

open Sys2Proof

set_option simprocs false
set_option linter.unusedTactic false
set_option linter.unreachableTactic false
set_option linter.unusedSimpArgs false
set_option linter.unusedVariables false


theorem State.mailbox_keeps {r₀ : State} {s : State} (hs : Keeps r₀ s) (op : Nat) (payload : List Byte) (serve : State → State) (hserve : ∀ x, Keeps r₀ x → Keeps r₀ (serve x)) : Keeps r₀ (State.mailbox s op payload serve) := by
  unfold State.mailbox
  try dsimp only
  repeat' first | with_reducible exact hs | with_reducible apply hserve | with_reducible apply State.modKeeper_keeps | with_reducible apply State.refuseAccessor_keeps | exact (State.serve_keeps (by assumption) _ _ _ ‹_›) | split | simp only [Keeps.mk_iff] | with_reducible assumption | intro _ | dsimp only

theorem State.serveInfo_keeps {r₀ : State} {s : State} (hs : Keeps r₀ s) : Keeps r₀ (State.serveInfo s) := by
  unfold State.serveInfo
  try dsimp only
  repeat' first | with_reducible exact hs | with_reducible apply State.mbReply_keeps | split | simp only [Keeps.mk_iff] | with_reducible assumption | intro _ | dsimp only

theorem State.serveWall_keeps {r₀ : State} {s : State} (hs : Keeps r₀ s) (v : Word) : Keeps r₀ (State.serveWall s v) := by
  unfold State.serveWall
  try dsimp only
  repeat' first | with_reducible exact hs | with_reducible apply State.mbReply_keeps | with_reducible apply State.modKeeper_keeps | split | simp only [Keeps.mk_iff] | with_reducible assumption | intro _ | dsimp only

theorem State.serveLoad_keeps {r₀ : State} {s : State} (hs : Keeps r₀ s) (src : Word) : Keeps r₀ (State.serveLoad s src) := by
  unfold State.serveLoad
  try dsimp only
  repeat' first | with_reducible exact hs | with_reducible apply State.chartCtrl_keeps | with_reducible apply State.mbReply_keeps | with_reducible apply State.modChart_keeps | with_reducible apply State.modKeeper_keeps | split | simp only [Keeps.mk_iff] | with_reducible assumption | intro _ | dsimp only

theorem State.serveChart_keeps {r₀ : State} {s : State} (hs : Keeps r₀ s) (cmd : Nat) (c : Nat) : Keeps r₀ (State.serveChart s cmd c) := by
  unfold State.serveChart
  try dsimp only
  repeat' first | with_reducible exact hs | with_reducible apply State.chartCtrl_keeps | with_reducible apply State.mbReply_keeps | with_reducible apply State.modKeeper_keeps | split | simp only [Keeps.mk_iff] | with_reducible assumption | intro _ | dsimp only

theorem State.serveFaulted_keeps {r₀ : State} {s : State} (hs : Keeps r₀ s) (core : Nat) (on : Bool) : Keeps r₀ (State.serveFaulted s core on) := by
  unfold State.serveFaulted
  try dsimp only
  repeat' first | with_reducible exact hs | with_reducible apply State.mbReply_keeps | with_reducible apply State.modChart_keeps | split | simp only [Keeps.mk_iff] | with_reducible assumption | intro _ | dsimp only

theorem State.serveEvents_keeps {r₀ : State} {s : State} (hs : Keeps r₀ s) (seq : Nat) (count : Nat) : Keeps r₀ (State.serveEvents s seq count) := by
  unfold State.serveEvents
  try dsimp only
  repeat' first | with_reducible exact hs | with_reducible apply EngRun.bytes_keeps | with_reducible apply State.mbReply_keeps | split | simp only [Keeps.mk_iff] | with_reducible assumption | intro _ | dsimp only

theorem State.serveLogbook_keeps {r₀ : State} {s : State} (hs : Keeps r₀ s) (page : Nat) (count : Nat) : Keeps r₀ (State.serveLogbook s page count) := by
  unfold State.serveLogbook
  try dsimp only
  repeat' first | with_reducible exact hs | with_reducible apply State.mbReply_keeps | split | simp only [Keeps.mk_iff] | with_reducible assumption | intro _ | dsimp only

theorem State.serveWear_keeps {r₀ : State} {s : State} (hs : Keeps r₀ s) (k : Nat) (ch : Nat) : Keeps r₀ (State.serveWear s k ch) := by
  unfold State.serveWear
  try dsimp only
  repeat' first | with_reducible exact hs | with_reducible apply State.mbReply_keeps | split | simp only [Keeps.mk_iff] | with_reducible assumption | intro _ | dsimp only

theorem State.servePower_keeps {r₀ : State} {s : State} (hs : Keeps r₀ s) (w : Nat) : Keeps r₀ (State.servePower s w) := by
  unfold State.servePower
  try dsimp only
  repeat' first | with_reducible exact hs | with_reducible apply State.capWrite_keeps | with_reducible apply State.mbReply_keeps | split | simp only [Keeps.mk_iff] | with_reducible assumption | intro _ | dsimp only

theorem State.serveRotate_keeps {r₀ : State} {s : State} (hs : Keeps r₀ s) : Keeps r₀ (State.serveRotate s) := by
  unfold State.serveRotate
  try dsimp only
  repeat' first | with_reducible exact hs | with_reducible apply State.mbReply_keeps | with_reducible apply State.rotate_keeps | split | simp only [Keeps.mk_iff] | with_reducible assumption | intro _ | dsimp only

theorem State.mbGo_keeps {r₀ : State} {s : State} (hs : Keeps r₀ s) : Keeps r₀ (State.mbGo s) := by
  unfold State.mbGo
  try dsimp only
  repeat' first | with_reducible exact hs | with_reducible apply State.mbReply_keeps | with_reducible apply State.modKeeper_keeps | with_reducible apply State.serveChart_keeps | with_reducible apply State.serveEvents_keeps | with_reducible apply State.serveFaulted_keeps | with_reducible apply State.serveInfo_keeps | with_reducible apply State.serveLoad_keeps | with_reducible apply State.serveLogbook_keeps | with_reducible apply State.servePower_keeps | with_reducible apply State.serveRotate_keeps | with_reducible apply State.serveWall_keeps | with_reducible apply State.serveWear_keeps | split | simp only [Keeps.mk_iff] | with_reducible assumption | intro _ | dsimp only

theorem State.tallyClear_keeps {r₀ : State} {s : State} (hs : Keeps r₀ s) (acc : Accessor) (v : Word) : Keeps r₀ (State.tallyClear s acc v) := by
  unfold State.tallyClear
  try dsimp only
  repeat' first | with_reducible exact hs | with_reducible apply State.modCon_keeps | with_reducible apply State.modKeeper_keeps | with_reducible apply State.refuseAccessor_keeps | with_reducible apply overAll_keeps | (with_reducible refine Keeps.overAll ?_ (fun _ _ _ => ?_) _) | split | simp only [Keeps.mk_iff] | with_reducible assumption | intro _ | dsimp only

end Sys2Proof.Machine
end

