-- ==== Sys2Proof/Laws/KeepsRegisters.lean ====
section
/-! SUPPORT. Keeps (Laws/Keeps.lean) of the operations of Machine/Registers.lean. -/

namespace Sys2Proof.Machine

open Sys2Proof

set_option simprocs false
set_option linter.unusedTactic false
set_option linter.unreachableTactic false
set_option linter.unusedSimpArgs false
set_option linter.unusedVariables false


theorem State.foeWrite_keeps {r₀ : State} {s : State} (hs : Keeps r₀ s) (n : Nat) (v : Word) : Keeps r₀ (State.foeWrite s n v) := by
  unfold State.foeWrite
  try dsimp only
  repeat' first | with_reducible exact hs | with_reducible apply State.modCore_keeps | split | simp only [Keeps.mk_iff] | with_reducible assumption | intro _ | dsimp only

theorem State.ccbState_keeps {r₀ : State} {s : State} (hs : Keeps r₀ s) (n : Nat) : Keeps r₀ (State.ccbState s n).2 := by
  unfold State.ccbState
  try dsimp only
  repeat' first | with_reducible exact hs | with_reducible apply State.draw_keeps | split | simp only [Keeps.mk_iff] | with_reducible assumption | intro _ | dsimp only

theorem State.ccbRead_keeps {r₀ : State} {s : State} (hs : Keeps r₀ s) (n : Nat) (r : Nat) : Keeps r₀ (State.ccbRead s n r).2 := by
  unfold State.ccbRead
  try dsimp only
  repeat' first | with_reducible exact hs | with_reducible apply State.ccbState_keeps | split | simp only [Keeps.mk_iff] | with_reducible assumption | intro _ | dsimp only

theorem State.ccbWrite_keeps {r₀ : State} {s : State} (hs : Keeps r₀ s) (n : Nat) (r : Nat) (v : Word) : Keeps r₀ (State.ccbWrite s n r v) := by
  unfold State.ccbWrite
  try dsimp only
  repeat' first | with_reducible exact hs | with_reducible apply State.foeWrite_keeps | with_reducible apply State.modCore_keeps | split | simp only [Keeps.mk_iff] | with_reducible assumption | intro _ | dsimp only

theorem State.dcWrite_keeps {r₀ : State} {s : State} (hs : Keeps r₀ s) (d : Nat) (r : Nat) (v : Word) : Keeps r₀ (State.dcWrite s d r v) := by
  unfold State.dcWrite
  try dsimp only
  repeat' first | with_reducible exact hs | with_reducible apply State.coreResetGo_keeps | with_reducible apply State.modDie_keeps | split | simp only [Keeps.mk_iff] | with_reducible assumption | intro _ | dsimp only

theorem State.syncWrite_keeps {r₀ : State} {s : State} (hs : Keeps r₀ s) (acc : Accessor) (r : Nat) (v : Word) : Keeps r₀ (State.syncWrite s acc r v) := by
  unfold State.syncWrite
  try dsimp only
  repeat' first | with_reducible exact hs | with_reducible apply State.fogStatusWrite_keeps | with_reducible apply State.liveLimits_keeps | split | simp only [Keeps.mk_iff] | with_reducible assumption | intro _ | dsimp only

theorem State.stkRegWrite_keeps {r₀ : State} {s : State} (hs : Keeps r₀ s) (k : Nat) (r : Nat) (v : Word) : Keeps r₀ (State.stkRegWrite s k r v) := by
  unfold State.stkRegWrite
  try dsimp only
  repeat' first | with_reducible exact hs | with_reducible apply State.modStack_keeps | with_reducible apply State.stkClear_keeps | with_reducible apply State.train_keeps | split | simp only [Keeps.mk_iff] | with_reducible assumption | intro _ | dsimp only

theorem State.meshWrite_keeps {r₀ : State} {s : State} (hs : Keeps r₀ s) (r : Nat) (v : Word) : Keeps r₀ (State.meshWrite s r v) := by
  unfold State.meshWrite
  try dsimp only
  repeat' first | with_reducible exact hs | with_reducible apply State.meshClear_keeps | with_reducible apply State.meshLimits_keeps | split | simp only [Keeps.mk_iff] | with_reducible assumption | intro _ | dsimp only

theorem State.chartWrite_keeps {r₀ : State} {s : State} (hs : Keeps r₀ s) (r : Nat) (v : Word) : Keeps r₀ (State.chartWrite s r v) := by
  unfold State.chartWrite
  try dsimp only
  repeat' first | with_reducible exact hs | with_reducible apply State.chartCtrl_keeps | with_reducible apply State.chartStatusWrite_keeps | with_reducible apply State.faultedWrite_keeps | with_reducible apply State.modChart_keeps | split | simp only [Keeps.mk_iff] | with_reducible assumption | intro _ | dsimp only

theorem State.clkWrite_keeps {r₀ : State} {s : State} (hs : Keeps r₀ s) (acc : Accessor) (r : Nat) (v : Word) : Keeps r₀ (State.clkWrite s acc r v) := by
  unfold State.clkWrite
  try dsimp only
  repeat' first | with_reducible exact hs | with_reducible apply State.sidLoad_keeps | with_reducible apply State.sidStep_keeps | split | simp only [Keeps.mk_iff] | with_reducible assumption | intro _ | dsimp only

theorem State.funcWrite_keeps {r₀ : State} {s : State} (hs : Keeps r₀ s) (acc : Accessor) (f : Nat) (r : Nat) (v : Word) : Keeps r₀ (State.funcWrite s acc f r v) := by
  unfold State.funcWrite
  try dsimp only
  repeat' first | with_reducible exact hs | with_reducible apply State.dbPendWrite_keeps | with_reducible apply State.modFunc_keeps | with_reducible apply State.msixSend_keeps | split | simp only [Keeps.mk_iff] | with_reducible assumption | intro _ | dsimp only

theorem State.funcHostWrite_keeps {r₀ : State} {s : State} (hs : Keeps r₀ s) (f : Nat) (r : Nat) (v : Word) : Keeps r₀ (State.funcHostWrite s f r v) := by
  unfold State.funcHostWrite
  try dsimp only
  repeat' first | with_reducible exact hs | with_reducible apply EngRun.put_keeps | with_reducible apply State.doorbell_keeps | with_reducible apply State.modFunc_keeps | with_reducible apply State.msixFlush_keeps | split | simp only [Keeps.mk_iff] | with_reducible assumption | intro _ | dsimp only

theorem State.merWrite_keeps {r₀ : State} {s : State} (hs : Keeps r₀ s) (r : Nat) (v : Word) : Keeps r₀ (State.merWrite s r v) := by
  unfold State.merWrite
  try dsimp only
  repeat' first | with_reducible exact hs | with_reducible apply State.digCtrl_keeps | with_reducible apply State.merCmd_keeps | split | simp only [Keeps.mk_iff] | with_reducible assumption | intro _ | dsimp only

theorem State.tallyWriteReg_keeps {r₀ : State} {s : State} (hs : Keeps r₀ s) (t : Tid) (tag : Tag) (d : Nat) (r : Nat) (v : Word) : Keeps r₀ (State.tallyWriteReg s t tag d r v) := by
  unfold State.tallyWriteReg
  try dsimp only
  repeat' first | with_reducible exact hs | with_reducible apply State.tallyAbort_keeps | with_reducible apply State.tallySubmit_keeps | split | simp only [Keeps.mk_iff] | with_reducible assumption | intro _ | dsimp only

theorem State.sessWrite_keeps {r₀ : State} {s : State} (hs : Keeps r₀ s) (acc : Accessor) (r : Nat) (v : Word) : Keeps r₀ (State.sessWrite s acc r v) := by
  unfold State.sessWrite
  try dsimp only
  repeat' first | with_reducible exact hs | with_reducible apply State.modArea_keeps | with_reducible apply State.report_keeps | with_reducible apply State.rotate_keeps | with_reducible apply State.sessCmd_keeps | split | simp only [Keeps.mk_iff] | with_reducible assumption | intro _ | dsimp only

theorem State.idWrite_keeps {r₀ : State} {s : State} (hs : Keeps r₀ s) (acc : Accessor) (r : Nat) (v : Word) : Keeps r₀ (State.idWrite s acc r v) := by
  unfold State.idWrite
  try dsimp only
  repeat' first | with_reducible exact hs | with_reducible apply State.idCmd_keeps | with_reducible apply State.modTrust_keeps | split | simp only [Keeps.mk_iff] | with_reducible assumption | intro _ | dsimp only

theorem State.quoteWrite_keeps {r₀ : State} {s : State} (hs : Keeps r₀ s) (acc : Accessor) (r : Nat) (v : Word) : Keeps r₀ (State.quoteWrite s acc r v) := by
  unfold State.quoteWrite
  try dsimp only
  repeat' first | with_reducible exact hs | with_reducible apply State.modTrust_keeps | with_reducible apply State.quoteGo_keeps | split | simp only [Keeps.mk_iff] | with_reducible assumption | intro _ | dsimp only

theorem State.faultWrite_keeps {r₀ : State} {s : State} (hs : Keeps r₀ s) (r : Nat) (v : Word) : Keeps r₀ (State.faultWrite s r v) := by
  unfold State.faultWrite
  try dsimp only
  repeat' first | with_reducible exact hs | with_reducible apply State.kick_keeps | with_reducible apply State.modCon_keeps | with_reducible apply State.modKeeper_keeps | split | simp only [Keeps.mk_iff] | with_reducible assumption | intro _ | dsimp only

theorem State.telWrite_keeps {r₀ : State} {s : State} (hs : Keeps r₀ s) (acc : Accessor) (r : Nat) (v : Word) : Keeps r₀ (State.telWrite s acc r v) := by
  unfold State.telWrite
  try dsimp only
  repeat' first | with_reducible exact hs | with_reducible apply State.pwrLimits_keeps | with_reducible apply State.tallyClear_keeps | split | simp only [Keeps.mk_iff] | with_reducible assumption | intro _ | dsimp only

theorem State.dbgPageRead_keeps {r₀ : State} {s : State} (hs : Keeps r₀ s) (acc : Accessor) (n : Nat) (o : Nat) : Keeps r₀ (State.dbgPageRead s acc n o).2 := by
  unfold State.dbgPageRead
  try dsimp only
  repeat' first | with_reducible exact hs | with_reducible apply State.dbgRead_keeps | split | simp only [Keeps.mk_iff] | with_reducible assumption | intro _ | dsimp only

theorem State.dbgPageWrite_keeps {r₀ : State} {s : State} (hs : Keeps r₀ s) (acc : Accessor) (n : Nat) (o : Nat) (v : Word) : Keeps r₀ (State.dbgPageWrite s acc n o v) := by
  unfold State.dbgPageWrite
  try dsimp only
  repeat' first | with_reducible exact hs | with_reducible apply State.dbgCtrl_keeps | with_reducible apply State.dbgWrite_keeps | split | simp only [Keeps.mk_iff] | with_reducible assumption | intro _ | dsimp only

theorem State.blockGet_keeps {r₀ : State} {s : State} (hs : Keeps r₀ s) (acc : Accessor) (block : Nat) (r : Nat) : Keeps r₀ (State.blockGet s acc block r).2 := by
  unfold State.blockGet
  try dsimp only
  repeat' first | with_reducible exact hs | with_reducible apply State.ccbRead_keeps | with_reducible apply State.dbgPageRead_keeps | split | simp only [Keeps.mk_iff] | with_reducible assumption | intro _ | dsimp only

theorem State.ctlGet_keeps {r₀ : State} {s : State} (hs : Keeps r₀ s) (acc : Accessor) (a : Nat) : Keeps r₀ (State.ctlGet s acc a).2 := by
  unfold State.ctlGet
  repeat' first | with_reducible exact hs | with_reducible apply State.blockGet_keeps | split | simp only [Keeps.mk_iff] | with_reducible assumption | intro _ | dsimp only

theorem State.blockPut_keeps {r₀ : State} {s : State} (hs : Keeps r₀ s) (acc : Accessor) (tag : Tag) (block : Nat) (r : Nat) (v : Word) : Keeps r₀ (State.blockPut s acc tag block r v) := by
  unfold State.blockPut
  try dsimp only
  repeat' first | with_reducible exact hs | with_reducible apply State.ccbWrite_keeps | with_reducible apply State.chartWrite_keeps | with_reducible apply State.clkWrite_keeps | with_reducible apply State.dbgPageWrite_keeps | with_reducible apply State.dcWrite_keeps | with_reducible apply State.faultWrite_keeps | with_reducible apply State.funcWrite_keeps | with_reducible apply State.idWrite_keeps | with_reducible apply State.merWrite_keeps | with_reducible apply State.meshWrite_keeps | with_reducible apply State.quoteWrite_keeps | with_reducible apply State.sessWrite_keeps | with_reducible apply State.stkRegWrite_keeps | with_reducible apply State.syncWrite_keeps | with_reducible apply State.tallyWriteReg_keeps | with_reducible apply State.telWrite_keeps | with_reducible apply State.windowWrite_keeps | split | simp only [Keeps.mk_iff] | with_reducible assumption | intro _ | dsimp only

theorem State.ctlPut_keeps {r₀ : State} {s : State} (hs : Keeps r₀ s) (acc : Accessor) (tag : Tag) (a : Nat) (v : Word) : Keeps r₀ (State.ctlPut s acc tag a v) := by
  unfold State.ctlPut
  repeat' first | with_reducible exact hs | with_reducible apply State.blockPut_keeps | split | simp only [Keeps.mk_iff] | with_reducible assumption | intro _ | dsimp only

theorem State.ctlRead_keeps {r₀ : State} {s : State} (hs : Keeps r₀ s) (acc : Accessor) (a : Nat) : Keeps r₀ (State.ctlRead s acc a).2 := by
  unfold State.ctlRead
  try dsimp only
  repeat' first | with_reducible exact hs | with_reducible apply State.ctlGet_keeps | with_reducible apply State.refuseAccessor_keeps | split | simp only [Keeps.mk_iff] | with_reducible assumption | intro _ | dsimp only

theorem State.ctlWrite_keeps {r₀ : State} {s : State} (hs : Keeps r₀ s) (acc : Accessor) (a : Nat) (v : Word) : Keeps r₀ (State.ctlWrite s acc a v) := by
  unfold State.ctlWrite
  try dsimp only
  repeat' first | with_reducible exact hs | with_reducible apply State.ctlPut_keeps | with_reducible apply State.refuseAccessor_keeps | with_reducible apply State.regCmd_keeps | split | simp only [Keeps.mk_iff] | with_reducible assumption | intro _ | dsimp only

theorem State.bar0Get_keeps {r₀ : State} {s : State} (hs : Keeps r₀ s) (o : Nat) : Keeps r₀ (State.bar0Get s o).2 := by
  unfold State.bar0Get
  try dsimp only
  repeat' first | with_reducible exact hs | with_reducible apply State.ctlGet_keeps | split | simp only [Keeps.mk_iff] | with_reducible assumption | intro _ | dsimp only

theorem State.bootCtrlWrite_keeps {r₀ : State} {s : State} (hs : Keeps r₀ s) (v : Word) : Keeps r₀ (State.bootCtrlWrite s v) := by
  unfold State.bootCtrlWrite
  try dsimp only
  repeat' first | with_reducible exact hs | with_reducible apply State.bootAbort_keeps | with_reducible apply State.bootGo_keeps | with_reducible apply State.warmGo_keeps | split | simp only [Keeps.mk_iff] | with_reducible assumption | intro _ | dsimp only

theorem State.bar0Put_keeps {r₀ : State} {s : State} (hs : Keeps r₀ s) (o : Nat) (v : Word) : Keeps r₀ (State.bar0Put s o v) := by
  unfold State.bar0Put
  try dsimp only
  repeat' first | with_reducible exact hs | with_reducible apply State.bootCtrlWrite_keeps | with_reducible apply State.ctlPut_keeps | with_reducible apply State.funcHostWrite_keeps | with_reducible apply State.mbGo_keeps | with_reducible apply State.modKeeper_keeps | split | simp only [Keeps.mk_iff] | with_reducible assumption | intro _ | dsimp only

theorem State.refuseBar_keeps {r₀ : State} {s : State} (hs : Keeps r₀ s) (f : Nat) (o : Nat) : Keeps r₀ (State.refuseBar s f o) := by
  unfold State.refuseBar
  try dsimp only
  repeat' first | with_reducible exact hs | with_reducible apply State.refuseAccessor_keeps | split | simp only [Keeps.mk_iff] | with_reducible assumption | intro _ | dsimp only

theorem State.barGet_keeps {r₀ : State} {s : State} (hs : Keeps r₀ s) (f : Nat) (o : Nat) : Keeps r₀ (State.barGet s f o).2 := by
  unfold State.barGet
  try dsimp only
  repeat' first | with_reducible exact hs | with_reducible apply State.bar0Get_keeps | split | simp only [Keeps.mk_iff] | with_reducible assumption | intro _ | dsimp only

theorem State.barPut_keeps {r₀ : State} {s : State} (hs : Keeps r₀ s) (f : Nat) (o : Nat) (v : Word) : Keeps r₀ (State.barPut s f o v) := by
  unfold State.barPut
  try dsimp only
  repeat' first | with_reducible exact hs | with_reducible apply State.bar0Put_keeps | with_reducible apply State.funcHostWrite_keeps | split | simp only [Keeps.mk_iff] | with_reducible assumption | intro _ | dsimp only

theorem State.barWrite_keeps {r₀ : State} {s : State} (hs : Keeps r₀ s) (f : Nat) (o : Nat) (v : Word) : Keeps r₀ (State.barWrite s f o v) := by
  unfold State.barWrite
  try dsimp only
  repeat' first | with_reducible exact hs | with_reducible apply State.barPut_keeps | with_reducible apply State.refuseBar_keeps | split | simp only [Keeps.mk_iff] | with_reducible assumption | intro _ | dsimp only

theorem State.barCount_keeps {r₀ : State} {s : State} (hs : Keeps r₀ s) (f : Nat) (off : Nat) (len : Nat) (write : Bool) : Keeps r₀ (State.barCount s f off len write) := by
  unfold State.barCount
  try dsimp only
  repeat' first | with_reducible exact hs | with_reducible apply State.refuseBar_keeps | split | simp only [Keeps.mk_iff] | with_reducible assumption | intro _ | dsimp only

theorem State.barReadBytes_keeps {r₀ : State} {s : State} (hs : Keeps r₀ s) (f : Nat) (off : Nat) (len : Nat) : Keeps r₀ (State.barReadBytes s f off len).2 := by
  unfold State.barReadBytes
  try dsimp only
  repeat' first | with_reducible exact hs | with_reducible apply State.barCount_keeps | with_reducible apply State.barGet_keeps | (with_reducible refine Keeps.foldlP InboundGot.s ?_ (fun _ _ _ => ?_) _) | (with_reducible refine Keeps.foldlP Hop.s ?_ (fun _ _ _ => ?_) _) | (with_reducible refine Keeps.foldlP EngRun.s ?_ (fun _ _ _ => ?_) _) | (with_reducible refine Keeps.foldlP Prod.snd ?_ (fun _ _ _ => ?_) _) | (with_reducible refine Keeps.foldlP Prod.fst ?_ (fun _ _ _ => ?_) _) | (with_reducible refine Keeps.foldlP (fun p => EngRun.s (Prod.snd p)) ?_ (fun _ _ _ => ?_) _) | (with_reducible refine Keeps.foldlP (fun p => Prod.snd (Prod.snd p)) ?_ (fun _ _ _ => ?_) _) | (with_reducible refine Keeps.foldl ?_ (fun _ _ _ => ?_) _) | split | simp only [Keeps.mk_iff] | with_reducible assumption | intro _ | dsimp only

theorem State.barWriteBytes_keeps {r₀ : State} {s : State} (hs : Keeps r₀ s) (f : Nat) (off : Nat) (data : List Byte) : Keeps r₀ (State.barWriteBytes s f off data) := by
  unfold State.barWriteBytes
  try dsimp only
  repeat' first | with_reducible exact hs | with_reducible apply State.barCount_keeps | with_reducible apply State.barPut_keeps | with_reducible apply State.refuseHost_keeps | (with_reducible refine Keeps.foldlP InboundGot.s ?_ (fun _ _ _ => ?_) _) | (with_reducible refine Keeps.foldlP Hop.s ?_ (fun _ _ _ => ?_) _) | (with_reducible refine Keeps.foldlP EngRun.s ?_ (fun _ _ _ => ?_) _) | (with_reducible refine Keeps.foldlP Prod.snd ?_ (fun _ _ _ => ?_) _) | (with_reducible refine Keeps.foldlP Prod.fst ?_ (fun _ _ _ => ?_) _) | (with_reducible refine Keeps.foldlP (fun p => EngRun.s (Prod.snd p)) ?_ (fun _ _ _ => ?_) _) | (with_reducible refine Keeps.foldlP (fun p => Prod.snd (Prod.snd p)) ?_ (fun _ _ _ => ?_) _) | (with_reducible refine Keeps.foldl ?_ (fun _ _ _ => ?_) _) | split | simp only [Keeps.mk_iff] | with_reducible assumption | intro _ | dsimp only

theorem State.ctlAck_keeps {r₀ : State} {s : State} (hs : Keeps r₀ s) (node : Nat) (a : Nat) (v : Word) (p : Packet) : Keeps r₀ (State.ctlAck s node a v p) := by
  unfold State.ctlAck
  try dsimp only
  repeat' first | with_reducible exact hs | with_reducible apply State.answer_keeps | with_reducible apply State.modCon_keeps | split | simp only [Keeps.mk_iff] | with_reducible assumption | intro _ | dsimp only

theorem State.ctlPerform_keeps {r₀ : State} {s : State} (hs : Keeps r₀ s) (node : Nat) (p : Packet) : Keeps r₀ (State.ctlPerform s node p) := by
  unfold State.ctlPerform
  try dsimp only
  repeat' first | with_reducible exact hs | with_reducible apply State.answer_keeps | with_reducible apply State.ctlAck_keeps | with_reducible apply State.ctlGet_keeps | with_reducible apply State.ctlPut_keeps | split | simp only [Keeps.mk_iff] | with_reducible assumption | intro _ | dsimp only

end Sys2Proof.Machine
end

