-- ==== Sys2Proof/Laws/Completes.lean ====
section
/-! SUPPORT. Every meaning answers a next state that keeps the queue, the member and the form of the memories. -/

namespace Sys2Proof.Machine

open Sys2Proof

set_option simprocs false
set_option linter.unusedTactic false
set_option linter.unreachableTactic false
set_option linter.unusedSimpArgs false
set_option linter.unnecessarySeqFocus false

/-- The outcome is a next state that keeps what `Keeps` names of r. -/
def Ok (r : State) (o : Out State) : Prop := ∃ u, o = .next u ∧ Keeps r u

theorem Ok.next {r u : State} (h : Keeps r u) : Ok r (.next u) := ⟨u, rfl, h⟩
theorem clocked_ok {r₀ s t : State} (hs : Keeps r₀ s) (ht : Keeps r₀ t) : Ok r₀ (clocked s t) := by
  unfold clocked
  repeat' first | with_reducible refine Ok.next ?_ | (intro x hx) | with_reducible assumption | with_reducible exact hs | with_reducible exact ht | split | simp only [Keeps.mk_iff] | with_reducible assumption | intro _ | dsimp only

theorem State.keeperDoes_ok {r₀ s t : State} (hs : Keeps r₀ s) (ht : Keeps r₀ t) : Ok r₀ (State.keeperDoes s t) := by
  unfold State.keeperDoes
  repeat' first | with_reducible refine Ok.next ?_ | (intro x hx) | with_reducible assumption | with_reducible exact hs | with_reducible exact ht | split | simp only [Keeps.mk_iff] | with_reducible assumption | intro _ | dsimp only

theorem issue_ok {r₀ s : State} (hs : Keeps r₀ s) (t : Tid) (srcs : List Nat) (k : State → State) (hk : ∀ x, Keeps r₀ x → Keeps r₀ (k x)) : Ok r₀ (issue s t srcs k) := by
  unfold issue
  repeat' first | with_reducible refine Ok.next ?_ | (intro x hx) | with_reducible assumption | with_reducible exact hs | with_reducible apply hk | with_reducible apply State.modThr_keeps | split | simp only [Keeps.mk_iff] | with_reducible assumption | intro _ | dsimp only

theorem accessInstr_ok {r₀ s : State} (hs : Keeps r₀ s) (t : Tid) (srcs : List Nat) (kind : Thread → AccKind) (addr : Thread → Nat) : Ok r₀ (accessInstr s t srcs kind addr) := by
  unfold accessInstr
  repeat' first | with_reducible refine issue_ok ?_ _ _ _ ?_ | with_reducible refine Ok.next ?_ | (intro x hx) | with_reducible assumption | with_reducible exact hs | with_reducible apply State.access_keeps | split | simp only [Keeps.mk_iff] | with_reducible assumption | intro _ | dsimp only

theorem alu2_ok {r₀ s : State} (hs : Keeps r₀ s) (t : Tid) (rd : Reg) (ra : Reg) (rb : Reg) (f : Word → Word → Word) : Ok r₀ (alu2 t rd ra rb f s) := by
  unfold alu2
  repeat' first | with_reducible refine issue_ok ?_ _ _ _ ?_ | with_reducible refine Ok.next ?_ | (intro x hx) | with_reducible assumption | with_reducible exact hs | with_reducible apply State.past_keeps | with_reducible apply State.setG_keeps | split | simp only [Keeps.mk_iff] | with_reducible assumption | intro _ | dsimp only

theorem alu1_ok {r₀ s : State} (hs : Keeps r₀ s) (t : Tid) (rd : Reg) (ra : Reg) (f : Word → Word) : Ok r₀ (alu1 t rd ra f s) := by
  unfold alu1
  repeat' first | with_reducible refine issue_ok ?_ _ _ _ ?_ | with_reducible refine Ok.next ?_ | (intro x hx) | with_reducible assumption | with_reducible exact hs | with_reducible apply State.past_keeps | with_reducible apply State.setG_keeps | split | simp only [Keeps.mk_iff] | with_reducible assumption | intro _ | dsimp only

theorem alu0_ok {r₀ s : State} (hs : Keeps r₀ s) (t : Tid) (rd : Reg) (v : State → Word) : Ok r₀ (alu0 t rd v s) := by
  unfold alu0
  repeat' first | with_reducible refine issue_ok ?_ _ _ _ ?_ | with_reducible refine Ok.next ?_ | (intro x hx) | with_reducible assumption | with_reducible exact hs | with_reducible apply State.past_keeps | with_reducible apply State.setG_keeps | split | simp only [Keeps.mk_iff] | with_reducible assumption | intro _ | dsimp only

theorem execAdd_ok {r₀ s : State} (hs : Keeps r₀ s) (t : Tid) (rd : Reg) (ra : Reg) (rb : Reg) : Ok r₀ (execAdd t rd ra rb s) := by
  unfold execAdd
  repeat' first | with_reducible refine alu2_ok ?_ _ _ _ _ _  | with_reducible refine Ok.next ?_ | (intro x hx) | with_reducible assumption | with_reducible exact hs | split | simp only [Keeps.mk_iff] | with_reducible assumption | intro _ | dsimp only

theorem execSub_ok {r₀ s : State} (hs : Keeps r₀ s) (t : Tid) (rd : Reg) (ra : Reg) (rb : Reg) : Ok r₀ (execSub t rd ra rb s) := by
  unfold execSub
  repeat' first | with_reducible refine alu2_ok ?_ _ _ _ _ _  | with_reducible refine Ok.next ?_ | (intro x hx) | with_reducible assumption | with_reducible exact hs | split | simp only [Keeps.mk_iff] | with_reducible assumption | intro _ | dsimp only

theorem execAnd_ok {r₀ s : State} (hs : Keeps r₀ s) (t : Tid) (rd : Reg) (ra : Reg) (rb : Reg) : Ok r₀ (execAnd t rd ra rb s) := by
  unfold execAnd
  repeat' first | with_reducible refine alu2_ok ?_ _ _ _ _ _  | with_reducible refine Ok.next ?_ | (intro x hx) | with_reducible assumption | with_reducible exact hs | split | simp only [Keeps.mk_iff] | with_reducible assumption | intro _ | dsimp only

theorem execOr_ok {r₀ s : State} (hs : Keeps r₀ s) (t : Tid) (rd : Reg) (ra : Reg) (rb : Reg) : Ok r₀ (execOr t rd ra rb s) := by
  unfold execOr
  repeat' first | with_reducible refine alu2_ok ?_ _ _ _ _ _  | with_reducible refine Ok.next ?_ | (intro x hx) | with_reducible assumption | with_reducible exact hs | split | simp only [Keeps.mk_iff] | with_reducible assumption | intro _ | dsimp only

theorem execXor_ok {r₀ s : State} (hs : Keeps r₀ s) (t : Tid) (rd : Reg) (ra : Reg) (rb : Reg) : Ok r₀ (execXor t rd ra rb s) := by
  unfold execXor
  repeat' first | with_reducible refine alu2_ok ?_ _ _ _ _ _  | with_reducible refine Ok.next ?_ | (intro x hx) | with_reducible assumption | with_reducible exact hs | split | simp only [Keeps.mk_iff] | with_reducible assumption | intro _ | dsimp only

theorem execAndn_ok {r₀ s : State} (hs : Keeps r₀ s) (t : Tid) (rd : Reg) (ra : Reg) (rb : Reg) : Ok r₀ (execAndn t rd ra rb s) := by
  unfold execAndn
  repeat' first | with_reducible refine alu2_ok ?_ _ _ _ _ _  | with_reducible refine Ok.next ?_ | (intro x hx) | with_reducible assumption | with_reducible exact hs | split | simp only [Keeps.mk_iff] | with_reducible assumption | intro _ | dsimp only

theorem execShl_ok {r₀ s : State} (hs : Keeps r₀ s) (t : Tid) (rd : Reg) (ra : Reg) (rb : Reg) : Ok r₀ (execShl t rd ra rb s) := by
  unfold execShl
  repeat' first | with_reducible refine alu2_ok ?_ _ _ _ _ _  | with_reducible refine Ok.next ?_ | (intro x hx) | with_reducible assumption | with_reducible exact hs | split | simp only [Keeps.mk_iff] | with_reducible assumption | intro _ | dsimp only

theorem execShr_ok {r₀ s : State} (hs : Keeps r₀ s) (t : Tid) (rd : Reg) (ra : Reg) (rb : Reg) : Ok r₀ (execShr t rd ra rb s) := by
  unfold execShr
  repeat' first | with_reducible refine alu2_ok ?_ _ _ _ _ _  | with_reducible refine Ok.next ?_ | (intro x hx) | with_reducible assumption | with_reducible exact hs | split | simp only [Keeps.mk_iff] | with_reducible assumption | intro _ | dsimp only

theorem execSar_ok {r₀ s : State} (hs : Keeps r₀ s) (t : Tid) (rd : Reg) (ra : Reg) (rb : Reg) : Ok r₀ (execSar t rd ra rb s) := by
  unfold execSar
  repeat' first | with_reducible refine alu2_ok ?_ _ _ _ _ _  | with_reducible refine Ok.next ?_ | (intro x hx) | with_reducible assumption | with_reducible exact hs | split | simp only [Keeps.mk_iff] | with_reducible assumption | intro _ | dsimp only

theorem execRol_ok {r₀ s : State} (hs : Keeps r₀ s) (t : Tid) (rd : Reg) (ra : Reg) (rb : Reg) : Ok r₀ (execRol t rd ra rb s) := by
  unfold execRol
  repeat' first | with_reducible refine alu2_ok ?_ _ _ _ _ _  | with_reducible refine Ok.next ?_ | (intro x hx) | with_reducible assumption | with_reducible exact hs | split | simp only [Keeps.mk_iff] | with_reducible assumption | intro _ | dsimp only

theorem execSlt_ok {r₀ s : State} (hs : Keeps r₀ s) (t : Tid) (rd : Reg) (ra : Reg) (rb : Reg) : Ok r₀ (execSlt t rd ra rb s) := by
  unfold execSlt
  repeat' first | with_reducible refine alu2_ok ?_ _ _ _ _ _  | with_reducible refine Ok.next ?_ | (intro x hx) | with_reducible assumption | with_reducible exact hs | split | simp only [Keeps.mk_iff] | with_reducible assumption | intro _ | dsimp only

theorem execSltu_ok {r₀ s : State} (hs : Keeps r₀ s) (t : Tid) (rd : Reg) (ra : Reg) (rb : Reg) : Ok r₀ (execSltu t rd ra rb s) := by
  unfold execSltu
  repeat' first | with_reducible refine alu2_ok ?_ _ _ _ _ _  | with_reducible refine Ok.next ?_ | (intro x hx) | with_reducible assumption | with_reducible exact hs | split | simp only [Keeps.mk_iff] | with_reducible assumption | intro _ | dsimp only

theorem execMin_ok {r₀ s : State} (hs : Keeps r₀ s) (t : Tid) (rd : Reg) (ra : Reg) (rb : Reg) : Ok r₀ (execMin t rd ra rb s) := by
  unfold execMin
  repeat' first | with_reducible refine alu2_ok ?_ _ _ _ _ _  | with_reducible refine Ok.next ?_ | (intro x hx) | with_reducible assumption | with_reducible exact hs | split | simp only [Keeps.mk_iff] | with_reducible assumption | intro _ | dsimp only

theorem execMax_ok {r₀ s : State} (hs : Keeps r₀ s) (t : Tid) (rd : Reg) (ra : Reg) (rb : Reg) : Ok r₀ (execMax t rd ra rb s) := by
  unfold execMax
  repeat' first | with_reducible refine alu2_ok ?_ _ _ _ _ _  | with_reducible refine Ok.next ?_ | (intro x hx) | with_reducible assumption | with_reducible exact hs | split | simp only [Keeps.mk_iff] | with_reducible assumption | intro _ | dsimp only

theorem execMinu_ok {r₀ s : State} (hs : Keeps r₀ s) (t : Tid) (rd : Reg) (ra : Reg) (rb : Reg) : Ok r₀ (execMinu t rd ra rb s) := by
  unfold execMinu
  repeat' first | with_reducible refine alu2_ok ?_ _ _ _ _ _  | with_reducible refine Ok.next ?_ | (intro x hx) | with_reducible assumption | with_reducible exact hs | split | simp only [Keeps.mk_iff] | with_reducible assumption | intro _ | dsimp only

theorem execMaxu_ok {r₀ s : State} (hs : Keeps r₀ s) (t : Tid) (rd : Reg) (ra : Reg) (rb : Reg) : Ok r₀ (execMaxu t rd ra rb s) := by
  unfold execMaxu
  repeat' first | with_reducible refine alu2_ok ?_ _ _ _ _ _  | with_reducible refine Ok.next ?_ | (intro x hx) | with_reducible assumption | with_reducible exact hs | split | simp only [Keeps.mk_iff] | with_reducible assumption | intro _ | dsimp only

theorem execMul_ok {r₀ s : State} (hs : Keeps r₀ s) (t : Tid) (rd : Reg) (ra : Reg) (rb : Reg) : Ok r₀ (execMul t rd ra rb s) := by
  unfold execMul
  repeat' first | with_reducible refine alu2_ok ?_ _ _ _ _ _  | with_reducible refine Ok.next ?_ | (intro x hx) | with_reducible assumption | with_reducible exact hs | split | simp only [Keeps.mk_iff] | with_reducible assumption | intro _ | dsimp only

theorem execMulh_ok {r₀ s : State} (hs : Keeps r₀ s) (t : Tid) (rd : Reg) (ra : Reg) (rb : Reg) : Ok r₀ (execMulh t rd ra rb s) := by
  unfold execMulh
  repeat' first | with_reducible refine alu2_ok ?_ _ _ _ _ _  | with_reducible refine Ok.next ?_ | (intro x hx) | with_reducible assumption | with_reducible exact hs | split | simp only [Keeps.mk_iff] | with_reducible assumption | intro _ | dsimp only

theorem execMulhu_ok {r₀ s : State} (hs : Keeps r₀ s) (t : Tid) (rd : Reg) (ra : Reg) (rb : Reg) : Ok r₀ (execMulhu t rd ra rb s) := by
  unfold execMulhu
  repeat' first | with_reducible refine alu2_ok ?_ _ _ _ _ _  | with_reducible refine Ok.next ?_ | (intro x hx) | with_reducible assumption | with_reducible exact hs | split | simp only [Keeps.mk_iff] | with_reducible assumption | intro _ | dsimp only

theorem execDiv_ok {r₀ s : State} (hs : Keeps r₀ s) (t : Tid) (rd : Reg) (ra : Reg) (rb : Reg) : Ok r₀ (execDiv t rd ra rb s) := by
  unfold execDiv
  repeat' first | with_reducible refine alu2_ok ?_ _ _ _ _ _  | with_reducible refine Ok.next ?_ | (intro x hx) | with_reducible assumption | with_reducible exact hs | split | simp only [Keeps.mk_iff] | with_reducible assumption | intro _ | dsimp only

theorem execDivu_ok {r₀ s : State} (hs : Keeps r₀ s) (t : Tid) (rd : Reg) (ra : Reg) (rb : Reg) : Ok r₀ (execDivu t rd ra rb s) := by
  unfold execDivu
  repeat' first | with_reducible refine alu2_ok ?_ _ _ _ _ _  | with_reducible refine Ok.next ?_ | (intro x hx) | with_reducible assumption | with_reducible exact hs | split | simp only [Keeps.mk_iff] | with_reducible assumption | intro _ | dsimp only

theorem execRem_ok {r₀ s : State} (hs : Keeps r₀ s) (t : Tid) (rd : Reg) (ra : Reg) (rb : Reg) : Ok r₀ (execRem t rd ra rb s) := by
  unfold execRem
  repeat' first | with_reducible refine alu2_ok ?_ _ _ _ _ _  | with_reducible refine Ok.next ?_ | (intro x hx) | with_reducible assumption | with_reducible exact hs | split | simp only [Keeps.mk_iff] | with_reducible assumption | intro _ | dsimp only

theorem execRemu_ok {r₀ s : State} (hs : Keeps r₀ s) (t : Tid) (rd : Reg) (ra : Reg) (rb : Reg) : Ok r₀ (execRemu t rd ra rb s) := by
  unfold execRemu
  repeat' first | with_reducible refine alu2_ok ?_ _ _ _ _ _  | with_reducible refine Ok.next ?_ | (intro x hx) | with_reducible assumption | with_reducible exact hs | split | simp only [Keeps.mk_iff] | with_reducible assumption | intro _ | dsimp only

theorem execClz_ok {r₀ s : State} (hs : Keeps r₀ s) (t : Tid) (rd : Reg) (ra : Reg) : Ok r₀ (execClz t rd ra s) := by
  unfold execClz
  repeat' first | with_reducible refine alu1_ok ?_ _ _ _ _  | with_reducible refine Ok.next ?_ | (intro x hx) | with_reducible assumption | with_reducible exact hs | split | simp only [Keeps.mk_iff] | with_reducible assumption | intro _ | dsimp only

theorem execCtz_ok {r₀ s : State} (hs : Keeps r₀ s) (t : Tid) (rd : Reg) (ra : Reg) : Ok r₀ (execCtz t rd ra s) := by
  unfold execCtz
  repeat' first | with_reducible refine alu1_ok ?_ _ _ _ _  | with_reducible refine Ok.next ?_ | (intro x hx) | with_reducible assumption | with_reducible exact hs | split | simp only [Keeps.mk_iff] | with_reducible assumption | intro _ | dsimp only

theorem execPop_ok {r₀ s : State} (hs : Keeps r₀ s) (t : Tid) (rd : Reg) (ra : Reg) : Ok r₀ (execPop t rd ra s) := by
  unfold execPop
  repeat' first | with_reducible refine alu1_ok ?_ _ _ _ _  | with_reducible refine Ok.next ?_ | (intro x hx) | with_reducible assumption | with_reducible exact hs | split | simp only [Keeps.mk_iff] | with_reducible assumption | intro _ | dsimp only

theorem execAddi_ok {r₀ s : State} (hs : Keeps r₀ s) (t : Tid) (rd : Reg) (ra : Reg) (imm : BitVec 16) : Ok r₀ (execAddi t rd ra imm s) := by
  unfold execAddi
  repeat' first | with_reducible refine alu1_ok ?_ _ _ _ _  | with_reducible refine Ok.next ?_ | (intro x hx) | with_reducible assumption | with_reducible exact hs | split | simp only [Keeps.mk_iff] | with_reducible assumption | intro _ | dsimp only

theorem execAndi_ok {r₀ s : State} (hs : Keeps r₀ s) (t : Tid) (rd : Reg) (ra : Reg) (imm : BitVec 16) : Ok r₀ (execAndi t rd ra imm s) := by
  unfold execAndi
  repeat' first | with_reducible refine alu1_ok ?_ _ _ _ _  | with_reducible refine Ok.next ?_ | (intro x hx) | with_reducible assumption | with_reducible exact hs | split | simp only [Keeps.mk_iff] | with_reducible assumption | intro _ | dsimp only

theorem execOri_ok {r₀ s : State} (hs : Keeps r₀ s) (t : Tid) (rd : Reg) (ra : Reg) (imm : BitVec 16) : Ok r₀ (execOri t rd ra imm s) := by
  unfold execOri
  repeat' first | with_reducible refine alu1_ok ?_ _ _ _ _  | with_reducible refine Ok.next ?_ | (intro x hx) | with_reducible assumption | with_reducible exact hs | split | simp only [Keeps.mk_iff] | with_reducible assumption | intro _ | dsimp only

theorem execXori_ok {r₀ s : State} (hs : Keeps r₀ s) (t : Tid) (rd : Reg) (ra : Reg) (imm : BitVec 16) : Ok r₀ (execXori t rd ra imm s) := by
  unfold execXori
  repeat' first | with_reducible refine alu1_ok ?_ _ _ _ _  | with_reducible refine Ok.next ?_ | (intro x hx) | with_reducible assumption | with_reducible exact hs | split | simp only [Keeps.mk_iff] | with_reducible assumption | intro _ | dsimp only

theorem execSlti_ok {r₀ s : State} (hs : Keeps r₀ s) (t : Tid) (rd : Reg) (ra : Reg) (imm : BitVec 16) : Ok r₀ (execSlti t rd ra imm s) := by
  unfold execSlti
  repeat' first | with_reducible refine alu1_ok ?_ _ _ _ _  | with_reducible refine Ok.next ?_ | (intro x hx) | with_reducible assumption | with_reducible exact hs | split | simp only [Keeps.mk_iff] | with_reducible assumption | intro _ | dsimp only

theorem execSltiu_ok {r₀ s : State} (hs : Keeps r₀ s) (t : Tid) (rd : Reg) (ra : Reg) (imm : BitVec 16) : Ok r₀ (execSltiu t rd ra imm s) := by
  unfold execSltiu
  repeat' first | with_reducible refine alu1_ok ?_ _ _ _ _  | with_reducible refine Ok.next ?_ | (intro x hx) | with_reducible assumption | with_reducible exact hs | split | simp only [Keeps.mk_iff] | with_reducible assumption | intro _ | dsimp only

theorem execShli_ok {r₀ s : State} (hs : Keeps r₀ s) (t : Tid) (rd : Reg) (ra : Reg) (amt : BitVec 6) : Ok r₀ (execShli t rd ra amt s) := by
  unfold execShli
  repeat' first | with_reducible refine alu1_ok ?_ _ _ _ _  | with_reducible refine Ok.next ?_ | (intro x hx) | with_reducible assumption | with_reducible exact hs | split | simp only [Keeps.mk_iff] | with_reducible assumption | intro _ | dsimp only

theorem execShri_ok {r₀ s : State} (hs : Keeps r₀ s) (t : Tid) (rd : Reg) (ra : Reg) (amt : BitVec 6) : Ok r₀ (execShri t rd ra amt s) := by
  unfold execShri
  repeat' first | with_reducible refine alu1_ok ?_ _ _ _ _  | with_reducible refine Ok.next ?_ | (intro x hx) | with_reducible assumption | with_reducible exact hs | split | simp only [Keeps.mk_iff] | with_reducible assumption | intro _ | dsimp only

theorem execSari_ok {r₀ s : State} (hs : Keeps r₀ s) (t : Tid) (rd : Reg) (ra : Reg) (amt : BitVec 6) : Ok r₀ (execSari t rd ra amt s) := by
  unfold execSari
  repeat' first | with_reducible refine alu1_ok ?_ _ _ _ _  | with_reducible refine Ok.next ?_ | (intro x hx) | with_reducible assumption | with_reducible exact hs | split | simp only [Keeps.mk_iff] | with_reducible assumption | intro _ | dsimp only

theorem execRoli_ok {r₀ s : State} (hs : Keeps r₀ s) (t : Tid) (rd : Reg) (ra : Reg) (amt : BitVec 6) : Ok r₀ (execRoli t rd ra amt s) := by
  unfold execRoli
  repeat' first | with_reducible refine alu1_ok ?_ _ _ _ _  | with_reducible refine Ok.next ?_ | (intro x hx) | with_reducible assumption | with_reducible exact hs | split | simp only [Keeps.mk_iff] | with_reducible assumption | intro _ | dsimp only

theorem execLi_ok {r₀ s : State} (hs : Keeps r₀ s) (t : Tid) (rd : Reg) (imm : BitVec 21) : Ok r₀ (execLi t rd imm s) := by
  unfold execLi
  repeat' first | with_reducible refine alu0_ok ?_ _ _ _  | with_reducible refine Ok.next ?_ | (intro x hx) | with_reducible assumption | with_reducible exact hs | split | simp only [Keeps.mk_iff] | with_reducible assumption | intro _ | dsimp only

theorem execLsh_ok {r₀ s : State} (hs : Keeps r₀ s) (t : Tid) (rd : Reg) (imm : BitVec 21) : Ok r₀ (execLsh t rd imm s) := by
  unfold execLsh
  repeat' first | with_reducible refine alu1_ok ?_ _ _ _ _  | with_reducible refine Ok.next ?_ | (intro x hx) | with_reducible assumption | with_reducible exact hs | split | simp only [Keeps.mk_iff] | with_reducible assumption | intro _ | dsimp only

theorem execRdtime_ok {r₀ s : State} (hs : Keeps r₀ s) (t : Tid) (rd : Reg) : Ok r₀ (execRdtime t rd s) := by
  unfold execRdtime
  repeat' first | with_reducible refine alu0_ok ?_ _ _ _  | with_reducible refine Ok.next ?_ | (intro x hx) | with_reducible assumption | with_reducible exact hs | split | simp only [Keeps.mk_iff] | with_reducible assumption | intro _ | dsimp only

theorem execRdcyc_ok {r₀ s : State} (hs : Keeps r₀ s) (t : Tid) (rd : Reg) : Ok r₀ (execRdcyc t rd s) := by
  unfold execRdcyc
  repeat' first | with_reducible refine alu0_ok ?_ _ _ _  | with_reducible refine Ok.next ?_ | (intro x hx) | with_reducible assumption | with_reducible exact hs | split | simp only [Keeps.mk_iff] | with_reducible assumption | intro _ | dsimp only

theorem execRdfw_ok {r₀ s : State} (hs : Keeps r₀ s) (t : Tid) (rd : Reg) (n : Fin 8) : Ok r₀ (execRdfw t rd n s) := by
  unfold execRdfw
  repeat' first | with_reducible refine alu0_ok ?_ _ _ _  | with_reducible refine Ok.next ?_ | (intro x hx) | with_reducible assumption | with_reducible exact hs | split | simp only [Keeps.mk_iff] | with_reducible assumption | intro _ | dsimp only

theorem execRdrsp_ok {r₀ s : State} (hs : Keeps r₀ s) (t : Tid) (rd : Reg) : Ok r₀ (execRdrsp t rd s) := by
  unfold execRdrsp
  repeat' first | with_reducible refine alu0_ok ?_ _ _ _  | with_reducible refine Ok.next ?_ | (intro x hx) | with_reducible assumption | with_reducible exact hs | split | simp only [Keeps.mk_iff] | with_reducible assumption | intro _ | dsimp only

theorem execNop_ok {r₀ s : State} (hs : Keeps r₀ s) (t : Tid) : Ok r₀ (execNop t s) := by
  unfold execNop
  repeat' first | with_reducible refine issue_ok ?_ _ _ _ ?_ | with_reducible refine Ok.next ?_ | (intro x hx) | with_reducible assumption | with_reducible exact hs | with_reducible apply State.past_keeps | split | simp only [Keeps.mk_iff] | with_reducible assumption | intro _ | dsimp only

theorem branch_ok {r₀ s : State} (hs : Keeps r₀ s) (t : Tid) (ra : Reg) (rb : Reg) (disp : BitVec 16) (p : Word → Word → Bool) : Ok r₀ (branch t ra rb disp p s) := by
  unfold branch
  repeat' first | with_reducible refine issue_ok ?_ _ _ _ ?_ | with_reducible refine Ok.next ?_ | (intro x hx) | with_reducible assumption | with_reducible exact hs | with_reducible apply State.modThr_keeps | with_reducible apply State.past_keeps | split | simp only [Keeps.mk_iff] | with_reducible assumption | intro _ | dsimp only

theorem execBeq_ok {r₀ s : State} (hs : Keeps r₀ s) (t : Tid) (ra : Reg) (rb : Reg) (disp : BitVec 16) : Ok r₀ (execBeq t ra rb disp s) := by
  unfold execBeq
  repeat' first | with_reducible refine branch_ok ?_ _ _ _ _ _  | with_reducible refine Ok.next ?_ | (intro x hx) | with_reducible assumption | with_reducible exact hs | split | simp only [Keeps.mk_iff] | with_reducible assumption | intro _ | dsimp only

theorem execBne_ok {r₀ s : State} (hs : Keeps r₀ s) (t : Tid) (ra : Reg) (rb : Reg) (disp : BitVec 16) : Ok r₀ (execBne t ra rb disp s) := by
  unfold execBne
  repeat' first | with_reducible refine branch_ok ?_ _ _ _ _ _  | with_reducible refine Ok.next ?_ | (intro x hx) | with_reducible assumption | with_reducible exact hs | split | simp only [Keeps.mk_iff] | with_reducible assumption | intro _ | dsimp only

theorem execBlt_ok {r₀ s : State} (hs : Keeps r₀ s) (t : Tid) (ra : Reg) (rb : Reg) (disp : BitVec 16) : Ok r₀ (execBlt t ra rb disp s) := by
  unfold execBlt
  repeat' first | with_reducible refine branch_ok ?_ _ _ _ _ _  | with_reducible refine Ok.next ?_ | (intro x hx) | with_reducible assumption | with_reducible exact hs | split | simp only [Keeps.mk_iff] | with_reducible assumption | intro _ | dsimp only

theorem execBge_ok {r₀ s : State} (hs : Keeps r₀ s) (t : Tid) (ra : Reg) (rb : Reg) (disp : BitVec 16) : Ok r₀ (execBge t ra rb disp s) := by
  unfold execBge
  repeat' first | with_reducible refine branch_ok ?_ _ _ _ _ _  | with_reducible refine Ok.next ?_ | (intro x hx) | with_reducible assumption | with_reducible exact hs | split | simp only [Keeps.mk_iff] | with_reducible assumption | intro _ | dsimp only

theorem execBltu_ok {r₀ s : State} (hs : Keeps r₀ s) (t : Tid) (ra : Reg) (rb : Reg) (disp : BitVec 16) : Ok r₀ (execBltu t ra rb disp s) := by
  unfold execBltu
  repeat' first | with_reducible refine branch_ok ?_ _ _ _ _ _  | with_reducible refine Ok.next ?_ | (intro x hx) | with_reducible assumption | with_reducible exact hs | split | simp only [Keeps.mk_iff] | with_reducible assumption | intro _ | dsimp only

theorem execBgeu_ok {r₀ s : State} (hs : Keeps r₀ s) (t : Tid) (ra : Reg) (rb : Reg) (disp : BitVec 16) : Ok r₀ (execBgeu t ra rb disp s) := by
  unfold execBgeu
  repeat' first | with_reducible refine branch_ok ?_ _ _ _ _ _  | with_reducible refine Ok.next ?_ | (intro x hx) | with_reducible assumption | with_reducible exact hs | split | simp only [Keeps.mk_iff] | with_reducible assumption | intro _ | dsimp only

theorem execJmp_ok {r₀ s : State} (hs : Keeps r₀ s) (t : Tid) (disp : BitVec 26) : Ok r₀ (execJmp t disp s) := by
  unfold execJmp
  repeat' first | with_reducible refine issue_ok ?_ _ _ _ ?_ | with_reducible refine Ok.next ?_ | (intro x hx) | with_reducible assumption | with_reducible exact hs | with_reducible apply State.modThr_keeps | split | simp only [Keeps.mk_iff] | with_reducible assumption | intro _ | dsimp only

theorem execJr_ok {r₀ s : State} (hs : Keeps r₀ s) (t : Tid) (ra : Reg) : Ok r₀ (execJr t ra s) := by
  unfold execJr
  repeat' first | with_reducible refine issue_ok ?_ _ _ _ ?_ | with_reducible refine Ok.next ?_ | (intro x hx) | with_reducible assumption | with_reducible exact hs | with_reducible apply State.modThr_keeps | split | simp only [Keeps.mk_iff] | with_reducible assumption | intro _ | dsimp only

theorem execCall_ok {r₀ s : State} (hs : Keeps r₀ s) (t : Tid) (disp : BitVec 26) : Ok r₀ (execCall t disp s) := by
  unfold execCall
  repeat' first | with_reducible refine issue_ok ?_ _ _ _ ?_ | with_reducible refine Ok.next ?_ | (intro x hx) | with_reducible assumption | with_reducible exact hs | with_reducible apply State.doCall_keeps | split | simp only [Keeps.mk_iff] | with_reducible assumption | intro _ | dsimp only

theorem execCallr_ok {r₀ s : State} (hs : Keeps r₀ s) (t : Tid) (ra : Reg) : Ok r₀ (execCallr t ra s) := by
  unfold execCallr
  repeat' first | with_reducible refine issue_ok ?_ _ _ _ ?_ | with_reducible refine Ok.next ?_ | (intro x hx) | with_reducible assumption | with_reducible exact hs | with_reducible apply State.doCall_keeps | split | simp only [Keeps.mk_iff] | with_reducible assumption | intro _ | dsimp only

theorem execRet_ok {r₀ s : State} (hs : Keeps r₀ s) (t : Tid) : Ok r₀ (execRet t s) := by
  unfold execRet
  repeat' first | with_reducible refine issue_ok ?_ _ _ _ ?_ | with_reducible refine Ok.next ?_ | (intro x hx) | with_reducible assumption | with_reducible exact hs | with_reducible apply State.doRet_keeps | split | simp only [Keeps.mk_iff] | with_reducible assumption | intro _ | dsimp only

theorem execSetpg_ok {r₀ s : State} (hs : Keeps r₀ s) (t : Tid) (pg : PgReg) (ra : Reg) : Ok r₀ (execSetpg t pg ra s) := by
  unfold execSetpg
  repeat' first | with_reducible refine issue_ok ?_ _ _ _ ?_ | with_reducible refine Ok.next ?_ | (intro x hx) | with_reducible assumption | with_reducible exact hs | with_reducible apply State.modThr_keeps | with_reducible apply State.past_keeps | split | simp only [Keeps.mk_iff] | with_reducible assumption | intro _ | dsimp only

theorem execGetpg_ok {r₀ s : State} (hs : Keeps r₀ s) (t : Tid) (rd : Reg) (pg : PgReg) : Ok r₀ (execGetpg t rd pg s) := by
  unfold execGetpg
  repeat' first | with_reducible refine issue_ok ?_ _ _ _ ?_ | with_reducible refine Ok.next ?_ | (intro x hx) | with_reducible assumption | with_reducible exact hs | with_reducible apply State.past_keeps | with_reducible apply State.setG_keeps | split | simp only [Keeps.mk_iff] | with_reducible assumption | intro _ | dsimp only

theorem execWrrsp_ok {r₀ s : State} (hs : Keeps r₀ s) (t : Tid) (ra : Reg) : Ok r₀ (execWrrsp t ra s) := by
  unfold execWrrsp
  repeat' first | with_reducible refine issue_ok ?_ _ _ _ ?_ | with_reducible refine Ok.next ?_ | (intro x hx) | with_reducible assumption | with_reducible exact hs | with_reducible apply EngRun.refuse_keeps | with_reducible apply State.past_keeps | with_reducible apply State.refuse_keeps | with_reducible apply State.setThr_keeps | split | simp only [Keeps.mk_iff] | with_reducible assumption | intro _ | dsimp only

theorem execUndef_ok {r₀ s : State} (hs : Keeps r₀ s) (t : Tid) (fetchRefused : Bool) : Ok r₀ (execUndef t fetchRefused s) := by
  unfold execUndef
  repeat' first | with_reducible refine issue_ok ?_ _ _ _ ?_ | with_reducible refine Ok.next ?_ | (intro x hx) | with_reducible assumption | with_reducible exact hs | with_reducible apply EngRun.refuse_keeps | with_reducible apply State.raise_keeps | with_reducible apply State.refuse_keeps | split | simp only [Keeps.mk_iff] | with_reducible assumption | intro _ | dsimp only

theorem loadM_ok {r₀ s : State} (hs : Keeps r₀ s) (t : Tid) (rd : Reg) (ra : Reg) (pg : PgReg) (imm : BitVec 13) (size : Nat) (sx : Bool) : Ok r₀ (loadM t rd ra pg imm size sx s) := by
  unfold loadM
  repeat' first | with_reducible refine accessInstr_ok ?_ _ _ _ _  | with_reducible refine Ok.next ?_ | (intro x hx) | with_reducible assumption | with_reducible exact hs | split | simp only [Keeps.mk_iff] | with_reducible assumption | intro _ | dsimp only

theorem storeM_ok {r₀ s : State} (hs : Keeps r₀ s) (t : Tid) (rs : Reg) (ra : Reg) (pg : PgReg) (imm : BitVec 13) (size : Nat) : Ok r₀ (storeM t rs ra pg imm size s) := by
  unfold storeM
  repeat' first | with_reducible refine accessInstr_ok ?_ _ _ _ _  | with_reducible refine Ok.next ?_ | (intro x hx) | with_reducible assumption | with_reducible exact hs | split | simp only [Keeps.mk_iff] | with_reducible assumption | intro _ | dsimp only

theorem execLdb_ok {r₀ s : State} (hs : Keeps r₀ s) (t : Tid) (rd : Reg) (ra : Reg) (pg : PgReg) (imm : BitVec 13) : Ok r₀ (execLdb t rd ra pg imm s) := by
  unfold execLdb
  repeat' first | with_reducible refine loadM_ok ?_ _ _ _ _ _ _ _  | with_reducible refine Ok.next ?_ | (intro x hx) | with_reducible assumption | with_reducible exact hs | split | simp only [Keeps.mk_iff] | with_reducible assumption | intro _ | dsimp only

theorem execLdbs_ok {r₀ s : State} (hs : Keeps r₀ s) (t : Tid) (rd : Reg) (ra : Reg) (pg : PgReg) (imm : BitVec 13) : Ok r₀ (execLdbs t rd ra pg imm s) := by
  unfold execLdbs
  repeat' first | with_reducible refine loadM_ok ?_ _ _ _ _ _ _ _  | with_reducible refine Ok.next ?_ | (intro x hx) | with_reducible assumption | with_reducible exact hs | split | simp only [Keeps.mk_iff] | with_reducible assumption | intro _ | dsimp only

theorem execLdh_ok {r₀ s : State} (hs : Keeps r₀ s) (t : Tid) (rd : Reg) (ra : Reg) (pg : PgReg) (imm : BitVec 13) : Ok r₀ (execLdh t rd ra pg imm s) := by
  unfold execLdh
  repeat' first | with_reducible refine loadM_ok ?_ _ _ _ _ _ _ _  | with_reducible refine Ok.next ?_ | (intro x hx) | with_reducible assumption | with_reducible exact hs | split | simp only [Keeps.mk_iff] | with_reducible assumption | intro _ | dsimp only

theorem execLdhs_ok {r₀ s : State} (hs : Keeps r₀ s) (t : Tid) (rd : Reg) (ra : Reg) (pg : PgReg) (imm : BitVec 13) : Ok r₀ (execLdhs t rd ra pg imm s) := by
  unfold execLdhs
  repeat' first | with_reducible refine loadM_ok ?_ _ _ _ _ _ _ _  | with_reducible refine Ok.next ?_ | (intro x hx) | with_reducible assumption | with_reducible exact hs | split | simp only [Keeps.mk_iff] | with_reducible assumption | intro _ | dsimp only

theorem execLdw_ok {r₀ s : State} (hs : Keeps r₀ s) (t : Tid) (rd : Reg) (ra : Reg) (pg : PgReg) (imm : BitVec 13) : Ok r₀ (execLdw t rd ra pg imm s) := by
  unfold execLdw
  repeat' first | with_reducible refine loadM_ok ?_ _ _ _ _ _ _ _  | with_reducible refine Ok.next ?_ | (intro x hx) | with_reducible assumption | with_reducible exact hs | split | simp only [Keeps.mk_iff] | with_reducible assumption | intro _ | dsimp only

theorem execLdws_ok {r₀ s : State} (hs : Keeps r₀ s) (t : Tid) (rd : Reg) (ra : Reg) (pg : PgReg) (imm : BitVec 13) : Ok r₀ (execLdws t rd ra pg imm s) := by
  unfold execLdws
  repeat' first | with_reducible refine loadM_ok ?_ _ _ _ _ _ _ _  | with_reducible refine Ok.next ?_ | (intro x hx) | with_reducible assumption | with_reducible exact hs | split | simp only [Keeps.mk_iff] | with_reducible assumption | intro _ | dsimp only

theorem execLdd_ok {r₀ s : State} (hs : Keeps r₀ s) (t : Tid) (rd : Reg) (ra : Reg) (pg : PgReg) (imm : BitVec 13) : Ok r₀ (execLdd t rd ra pg imm s) := by
  unfold execLdd
  repeat' first | with_reducible refine loadM_ok ?_ _ _ _ _ _ _ _  | with_reducible refine Ok.next ?_ | (intro x hx) | with_reducible assumption | with_reducible exact hs | split | simp only [Keeps.mk_iff] | with_reducible assumption | intro _ | dsimp only

theorem execStb_ok {r₀ s : State} (hs : Keeps r₀ s) (t : Tid) (rs : Reg) (ra : Reg) (pg : PgReg) (imm : BitVec 13) : Ok r₀ (execStb t rs ra pg imm s) := by
  unfold execStb
  repeat' first | with_reducible refine storeM_ok ?_ _ _ _ _ _ _  | with_reducible refine Ok.next ?_ | (intro x hx) | with_reducible assumption | with_reducible exact hs | split | simp only [Keeps.mk_iff] | with_reducible assumption | intro _ | dsimp only

theorem execSth_ok {r₀ s : State} (hs : Keeps r₀ s) (t : Tid) (rs : Reg) (ra : Reg) (pg : PgReg) (imm : BitVec 13) : Ok r₀ (execSth t rs ra pg imm s) := by
  unfold execSth
  repeat' first | with_reducible refine storeM_ok ?_ _ _ _ _ _ _  | with_reducible refine Ok.next ?_ | (intro x hx) | with_reducible assumption | with_reducible exact hs | split | simp only [Keeps.mk_iff] | with_reducible assumption | intro _ | dsimp only

theorem execStw_ok {r₀ s : State} (hs : Keeps r₀ s) (t : Tid) (rs : Reg) (ra : Reg) (pg : PgReg) (imm : BitVec 13) : Ok r₀ (execStw t rs ra pg imm s) := by
  unfold execStw
  repeat' first | with_reducible refine storeM_ok ?_ _ _ _ _ _ _  | with_reducible refine Ok.next ?_ | (intro x hx) | with_reducible assumption | with_reducible exact hs | split | simp only [Keeps.mk_iff] | with_reducible assumption | intro _ | dsimp only

theorem execStd_ok {r₀ s : State} (hs : Keeps r₀ s) (t : Tid) (rs : Reg) (ra : Reg) (pg : PgReg) (imm : BitVec 13) : Ok r₀ (execStd t rs ra pg imm s) := by
  unfold execStd
  repeat' first | with_reducible refine storeM_ok ?_ _ _ _ _ _ _  | with_reducible refine Ok.next ?_ | (intro x hx) | with_reducible assumption | with_reducible exact hs | split | simp only [Keeps.mk_iff] | with_reducible assumption | intro _ | dsimp only

theorem execLdx_ok {r₀ s : State} (hs : Keeps r₀ s) (t : Tid) (rd : Reg) (ra : Reg) (rb : Reg) (pg : PgReg) (scale : Fin 4) (size : Fin 4) (sx : Bool) : Ok r₀ (execLdx t rd ra rb pg scale size sx s) := by
  unfold execLdx
  repeat' first | with_reducible refine accessInstr_ok ?_ _ _ _ _  | with_reducible refine Ok.next ?_ | (intro x hx) | with_reducible assumption | with_reducible exact hs | split | simp only [Keeps.mk_iff] | with_reducible assumption | intro _ | dsimp only

theorem execStx_ok {r₀ s : State} (hs : Keeps r₀ s) (t : Tid) (rs : Reg) (ra : Reg) (rb : Reg) (pg : PgReg) (scale : Fin 4) (size : Fin 4) : Ok r₀ (execStx t rs ra rb pg scale size s) := by
  unfold execStx
  repeat' first | with_reducible refine accessInstr_ok ?_ _ _ _ _  | with_reducible refine Ok.next ?_ | (intro x hx) | with_reducible assumption | with_reducible exact hs | split | simp only [Keeps.mk_iff] | with_reducible assumption | intro _ | dsimp only

theorem execStoreDrain_ok {r₀ s : State} (hs : Keeps r₀ s) (t : Tid) : Ok r₀ (execStoreDrain t s) := by
  unfold execStoreDrain
  repeat' first | with_reducible refine clocked_ok ?_ ?_   | with_reducible refine Ok.next ?_ | (intro x hx) | with_reducible assumption | with_reducible exact hs | with_reducible apply State.drain_keeps | split | simp only [Keeps.mk_iff] | with_reducible assumption | intro _ | dsimp only

theorem execWalkLineReturn_ok {r₀ s : State} (hs : Keeps r₀ s) (core : Nat) (by_ : Fin 64) (k : Fin 8) : Ok r₀ (execWalkLineReturn core by_ k s) := by
  unfold execWalkLineReturn
  repeat' first | with_reducible refine clocked_ok ?_ ?_   | with_reducible refine Ok.next ?_ | (intro x hx) | with_reducible assumption | with_reducible exact hs | with_reducible apply State.engineWalk_keeps | with_reducible apply State.walkLine_keeps | split | simp only [Keeps.mk_iff] | with_reducible assumption | intro _ | dsimp only

theorem execSourceRefusalComplete_ok {r₀ s : State} (hs : Keeps r₀ s) (t : Tid) : Ok r₀ (execSourceRefusalComplete t s) := by
  unfold execSourceRefusalComplete
  repeat' first | with_reducible refine clocked_ok ?_ ?_   | with_reducible refine Ok.next ?_ | (intro x hx) | with_reducible assumption | with_reducible exact hs | with_reducible apply State.refusalDone_keeps | split | simp only [Keeps.mk_iff] | with_reducible assumption | intro _ | dsimp only

theorem supInstr_ok {r₀ s : State} (hs : Keeps r₀ s) (t : Tid) (srcs : List Nat) (k : State → State) (hk : ∀ x, Keeps r₀ x → Keeps r₀ (k x)) : Ok r₀ (supInstr t srcs k s) := by
  unfold supInstr
  repeat' first | with_reducible refine issue_ok ?_ _ _ _ ?_ | with_reducible refine Ok.next ?_ | (intro x hx) | with_reducible assumption | with_reducible exact hs | with_reducible apply hk | with_reducible apply State.refuseInstr_keeps | split | simp only [Keeps.mk_iff] | with_reducible assumption | intro _ | dsimp only

theorem execScall_ok {r₀ s : State} (hs : Keeps r₀ s) (t : Tid) : Ok r₀ (execScall t s) := by
  unfold execScall
  repeat' first | with_reducible refine issue_ok ?_ _ _ _ ?_ | with_reducible refine Ok.next ?_ | (intro x hx) | with_reducible assumption | with_reducible exact hs | with_reducible apply State.raiseAt_keeps | split | simp only [Keeps.mk_iff] | with_reducible assumption | intro _ | dsimp only

theorem execGate_ok {r₀ s : State} (hs : Keeps r₀ s) (t : Tid) (ra : Reg) : Ok r₀ (execGate t ra s) := by
  unfold execGate
  repeat' first | with_reducible refine issue_ok ?_ _ _ _ ?_ | with_reducible refine Ok.next ?_ | (intro x hx) | with_reducible assumption | with_reducible exact hs | with_reducible apply State.doGate_keeps | with_reducible apply State.refuseInstr_keeps | split | simp only [Keeps.mk_iff] | with_reducible assumption | intro _ | dsimp only

theorem execGateOut_ok {r₀ s : State} (hs : Keeps r₀ s) (t : Tid) : Ok r₀ (execGateOut t s) := by
  unfold execGateOut
  repeat' first | with_reducible refine issue_ok ?_ _ _ _ ?_ | with_reducible refine Ok.next ?_ | (intro x hx) | with_reducible assumption | with_reducible exact hs | with_reducible apply State.leaveSealed_keeps | with_reducible apply State.refuseInstr_keeps | split | simp only [Keeps.mk_iff] | with_reducible assumption | intro _ | dsimp only

theorem execEret_ok {r₀ s : State} (hs : Keeps r₀ s) (t : Tid) : Ok r₀ (execEret t s) := by
  unfold execEret
  repeat' first | with_reducible refine supInstr_ok ?_ _ _ _ ?_ | with_reducible refine Ok.next ?_ | (intro x hx) | with_reducible assumption | with_reducible exact hs | with_reducible apply State.modThr_keeps | split | simp only [Keeps.mk_iff] | with_reducible assumption | intro _ | dsimp only

theorem execMfe_ok {r₀ s : State} (hs : Keeps r₀ s) (t : Tid) (rd : Reg) (n : Fin 32) : Ok r₀ (execMfe t rd n s) := by
  unfold execMfe
  repeat' first | with_reducible refine issue_ok ?_ _ _ _ ?_ | with_reducible refine Ok.next ?_ | (intro x hx) | with_reducible assumption | with_reducible exact hs | with_reducible apply State.past_keeps | with_reducible apply State.refuseInstr_keeps | with_reducible apply State.setG_keeps | split | simp only [Keeps.mk_iff] | with_reducible assumption | intro _ | dsimp only

theorem execMte_ok {r₀ s : State} (hs : Keeps r₀ s) (t : Tid) (n : Fin 32) (ra : Reg) : Ok r₀ (execMte t n ra s) := by
  unfold execMte
  repeat' first | with_reducible refine issue_ok ?_ _ _ _ ?_ | with_reducible refine Ok.next ?_ | (intro x hx) | with_reducible assumption | with_reducible exact hs | with_reducible apply EngRun.refuse_keeps | with_reducible apply State.past_keeps | with_reducible apply State.refuse_keeps | with_reducible apply State.refuseInstr_keeps | with_reducible apply State.writeEntry_keeps | split | simp only [Keeps.mk_iff] | with_reducible assumption | intro _ | dsimp only

theorem execXsw_ok {r₀ s : State} (hs : Keeps r₀ s) (t : Tid) (rd : Reg) (n : Fin 4) : Ok r₀ (execXsw t rd n s) := by
  unfold execXsw
  repeat' first | with_reducible refine supInstr_ok ?_ _ _ _ ?_ | with_reducible refine Ok.next ?_ | (intro x hx) | with_reducible assumption | with_reducible exact hs | with_reducible apply State.past_keeps | with_reducible apply State.setG_keeps | with_reducible apply State.setThr_keeps | split | simp only [Keeps.mk_iff] | with_reducible assumption | intro _ | dsimp only

theorem execEdone_ok {r₀ s : State} (hs : Keeps r₀ s) (t : Tid) : Ok r₀ (execEdone t s) := by
  unfold execEdone
  repeat' first | with_reducible refine supInstr_ok ?_ _ _ _ ?_ | with_reducible refine Ok.next ?_ | (intro x hx) | with_reducible assumption | with_reducible exact hs | with_reducible apply State.modThr_keeps | with_reducible apply State.past_keeps | split | simp only [Keeps.mk_iff] | with_reducible assumption | intro _ | dsimp only

theorem execMfs_ok {r₀ s : State} (hs : Keeps r₀ s) (t : Tid) (rd : Reg) : Ok r₀ (execMfs t rd s) := by
  unfold execMfs
  repeat' first | with_reducible refine alu0_ok ?_ _ _ _  | with_reducible refine Ok.next ?_ | (intro x hx) | with_reducible assumption | with_reducible exact hs | split | simp only [Keeps.mk_iff] | with_reducible assumption | intro _ | dsimp only

theorem execMts_ok {r₀ s : State} (hs : Keeps r₀ s) (t : Tid) (ra : Reg) : Ok r₀ (execMts t ra s) := by
  unfold execMts
  repeat' first | with_reducible refine supInstr_ok ?_ _ _ _ ?_ | with_reducible refine Ok.next ?_ | (intro x hx) | with_reducible assumption | with_reducible exact hs | with_reducible apply State.modThr_keeps | with_reducible apply State.past_keeps | split | simp only [Keeps.mk_iff] | with_reducible assumption | intro _ | dsimp only

theorem execNibegin_ok {r₀ s : State} (hs : Keeps r₀ s) (t : Tid) (ra : Reg) : Ok r₀ (execNibegin t ra s) := by
  unfold execNibegin
  repeat' first | with_reducible refine supInstr_ok ?_ _ _ _ ?_ | with_reducible refine Ok.next ?_ | (intro x hx) | with_reducible assumption | with_reducible exact hs | with_reducible apply State.past_keeps | with_reducible apply State.refuseInstr_keeps | with_reducible apply State.setThr_keeps | (with_reducible refine Keeps.getD (fun u hu => ?_) ?_) | split | simp only [Keeps.mk_iff] | with_reducible assumption | intro _ | dsimp only

theorem execNiend_ok {r₀ s : State} (hs : Keeps r₀ s) (t : Tid) : Ok r₀ (execNiend t s) := by
  unfold execNiend
  repeat' first | with_reducible refine supInstr_ok ?_ _ _ _ ?_ | with_reducible refine Ok.next ?_ | (intro x hx) | with_reducible assumption | with_reducible exact hs | with_reducible apply State.modThr_keeps | with_reducible apply State.past_keeps | split | simp only [Keeps.mk_iff] | with_reducible assumption | intro _ | dsimp only

theorem execNiWindowEnd_ok {r₀ s : State} (hs : Keeps r₀ s) (t : Tid) : Ok r₀ (execNiWindowEnd t s) := by
  unfold execNiWindowEnd
  repeat' first | with_reducible refine clocked_ok ?_ ?_   | with_reducible refine Ok.next ?_ | (intro x hx) | with_reducible assumption | with_reducible exact hs | with_reducible apply State.setThr_keeps | split | simp only [Keeps.mk_iff] | with_reducible assumption | intro _ | dsimp only

theorem execTimerInterrupt_ok {r₀ s : State} (hs : Keeps r₀ s) (t : Tid) (sealedBank : Bool) : Ok r₀ (execTimerInterrupt t sealedBank s) := by
  unfold execTimerInterrupt
  repeat' first | with_reducible refine clocked_ok ?_ ?_   | with_reducible refine Ok.next ?_ | (intro x hx) | with_reducible assumption | with_reducible exact hs | with_reducible apply State.setThr_keeps | split | simp only [Keeps.mk_iff] | with_reducible assumption | intro _ | dsimp only

theorem execEviction_ok {r₀ s : State} (hs : Keeps r₀ s) (t : Tid) : Ok r₀ (execEviction t s) := by
  unfold execEviction
  repeat' first | with_reducible refine clocked_ok ?_ ?_   | with_reducible refine Ok.next ?_ | (intro x hx) | with_reducible assumption | with_reducible exact hs | with_reducible apply State.evict_keeps | split | simp only [Keeps.mk_iff] | with_reducible assumption | intro _ | dsimp only

theorem execLockupOverrun_ok {r₀ s : State} (hs : Keeps r₀ s) (t : Tid) : Ok r₀ (execLockupOverrun t s) := by
  unfold execLockupOverrun
  repeat' first | with_reducible refine clocked_ok ?_ ?_   | with_reducible refine Ok.next ?_ | (intro x hx) | with_reducible assumption | with_reducible exact hs | with_reducible apply State.lockup_keeps | split | simp only [Keeps.mk_iff] | with_reducible assumption | intro _ | dsimp only

theorem execCwb_ok {r₀ s : State} (hs : Keeps r₀ s) (t : Tid) (ra : Reg) (pg : PgReg) : Ok r₀ (execCwb t ra pg s) := by
  unfold execCwb
  repeat' first | with_reducible refine accessInstr_ok ?_ _ _ _ _  | with_reducible refine Ok.next ?_ | (intro x hx) | with_reducible assumption | with_reducible exact hs | split | simp only [Keeps.mk_iff] | with_reducible assumption | intro _ | dsimp only

theorem execCinv_ok {r₀ s : State} (hs : Keeps r₀ s) (t : Tid) (ra : Reg) (pg : PgReg) : Ok r₀ (execCinv t ra pg s) := by
  unfold execCinv
  repeat' first | with_reducible refine accessInstr_ok ?_ _ _ _ _  | with_reducible refine Ok.next ?_ | (intro x hx) | with_reducible assumption | with_reducible exact hs | split | simp only [Keeps.mk_iff] | with_reducible assumption | intro _ | dsimp only

theorem execCwba_ok {r₀ s : State} (hs : Keeps r₀ s) (t : Tid) : Ok r₀ (execCwba t s) := by
  unfold execCwba
  repeat' first | with_reducible refine issue_ok ?_ _ _ _ ?_ | with_reducible refine Ok.next ?_ | (intro x hx) | with_reducible assumption | with_reducible exact hs | with_reducible apply State.scanOn_keeps | split | simp only [Keeps.mk_iff] | with_reducible assumption | intro _ | dsimp only

theorem execCinva_ok {r₀ s : State} (hs : Keeps r₀ s) (t : Tid) : Ok r₀ (execCinva t s) := by
  unfold execCinva
  repeat' first | with_reducible refine issue_ok ?_ _ _ _ ?_ | with_reducible refine Ok.next ?_ | (intro x hx) | with_reducible assumption | with_reducible exact hs | with_reducible apply State.scanOn_keeps | split | simp only [Keeps.mk_iff] | with_reducible assumption | intro _ | dsimp only

theorem execIinv_ok {r₀ s : State} (hs : Keeps r₀ s) (t : Tid) : Ok r₀ (execIinv t s) := by
  unfold execIinv
  repeat' first | with_reducible refine issue_ok ?_ _ _ _ ?_ | with_reducible refine Ok.next ?_ | (intro x hx) | with_reducible assumption | with_reducible exact hs | with_reducible apply State.modCore_keeps | with_reducible apply State.past_keeps | split | simp only [Keeps.mk_iff] | with_reducible assumption | intro _ | dsimp only

theorem execPwr_ok {r₀ s : State} (hs : Keeps r₀ s) (t : Tid) (peer : Fin 4) (ra : Reg) : Ok r₀ (execPwr t peer ra s) := by
  unfold execPwr
  repeat' first | with_reducible refine issue_ok ?_ _ _ _ ?_ | refine State.tryPwr_keeps ?_ _ _ _ _ _ hx | with_reducible refine Ok.next ?_ | (intro x hx) | with_reducible assumption | with_reducible exact hs | with_reducible apply State.orBlock_keeps | exact (State.tryPwr_keeps (by assumption) _ _ _ _ _ ‹_›) | split | simp only [Keeps.mk_iff] | with_reducible assumption | intro _ | dsimp only

theorem execPwrl_ok {r₀ s : State} (hs : Keeps r₀ s) (t : Tid) (peer : Fin 4) (ra : Reg) : Ok r₀ (execPwrl t peer ra s) := by
  unfold execPwrl
  repeat' first | with_reducible refine issue_ok ?_ _ _ _ ?_ | refine State.tryPwr_keeps ?_ _ _ _ _ _ hx | with_reducible refine Ok.next ?_ | (intro x hx) | with_reducible assumption | with_reducible exact hs | with_reducible apply State.orBlock_keeps | exact (State.tryPwr_keeps (by assumption) _ _ _ _ _ ‹_›) | split | simp only [Keeps.mk_iff] | with_reducible assumption | intro _ | dsimp only

theorem execPrd_ok {r₀ s : State} (hs : Keeps r₀ s) (t : Tid) (rd : Reg) (peer : Fin 4) : Ok r₀ (execPrd t rd peer s) := by
  unfold execPrd
  repeat' first | with_reducible refine issue_ok ?_ _ _ _ ?_ | refine State.tryPrd_keeps ?_ _ _ _ _ hx | with_reducible refine Ok.next ?_ | (intro x hx) | with_reducible assumption | with_reducible exact hs | with_reducible apply State.orBlock_keeps | exact (State.tryPrd_keeps (by assumption) _ _ _ _ ‹_›) | split | simp only [Keeps.mk_iff] | with_reducible assumption | intro _ | dsimp only

theorem execPtst_ok {r₀ s : State} (hs : Keeps r₀ s) (t : Tid) (rd : Reg) (peer : Fin 4) : Ok r₀ (execPtst t rd peer s) := by
  unfold execPtst
  repeat' first | with_reducible refine issue_ok ?_ _ _ _ ?_ | with_reducible refine Ok.next ?_ | (intro x hx) | with_reducible assumption | with_reducible exact hs | with_reducible apply EngRun.refuse_keeps | with_reducible apply State.past_keeps | with_reducible apply State.refuse_keeps | with_reducible apply State.setG_keeps | split | simp only [Keeps.mk_iff] | with_reducible assumption | intro _ | dsimp only

theorem execP4ItemPerform_ok {r₀ s : State} (hs : Keeps r₀ s) (t : Tid) (sub : Fin 8) (bad : BitVec 8) : Ok r₀ (execP4ItemPerform t sub bad s) := by
  unfold execP4ItemPerform
  repeat' first | with_reducible refine clocked_ok ?_ ?_   | with_reducible refine Ok.next ?_ | (intro x hx) | with_reducible assumption | with_reducible exact hs | with_reducible apply State.p4Slot_keeps | split | simp only [Keeps.mk_iff] | with_reducible assumption | intro _ | dsimp only

theorem execP7InboundPerform_ok {r₀ s : State} (hs : Keeps r₀ s) (core : Nat) (sub : Fin 8) (bad : BitVec 8) : Ok r₀ (execP7InboundPerform core sub bad s) := by
  unfold execP7InboundPerform
  repeat' first | with_reducible refine clocked_ok ?_ ?_   | with_reducible refine Ok.next ?_ | (intro x hx) | with_reducible assumption | with_reducible exact hs | with_reducible apply State.p7Perform_keeps | split | simp only [Keeps.mk_iff] | with_reducible assumption | intro _ | dsimp only

theorem execScrubSlot_ok {r₀ s : State} (hs : Keeps r₀ s) (core : Nat) (sub : Fin 8) (bad : BitVec 8) : Ok r₀ (execScrubSlot core sub bad s) := by
  unfold execScrubSlot
  repeat' first | with_reducible refine clocked_ok ?_ ?_   | with_reducible refine Ok.next ?_ | (intro x hx) | with_reducible assumption | with_reducible exact hs | with_reducible apply State.scrub_keeps | split | simp only [Keeps.mk_iff] | with_reducible assumption | intro _ | dsimp only

theorem execScrubForced_ok {r₀ s : State} (hs : Keeps r₀ s) (core : Nat) (sub : Fin 8) (bad : BitVec 8) : Ok r₀ (execScrubForced core sub bad s) := by
  unfold execScrubForced
  repeat' first | with_reducible refine clocked_ok ?_ ?_   | with_reducible refine Ok.next ?_ | (intro x hx) | with_reducible assumption | with_reducible exact hs | with_reducible apply State.scrub_keeps | split | simp only [Keeps.mk_iff] | with_reducible assumption | intro _ | dsimp only

theorem execRpush_ok {r₀ s : State} (hs : Keeps r₀ s) (t : Tid) (ring : Fin 16) (va : Reg) : Ok r₀ (execRpush t ring va s) := by
  unfold execRpush
  repeat' first | with_reducible refine issue_ok ?_ _ _ _ ?_ | refine State.tryPush_keeps ?_ _ _ _ _ hx | with_reducible refine Ok.next ?_ | (intro x hx) | with_reducible assumption | with_reducible exact hs | with_reducible apply State.orBlock_keeps | exact (State.tryPush_keeps (by assumption) _ _ _ _ ‹_›) | split | simp only [Keeps.mk_iff] | with_reducible assumption | intro _ | dsimp only

theorem execRpushg_ok {r₀ s : State} (hs : Keeps r₀ s) (t : Tid) (ring : Fin 16) (ra : Reg) : Ok r₀ (execRpushg t ring ra s) := by
  unfold execRpushg
  repeat' first | with_reducible refine issue_ok ?_ _ _ _ ?_ | refine State.tryPush_keeps ?_ _ _ _ _ hx | with_reducible refine Ok.next ?_ | (intro x hx) | with_reducible assumption | with_reducible exact hs | with_reducible apply State.orBlock_keeps | exact (State.tryPush_keeps (by assumption) _ _ _ _ ‹_›) | split | simp only [Keeps.mk_iff] | with_reducible assumption | intro _ | dsimp only

theorem execRpop_ok {r₀ s : State} (hs : Keeps r₀ s) (t : Tid) (vd : Reg) (ring : Fin 16) : Ok r₀ (execRpop t vd ring s) := by
  unfold execRpop
  repeat' first | with_reducible refine issue_ok ?_ _ _ _ ?_ | refine State.tryPop_keeps ?_ _ _ _ _ _ hx | with_reducible refine Ok.next ?_ | (intro x hx) | with_reducible assumption | with_reducible exact hs | with_reducible apply State.orBlock_keeps | exact (State.tryPop_keeps (by assumption) _ _ _ _ _ ‹_›) | split | simp only [Keeps.mk_iff] | with_reducible assumption | intro _ | dsimp only

theorem execRpopg_ok {r₀ s : State} (hs : Keeps r₀ s) (t : Tid) (rd : Reg) (ring : Fin 16) : Ok r₀ (execRpopg t rd ring s) := by
  unfold execRpopg
  repeat' first | with_reducible refine issue_ok ?_ _ _ _ ?_ | refine State.tryPop_keeps ?_ _ _ _ _ _ hx | with_reducible refine Ok.next ?_ | (intro x hx) | with_reducible assumption | with_reducible exact hs | with_reducible apply State.orBlock_keeps | exact (State.tryPop_keeps (by assumption) _ _ _ _ _ ‹_›) | split | simp only [Keeps.mk_iff] | with_reducible assumption | intro _ | dsimp only

theorem execRtpush_ok {r₀ s : State} (hs : Keeps r₀ s) (t : Tid) (rd : Reg) (ring : Fin 16) (va : Reg) : Ok r₀ (execRtpush t rd ring va s) := by
  unfold execRtpush
  repeat' first | with_reducible refine issue_ok ?_ _ _ _ ?_ | with_reducible refine Ok.next ?_ | (intro x hx) | with_reducible assumption | with_reducible exact hs | with_reducible apply State.testPush_keeps | split | simp only [Keeps.mk_iff] | with_reducible assumption | intro _ | dsimp only

theorem execRtpushg_ok {r₀ s : State} (hs : Keeps r₀ s) (t : Tid) (rd : Reg) (ring : Fin 16) (ra : Reg) : Ok r₀ (execRtpushg t rd ring ra s) := by
  unfold execRtpushg
  repeat' first | with_reducible refine issue_ok ?_ _ _ _ ?_ | with_reducible refine Ok.next ?_ | (intro x hx) | with_reducible assumption | with_reducible exact hs | with_reducible apply State.testPush_keeps | split | simp only [Keeps.mk_iff] | with_reducible assumption | intro _ | dsimp only

theorem execRtpop_ok {r₀ s : State} (hs : Keeps r₀ s) (t : Tid) (rd : Reg) (ring : Fin 16) (va : Reg) : Ok r₀ (execRtpop t rd ring va s) := by
  unfold execRtpop
  repeat' first | with_reducible refine issue_ok ?_ _ _ _ ?_ | with_reducible refine Ok.next ?_ | (intro x hx) | with_reducible assumption | with_reducible exact hs | with_reducible apply State.testPop_keeps | split | simp only [Keeps.mk_iff] | with_reducible assumption | intro _ | dsimp only

theorem execRtpopg_ok {r₀ s : State} (hs : Keeps r₀ s) (t : Tid) (rd : Reg) (ring : Fin 16) (ra : Reg) : Ok r₀ (execRtpopg t rd ring ra s) := by
  unfold execRtpopg
  repeat' first | with_reducible refine issue_ok ?_ _ _ _ ?_ | with_reducible refine Ok.next ?_ | (intro x hx) | with_reducible assumption | with_reducible exact hs | with_reducible apply State.testPop_keeps | split | simp only [Keeps.mk_iff] | with_reducible assumption | intro _ | dsimp only

theorem execRstat_ok {r₀ s : State} (hs : Keeps r₀ s) (t : Tid) (rd : Reg) (ring : Fin 16) : Ok r₀ (execRstat t rd ring s) := by
  unfold execRstat
  repeat' first | with_reducible refine issue_ok ?_ _ _ _ ?_ | with_reducible refine Ok.next ?_ | (intro x hx) | with_reducible assumption | with_reducible exact hs | with_reducible apply State.past_keeps | with_reducible apply State.refuseRing_keeps | with_reducible apply State.setG_keeps | split | simp only [Keeps.mk_iff] | with_reducible assumption | intro _ | dsimp only

theorem execRrd_ok {r₀ s : State} (hs : Keeps r₀ s) (t : Tid) (rd : Reg) (ring : Fin 16) (f : Fin 4) : Ok r₀ (execRrd t rd ring f s) := by
  unfold execRrd
  repeat' first | with_reducible refine issue_ok ?_ _ _ _ ?_ | with_reducible refine Ok.next ?_ | (intro x hx) | with_reducible assumption | with_reducible exact hs | with_reducible apply State.past_keeps | with_reducible apply State.setG_keeps | split | simp only [Keeps.mk_iff] | with_reducible assumption | intro _ | dsimp only

theorem ringWrite_ok {r₀ s : State} (hs : Keeps r₀ s) (t : Tid) (ring : Fin 16) (ra : Reg) (f : Nat) : Ok r₀ (ringWrite t ring ra f s) := by
  unfold ringWrite
  repeat' first | with_reducible refine issue_ok ?_ _ _ _ ?_ | with_reducible refine Ok.next ?_ | (intro x hx) | with_reducible assumption | with_reducible exact hs | with_reducible apply State.modRing_keeps | with_reducible apply State.past_keeps | with_reducible apply State.refuseRing_keeps | split | simp only [Keeps.mk_iff] | with_reducible assumption | intro _ | dsimp only

theorem execRwbase_ok {r₀ s : State} (hs : Keeps r₀ s) (t : Tid) (ring : Fin 16) (ra : Reg) : Ok r₀ (execRwbase t ring ra s) := by
  unfold execRwbase
  repeat' first | with_reducible refine ringWrite_ok ?_ _ _ _ _  | with_reducible refine Ok.next ?_ | (intro x hx) | with_reducible assumption | with_reducible exact hs | split | simp only [Keeps.mk_iff] | with_reducible assumption | intro _ | dsimp only

theorem execRwsize_ok {r₀ s : State} (hs : Keeps r₀ s) (t : Tid) (ring : Fin 16) (ra : Reg) : Ok r₀ (execRwsize t ring ra s) := by
  unfold execRwsize
  repeat' first | with_reducible refine ringWrite_ok ?_ _ _ _ _  | with_reducible refine Ok.next ?_ | (intro x hx) | with_reducible assumption | with_reducible exact hs | split | simp only [Keeps.mk_iff] | with_reducible assumption | intro _ | dsimp only

theorem execRwhead_ok {r₀ s : State} (hs : Keeps r₀ s) (t : Tid) (ring : Fin 16) (ra : Reg) : Ok r₀ (execRwhead t ring ra s) := by
  unfold execRwhead
  repeat' first | with_reducible refine ringWrite_ok ?_ _ _ _ _  | with_reducible refine Ok.next ?_ | (intro x hx) | with_reducible assumption | with_reducible exact hs | split | simp only [Keeps.mk_iff] | with_reducible assumption | intro _ | dsimp only

theorem execRwtail_ok {r₀ s : State} (hs : Keeps r₀ s) (t : Tid) (ring : Fin 16) (ra : Reg) : Ok r₀ (execRwtail t ring ra s) := by
  unfold execRwtail
  repeat' first | with_reducible refine ringWrite_ok ?_ _ _ _ _  | with_reducible refine Ok.next ?_ | (intro x hx) | with_reducible assumption | with_reducible exact hs | split | simp only [Keeps.mk_iff] | with_reducible assumption | intro _ | dsimp only

theorem execRclr_ok {r₀ s : State} (hs : Keeps r₀ s) (t : Tid) (ring : Fin 16) : Ok r₀ (execRclr t ring s) := by
  unfold execRclr
  repeat' first | with_reducible refine issue_ok ?_ _ _ _ ?_ | refine State.tryRclr_keeps ?_ _ _ _ hx | with_reducible refine Ok.next ?_ | (intro x hx) | with_reducible assumption | with_reducible exact hs | with_reducible apply State.orBlock_keeps | exact (State.tryRclr_keeps (by assumption) _ _ _ ‹_›) | split | simp only [Keeps.mk_iff] | with_reducible assumption | intro _ | dsimp only

theorem unitInstr_ok {r₀ s : State} (hs : Keeps r₀ s) (t : Tid) (k : State → State) (hk : ∀ x, Keeps r₀ x → Keeps r₀ (k x)) : Ok r₀ (unitInstr t k s) := by
  unfold unitInstr
  repeat' first | with_reducible refine issue_ok ?_ _ _ _ ?_ | with_reducible refine Ok.next ?_ | (intro x hx) | with_reducible assumption | with_reducible exact hs | with_reducible apply hk | split | simp only [Keeps.mk_iff] | with_reducible assumption | intro _ | dsimp only

theorem execMma_ok {r₀ s : State} (hs : Keeps r₀ s) (t : Tid) (z : Fin 2) (cm : Fin 3) : Ok r₀ (execMma t z cm s) := by
  unfold execMma
  repeat' first | with_reducible refine unitInstr_ok ?_ _ _ ?_ | with_reducible refine Ok.next ?_ | (intro x hx) | with_reducible assumption | with_reducible exact hs | with_reducible apply State.past_keeps | with_reducible apply State.setThr_keeps | with_reducible apply State.tileFault_keeps | split | simp only [Keeps.mk_iff] | with_reducible assumption | intro _ | dsimp only

theorem execTclr_ok {r₀ s : State} (hs : Keeps r₀ s) (t : Tid) (z : Fin 2) : Ok r₀ (execTclr t z s) := by
  unfold execTclr
  repeat' first | with_reducible refine unitInstr_ok ?_ _ _ ?_ | with_reducible refine Ok.next ?_ | (intro x hx) | with_reducible assumption | with_reducible exact hs | with_reducible apply State.past_keeps | with_reducible apply State.setThr_keeps | split | simp only [Keeps.mk_iff] | with_reducible assumption | intro _ | dsimp only

theorem execTrel_ok {r₀ s : State} (hs : Keeps r₀ s) (t : Tid) (mask : BitVec 4) : Ok r₀ (execTrel t mask s) := by
  unfold execTrel
  repeat' first | with_reducible refine unitInstr_ok ?_ _ _ ?_ | with_reducible refine Ok.next ?_ | (intro x hx) | with_reducible assumption | with_reducible exact hs | with_reducible apply State.past_keeps | with_reducible apply State.setThr_keeps | split | simp only [Keeps.mk_iff] | with_reducible assumption | intro _ | dsimp only

theorem execUnitInstructionComplete_ok {r₀ s : State} (hs : Keeps r₀ s) (core : Nat) : Ok r₀ (execUnitInstructionComplete core s) := by
  unfold execUnitInstructionComplete
  repeat' first | with_reducible refine clocked_ok ?_ ?_   | with_reducible refine Ok.next ?_ | (intro x hx) | with_reducible assumption | with_reducible exact hs | with_reducible apply State.complete_keeps | with_reducible apply State.modCore_keeps | with_reducible apply State.modThr_keeps | split | simp only [Keeps.mk_iff] | with_reducible assumption | intro _ | dsimp only

theorem execMft_ok {r₀ s : State} (hs : Keeps r₀ s) (t : Tid) (rd : Reg) (n : Fin 16) : Ok r₀ (execMft t rd n s) := by
  unfold execMft
  repeat' first | with_reducible refine issue_ok ?_ _ _ _ ?_ | with_reducible refine Ok.next ?_ | (intro x hx) | with_reducible assumption | with_reducible exact hs | with_reducible apply State.past_keeps | with_reducible apply State.setG_keeps | split | simp only [Keeps.mk_iff] | with_reducible assumption | intro _ | dsimp only

theorem execMtt_ok {r₀ s : State} (hs : Keeps r₀ s) (t : Tid) (ra : Reg) (n : Fin 16) : Ok r₀ (execMtt t ra n s) := by
  unfold execMtt
  repeat' first | with_reducible refine issue_ok ?_ _ _ _ ?_ | with_reducible refine Ok.next ?_ | (intro x hx) | with_reducible assumption | with_reducible exact hs | with_reducible apply State.modThr_keeps | with_reducible apply State.past_keeps | split | simp only [Keeps.mk_iff] | with_reducible assumption | intro _ | dsimp only

theorem execTlda_ok {r₀ s : State} (hs : Keeps r₀ s) (t : Tid) (ra : Reg) (rc : Reg) (pg : PgReg) (rowsM1 : Fin 64) (bytesM1 : Fin 64) : Ok r₀ (execTlda t ra rc pg rowsM1 bytesM1 s) := by
  unfold execTlda
  repeat' first | with_reducible refine issue_ok ?_ _ _ _ ?_ | with_reducible refine Ok.next ?_ | (intro x hx) | with_reducible assumption | with_reducible exact hs | with_reducible apply State.startLong_keeps | split | simp only [Keeps.mk_iff] | with_reducible assumption | intro _ | dsimp only

theorem execTldb_ok {r₀ s : State} (hs : Keeps r₀ s) (t : Tid) (rb : Reg) (rc : Reg) (pg : PgReg) (rowsM1 : Fin 64) (bytesM1 : Fin 64) : Ok r₀ (execTldb t rb rc pg rowsM1 bytesM1 s) := by
  unfold execTldb
  repeat' first | with_reducible refine issue_ok ?_ _ _ _ ?_ | with_reducible refine Ok.next ?_ | (intro x hx) | with_reducible assumption | with_reducible exact hs | with_reducible apply State.startLong_keeps | split | simp only [Keeps.mk_iff] | with_reducible assumption | intro _ | dsimp only

theorem execTldab_ok {r₀ s : State} (hs : Keeps r₀ s) (t : Tid) (ra : Reg) (rb : Reg) (rc : Reg) (pga : PgReg) (rowsA : Fin 64) (bytesA : Fin 64) (pgb : PgReg) (rowsB : Fin 64) (bytesB : Fin 64) : Ok r₀ (execTldab t ra rb rc pga rowsA bytesA pgb rowsB bytesB s) := by
  unfold execTldab
  repeat' first | with_reducible refine issue_ok ?_ _ _ _ ?_ | with_reducible refine Ok.next ?_ | (intro x hx) | with_reducible assumption | with_reducible exact hs | with_reducible apply State.startLong_keeps | split | simp only [Keeps.mk_iff] | with_reducible assumption | intro _ | dsimp only

theorem execTst_ok {r₀ s : State} (hs : Keeps r₀ s) (t : Tid) (z : Fin 2) (ra : Reg) (rb : Reg) (rc : Reg) (pg : PgReg) (fmt : Fin 8) (sc : Bool) (bi : Bool) (cl : Bool) (sr : Bool) (vs : Fin 4) : Ok r₀ (execTst t z ra rb rc pg fmt sc bi cl sr vs s) := by
  unfold execTst
  repeat' first | with_reducible refine issue_ok ?_ _ _ _ ?_ | with_reducible refine Ok.next ?_ | (intro x hx) | with_reducible assumption | with_reducible exact hs | with_reducible apply State.raise_keeps | with_reducible apply State.startLong_keeps | with_reducible apply State.tileFault_keeps | split | simp only [Keeps.mk_iff] | with_reducible assumption | intro _ | dsimp only

theorem execRange_ok {r₀ s : State} (hs : Keeps r₀ s) (t : Tid) (ra : Reg) (rb : Reg) (rc : Reg) (pgs : PgReg) (pgd : PgReg) (src : Fin 16) (tgt : Fin 16) (mode : Bool) : Ok r₀ (execRange t ra rb rc pgs pgd src tgt mode s) := by
  unfold execRange
  repeat' first | with_reducible refine issue_ok ?_ _ _ _ ?_ | with_reducible refine Ok.next ?_ | (intro x hx) | with_reducible assumption | with_reducible exact hs | with_reducible apply State.raise_keeps | with_reducible apply State.startLong_keeps | split | simp only [Keeps.mk_iff] | with_reducible assumption | intro _ | dsimp only

theorem execTxld_ok {r₀ s : State} (hs : Keeps r₀ s) (t : Tid) (ra : Reg) (pg : PgReg) : Ok r₀ (execTxld t ra pg s) := by
  unfold execTxld
  repeat' first | with_reducible refine issue_ok ?_ _ _ _ ?_ | with_reducible refine Ok.next ?_ | (intro x hx) | with_reducible assumption | with_reducible exact hs | with_reducible apply State.startAligned_keeps | split | simp only [Keeps.mk_iff] | with_reducible assumption | intro _ | dsimp only

theorem execTsave_ok {r₀ s : State} (hs : Keeps r₀ s) (t : Tid) (ra : Reg) (pg : PgReg) (tile : Fin 4) : Ok r₀ (execTsave t ra pg tile s) := by
  unfold execTsave
  repeat' first | with_reducible refine issue_ok ?_ _ _ _ ?_ | with_reducible refine Ok.next ?_ | (intro x hx) | with_reducible assumption | with_reducible exact hs | with_reducible apply State.startAligned_keeps | split | simp only [Keeps.mk_iff] | with_reducible assumption | intro _ | dsimp only

theorem execTrestore_ok {r₀ s : State} (hs : Keeps r₀ s) (t : Tid) (ra : Reg) (pg : PgReg) (tile : Fin 4) : Ok r₀ (execTrestore t ra pg tile s) := by
  unfold execTrestore
  repeat' first | with_reducible refine issue_ok ?_ _ _ _ ?_ | with_reducible refine Ok.next ?_ | (intro x hx) | with_reducible assumption | with_reducible exact hs | with_reducible apply State.startAligned_keeps | split | simp only [Keeps.mk_iff] | with_reducible assumption | intro _ | dsimp only

theorem execTwait_ok {r₀ s : State} (hs : Keeps r₀ s) (t : Tid) : Ok r₀ (execTwait t s) := by
  unfold execTwait
  repeat' first | with_reducible refine issue_ok ?_ _ _ _ ?_ | with_reducible refine Ok.next ?_ | (intro x hx) | with_reducible assumption | with_reducible exact hs | with_reducible apply State.startLong_keeps | split | simp only [Keeps.mk_iff] | with_reducible assumption | intro _ | dsimp only

theorem execLongTileRetire_ok {r₀ s : State} (hs : Keeps r₀ s) (t : Tid) (upto : Nat) : Ok r₀ (execLongTileRetire t upto s) := by
  unfold execLongTileRetire
  repeat' first | with_reducible refine Ok.next ?_ | (intro x hx) | with_reducible assumption | with_reducible exact hs | with_reducible apply State.tileRetire_keeps | with_reducible apply State.tileStep_keeps | split | simp only [Keeps.mk_iff] | with_reducible assumption | intro _ | dsimp only

theorem execTileEngineStart_ok {r₀ s : State} (hs : Keeps r₀ s) (core : Nat) (e : TileEngine) : Ok r₀ (execTileEngineStart core e s) := by
  unfold execTileEngineStart
  repeat' first | with_reducible refine Ok.next ?_ | (intro x hx) | with_reducible assumption | with_reducible exact hs | with_reducible apply State.modCore_keeps | with_reducible apply State.modThr_keeps | split | simp only [Keeps.mk_iff] | with_reducible assumption | intro _ | dsimp only

theorem vec_ok {r₀ s : State} (hs : Keeps r₀ s) (t : Tid) (srcs : List Nat) (ok : Bool) (k : State → State) (hk : ∀ x, Keeps r₀ x → Keeps r₀ (k x)) : Ok r₀ (vec t srcs ok k s) := by
  unfold vec
  repeat' first | with_reducible refine issue_ok ?_ _ _ _ ?_ | with_reducible refine Ok.next ?_ | (intro x hx) | with_reducible assumption | with_reducible exact hs | with_reducible apply hk | with_reducible apply State.past_keeps | with_reducible apply State.raise_keeps | split | simp only [Keeps.mk_iff] | with_reducible assumption | intro _ | dsimp only

theorem vec2_ok {r₀ s : State} (hs : Keeps r₀ s) (t : Tid) (vd : Reg) (va : Reg) (vb : Reg) (et : EType) (ok : Bool) (f : Nat → Nat → Nat) : Ok r₀ (vec2 t vd va vb et ok f s) := by
  unfold vec2
  repeat' first | with_reducible refine vec_ok ?_ _ _ _ _ ?_ | with_reducible refine Ok.next ?_ | (intro x hx) | with_reducible assumption | with_reducible exact hs | with_reducible apply State.setV_keeps | split | simp only [Keeps.mk_iff] | with_reducible assumption | intro _ | dsimp only

theorem execVadd_ok {r₀ s : State} (hs : Keeps r₀ s) (t : Tid) (vd : Reg) (va : Reg) (vb : Reg) (et : EType) : Ok r₀ (execVadd t vd va vb et s) := by
  unfold execVadd
  repeat' first | with_reducible refine vec2_ok ?_ _ _ _ _ _ _ _  | with_reducible refine Ok.next ?_ | (intro x hx) | with_reducible assumption | with_reducible exact hs | split | simp only [Keeps.mk_iff] | with_reducible assumption | intro _ | dsimp only

theorem execVsub_ok {r₀ s : State} (hs : Keeps r₀ s) (t : Tid) (vd : Reg) (va : Reg) (vb : Reg) (et : EType) : Ok r₀ (execVsub t vd va vb et s) := by
  unfold execVsub
  repeat' first | with_reducible refine vec2_ok ?_ _ _ _ _ _ _ _  | with_reducible refine Ok.next ?_ | (intro x hx) | with_reducible assumption | with_reducible exact hs | split | simp only [Keeps.mk_iff] | with_reducible assumption | intro _ | dsimp only

theorem execVmul_ok {r₀ s : State} (hs : Keeps r₀ s) (t : Tid) (vd : Reg) (va : Reg) (vb : Reg) (et : EType) : Ok r₀ (execVmul t vd va vb et s) := by
  unfold execVmul
  repeat' first | with_reducible refine vec2_ok ?_ _ _ _ _ _ _ _  | with_reducible refine Ok.next ?_ | (intro x hx) | with_reducible assumption | with_reducible exact hs | split | simp only [Keeps.mk_iff] | with_reducible assumption | intro _ | dsimp only

theorem execVfma_ok {r₀ s : State} (hs : Keeps r₀ s) (t : Tid) (vd : Reg) (va : Reg) (vb : Reg) (vc : Reg) (et : EType) : Ok r₀ (execVfma t vd va vb vc et s) := by
  unfold execVfma
  repeat' first | with_reducible refine vec_ok ?_ _ _ _ _ ?_ | with_reducible refine Ok.next ?_ | (intro x hx) | with_reducible assumption | with_reducible exact hs | with_reducible apply State.setV_keeps | split | simp only [Keeps.mk_iff] | with_reducible assumption | intro _ | dsimp only

theorem execVmax_ok {r₀ s : State} (hs : Keeps r₀ s) (t : Tid) (vd : Reg) (va : Reg) (vb : Reg) (et : EType) (u : Bool) : Ok r₀ (execVmax t vd va vb et u s) := by
  unfold execVmax
  repeat' first | with_reducible refine vec2_ok ?_ _ _ _ _ _ _ _  | with_reducible refine Ok.next ?_ | (intro x hx) | with_reducible assumption | with_reducible exact hs | split | simp only [Keeps.mk_iff] | with_reducible assumption | intro _ | dsimp only

theorem execVmin_ok {r₀ s : State} (hs : Keeps r₀ s) (t : Tid) (vd : Reg) (va : Reg) (vb : Reg) (et : EType) (u : Bool) : Ok r₀ (execVmin t vd va vb et u s) := by
  unfold execVmin
  repeat' first | with_reducible refine vec2_ok ?_ _ _ _ _ _ _ _  | with_reducible refine Ok.next ?_ | (intro x hx) | with_reducible assumption | with_reducible exact hs | split | simp only [Keeps.mk_iff] | with_reducible assumption | intro _ | dsimp only

theorem vecBits_ok {r₀ s : State} (hs : Keeps r₀ s) (t : Tid) (vd : Reg) (va : Reg) (vb : Reg) (et : EType) (f : Line → Line → Line) : Ok r₀ (vecBits t vd va vb et f s) := by
  unfold vecBits
  repeat' first | with_reducible refine vec_ok ?_ _ _ _ _ ?_ | with_reducible refine Ok.next ?_ | (intro x hx) | with_reducible assumption | with_reducible exact hs | with_reducible apply State.setV_keeps | split | simp only [Keeps.mk_iff] | with_reducible assumption | intro _ | dsimp only

theorem execVand_ok {r₀ s : State} (hs : Keeps r₀ s) (t : Tid) (vd : Reg) (va : Reg) (vb : Reg) (et : EType) : Ok r₀ (execVand t vd va vb et s) := by
  unfold execVand
  repeat' first | with_reducible refine vecBits_ok ?_ _ _ _ _ _ _  | with_reducible refine Ok.next ?_ | (intro x hx) | with_reducible assumption | with_reducible exact hs | split | simp only [Keeps.mk_iff] | with_reducible assumption | intro _ | dsimp only

theorem execVor_ok {r₀ s : State} (hs : Keeps r₀ s) (t : Tid) (vd : Reg) (va : Reg) (vb : Reg) (et : EType) : Ok r₀ (execVor t vd va vb et s) := by
  unfold execVor
  repeat' first | with_reducible refine vecBits_ok ?_ _ _ _ _ _ _  | with_reducible refine Ok.next ?_ | (intro x hx) | with_reducible assumption | with_reducible exact hs | split | simp only [Keeps.mk_iff] | with_reducible assumption | intro _ | dsimp only

theorem execVxor_ok {r₀ s : State} (hs : Keeps r₀ s) (t : Tid) (vd : Reg) (va : Reg) (vb : Reg) (et : EType) : Ok r₀ (execVxor t vd va vb et s) := by
  unfold execVxor
  repeat' first | with_reducible refine vecBits_ok ?_ _ _ _ _ _ _  | with_reducible refine Ok.next ?_ | (intro x hx) | with_reducible assumption | with_reducible exact hs | split | simp only [Keeps.mk_iff] | with_reducible assumption | intro _ | dsimp only

theorem execVshl_ok {r₀ s : State} (hs : Keeps r₀ s) (t : Tid) (vd : Reg) (va : Reg) (vb : Reg) (et : EType) : Ok r₀ (execVshl t vd va vb et s) := by
  unfold execVshl
  repeat' first | with_reducible refine vec2_ok ?_ _ _ _ _ _ _ _  | with_reducible refine Ok.next ?_ | (intro x hx) | with_reducible assumption | with_reducible exact hs | split | simp only [Keeps.mk_iff] | with_reducible assumption | intro _ | dsimp only

theorem execVshr_ok {r₀ s : State} (hs : Keeps r₀ s) (t : Tid) (vd : Reg) (va : Reg) (vb : Reg) (et : EType) (u : Bool) : Ok r₀ (execVshr t vd va vb et u s) := by
  unfold execVshr
  repeat' first | with_reducible refine vec2_ok ?_ _ _ _ _ _ _ _  | with_reducible refine Ok.next ?_ | (intro x hx) | with_reducible assumption | with_reducible exact hs | split | simp only [Keeps.mk_iff] | with_reducible assumption | intro _ | dsimp only

theorem execVcmp_ok {r₀ s : State} (hs : Keeps r₀ s) (t : Tid) (vd : Reg) (va : Reg) (vb : Reg) (et : EType) (sub : CmpOp) (u : Bool) : Ok r₀ (execVcmp t vd va vb et sub u s) := by
  unfold execVcmp
  repeat' first | with_reducible refine vec2_ok ?_ _ _ _ _ _ _ _  | with_reducible refine Ok.next ?_ | (intro x hx) | with_reducible assumption | with_reducible exact hs | split | simp only [Keeps.mk_iff] | with_reducible assumption | intro _ | dsimp only

theorem execVsel_ok {r₀ s : State} (hs : Keeps r₀ s) (t : Tid) (vd : Reg) (va : Reg) (vb : Reg) (vc : Reg) (et : EType) : Ok r₀ (execVsel t vd va vb vc et s) := by
  unfold execVsel
  repeat' first | with_reducible refine vec_ok ?_ _ _ _ _ ?_ | with_reducible refine Ok.next ?_ | (intro x hx) | with_reducible assumption | with_reducible exact hs | with_reducible apply State.setV_keeps | split | simp only [Keeps.mk_iff] | with_reducible assumption | intro _ | dsimp only

theorem vec1_ok {r₀ s : State} (hs : Keeps r₀ s) (t : Tid) (vd : Reg) (va : Reg) (et : EType) (f : Nat → Nat) : Ok r₀ (vec1 t vd va et f s) := by
  unfold vec1
  repeat' first | with_reducible refine vec_ok ?_ _ _ _ _ ?_ | with_reducible refine Ok.next ?_ | (intro x hx) | with_reducible assumption | with_reducible exact hs | with_reducible apply State.setV_keeps | split | simp only [Keeps.mk_iff] | with_reducible assumption | intro _ | dsimp only

theorem execVexp_ok {r₀ s : State} (hs : Keeps r₀ s) (t : Tid) (vd : Reg) (va : Reg) (et : EType) : Ok r₀ (execVexp t vd va et s) := by
  unfold execVexp
  repeat' first | with_reducible refine vec1_ok ?_ _ _ _ _ _  | with_reducible refine Ok.next ?_ | (intro x hx) | with_reducible assumption | with_reducible exact hs | split | simp only [Keeps.mk_iff] | with_reducible assumption | intro _ | dsimp only

theorem execVrcp_ok {r₀ s : State} (hs : Keeps r₀ s) (t : Tid) (vd : Reg) (va : Reg) (et : EType) : Ok r₀ (execVrcp t vd va et s) := by
  unfold execVrcp
  repeat' first | with_reducible refine vec1_ok ?_ _ _ _ _ _  | with_reducible refine Ok.next ?_ | (intro x hx) | with_reducible assumption | with_reducible exact hs | split | simp only [Keeps.mk_iff] | with_reducible assumption | intro _ | dsimp only

theorem execVcvt_ok {r₀ s : State} (hs : Keeps r₀ s) (t : Tid) (vd : Reg) (va : Reg) (rb : Reg) (et : EType) (et2 : EType) (rm : Bool) (u : Bool) : Ok r₀ (execVcvt t vd va rb et et2 rm u s) := by
  unfold execVcvt
  repeat' first | with_reducible refine vec_ok ?_ _ _ _ _ ?_ | with_reducible refine Ok.next ?_ | (intro x hx) | with_reducible assumption | with_reducible exact hs | with_reducible apply State.modThr_keeps | with_reducible apply State.setV_keeps | split | simp only [Keeps.mk_iff] | with_reducible assumption | intro _ | dsimp only

theorem execVred_ok {r₀ s : State} (hs : Keeps r₀ s) (t : Tid) (rd : Reg) (va : Reg) (et : EType) (sub : RedOp) (u : Bool) : Ok r₀ (execVred t rd va et sub u s) := by
  unfold execVred
  repeat' first | with_reducible refine vec_ok ?_ _ _ _ _ ?_ | with_reducible refine Ok.next ?_ | (intro x hx) | with_reducible assumption | with_reducible exact hs | with_reducible apply State.setG_keeps | split | simp only [Keeps.mk_iff] | with_reducible assumption | intro _ | dsimp only

theorem execVbcast_ok {r₀ s : State} (hs : Keeps r₀ s) (t : Tid) (vd : Reg) (ra : Reg) (et : EType) : Ok r₀ (execVbcast t vd ra et s) := by
  unfold execVbcast
  repeat' first | with_reducible refine vec_ok ?_ _ _ _ _ ?_ | with_reducible refine Ok.next ?_ | (intro x hx) | with_reducible assumption | with_reducible exact hs | with_reducible apply State.setV_keeps | split | simp only [Keeps.mk_iff] | with_reducible assumption | intro _ | dsimp only

theorem execVext_ok {r₀ s : State} (hs : Keeps r₀ s) (t : Tid) (rd : Reg) (va : Reg) (rb : Reg) (et : EType) : Ok r₀ (execVext t rd va rb et s) := by
  unfold execVext
  repeat' first | with_reducible refine vec_ok ?_ _ _ _ _ ?_ | with_reducible refine Ok.next ?_ | (intro x hx) | with_reducible assumption | with_reducible exact hs | with_reducible apply State.setG_keeps | split | simp only [Keeps.mk_iff] | with_reducible assumption | intro _ | dsimp only

theorem execVins_ok {r₀ s : State} (hs : Keeps r₀ s) (t : Tid) (vd : Reg) (ra : Reg) (rb : Reg) (et : EType) : Ok r₀ (execVins t vd ra rb et s) := by
  unfold execVins
  repeat' first | with_reducible refine vec_ok ?_ _ _ _ _ ?_ | with_reducible refine Ok.next ?_ | (intro x hx) | with_reducible assumption | with_reducible exact hs | with_reducible apply State.setV_keeps | split | simp only [Keeps.mk_iff] | with_reducible assumption | intro _ | dsimp only

theorem execVmfc_ok {r₀ s : State} (hs : Keeps r₀ s) (t : Tid) (rd : Reg) (n : Fin 32) : Ok r₀ (execVmfc t rd n s) := by
  unfold execVmfc
  repeat' first | with_reducible refine vec_ok ?_ _ _ _ _ ?_ | with_reducible refine Ok.next ?_ | (intro x hx) | with_reducible assumption | with_reducible exact hs | with_reducible apply State.setG_keeps | split | simp only [Keeps.mk_iff] | with_reducible assumption | intro _ | dsimp only

theorem execVmtc_ok {r₀ s : State} (hs : Keeps r₀ s) (t : Tid) (n : Fin 32) (ra : Reg) : Ok r₀ (execVmtc t n ra s) := by
  unfold execVmtc
  repeat' first | with_reducible refine vec_ok ?_ _ _ _ _ ?_ | with_reducible refine Ok.next ?_ | (intro x hx) | with_reducible assumption | with_reducible exact hs | with_reducible apply State.modThr_keeps | split | simp only [Keeps.mk_iff] | with_reducible assumption | intro _ | dsimp only

theorem vecLong_ok {r₀ s : State} (hs : Keeps r₀ s) (t : Tid) (srcs : List Nat) (ok : Bool) (addrs : Thread → List (Nat × Nat × Nat)) (op : Thread → LongOp) : Ok r₀ (vecLong t srcs ok addrs op s) := by
  unfold vecLong
  repeat' first | with_reducible refine issue_ok ?_ _ _ _ ?_ | with_reducible refine Ok.next ?_ | (intro x hx) | with_reducible assumption | with_reducible exact hs | with_reducible apply State.raise_keeps | with_reducible apply State.startLong_keeps | split | simp only [Keeps.mk_iff] | with_reducible assumption | intro _ | dsimp only

theorem execVld_ok {r₀ s : State} (hs : Keeps r₀ s) (t : Tid) (vd : Reg) (ra : Reg) (pg : PgReg) : Ok r₀ (execVld t vd ra pg s) := by
  unfold execVld
  repeat' first | with_reducible refine vecLong_ok ?_ _ _ _ _ _  | with_reducible refine Ok.next ?_ | (intro x hx) | with_reducible assumption | with_reducible exact hs | split | simp only [Keeps.mk_iff] | with_reducible assumption | intro _ | dsimp only

theorem execVst_ok {r₀ s : State} (hs : Keeps r₀ s) (t : Tid) (va : Reg) (rd : Reg) (pg : PgReg) : Ok r₀ (execVst t va rd pg s) := by
  unfold execVst
  repeat' first | with_reducible refine vecLong_ok ?_ _ _ _ _ _  | with_reducible refine Ok.next ?_ | (intro x hx) | with_reducible assumption | with_reducible exact hs | split | simp only [Keeps.mk_iff] | with_reducible assumption | intro _ | dsimp only

theorem execVldc_ok {r₀ s : State} (hs : Keeps r₀ s) (t : Tid) (vd : Reg) (ra : Reg) (pg : PgReg) : Ok r₀ (execVldc t vd ra pg s) := by
  unfold execVldc
  repeat' first | with_reducible refine vecLong_ok ?_ _ _ _ _ _  | with_reducible refine Ok.next ?_ | (intro x hx) | with_reducible assumption | with_reducible exact hs | split | simp only [Keeps.mk_iff] | with_reducible assumption | intro _ | dsimp only

theorem execVgth_ok {r₀ s : State} (hs : Keeps r₀ s) (t : Tid) (vd : Reg) (ra : Reg) (vb : Reg) (et : EType) (pg : PgReg) : Ok r₀ (execVgth t vd ra vb et pg s) := by
  unfold execVgth
  repeat' first | with_reducible refine vecLong_ok ?_ _ _ _ _ _  | with_reducible refine Ok.next ?_ | (intro x hx) | with_reducible assumption | with_reducible exact hs | with_reducible apply EngRun.bytes_keeps | split | simp only [Keeps.mk_iff] | with_reducible assumption | intro _ | dsimp only

theorem execVsct_ok {r₀ s : State} (hs : Keeps r₀ s) (t : Tid) (vc : Reg) (ra : Reg) (vb : Reg) (et : EType) (pg : PgReg) : Ok r₀ (execVsct t vc ra vb et pg s) := by
  unfold execVsct
  repeat' first | with_reducible refine vecLong_ok ?_ _ _ _ _ _  | with_reducible refine Ok.next ?_ | (intro x hx) | with_reducible assumption | with_reducible exact hs | with_reducible apply EngRun.bytes_keeps | split | simp only [Keeps.mk_iff] | with_reducible assumption | intro _ | dsimp only

theorem execVlop_ok {r₀ s : State} (hs : Keeps r₀ s) (t : Tid) (rd : Reg) (ra : Reg) (rb : Reg) (vc : Reg) (et : EType) (sub : LopOp) (u : Bool) (pg : PgReg) : Ok r₀ (execVlop t rd ra rb vc et sub u pg s) := by
  unfold execVlop
  repeat' first | with_reducible refine vecLong_ok ?_ _ _ _ _ _  | with_reducible refine Ok.next ?_ | (intro x hx) | with_reducible assumption | with_reducible exact hs | with_reducible apply EngRun.bytes_keeps | split | simp only [Keeps.mk_iff] | with_reducible assumption | intro _ | dsimp only

theorem execVlcvt_ok {r₀ s : State} (hs : Keeps r₀ s) (t : Tid) (rd : Reg) (ra : Reg) (rb : Reg) (rc : Reg) (et : EType) (et2 : EType) (rm : Bool) (u : Bool) (pg : PgReg) : Ok r₀ (execVlcvt t rd ra rb rc et et2 rm u pg s) := by
  unfold execVlcvt
  repeat' first | with_reducible refine vecLong_ok ?_ _ _ _ _ _  | with_reducible refine Ok.next ?_ | (intro x hx) | with_reducible assumption | with_reducible exact hs | with_reducible apply EngRun.bytes_keeps | split | simp only [Keeps.mk_iff] | with_reducible assumption | intro _ | dsimp only

theorem execVlred_ok {r₀ s : State} (hs : Keeps r₀ s) (t : Tid) (rd : Reg) (ra : Reg) (rb : Reg) (et : EType) (sub : RedOp) (u : Bool) (pg : PgReg) : Ok r₀ (execVlred t rd ra rb et sub u pg s) := by
  unfold execVlred
  repeat' first | with_reducible refine vecLong_ok ?_ _ _ _ _ _  | with_reducible refine Ok.next ?_ | (intro x hx) | with_reducible assumption | with_reducible exact hs | with_reducible apply EngRun.bytes_keeps | split | simp only [Keeps.mk_iff] | with_reducible assumption | intro _ | dsimp only

theorem execStreamEngineStart_ok {r₀ s : State} (hs : Keeps r₀ s) (core : Nat) : Ok r₀ (execStreamEngineStart core s) := by
  unfold execStreamEngineStart
  repeat' first | with_reducible refine clocked_ok ?_ ?_   | with_reducible refine Ok.next ?_ | (intro x hx) | with_reducible assumption | with_reducible exact hs | with_reducible apply State.modCore_keeps | with_reducible apply State.modThr_keeps | split | simp only [Keeps.mk_iff] | with_reducible assumption | intro _ | dsimp only

theorem execVectorMemoryRetire_ok {r₀ s : State} (hs : Keeps r₀ s) (t : Tid) (upto : Nat) : Ok r₀ (execVectorMemoryRetire t upto s) := by
  unfold execVectorMemoryRetire
  repeat' first | with_reducible refine Ok.next ?_ | (intro x hx) | with_reducible assumption | with_reducible exact hs | with_reducible apply State.vecStep_keeps | split | simp only [Keeps.mk_iff] | with_reducible assumption | intro _ | dsimp only

theorem execFence_ok {r₀ s : State} (hs : Keeps r₀ s) (t : Tid) : Ok r₀ (execFence t s) := by
  unfold execFence
  repeat' first | with_reducible refine issue_ok ?_ _ _ _ ?_ | with_reducible refine Ok.next ?_ | (intro x hx) | with_reducible assumption | with_reducible exact hs | with_reducible apply State.fenceOn_keeps | split | simp only [Keeps.mk_iff] | with_reducible assumption | intro _ | dsimp only

theorem execFencer_ok {r₀ s : State} (hs : Keeps r₀ s) (t : Tid) : Ok r₀ (execFencer t s) := by
  unfold execFencer
  repeat' first | with_reducible refine issue_ok ?_ _ _ _ ?_ | with_reducible refine Ok.next ?_ | (intro x hx) | with_reducible assumption | with_reducible exact hs | with_reducible apply State.scanOn_keeps | split | simp only [Keeps.mk_iff] | with_reducible assumption | intro _ | dsimp only

theorem execFencea_ok {r₀ s : State} (hs : Keeps r₀ s) (t : Tid) : Ok r₀ (execFencea t s) := by
  unfold execFencea
  repeat' first | with_reducible refine issue_ok ?_ _ _ _ ?_ | with_reducible refine Ok.next ?_ | (intro x hx) | with_reducible assumption | with_reducible exact hs | with_reducible apply State.scanOn_keeps | split | simp only [Keeps.mk_iff] | with_reducible assumption | intro _ | dsimp only

theorem execCwait_ok {r₀ s : State} (hs : Keeps r₀ s) (t : Tid) (ra : Reg) (k : Fin 16) : Ok r₀ (execCwait t ra k s) := by
  unfold execCwait
  repeat' first | with_reducible refine issue_ok ?_ _ _ _ ?_ | refine State.tryCwait_keeps ?_ _ _ _ _ hx | with_reducible refine Ok.next ?_ | (intro x hx) | with_reducible assumption | with_reducible exact hs | with_reducible apply State.orBlock_keeps | exact (State.tryCwait_keeps (by assumption) _ _ _ _ ‹_›) | split | simp only [Keeps.mk_iff] | with_reducible assumption | intro _ | dsimp only

theorem execCwaita_ok {r₀ s : State} (hs : Keeps r₀ s) (t : Tid) : Ok r₀ (execCwaita t s) := by
  unfold execCwaita
  repeat' first | with_reducible refine issue_ok ?_ _ _ _ ?_ | refine State.tryCwaita_keeps ?_ _ _ hx | with_reducible refine Ok.next ?_ | (intro x hx) | with_reducible assumption | with_reducible exact hs | with_reducible apply State.orBlock_keeps | refine State.tryCwaita_keeps ?_ _ ‹_› | split | simp only [Keeps.mk_iff] | with_reducible assumption | intro _ | dsimp only

theorem execCrd_ok {r₀ s : State} (hs : Keeps r₀ s) (t : Tid) (rd : Reg) (k : Fin 16) : Ok r₀ (execCrd t rd k s) := by
  unfold execCrd
  repeat' first | with_reducible refine issue_ok ?_ _ _ _ ?_ | with_reducible refine Ok.next ?_ | (intro x hx) | with_reducible assumption | with_reducible exact hs | with_reducible apply State.past_keeps | with_reducible apply State.setG_keeps | split | simp only [Keeps.mk_iff] | with_reducible assumption | intro _ | dsimp only

theorem atomic_ok {r₀ s : State} (hs : Keeps r₀ s) (op : AtomOp) (t : Tid) (rd : Reg) (ra : Reg) (rb : Reg) (pg : PgReg) : Ok r₀ (atomic op t rd ra rb pg s) := by
  unfold atomic
  repeat' first | with_reducible refine accessInstr_ok ?_ _ _ _ _  | with_reducible refine Ok.next ?_ | (intro x hx) | with_reducible assumption | with_reducible exact hs | split | simp only [Keeps.mk_iff] | with_reducible assumption | intro _ | dsimp only

theorem execSwap_ok {r₀ s : State} (hs : Keeps r₀ s) (t : Tid) (rd : Reg) (ra : Reg) (rb : Reg) (pg : PgReg) : Ok r₀ (execSwap t rd ra rb pg s) := by
  unfold execSwap
  repeat' first | with_reducible refine atomic_ok ?_ _ _ _ _ _ _  | with_reducible refine Ok.next ?_ | (intro x hx) | with_reducible assumption | with_reducible exact hs | split | simp only [Keeps.mk_iff] | with_reducible assumption | intro _ | dsimp only

theorem execCas_ok {r₀ s : State} (hs : Keeps r₀ s) (t : Tid) (rd : Reg) (ra : Reg) (rb : Reg) (pg : PgReg) : Ok r₀ (execCas t rd ra rb pg s) := by
  unfold execCas
  repeat' first | with_reducible refine atomic_ok ?_ _ _ _ _ _ _  | with_reducible refine Ok.next ?_ | (intro x hx) | with_reducible assumption | with_reducible exact hs | split | simp only [Keeps.mk_iff] | with_reducible assumption | intro _ | dsimp only

theorem execFadd_ok {r₀ s : State} (hs : Keeps r₀ s) (t : Tid) (rd : Reg) (ra : Reg) (rb : Reg) (pg : PgReg) : Ok r₀ (execFadd t rd ra rb pg s) := by
  unfold execFadd
  repeat' first | with_reducible refine atomic_ok ?_ _ _ _ _ _ _  | with_reducible refine Ok.next ?_ | (intro x hx) | with_reducible assumption | with_reducible exact hs | split | simp only [Keeps.mk_iff] | with_reducible assumption | intro _ | dsimp only

theorem execFand_ok {r₀ s : State} (hs : Keeps r₀ s) (t : Tid) (rd : Reg) (ra : Reg) (rb : Reg) (pg : PgReg) : Ok r₀ (execFand t rd ra rb pg s) := by
  unfold execFand
  repeat' first | with_reducible refine atomic_ok ?_ _ _ _ _ _ _  | with_reducible refine Ok.next ?_ | (intro x hx) | with_reducible assumption | with_reducible exact hs | split | simp only [Keeps.mk_iff] | with_reducible assumption | intro _ | dsimp only

theorem execForA_ok {r₀ s : State} (hs : Keeps r₀ s) (t : Tid) (rd : Reg) (ra : Reg) (rb : Reg) (pg : PgReg) : Ok r₀ (execForA t rd ra rb pg s) := by
  unfold execForA
  repeat' first | with_reducible refine atomic_ok ?_ _ _ _ _ _ _  | with_reducible refine Ok.next ?_ | (intro x hx) | with_reducible assumption | with_reducible exact hs | split | simp only [Keeps.mk_iff] | with_reducible assumption | intro _ | dsimp only

theorem execFxor_ok {r₀ s : State} (hs : Keeps r₀ s) (t : Tid) (rd : Reg) (ra : Reg) (rb : Reg) (pg : PgReg) : Ok r₀ (execFxor t rd ra rb pg s) := by
  unfold execFxor
  repeat' first | with_reducible refine atomic_ok ?_ _ _ _ _ _ _  | with_reducible refine Ok.next ?_ | (intro x hx) | with_reducible assumption | with_reducible exact hs | split | simp only [Keeps.mk_iff] | with_reducible assumption | intro _ | dsimp only

theorem execFmax_ok {r₀ s : State} (hs : Keeps r₀ s) (t : Tid) (rd : Reg) (ra : Reg) (rb : Reg) (pg : PgReg) : Ok r₀ (execFmax t rd ra rb pg s) := by
  unfold execFmax
  repeat' first | with_reducible refine atomic_ok ?_ _ _ _ _ _ _  | with_reducible refine Ok.next ?_ | (intro x hx) | with_reducible assumption | with_reducible exact hs | split | simp only [Keeps.mk_iff] | with_reducible assumption | intro _ | dsimp only

theorem execFmin_ok {r₀ s : State} (hs : Keeps r₀ s) (t : Tid) (rd : Reg) (ra : Reg) (rb : Reg) (pg : PgReg) : Ok r₀ (execFmin t rd ra rb pg s) := by
  unfold execFmin
  repeat' first | with_reducible refine atomic_ok ?_ _ _ _ _ _ _  | with_reducible refine Ok.next ?_ | (intro x hx) | with_reducible assumption | with_reducible exact hs | split | simp only [Keeps.mk_iff] | with_reducible assumption | intro _ | dsimp only

theorem execFmaxu_ok {r₀ s : State} (hs : Keeps r₀ s) (t : Tid) (rd : Reg) (ra : Reg) (rb : Reg) (pg : PgReg) : Ok r₀ (execFmaxu t rd ra rb pg s) := by
  unfold execFmaxu
  repeat' first | with_reducible refine atomic_ok ?_ _ _ _ _ _ _  | with_reducible refine Ok.next ?_ | (intro x hx) | with_reducible assumption | with_reducible exact hs | split | simp only [Keeps.mk_iff] | with_reducible assumption | intro _ | dsimp only

theorem execFminu_ok {r₀ s : State} (hs : Keeps r₀ s) (t : Tid) (rd : Reg) (ra : Reg) (rb : Reg) (pg : PgReg) : Ok r₀ (execFminu t rd ra rb pg s) := by
  unfold execFminu
  repeat' first | with_reducible refine atomic_ok ?_ _ _ _ _ _ _  | with_reducible refine Ok.next ?_ | (intro x hx) | with_reducible assumption | with_reducible exact hs | split | simp only [Keeps.mk_iff] | with_reducible assumption | intro _ | dsimp only

theorem execAload_ok {r₀ s : State} (hs : Keeps r₀ s) (t : Tid) (rd : Reg) (ra : Reg) (pg : PgReg) : Ok r₀ (execAload t rd ra pg s) := by
  unfold execAload
  repeat' first | with_reducible refine atomic_ok ?_ _ _ _ _ _ _  | with_reducible refine Ok.next ?_ | (intro x hx) | with_reducible assumption | with_reducible exact hs | split | simp only [Keeps.mk_iff] | with_reducible assumption | intro _ | dsimp only

theorem execAddn32_ok {r₀ s : State} (hs : Keeps r₀ s) (t : Tid) (ra : Reg) (rb : Reg) (pg : PgReg) (rtag : Fin 8) : Ok r₀ (execAddn32 t ra rb pg rtag s) := by
  unfold execAddn32
  repeat' first | with_reducible refine accessInstr_ok ?_ _ _ _ _  | with_reducible refine Ok.next ?_ | (intro x hx) | with_reducible assumption | with_reducible exact hs | split | simp only [Keeps.mk_iff] | with_reducible assumption | intro _ | dsimp only

theorem execAddn64_ok {r₀ s : State} (hs : Keeps r₀ s) (t : Tid) (ra : Reg) (rb : Reg) (pg : PgReg) (rtag : Fin 8) : Ok r₀ (execAddn64 t ra rb pg rtag s) := by
  unfold execAddn64
  repeat' first | with_reducible refine accessInstr_ok ?_ _ _ _ _  | with_reducible refine Ok.next ?_ | (intro x hx) | with_reducible assumption | with_reducible exact hs | split | simp only [Keeps.mk_iff] | with_reducible assumption | intro _ | dsimp only

theorem execBarr_ok {r₀ s : State} (hs : Keeps r₀ s) (t : Tid) (rd : Reg) (ra : Reg) : Ok r₀ (execBarr t rd ra s) := by
  unfold execBarr
  repeat' first | with_reducible refine issue_ok ?_ _ _ _ ?_ | refine State.tryBarr_keeps ?_ _ _ _ _ hx | with_reducible refine Ok.next ?_ | (intro x hx) | with_reducible assumption | with_reducible exact hs | with_reducible apply State.orBlock_keeps | with_reducible apply State.past_keeps | with_reducible apply State.refuseBarrier_keeps | with_reducible apply State.setG_keeps | exact (State.tryBarr_keeps (by assumption) _ _ _ _ ‹_›) | split | simp only [Keeps.mk_iff] | with_reducible assumption | intro _ | dsimp only

theorem execBdecl_ok {r₀ s : State} (hs : Keeps r₀ s) (t : Tid) (ra : Reg) (rb : Reg) : Ok r₀ (execBdecl t ra rb s) := by
  unfold execBdecl
  repeat' first | with_reducible refine issue_ok ?_ _ _ _ ?_ | with_reducible refine Ok.next ?_ | (intro x hx) | with_reducible assumption | with_reducible exact hs | with_reducible apply State.modThr_keeps | with_reducible apply State.past_keeps | with_reducible apply State.post_keeps | with_reducible apply State.refuseBarrier_keeps | split | simp only [Keeps.mk_iff] | with_reducible assumption | intro _ | dsimp only

theorem execBfree_ok {r₀ s : State} (hs : Keeps r₀ s) (t : Tid) (ra : Reg) : Ok r₀ (execBfree t ra s) := by
  unfold execBfree
  repeat' first | with_reducible refine issue_ok ?_ _ _ _ ?_ | with_reducible refine Ok.next ?_ | (intro x hx) | with_reducible assumption | with_reducible exact hs | with_reducible apply State.modThr_keeps | with_reducible apply State.past_keeps | with_reducible apply State.post_keeps | with_reducible apply State.refuseBarrier_keeps | split | simp only [Keeps.mk_iff] | with_reducible assumption | intro _ | dsimp only

theorem execBstat_ok {r₀ s : State} (hs : Keeps r₀ s) (t : Tid) (rd : Reg) (ra : Reg) : Ok r₀ (execBstat t rd ra s) := by
  unfold execBstat
  repeat' first | with_reducible refine issue_ok ?_ _ _ _ ?_ | with_reducible refine Ok.next ?_ | (intro x hx) | with_reducible assumption | with_reducible exact hs | with_reducible apply State.past_keeps | with_reducible apply State.refuseBarrier_keeps | with_reducible apply State.setG_keeps | split | simp only [Keeps.mk_iff] | with_reducible assumption | intro _ | dsimp only

theorem execWait_ok {r₀ s : State} (hs : Keeps r₀ s) (t : Tid) (rd : Reg) (ra : Reg) (rb : Reg) : Ok r₀ (execWait t rd ra rb s) := by
  unfold execWait
  repeat' first | with_reducible refine issue_ok ?_ _ _ _ ?_ | refine State.tryWait_keeps ?_ _ _ _ _ _ hx | with_reducible refine Ok.next ?_ | (intro x hx) | with_reducible assumption | with_reducible exact hs | with_reducible apply EngRun.wait_keeps | with_reducible apply State.orBlock_keeps | with_reducible apply State.past_keeps | with_reducible apply State.refuseBarrier_keeps | with_reducible apply State.setG_keeps | exact (State.tryWait_keeps (by assumption) _ _ _ _ _ ‹_›) | split | simp only [Keeps.mk_iff] | with_reducible assumption | intro _ | dsimp only

theorem execSig_ok {r₀ s : State} (hs : Keeps r₀ s) (t : Tid) (ra : Reg) (rb : Reg) : Ok r₀ (execSig t ra rb s) := by
  unfold execSig
  repeat' first | with_reducible refine issue_ok ?_ _ _ _ ?_ | with_reducible refine Ok.next ?_ | (intro x hx) | with_reducible assumption | with_reducible exact hs | with_reducible apply EngRun.refuse_keeps | with_reducible apply State.past_keeps | with_reducible apply State.post_keeps | with_reducible apply State.refuse_keeps | with_reducible apply State.signal_keeps | (with_reducible refine Keeps.getD (fun u hu => ?_) ?_) | split | simp only [Keeps.mk_iff] | with_reducible assumption | intro _ | dsimp only

theorem execSpoll_ok {r₀ s : State} (hs : Keeps r₀ s) (t : Tid) (rd : Reg) (ra : Reg) : Ok r₀ (execSpoll t rd ra s) := by
  unfold execSpoll
  repeat' first | with_reducible refine issue_ok ?_ _ _ _ ?_ | with_reducible refine Ok.next ?_ | (intro x hx) | with_reducible assumption | with_reducible exact hs | with_reducible apply State.past_keeps | with_reducible apply State.setG_keeps | with_reducible apply State.setThr_keeps | split | simp only [Keeps.mk_iff] | with_reducible assumption | intro _ | dsimp only

theorem execSigcfg_ok {r₀ s : State} (hs : Keeps r₀ s) (t : Tid) (ra : Reg) : Ok r₀ (execSigcfg t ra s) := by
  unfold execSigcfg
  repeat' first | with_reducible refine issue_ok ?_ _ _ _ ?_ | with_reducible refine Ok.next ?_ | (intro x hx) | with_reducible assumption | with_reducible exact hs | with_reducible apply State.modThr_keeps | with_reducible apply State.past_keeps | split | simp only [Keeps.mk_iff] | with_reducible assumption | intro _ | dsimp only

theorem execSigrd_ok {r₀ s : State} (hs : Keeps r₀ s) (t : Tid) (rd : Reg) : Ok r₀ (execSigrd t rd s) := by
  unfold execSigrd
  repeat' first | with_reducible refine issue_ok ?_ _ _ _ ?_ | with_reducible refine Ok.next ?_ | (intro x hx) | with_reducible assumption | with_reducible exact hs | with_reducible apply State.past_keeps | with_reducible apply State.setG_keeps | split | simp only [Keeps.mk_iff] | with_reducible assumption | intro _ | dsimp only

theorem execSignalArrive_ok {r₀ s : State} (hs : Keeps r₀ s) (core : Nat) (i : Nat) : Ok r₀ (execSignalArrive core i s) := by
  unfold execSignalArrive
  repeat' first | with_reducible refine clocked_ok ?_ ?_   | with_reducible refine Ok.next ?_ | (intro x hx) | with_reducible assumption | with_reducible exact hs | with_reducible apply State.setInb_keeps | with_reducible apply State.signal_keeps | split | simp only [Keeps.mk_iff] | with_reducible assumption | intro _ | dsimp only

theorem execDeclareAtHome_ok {r₀ s : State} (hs : Keeps r₀ s) (die : Nat) (i : Nat) : Ok r₀ (execDeclareAtHome die i s) := by
  unfold execDeclareAtHome
  repeat' first | with_reducible refine clocked_ok ?_ ?_   | with_reducible refine Ok.next ?_ | (intro x hx) | with_reducible assumption | with_reducible exact hs | with_reducible apply State.beaconPkt_keeps | with_reducible apply State.declare_keeps | split | simp only [Keeps.mk_iff] | with_reducible assumption | intro _ | dsimp only

theorem execFreeAtHome_ok {r₀ s : State} (hs : Keeps r₀ s) (die : Nat) (i : Nat) : Ok r₀ (execFreeAtHome die i s) := by
  unfold execFreeAtHome
  repeat' first | with_reducible refine clocked_ok ?_ ?_   | with_reducible refine Ok.next ?_ | (intro x hx) | with_reducible assumption | with_reducible exact hs | with_reducible apply State.beaconPkt_keeps | with_reducible apply State.free_keeps | split | simp only [Keeps.mk_iff] | with_reducible assumption | intro _ | dsimp only

theorem execArriveAtHome_ok {r₀ s : State} (hs : Keeps r₀ s) (die : Nat) (i : Nat) : Ok r₀ (execArriveAtHome die i s) := by
  unfold execArriveAtHome
  repeat' first | with_reducible refine clocked_ok ?_ ?_   | with_reducible refine Ok.next ?_ | (intro x hx) | with_reducible assumption | with_reducible exact hs | with_reducible apply State.arriveHome_keeps | with_reducible apply State.beaconPkt_keeps | split | simp only [Keeps.mk_iff] | with_reducible assumption | intro _ | dsimp only

theorem execDeclareEvent_ok {r₀ s : State} (hs : Keeps r₀ s) : Ok r₀ (execDeclareEvent s) := by
  unfold execDeclareEvent
  repeat' first | with_reducible refine clocked_ok ?_ ?_   | with_reducible refine Ok.next ?_ | (intro x hx) | with_reducible assumption | with_reducible exact hs | with_reducible apply State.applyEvent_keeps | with_reducible apply State.declare_keeps | with_reducible apply State.deliverEvent_keeps | split | simp only [Keeps.mk_iff] | with_reducible assumption | intro _ | dsimp only

theorem execFreeEvent_ok {r₀ s : State} (hs : Keeps r₀ s) : Ok r₀ (execFreeEvent s) := by
  unfold execFreeEvent
  repeat' first | with_reducible refine clocked_ok ?_ ?_   | with_reducible refine Ok.next ?_ | (intro x hx) | with_reducible assumption | with_reducible exact hs | with_reducible apply State.applyEvent_keeps | with_reducible apply State.deliverEvent_keeps | with_reducible apply State.free_keeps | split | simp only [Keeps.mk_iff] | with_reducible assumption | intro _ | dsimp only

theorem execReleaseEvent_ok {r₀ s : State} (hs : Keeps r₀ s) : Ok r₀ (execReleaseEvent s) := by
  unfold execReleaseEvent
  repeat' first | with_reducible refine clocked_ok ?_ ?_   | with_reducible refine Ok.next ?_ | (intro x hx) | with_reducible assumption | with_reducible exact hs | with_reducible apply State.applyEvent_keeps | with_reducible apply State.deliverEvent_keeps | with_reducible apply State.release_keeps | split | simp only [Keeps.mk_iff] | with_reducible assumption | intro _ | dsimp only

theorem execFlushEvent_ok {r₀ s : State} (hs : Keeps r₀ s) : Ok r₀ (execFlushEvent s) := by
  unfold execFlushEvent
  repeat' first | with_reducible refine clocked_ok ?_ ?_   | with_reducible refine Ok.next ?_ | (intro x hx) | with_reducible assumption | with_reducible exact hs | with_reducible apply State.deliverEvent_keeps | with_reducible apply State.flushCore_keeps | with_reducible apply overAll_keeps | (with_reducible refine Keeps.overAll ?_ (fun _ _ _ => ?_) _) | split | simp only [Keeps.mk_iff] | with_reducible assumption | intro _ | dsimp only

theorem execFlushReportComplete_ok {r₀ s : State} (hs : Keeps r₀ s) (b : Nat) : Ok r₀ (execFlushReportComplete b s) := by
  unfold execFlushReportComplete
  repeat' first | with_reducible refine clocked_ok ?_ ?_   | with_reducible refine Ok.next ?_ | (intro x hx) | with_reducible assumption | with_reducible exact hs | with_reducible apply State.busied_keeps | with_reducible apply State.emit_keeps | with_reducible apply State.modBarrier_keeps | with_reducible apply State.release_keeps | split | simp only [Keeps.mk_iff] | with_reducible assumption | intro _ | dsimp only

theorem execBeaconParityResend_ok {r₀ s : State} (hs : Keeps r₀ s) : Ok r₀ (execBeaconParityResend s) := by
  unfold execBeaconParityResend
  repeat' first | with_reducible refine clocked_ok ?_ ?_   | with_reducible refine Ok.next ?_ | (intro x hx) | with_reducible assumption | with_reducible exact hs | with_reducible apply State.report_keeps | split | simp only [Keeps.mk_iff] | with_reducible assumption | intro _ | dsimp only

theorem execFogSample_ok {r₀ s : State} (hs : Keeps r₀ s) (c : Nat) : Ok r₀ (execFogSample c s) := by
  unfold execFogSample
  repeat' first | with_reducible refine clocked_ok ?_ ?_   | with_reducible refine Ok.next ?_ | (intro x hx) | with_reducible assumption | with_reducible exact hs | with_reducible apply State.fogSample_keeps | split | simp only [Keeps.mk_iff] | with_reducible assumption | intro _ | dsimp only

theorem execFogEscalation_ok {r₀ s : State} (hs : Keeps r₀ s) (c : Nat) : Ok r₀ (execFogEscalation c s) := by
  unfold execFogEscalation
  repeat' first | with_reducible refine clocked_ok ?_ ?_   | with_reducible refine Ok.next ?_ | (intro x hx) | with_reducible assumption | with_reducible exact hs | with_reducible apply State.escalate_keeps | with_reducible apply State.modCon_keeps | split | simp only [Keeps.mk_iff] | with_reducible assumption | intro _ | dsimp only

theorem execFogAlarmClear_ok {r₀ s : State} (hs : Keeps r₀ s) (acc : Accessor) (c : Nat) : Ok r₀ (execFogAlarmClear acc c s) := by
  unfold execFogAlarmClear
  repeat' first | with_reducible refine clocked_ok ?_ ?_   | with_reducible refine Ok.next ?_ | (intro x hx) | with_reducible assumption | with_reducible exact hs | with_reducible apply State.fogStatusWrite_keeps | with_reducible apply State.regCmd_keeps | split | simp only [Keeps.mk_iff] | with_reducible assumption | intro _ | dsimp only

theorem execLiveLimitsWrite_ok {r₀ s : State} (hs : Keeps r₀ s) (acc : Accessor) (c : Nat) (v : Word) : Ok r₀ (execLiveLimitsWrite acc c v s) := by
  unfold execLiveLimitsWrite
  repeat' first | with_reducible refine clocked_ok ?_ ?_   | with_reducible refine Ok.next ?_ | (intro x hx) | with_reducible assumption | with_reducible exact hs | with_reducible apply State.liveLimits_keeps | with_reducible apply State.regCmd_keeps | split | simp only [Keeps.mk_iff] | with_reducible assumption | intro _ | dsimp only

theorem execInject_ok {r₀ s : State} (hs : Keeps r₀ s) (node : Nat) : Ok r₀ (execInject node s) := by
  unfold execInject
  repeat' first | with_reducible refine clocked_ok ?_ ?_   | with_reducible refine Ok.next ?_ | (intro x hx) | with_reducible assumption | with_reducible exact hs | with_reducible apply State.inject_keeps | split | simp only [Keeps.mk_iff] | with_reducible assumption | intro _ | dsimp only

theorem execFlitHop_ok {r₀ s : State} (hs : Keeps r₀ s) (plane : Fin 4) (x : Nat) (y : Nat) (damage : List Nat) : Ok r₀ (execFlitHop plane x y damage s) := by
  unfold execFlitHop
  repeat' first | with_reducible refine clocked_ok ?_ ?_   | with_reducible refine Ok.next ?_ | (intro x hx) | with_reducible assumption | with_reducible exact hs | with_reducible apply State.hop_keeps | split | simp only [Keeps.mk_iff] | with_reducible assumption | intro _ | dsimp only

theorem execInjectionThrottleEval_ok {r₀ s : State} (hs : Keeps r₀ s) (core : Nat) : Ok r₀ (execInjectionThrottleEval core s) := by
  unfold execInjectionThrottleEval
  repeat' first | with_reducible refine clocked_ok ?_ ?_   | with_reducible refine Ok.next ?_ | (intro x hx) | with_reducible assumption | with_reducible exact hs | with_reducible apply State.modCore_keeps | split | simp only [Keeps.mk_iff] | with_reducible assumption | intro _ | dsimp only

theorem execRdataArrive_ok {r₀ s : State} (hs : Keeps r₀ s) (core : Nat) (i : Nat) (ue : BitVec 2) : Ok r₀ (execRdataArrive core i ue s) := by
  unfold execRdataArrive
  repeat' first | with_reducible refine clocked_ok ?_ ?_   | with_reducible refine Ok.next ?_ | (intro x hx) | with_reducible assumption | with_reducible exact hs | with_reducible apply State.arrive_keeps | split | simp only [Keeps.mk_iff] | with_reducible assumption | intro _ | dsimp only

theorem execWackArrive_ok {r₀ s : State} (hs : Keeps r₀ s) (core : Nat) (i : Nat) : Ok r₀ (execWackArrive core i s) := by
  unfold execWackArrive
  repeat' first | with_reducible refine clocked_ok ?_ ?_   | with_reducible refine Ok.next ?_ | (intro x hx) | with_reducible assumption | with_reducible exact hs | with_reducible apply State.arrive_keeps | split | simp only [Keeps.mk_iff] | with_reducible assumption | intro _ | dsimp only

theorem execAtomrArrive_ok {r₀ s : State} (hs : Keeps r₀ s) (core : Nat) (i : Nat) (ue : BitVec 2) : Ok r₀ (execAtomrArrive core i ue s) := by
  unfold execAtomrArrive
  repeat' first | with_reducible refine clocked_ok ?_ ?_   | with_reducible refine Ok.next ?_ | (intro x hx) | with_reducible assumption | with_reducible exact hs | with_reducible apply State.arrive_keeps | split | simp only [Keeps.mk_iff] | with_reducible assumption | intro _ | dsimp only

theorem execMeshLimitsWrite_ok {r₀ s : State} (hs : Keeps r₀ s) (acc : Accessor) (c : Nat) (v : Word) : Ok r₀ (execMeshLimitsWrite acc c v s) := by
  unfold execMeshLimitsWrite
  repeat' first | with_reducible refine clocked_ok ?_ ?_   | with_reducible refine Ok.next ?_ | (intro x hx) | with_reducible assumption | with_reducible exact hs | with_reducible apply State.meshLimits_keeps | with_reducible apply State.regCmd_keeps | split | simp only [Keeps.mk_iff] | with_reducible assumption | intro _ | dsimp only

theorem onDie_ok {r₀ s : State} (hs : Keeps r₀ s) (die : Nat) (k : State → State) (hk : ∀ x, Keeps r₀ x → Keeps r₀ (k x)) : Ok r₀ (onDie die s k) := by
  unfold onDie
  repeat' first | with_reducible refine clocked_ok ?_ ?_   | with_reducible refine Ok.next ?_ | (intro x hx) | with_reducible assumption | with_reducible exact hs | with_reducible apply hk | split | simp only [Keeps.mk_iff] | with_reducible assumption | intro _ | dsimp only

theorem execMeshClearTraffic_ok {r₀ s : State} (hs : Keeps r₀ s) (die : Nat) : Ok r₀ (execMeshClearTraffic die s) := by
  unfold execMeshClearTraffic
  repeat' first | with_reducible refine onDie_ok ?_ _ _ ?_ | with_reducible refine Ok.next ?_ | (intro x hx) | with_reducible assumption | with_reducible exact hs | with_reducible apply State.meshClear_keeps | split | simp only [Keeps.mk_iff] | with_reducible assumption | intro _ | dsimp only

theorem execMeshClearStatus_ok {r₀ s : State} (hs : Keeps r₀ s) (die : Nat) : Ok r₀ (execMeshClearStatus die s) := by
  unfold execMeshClearStatus
  repeat' first | with_reducible refine onDie_ok ?_ _ _ ?_ | with_reducible refine Ok.next ?_ | (intro x hx) | with_reducible assumption | with_reducible exact hs | with_reducible apply State.meshClear_keeps | split | simp only [Keeps.mk_iff] | with_reducible assumption | intro _ | dsimp only

theorem execCpset_ok {r₀ s : State} (hs : Keeps r₀ s) (t : Tid) (ch : Fin 4) (f : Fin 8) (ra : Reg) : Ok r₀ (execCpset t ch f ra s) := by
  unfold execCpset
  repeat' first | with_reducible refine issue_ok ?_ _ _ _ ?_ | with_reducible refine Ok.next ?_ | (intro x hx) | with_reducible assumption | with_reducible exact hs | with_reducible apply State.cpset_keeps | with_reducible apply State.past_keeps | split | simp only [Keeps.mk_iff] | with_reducible assumption | intro _ | dsimp only

theorem execCopyGo_ok {r₀ s : State} (hs : Keeps r₀ s) (t : Tid) (ch : Fin 4) (ra : Reg) : Ok r₀ (execCopyGo t ch ra s) := by
  unfold execCopyGo
  repeat' first | with_reducible refine issue_ok ?_ _ _ _ ?_ | with_reducible refine Ok.next ?_ | (intro x hx) | with_reducible assumption | with_reducible exact hs | with_reducible apply State.cpset_keeps | with_reducible apply State.past_keeps | split | simp only [Keeps.mk_iff] | with_reducible assumption | intro _ | dsimp only

theorem execCopyAbort_ok {r₀ s : State} (hs : Keeps r₀ s) (t : Tid) (ch : Fin 4) (ra : Reg) : Ok r₀ (execCopyAbort t ch ra s) := by
  unfold execCopyAbort
  repeat' first | with_reducible refine issue_ok ?_ _ _ _ ?_ | with_reducible refine Ok.next ?_ | (intro x hx) | with_reducible assumption | with_reducible exact hs | with_reducible apply State.cpset_keeps | with_reducible apply State.past_keeps | split | simp only [Keeps.mk_iff] | with_reducible assumption | intro _ | dsimp only

theorem execCopyEventClear_ok {r₀ s : State} (hs : Keeps r₀ s) (t : Tid) (ch : Fin 4) (ra : Reg) : Ok r₀ (execCopyEventClear t ch ra s) := by
  unfold execCopyEventClear
  repeat' first | with_reducible refine issue_ok ?_ _ _ _ ?_ | with_reducible refine Ok.next ?_ | (intro x hx) | with_reducible assumption | with_reducible exact hs | with_reducible apply State.cpset_keeps | with_reducible apply State.past_keeps | split | simp only [Keeps.mk_iff] | with_reducible assumption | intro _ | dsimp only

theorem execCpget_ok {r₀ s : State} (hs : Keeps r₀ s) (t : Tid) (rd : Reg) (ch : Fin 4) (f : Fin 8) : Ok r₀ (execCpget t rd ch f s) := by
  unfold execCpget
  repeat' first | with_reducible refine issue_ok ?_ _ _ _ ?_ | with_reducible refine Ok.next ?_ | (intro x hx) | with_reducible assumption | with_reducible exact hs | with_reducible apply State.past_keeps | with_reducible apply State.refuseChan_keeps | with_reducible apply State.setG_keeps | split | simp only [Keeps.mk_iff] | with_reducible assumption | intro _ | dsimp only

theorem execCpwait_ok {r₀ s : State} (hs : Keeps r₀ s) (t : Tid) (ch : Fin 4) : Ok r₀ (execCpwait t ch s) := by
  unfold execCpwait
  repeat' first | with_reducible refine issue_ok ?_ _ _ _ ?_ | refine State.tryCpwait_keeps ?_ _ _ _ hx | with_reducible refine Ok.next ?_ | (intro x hx) | with_reducible assumption | with_reducible exact hs | with_reducible apply State.orBlockLong_keeps | exact (State.tryCpwait_keeps (by assumption) _ _ _ ‹_›) | split | simp only [Keeps.mk_iff] | with_reducible assumption | intro _ | dsimp only

theorem execCopyBurstIssue_ok {r₀ s : State} (hs : Keeps r₀ s) (core : Nat) : Ok r₀ (execCopyBurstIssue core s) := by
  unfold execCopyBurstIssue
  repeat' first | with_reducible refine clocked_ok ?_ ?_   | with_reducible refine Ok.next ?_ | (intro x hx) | with_reducible assumption | with_reducible exact hs | with_reducible apply State.burstIssue_keeps | split | simp only [Keeps.mk_iff] | with_reducible assumption | intro _ | dsimp only

theorem execCopyBurstComplete_ok {r₀ s : State} (hs : Keeps r₀ s) (core : Nat) (ch : Fin 4) (i : Nat) : Ok r₀ (execCopyBurstComplete core ch i s) := by
  unfold execCopyBurstComplete
  repeat' first | with_reducible refine clocked_ok ?_ ?_   | with_reducible refine Ok.next ?_ | (intro x hx) | with_reducible assumption | with_reducible exact hs | with_reducible apply State.burstDone_keeps | split | simp only [Keeps.mk_iff] | with_reducible assumption | intro _ | dsimp only

theorem execCopyStop_ok {r₀ s : State} (hs : Keeps r₀ s) (core : Nat) (ch : Fin 4) : Ok r₀ (execCopyStop core ch s) := by
  unfold execCopyStop
  repeat' first | with_reducible refine clocked_ok ?_ ?_   | with_reducible refine Ok.next ?_ | (intro x hx) | with_reducible assumption | with_reducible exact hs | with_reducible apply State.hwMark_keeps | with_reducible apply State.modCore_keeps | split | simp only [Keeps.mk_iff] | with_reducible assumption | intro _ | dsimp only

theorem onStack_ok {r₀ s : State} (hs : Keeps r₀ s) (k : Nat) (f : State → State) (hf : ∀ x, Keeps r₀ x → Keeps r₀ (f x)) : Ok r₀ (onStack k s f) := by
  unfold onStack
  repeat' first | with_reducible refine clocked_ok ?_ ?_   | with_reducible refine Ok.next ?_ | (intro x hx) | with_reducible assumption | with_reducible exact hs | with_reducible apply hf | split | simp only [Keeps.mk_iff] | with_reducible assumption | intro _ | dsimp only

theorem execStackAccept_ok {r₀ s : State} (hs : Keeps r₀ s) (stk : Nat) (i : Nat) (bad : BitVec 4) : Ok r₀ (execStackAccept stk i bad s) := by
  unfold execStackAccept
  repeat' first | with_reducible refine onStack_ok ?_ _ _ ?_ | with_reducible refine Ok.next ?_ | (intro x hx) | with_reducible assumption | with_reducible exact hs | with_reducible apply State.stkAccept_keeps | split | simp only [Keeps.mk_iff] | with_reducible assumption | intro _ | dsimp only

theorem execStackResponse_ok {r₀ s : State} (hs : Keeps r₀ s) (stk : Nat) (i : Nat) (ue : BitVec 2) : Ok r₀ (execStackResponse stk i ue s) := by
  unfold execStackResponse
  repeat' first | with_reducible refine onStack_ok ?_ _ _ ?_ | with_reducible refine Ok.next ?_ | (intro x hx) | with_reducible assumption | with_reducible exact hs | with_reducible apply State.stkRespond_keeps | split | simp only [Keeps.mk_iff] | with_reducible assumption | intro _ | dsimp only

theorem execAtomicUnitOp_ok {r₀ s : State} (hs : Keeps r₀ s) (stk : Nat) : Ok r₀ (execAtomicUnitOp stk s) := by
  unfold execAtomicUnitOp
  repeat' first | with_reducible refine onStack_ok ?_ _ _ ?_ | with_reducible refine Ok.next ?_ | (intro x hx) | with_reducible assumption | with_reducible exact hs | with_reducible apply State.atomicOp_keeps | split | simp only [Keeps.mk_iff] | with_reducible assumption | intro _ | dsimp only

theorem execAtomicEvictWriteback_ok {r₀ s : State} (hs : Keeps r₀ s) (stk : Nat) : Ok r₀ (execAtomicEvictWriteback stk s) := by
  unfold execAtomicEvictWriteback
  repeat' first | with_reducible refine onStack_ok ?_ _ _ ?_ | with_reducible refine Ok.next ?_ | (intro x hx) | with_reducible assumption | with_reducible exact hs | with_reducible apply State.evictBack_keeps | split | simp only [Keeps.mk_iff] | with_reducible assumption | intro _ | dsimp only

theorem execStackSlot_ok {r₀ s : State} (hs : Keeps r₀ s) (stk : Nat) (ch : Fin 32) : Ok r₀ (execStackSlot stk ch s) := by
  unfold execStackSlot
  repeat' first | with_reducible refine onStack_ok ?_ _ _ ?_ | with_reducible refine Ok.next ?_ | (intro x hx) | with_reducible assumption | with_reducible exact hs | with_reducible apply State.stkSlot_keeps | split | simp only [Keeps.mk_iff] | with_reducible assumption | intro _ | dsimp only

theorem execStackRefresh_ok {r₀ s : State} (hs : Keeps r₀ s) (stk : Nat) (ch : Fin 32) : Ok r₀ (execStackRefresh stk ch s) := by
  unfold execStackRefresh
  repeat' first | with_reducible refine onStack_ok ?_ _ _ ?_ | with_reducible refine Ok.next ?_ | (intro x hx) | with_reducible assumption | with_reducible exact hs | with_reducible apply State.modChan_keeps | with_reducible apply State.modStack_keeps | split | simp only [Keeps.mk_iff] | with_reducible assumption | intro _ | dsimp only

theorem execPatrolScrubCreate_ok {r₀ s : State} (hs : Keeps r₀ s) (stk : Nat) (ch : Fin 32) : Ok r₀ (execPatrolScrubCreate stk ch s) := by
  unfold execPatrolScrubCreate
  repeat' first | with_reducible refine onStack_ok ?_ _ _ ?_ | with_reducible refine Ok.next ?_ | (intro x hx) | with_reducible assumption | with_reducible exact hs | with_reducible apply State.newBg_keeps | split | simp only [Keeps.mk_iff] | with_reducible assumption | intro _ | dsimp only

theorem execNeighbourRefresh_ok {r₀ s : State} (hs : Keeps r₀ s) (stk : Nat) (ch : Fin 32) (bank : Fin 32) (row : Nat) : Ok r₀ (execNeighbourRefresh stk ch bank row s) := by
  unfold execNeighbourRefresh
  repeat' first | with_reducible refine onStack_ok ?_ _ _ ?_ | with_reducible refine Ok.next ?_ | (intro x hx) | with_reducible assumption | with_reducible exact hs | with_reducible apply State.newBg_keeps | split | simp only [Keeps.mk_iff] | with_reducible assumption | intro _ | dsimp only

theorem execPhyCalibration_ok {r₀ s : State} (hs : Keeps r₀ s) (stk : Nat) (ch : Fin 32) : Ok r₀ (execPhyCalibration stk ch s) := by
  unfold execPhyCalibration
  repeat' first | with_reducible refine onStack_ok ?_ _ _ ?_ | with_reducible refine Ok.next ?_ | (intro x hx) | with_reducible assumption | with_reducible exact hs | with_reducible apply State.newBg_keeps | split | simp only [Keeps.mk_iff] | with_reducible assumption | intro _ | dsimp only

theorem execTelemetryReadout_ok {r₀ s : State} (hs : Keeps r₀ s) (stk : Nat) (ch : Fin 32) : Ok r₀ (execTelemetryReadout stk ch s) := by
  unfold execTelemetryReadout
  repeat' first | with_reducible refine onStack_ok ?_ _ _ ?_ | with_reducible refine Ok.next ?_ | (intro x hx) | with_reducible assumption | with_reducible exact hs | with_reducible apply State.newBg_keeps | split | simp only [Keeps.mk_iff] | with_reducible assumption | intro _ | dsimp only

theorem execRegionLog_ok {r₀ s : State} (hs : Keeps r₀ s) (stk : Nat) (ch : Fin 32) (q : Nat) : Ok r₀ (execRegionLog stk ch q s) := by
  unfold execRegionLog
  repeat' first | with_reducible refine onStack_ok ?_ _ _ ?_ | with_reducible refine Ok.next ?_ | (intro x hx) | with_reducible assumption | with_reducible exact hs | with_reducible apply State.regionLog_keeps | split | simp only [Keeps.mk_iff] | with_reducible assumption | intro _ | dsimp only

theorem execStackFailure_ok {r₀ s : State} (hs : Keeps r₀ s) (stk : Nat) : Ok r₀ (execStackFailure stk s) := by
  unfold execStackFailure
  repeat' first | with_reducible refine onStack_ok ?_ _ _ ?_ | with_reducible refine Ok.next ?_ | (intro x hx) | with_reducible assumption | with_reducible exact hs | with_reducible apply State.stkFail_keeps | split | simp only [Keeps.mk_iff] | with_reducible assumption | intro _ | dsimp only

theorem execTrain_ok {r₀ s : State} (hs : Keeps r₀ s) (stk : Nat) : Ok r₀ (execTrain stk s) := by
  unfold execTrain
  repeat' first | with_reducible refine onStack_ok ?_ _ _ ?_ | with_reducible refine Ok.next ?_ | (intro x hx) | with_reducible assumption | with_reducible exact hs | with_reducible apply State.train_keeps | split | simp only [Keeps.mk_iff] | with_reducible assumption | intro _ | dsimp only

theorem execTrainingDone_ok {r₀ s : State} (hs : Keeps r₀ s) (stk : Nat) (ok : Bool) : Ok r₀ (execTrainingDone stk ok s) := by
  unfold execTrainingDone
  repeat' first | with_reducible refine onStack_ok ?_ _ _ ?_ | with_reducible refine Ok.next ?_ | (intro x hx) | with_reducible assumption | with_reducible exact hs | with_reducible apply State.trainingDone_keeps | split | simp only [Keeps.mk_iff] | with_reducible assumption | intro _ | dsimp only

theorem execStkClearRetire_ok {r₀ s : State} (hs : Keeps r₀ s) (stk : Nat) : Ok r₀ (execStkClearRetire stk s) := by
  unfold execStkClearRetire
  repeat' first | with_reducible refine onStack_ok ?_ _ _ ?_ | with_reducible refine Ok.next ?_ | (intro x hx) | with_reducible assumption | with_reducible exact hs | with_reducible apply State.stkClear_keeps | split | simp only [Keeps.mk_iff] | with_reducible assumption | intro _ | dsimp only

theorem execStkClearErr_ok {r₀ s : State} (hs : Keeps r₀ s) (stk : Nat) : Ok r₀ (execStkClearErr stk s) := by
  unfold execStkClearErr
  repeat' first | with_reducible refine onStack_ok ?_ _ _ ?_ | with_reducible refine Ok.next ?_ | (intro x hx) | with_reducible assumption | with_reducible exact hs | with_reducible apply State.stkClear_keeps | split | simp only [Keeps.mk_iff] | with_reducible assumption | intro _ | dsimp only

theorem windowCmd_ok {r₀ s : State} (hs : Keeps r₀ s) (acc : Accessor) (c : Nat) (off : Nat) (v : Word) : Ok r₀ (windowCmd acc c off v s) := by
  unfold windowCmd
  repeat' first | with_reducible refine clocked_ok ?_ ?_   | with_reducible refine Ok.next ?_ | (intro x hx) | with_reducible assumption | with_reducible exact hs | with_reducible apply State.regCmd_keeps | with_reducible apply State.windowWrite_keeps | split | simp only [Keeps.mk_iff] | with_reducible assumption | intro _ | dsimp only

theorem execWtbaseWrite_ok {r₀ s : State} (hs : Keeps r₀ s) (acc : Accessor) (c : Nat) (v : Word) : Ok r₀ (execWtbaseWrite acc c v s) := by
  unfold execWtbaseWrite
  repeat' first | with_reducible refine windowCmd_ok ?_ _ _ _ _  | with_reducible refine Ok.next ?_ | (intro x hx) | with_reducible assumption | with_reducible exact hs | split | simp only [Keeps.mk_iff] | with_reducible assumption | intro _ | dsimp only

theorem execWtcountWrite_ok {r₀ s : State} (hs : Keeps r₀ s) (acc : Accessor) (c : Nat) (v : Word) : Ok r₀ (execWtcountWrite acc c v s) := by
  unfold execWtcountWrite
  repeat' first | with_reducible refine windowCmd_ok ?_ _ _ _ _  | with_reducible refine Ok.next ?_ | (intro x hx) | with_reducible assumption | with_reducible exact hs | split | simp only [Keeps.mk_iff] | with_reducible assumption | intro _ | dsimp only

theorem execWinvAll_ok {r₀ s : State} (hs : Keeps r₀ s) (acc : Accessor) (c : Nat) : Ok r₀ (execWinvAll acc c s) := by
  unfold execWinvAll
  repeat' first | with_reducible refine windowCmd_ok ?_ _ _ _ _  | with_reducible refine Ok.next ?_ | (intro x hx) | with_reducible assumption | with_reducible exact hs | split | simp only [Keeps.mk_iff] | with_reducible assumption | intro _ | dsimp only

theorem execWinvEntry_ok {r₀ s : State} (hs : Keeps r₀ s) (acc : Accessor) (c : Nat) (e : Nat) : Ok r₀ (execWinvEntry acc c e s) := by
  unfold execWinvEntry
  repeat' first | with_reducible refine windowCmd_ok ?_ _ _ _ _  | with_reducible refine Ok.next ?_ | (intro x hx) | with_reducible assumption | with_reducible exact hs | split | simp only [Keeps.mk_iff] | with_reducible assumption | intro _ | dsimp only

theorem execWinvDone_ok {r₀ s : State} (hs : Keeps r₀ s) (c : Nat) : Ok r₀ (execWinvDone c s) := by
  unfold execWinvDone
  repeat' first | with_reducible refine clocked_ok ?_ ?_   | with_reducible refine Ok.next ?_ | (intro x hx) | with_reducible assumption | with_reducible exact hs | with_reducible apply State.answer_keeps | with_reducible apply State.modCon_keeps | with_reducible apply overAll_keeps | (with_reducible refine Keeps.overAll ?_ (fun _ _ _ => ?_) _) | split | simp only [Keeps.mk_iff] | with_reducible assumption | intro _ | dsimp only

theorem execRetirementComplete_ok {r₀ s : State} (hs : Keeps r₀ s) (slot : Nat) : Ok r₀ (execRetirementComplete slot s) := by
  unfold execRetirementComplete
  repeat' first | with_reducible refine clocked_ok ?_ ?_   | with_reducible refine Ok.next ?_ | (intro x hx) | with_reducible assumption | with_reducible exact hs | with_reducible apply State.fillRanges_keeps | with_reducible apply State.free_keeps | with_reducible apply State.modSlot_keeps | with_reducible apply State.purge_keeps | split | simp only [Keeps.mk_iff] | with_reducible assumption | intro _ | dsimp only

theorem supCmd_ok {r₀ s : State} (hs : Keeps r₀ s) (c : Nat) (k : State → State) (hk : ∀ x, Keeps r₀ x → Keeps r₀ (k x)) : Ok r₀ (supCmd c s k) := by
  unfold supCmd
  repeat' first | with_reducible refine clocked_ok ?_ ?_   | with_reducible refine Ok.next ?_ | (intro x hx) | with_reducible assumption | with_reducible exact hs | with_reducible apply hk | split | simp only [Keeps.mk_iff] | with_reducible assumption | intro _ | dsimp only

theorem execKey_ok {r₀ s : State} (hs : Keeps r₀ s) (c : Nat) (slot : Nat) : Ok r₀ (execKey c slot s) := by
  unfold execKey
  repeat' first | with_reducible refine supCmd_ok ?_ _ _ ?_ | with_reducible refine Ok.next ?_ | (intro x hx) | with_reducible assumption | with_reducible exact hs | with_reducible apply State.sessCmd_keeps | split | simp only [Keeps.mk_iff] | with_reducible assumption | intro _ | dsimp only

theorem execBind_ok {r₀ s : State} (hs : Keeps r₀ s) (c : Nat) (slot : Nat) : Ok r₀ (execBind c slot s) := by
  unfold execBind
  repeat' first | with_reducible refine supCmd_ok ?_ _ _ ?_ | with_reducible refine Ok.next ?_ | (intro x hx) | with_reducible assumption | with_reducible exact hs | with_reducible apply State.sessCmd_keeps | split | simp only [Keeps.mk_iff] | with_reducible assumption | intro _ | dsimp only

theorem execUnbind_ok {r₀ s : State} (hs : Keeps r₀ s) (c : Nat) (slot : Nat) : Ok r₀ (execUnbind c slot s) := by
  unfold execUnbind
  repeat' first | with_reducible refine supCmd_ok ?_ _ _ ?_ | with_reducible refine Ok.next ?_ | (intro x hx) | with_reducible assumption | with_reducible exact hs | with_reducible apply State.sessCmd_keeps | split | simp only [Keeps.mk_iff] | with_reducible assumption | intro _ | dsimp only

theorem execRetire_ok {r₀ s : State} (hs : Keeps r₀ s) (c : Nat) (slot : Nat) (fill : Bool) : Ok r₀ (execRetire c slot fill s) := by
  unfold execRetire
  repeat' first | with_reducible refine supCmd_ok ?_ _ _ ?_ | with_reducible refine Ok.next ?_ | (intro x hx) | with_reducible assumption | with_reducible exact hs | with_reducible apply State.sessCmd_keeps | split | simp only [Keeps.mk_iff] | with_reducible assumption | intro _ | dsimp only

theorem execKeyStart_ok {r₀ s : State} (hs : Keeps r₀ s) : Ok r₀ (execKeyStart s) := by
  unfold execKeyStart
  repeat' first | with_reducible refine clocked_ok ?_ ?_   | with_reducible refine Ok.next ?_ | (intro x hx) | with_reducible assumption | with_reducible exact hs | with_reducible apply State.keyStart_keeps | split | simp only [Keeps.mk_iff] | with_reducible assumption | intro _ | dsimp only

theorem execRotate_ok {r₀ s : State} (hs : Keeps r₀ s) : Ok r₀ (execRotate s) := by
  unfold execRotate
  repeat' first | with_reducible refine State.keeperDoes_ok ?_ ?_   | with_reducible refine Ok.next ?_ | (intro x hx) | with_reducible assumption | with_reducible exact hs | with_reducible apply State.rotate_keeps | split | simp only [Keeps.mk_iff] | with_reducible assumption | intro _ | dsimp only

theorem execKeyReplicationAnswer_ok {r₀ s : State} (hs : Keeps r₀ s) (stk : Nat) (hash : BitVec 256) : Ok r₀ (execKeyReplicationAnswer stk hash s) := by
  unfold execKeyReplicationAnswer
  repeat' first | with_reducible refine onStack_ok ?_ _ _ ?_ | with_reducible refine Ok.next ?_ | (intro x hx) | with_reducible assumption | with_reducible exact hs | with_reducible apply State.keyRetry_keeps | with_reducible apply State.modTrust_keeps | split | simp only [Keeps.mk_iff] | with_reducible assumption | intro _ | dsimp only

theorem execReplicationTimeout_ok {r₀ s : State} (hs : Keeps r₀ s) (stk : Nat) : Ok r₀ (execReplicationTimeout stk s) := by
  unfold execReplicationTimeout
  repeat' first | with_reducible refine onStack_ok ?_ _ _ ?_ | with_reducible refine Ok.next ?_ | (intro x hx) | with_reducible assumption | with_reducible exact hs | with_reducible apply State.keyRetry_keeps | split | simp only [Keeps.mk_iff] | with_reducible assumption | intro _ | dsimp only

theorem execKeyComplete_ok {r₀ s : State} (hs : Keeps r₀ s) : Ok r₀ (execKeyComplete s) := by
  unfold execKeyComplete
  repeat' first | with_reducible refine clocked_ok ?_ ?_   | with_reducible refine Ok.next ?_ | (intro x hx) | with_reducible assumption | with_reducible exact hs | with_reducible apply State.keyEnd_keeps | with_reducible apply State.modArea_keeps | with_reducible apply State.modSlot_keeps | with_reducible apply State.modTrust_keeps | with_reducible apply State.sessDone_keeps | split | simp only [Keeps.mk_iff] | with_reducible assumption | intro _ | dsimp only

theorem execRecon_ok {r₀ s : State} (hs : Keeps r₀ s) : Ok r₀ (execRecon s) := by
  unfold execRecon
  repeat' first | with_reducible refine State.keeperDoes_ok ?_ ?_   | with_reducible refine Ok.next ?_ | (intro x hx) | with_reducible assumption | with_reducible exact hs | with_reducible apply State.idCmd_keeps | split | simp only [Keeps.mk_iff] | with_reducible assumption | intro _ | dsimp only

theorem execEnrol_ok {r₀ s : State} (hs : Keeps r₀ s) : Ok r₀ (execEnrol s) := by
  unfold execEnrol
  repeat' first | with_reducible refine State.keeperDoes_ok ?_ ?_   | with_reducible refine Ok.next ?_ | (intro x hx) | with_reducible assumption | with_reducible exact hs | with_reducible apply State.idCmd_keeps | split | simp only [Keeps.mk_iff] | with_reducible assumption | intro _ | dsimp only

theorem execIdentityReady_ok {r₀ s : State} (hs : Keeps r₀ s) : Ok r₀ (execIdentityReady s) := by
  unfold execIdentityReady
  repeat' first | with_reducible refine clocked_ok ?_ ?_   | with_reducible refine Ok.next ?_ | (intro x hx) | with_reducible assumption | with_reducible exact hs | with_reducible apply State.identify_keeps | with_reducible apply State.modTrust_keeps | split | simp only [Keeps.mk_iff] | with_reducible assumption | intro _ | dsimp only

theorem execQuoteGo_ok {r₀ s : State} (hs : Keeps r₀ s) (cid : Nat) (pkg : Bool) : Ok r₀ (execQuoteGo cid pkg s) := by
  unfold execQuoteGo
  repeat' first | with_reducible refine State.keeperDoes_ok ?_ ?_   | with_reducible refine Ok.next ?_ | (intro x hx) | with_reducible assumption | with_reducible exact hs | with_reducible apply State.quoteGo_keeps | split | simp only [Keeps.mk_iff] | with_reducible assumption | intro _ | dsimp only

theorem onEngine_ok {r₀ s : State} (hs : Keeps r₀ s) (die : Nat) (k : State → State) (hk : ∀ x, Keeps r₀ x → Keeps r₀ (k x)) : Ok r₀ (onEngine die s k) := by
  unfold onEngine
  repeat' first | with_reducible refine clocked_ok ?_ ?_   | with_reducible refine Ok.next ?_ | (intro x hx) | with_reducible assumption | with_reducible exact hs | with_reducible apply hk | split | simp only [Keeps.mk_iff] | with_reducible assumption | intro _ | dsimp only

theorem execTallySubmit_ok {r₀ s : State} (hs : Keeps r₀ s) (t : Tid) (die : Nat) (addr : Word) : Ok r₀ (execTallySubmit t die addr s) := by
  unfold execTallySubmit
  repeat' first | with_reducible refine onEngine_ok ?_ _ _ ?_ | with_reducible refine Ok.next ?_ | (intro x hx) | with_reducible assumption | with_reducible exact hs | with_reducible apply State.tallySubmit_keeps | split | simp only [Keeps.mk_iff] | with_reducible assumption | intro _ | dsimp only

theorem execTallyLineReceive_ok {r₀ s : State} (hs : Keeps r₀ s) (die : Nat) (half : Bool) (step : Nat) (index : Nat) (data : BitVec 512) : Ok r₀ (execTallyLineReceive die half step index data s) := by
  unfold execTallyLineReceive
  repeat' first | with_reducible refine onEngine_ok ?_ _ _ ?_ | with_reducible refine Ok.next ?_ | (intro x hx) | with_reducible assumption | with_reducible exact hs | with_reducible apply State.tallyTake_keeps | split | simp only [Keeps.mk_iff] | with_reducible assumption | intro _ | dsimp only

theorem execTallyAbortLine_ok {r₀ s : State} (hs : Keeps r₀ s) (die : Nat) : Ok r₀ (execTallyAbortLine die s) := by
  unfold execTallyAbortLine
  repeat' first | with_reducible refine onEngine_ok ?_ _ _ ?_ | with_reducible refine Ok.next ?_ | (intro x hx) | with_reducible assumption | with_reducible exact hs | with_reducible apply State.tallyFail_keeps | with_reducible apply State.tallyInbound_keeps | split | simp only [Keeps.mk_iff] | with_reducible assumption | intro _ | dsimp only

theorem execTallyJobStart_ok {r₀ s : State} (hs : Keeps r₀ s) (die : Nat) : Ok r₀ (execTallyJobStart die s) := by
  unfold execTallyJobStart
  repeat' first | with_reducible refine onEngine_ok ?_ _ _ ?_ | with_reducible refine Ok.next ?_ | (intro x hx) | with_reducible assumption | with_reducible exact hs | with_reducible apply State.tallyStart_keeps | split | simp only [Keeps.mk_iff] | with_reducible assumption | intro _ | dsimp only

theorem execTallyTimeout_ok {r₀ s : State} (hs : Keeps r₀ s) (die : Nat) : Ok r₀ (execTallyTimeout die s) := by
  unfold execTallyTimeout
  repeat' first | with_reducible refine onEngine_ok ?_ _ _ ?_ | with_reducible refine Ok.next ?_ | (intro x hx) | with_reducible assumption | with_reducible exact hs | with_reducible apply State.tallyFail_keeps | split | simp only [Keeps.mk_iff] | with_reducible assumption | intro _ | dsimp only

theorem execTallyJobEnd_ok {r₀ s : State} (hs : Keeps r₀ s) (die : Nat) : Ok r₀ (execTallyJobEnd die s) := by
  unfold execTallyJobEnd
  repeat' first | with_reducible refine onEngine_ok ?_ _ _ ?_ | with_reducible refine Ok.next ?_ | (intro x hx) | with_reducible assumption | with_reducible exact hs | with_reducible apply State.modRun_keeps | with_reducible apply State.tallyLeave_keeps | with_reducible apply State.tallyRecord_keeps | with_reducible apply State.tallyScramble_keeps | with_reducible apply State.tallySignal_keeps | split | simp only [Keeps.mk_iff] | with_reducible assumption | intro _ | dsimp only

theorem execTallyAbort_ok {r₀ s : State} (hs : Keeps r₀ s) (t : Tid) (die : Nat) (tag : BitVec 32) : Ok r₀ (execTallyAbort t die tag s) := by
  unfold execTallyAbort
  repeat' first | with_reducible refine onEngine_ok ?_ _ _ ?_ | with_reducible refine Ok.next ?_ | (intro x hx) | with_reducible assumption | with_reducible exact hs | with_reducible apply State.regCmd_keeps | with_reducible apply State.tallyAbort_keeps | split | simp only [Keeps.mk_iff] | with_reducible assumption | intro _ | dsimp only

theorem onPort_ok {r₀ s : State} (hs : Keeps r₀ s) (p : Nat) (k : State → State) (hk : ∀ x, Keeps r₀ x → Keeps r₀ (k x)) : Ok r₀ (onPort p s k) := by
  unfold onPort
  repeat' first | with_reducible refine clocked_ok ?_ ?_   | with_reducible refine Ok.next ?_ | (intro x hx) | with_reducible assumption | with_reducible exact hs | with_reducible apply hk | split | simp only [Keeps.mk_iff] | with_reducible assumption | intro _ | dsimp only

theorem execSnap_ok {r₀ s : State} (hs : Keeps r₀ s) : Ok r₀ (execSnap s) := by
  unfold execSnap
  repeat' first | with_reducible refine State.keeperDoes_ok ?_ ?_   | with_reducible refine Ok.next ?_ | (intro x hx) | with_reducible assumption | with_reducible exact hs | with_reducible apply State.snap_keeps | split | simp only [Keeps.mk_iff] | with_reducible assumption | intro _ | dsimp only

theorem execDigClear_ok {r₀ s : State} (hs : Keeps r₀ s) : Ok r₀ (execDigClear s) := by
  unfold execDigClear
  repeat' first | with_reducible refine State.keeperDoes_ok ?_ ?_   | with_reducible refine Ok.next ?_ | (intro x hx) | with_reducible assumption | with_reducible exact hs | with_reducible apply State.digClear_keeps | split | simp only [Keeps.mk_iff] | with_reducible assumption | intro _ | dsimp only

theorem execLanesLocked_ok {r₀ s : State} (hs : Keeps r₀ s) (port : Nat) : Ok r₀ (execLanesLocked port s) := by
  unfold execLanesLocked
  repeat' first | with_reducible refine onPort_ok ?_ _ _ ?_ | with_reducible refine Ok.next ?_ | (intro x hx) | with_reducible assumption | with_reducible exact hs | with_reducible apply State.identify_keeps | with_reducible apply State.portTo_keeps | split | simp only [Keeps.mk_iff] | with_reducible assumption | intro _ | dsimp only

theorem execTrainingTimeout_ok {r₀ s : State} (hs : Keeps r₀ s) (port : Nat) (halfLocked : Bool) : Ok r₀ (execTrainingTimeout port halfLocked s) := by
  unfold execTrainingTimeout
  repeat' first | with_reducible refine onPort_ok ?_ _ _ ?_ | with_reducible refine Ok.next ?_ | (intro x hx) | with_reducible assumption | with_reducible exact hs | with_reducible apply State.identify_keeps | with_reducible apply State.portTo_keeps | split | simp only [Keeps.mk_iff] | with_reducible assumption | intro _ | dsimp only

theorem execDownRetry_ok {r₀ s : State} (hs : Keeps r₀ s) (port : Nat) : Ok r₀ (execDownRetry port s) := by
  unfold execDownRetry
  repeat' first | with_reducible refine onPort_ok ?_ _ _ ?_ | with_reducible refine Ok.next ?_ | (intro x hx) | with_reducible assumption | with_reducible exact hs | with_reducible apply State.train__keeps | split | simp only [Keeps.mk_iff] | with_reducible assumption | intro _ | dsimp only

theorem execIdentify_ok {r₀ s : State} (hs : Keeps r₀ s) (port : Nat) (peerAccepts : Bool) : Ok r₀ (execIdentify port peerAccepts s) := by
  unfold execIdentify
  repeat' first | with_reducible refine onPort_ok ?_ _ _ ?_ | with_reducible refine Ok.next ?_ | (intro x hx) | with_reducible assumption | with_reducible exact hs | with_reducible apply State.identify_keeps | with_reducible apply State.joinUp_keeps | with_reducible apply State.modPort_keeps | with_reducible apply State.portTo_keeps | split | simp only [Keeps.mk_iff] | with_reducible assumption | intro _ | dsimp only

theorem execLinkFailure_ok {r₀ s : State} (hs : Keeps r₀ s) (port : Nat) : Ok r₀ (execLinkFailure port s) := by
  unfold execLinkFailure
  repeat' first | with_reducible refine onPort_ok ?_ _ _ ?_ | with_reducible refine Ok.next ?_ | (intro x hx) | with_reducible assumption | with_reducible exact hs | with_reducible apply State.leaveUp_keeps | with_reducible apply State.modPort_keeps | split | simp only [Keeps.mk_iff] | with_reducible assumption | intro _ | dsimp only

theorem execRetrainDone_ok {r₀ s : State} (hs : Keeps r₀ s) (port : Nat) (lanes : Fin 9) : Ok r₀ (execRetrainDone port lanes s) := by
  unfold execRetrainDone
  repeat' first | with_reducible refine onPort_ok ?_ _ _ ?_ | with_reducible refine Ok.next ?_ | (intro x hx) | with_reducible assumption | with_reducible exact hs | with_reducible apply State.joinUp_keeps | split | simp only [Keeps.mk_iff] | with_reducible assumption | intro _ | dsimp only

theorem execRetrainTimeout_ok {r₀ s : State} (hs : Keeps r₀ s) (port : Nat) : Ok r₀ (execRetrainTimeout port s) := by
  unfold execRetrainTimeout
  repeat' first | with_reducible refine onPort_ok ?_ _ _ ?_ | with_reducible refine Ok.next ?_ | (intro x hx) | with_reducible assumption | with_reducible exact hs | with_reducible apply State.portTo_keeps | split | simp only [Keeps.mk_iff] | with_reducible assumption | intro _ | dsimp only

theorem execRetrain_ok {r₀ s : State} (hs : Keeps r₀ s) (port : Nat) : Ok r₀ (execRetrain port s) := by
  unfold execRetrain
  repeat' first | with_reducible refine onPort_ok ?_ _ _ ?_ | with_reducible refine Ok.next ?_ | (intro x hx) | with_reducible assumption | with_reducible exact hs | with_reducible apply State.retrainCmd_keeps | split | simp only [Keeps.mk_iff] | with_reducible assumption | intro _ | dsimp only

theorem execDisable_ok {r₀ s : State} (hs : Keeps r₀ s) (port : Nat) : Ok r₀ (execDisable port s) := by
  unfold execDisable
  repeat' first | with_reducible refine onPort_ok ?_ _ _ ?_ | with_reducible refine Ok.next ?_ | (intro x hx) | with_reducible assumption | with_reducible exact hs | with_reducible apply State.disableCmd_keeps | split | simp only [Keeps.mk_iff] | with_reducible assumption | intro _ | dsimp only

theorem execCablePresenceChange_ok {r₀ s : State} (hs : Keeps r₀ s) (port : Nat) (present : Bool) : Ok r₀ (execCablePresenceChange port present s) := by
  unfold execCablePresenceChange
  repeat' first | with_reducible refine onPort_ok ?_ _ _ ?_ | with_reducible refine Ok.next ?_ | (intro x hx) | with_reducible assumption | with_reducible exact hs | with_reducible apply State.disablePort_keeps | with_reducible apply State.modPort_keeps | with_reducible apply State.present_keeps | with_reducible apply State.train__keeps | split | simp only [Keeps.mk_iff] | with_reducible assumption | intro _ | dsimp only

theorem execFrameTransmit_ok {r₀ s : State} (hs : Keeps r₀ s) (port : Nat) : Ok r₀ (execFrameTransmit port s) := by
  unfold execFrameTransmit
  repeat' first | with_reducible refine onPort_ok ?_ _ _ ?_ | with_reducible refine Ok.next ?_ | (intro x hx) | with_reducible assumption | with_reducible exact hs | with_reducible apply State.transmit_keeps | split | simp only [Keeps.mk_iff] | with_reducible assumption | intro _ | dsimp only

theorem execFrameReceive_ok {r₀ s : State} (hs : Keeps r₀ s) (port : Nat) (f : Frame) : Ok r₀ (execFrameReceive port f s) := by
  unfold execFrameReceive
  repeat' first | with_reducible refine onPort_ok ?_ _ _ ?_ | with_reducible refine Ok.next ?_ | (intro x hx) | with_reducible assumption | with_reducible exact hs | with_reducible apply State.receive_keeps | split | simp only [Keeps.mk_iff] | with_reducible assumption | intro _ | dsimp only

theorem execAckTimeoutReplay_ok {r₀ s : State} (hs : Keeps r₀ s) (port : Nat) : Ok r₀ (execAckTimeoutReplay port s) := by
  unfold execAckTimeoutReplay
  repeat' first | with_reducible refine onPort_ok ?_ _ _ ?_ | with_reducible refine Ok.next ?_ | (intro x hx) | with_reducible assumption | with_reducible exact hs | with_reducible apply State.startReplay_keeps | split | simp only [Keeps.mk_iff] | with_reducible assumption | intro _ | dsimp only

theorem execMeridianHandoff_ok {r₀ s : State} (hs : Keeps r₀ s) (port : Nat) : Ok r₀ (execMeridianHandoff port s) := by
  unfold execMeridianHandoff
  repeat' first | with_reducible refine onPort_ok ?_ _ _ ?_ | with_reducible refine Ok.next ?_ | (intro x hx) | with_reducible assumption | with_reducible exact hs | with_reducible apply State.handoff_keeps | split | simp only [Keeps.mk_iff] | with_reducible assumption | intro _ | dsimp only

theorem execRootLock_ok {r₀ s : State} (hs : Keeps r₀ s) : Ok r₀ (execRootLock s) := by
  unfold execRootLock
  repeat' first | with_reducible refine Ok.next ?_ | (intro x hx) | with_reducible assumption | with_reducible exact hs | with_reducible apply State.modClk_keeps | split | simp only [Keeps.mk_iff] | with_reducible assumption | intro _ | dsimp only

theorem execRootLossOfLock_ok {r₀ s : State} (hs : Keeps r₀ s) : Ok r₀ (execRootLossOfLock s) := by
  unfold execRootLossOfLock
  repeat' first | with_reducible refine Ok.next ?_ | (intro x hx) | with_reducible assumption | with_reducible exact hs | with_reducible apply State.loseLock_keeps | split | simp only [Keeps.mk_iff] | with_reducible assumption | intro _ | dsimp only

theorem execReferenceLoss_ok {r₀ s : State} (hs : Keeps r₀ s) : Ok r₀ (execReferenceLoss s) := by
  unfold execReferenceLoss
  repeat' first | with_reducible refine Ok.next ?_ | (intro x hx) | with_reducible assumption | with_reducible exact hs | with_reducible apply State.loseLock_keeps | with_reducible apply State.modClk_keeps | with_reducible apply State.physLost_keeps | split | simp only [Keeps.mk_iff] | with_reducible assumption | intro _ | dsimp only

theorem execReferenceReturn_ok {r₀ s : State} (hs : Keeps r₀ s) : Ok r₀ (execReferenceReturn s) := by
  unfold execReferenceReturn
  repeat' first | with_reducible refine Ok.next ?_ | (intro x hx) | with_reducible assumption | with_reducible exact hs | with_reducible apply State.modClk_keeps | split | simp only [Keeps.mk_iff] | with_reducible assumption | intro _ | dsimp only

theorem execSiderealIncrement_ok {r₀ s : State} (hs : Keeps r₀ s) : Ok r₀ (execSiderealIncrement s) := by
  unfold execSiderealIncrement
  repeat' first | with_reducible refine Ok.next ?_ | (intro x hx) | with_reducible assumption | with_reducible exact hs | with_reducible apply State.modClk_keeps | split | simp only [Keeps.mk_iff] | with_reducible assumption | intro _ | dsimp only

theorem execSiderealLoad_ok {r₀ s : State} (hs : Keeps r₀ s) (v : Word) : Ok r₀ (execSiderealLoad v s) := by
  unfold execSiderealLoad
  repeat' first | with_reducible refine State.keeperDoes_ok ?_ ?_   | with_reducible refine Ok.next ?_ | (intro x hx) | with_reducible assumption | with_reducible exact hs | with_reducible apply State.sidLoad_keeps | split | simp only [Keeps.mk_iff] | with_reducible assumption | intro _ | dsimp only

theorem execSiderealStep_ok {r₀ s : State} (hs : Keeps r₀ s) (v : Word) : Ok r₀ (execSiderealStep v s) := by
  unfold execSiderealStep
  repeat' first | with_reducible refine State.keeperDoes_ok ?_ ?_   | with_reducible refine Ok.next ?_ | (intro x hx) | with_reducible assumption | with_reducible exact hs | with_reducible apply State.sidStep_keeps | split | simp only [Keeps.mk_iff] | with_reducible assumption | intro _ | dsimp only

theorem execTimeExchange_ok {r₀ s : State} (hs : Keeps r₀ s) : Ok r₀ (execTimeExchange s) := by
  unfold execTimeExchange
  repeat' first | with_reducible refine clocked_ok ?_ ?_   | with_reducible refine Ok.next ?_ | (intro x hx) | with_reducible assumption | with_reducible exact hs | with_reducible apply State.timeExchange_keeps | split | simp only [Keeps.mk_iff] | with_reducible assumption | intro _ | dsimp only

theorem execHoldoverEntry_ok {r₀ s : State} (hs : Keeps r₀ s) : Ok r₀ (execHoldoverEntry s) := by
  unfold execHoldoverEntry
  repeat' first | with_reducible refine Ok.next ?_ | (intro x hx) | with_reducible assumption | with_reducible exact hs | with_reducible apply State.modClk_keeps | split | simp only [Keeps.mk_iff] | with_reducible assumption | intro _ | dsimp only

theorem execControlFrameReceive_ok {r₀ s : State} (hs : Keeps r₀ s) (port : Nat) (m : ControlMsg) : Ok r₀ (execControlFrameReceive port m s) := by
  unfold execControlFrameReceive
  repeat' first | with_reducible refine onPort_ok ?_ _ _ ?_ | with_reducible refine Ok.next ?_ | (intro x hx) | with_reducible assumption | with_reducible exact hs | with_reducible apply State.controlFrame_keeps | split | simp only [Keeps.mk_iff] | with_reducible assumption | intro _ | dsimp only

theorem execPoisonedWrite_ok {r₀ s : State} (hs : Keeps r₀ s) (f : Nat) (off : Nat) : Ok r₀ (execPoisonedWrite f off s) := by
  unfold execPoisonedWrite
  repeat' first | with_reducible refine Ok.next ?_ | (intro x hx) | with_reducible assumption | with_reducible exact hs | with_reducible apply State.aer_keeps | split | simp only [Keeps.mk_iff] | with_reducible assumption | intro _ | dsimp only

theorem execDoorbell_ok {r₀ s : State} (hs : Keeps r₀ s) (f : Nat) (i : Fin 64) (size : Nat) (v : Word) : Ok r₀ (execDoorbell f i size v s) := by
  unfold execDoorbell
  repeat' first | with_reducible refine Ok.next ?_ | (intro x hx) | with_reducible assumption | with_reducible exact hs | with_reducible apply State.doorbell_keeps | split | simp only [Keeps.mk_iff] | with_reducible assumption | intro _ | dsimp only

theorem execDbPendClear_ok {r₀ s : State} (hs : Keeps r₀ s) (acc : Accessor) (f : Nat) (v : Word) : Ok r₀ (execDbPendClear acc f v s) := by
  unfold execDbPendClear
  repeat' first | with_reducible refine clocked_ok ?_ ?_   | with_reducible refine Ok.next ?_ | (intro x hx) | with_reducible assumption | with_reducible exact hs | with_reducible apply State.dbPendWrite_keeps | with_reducible apply State.regCmd_keeps | split | simp only [Keeps.mk_iff] | with_reducible assumption | intro _ | dsimp only

theorem execMsixSend_ok {r₀ s : State} (hs : Keeps r₀ s) (t : Tid) (f : Nat) (v : Word) : Ok r₀ (execMsixSend t f v s) := by
  unfold execMsixSend
  repeat' first | with_reducible refine clocked_ok ?_ ?_   | with_reducible refine Ok.next ?_ | (intro x hx) | with_reducible assumption | with_reducible exact hs | with_reducible apply State.msixSend_keeps | with_reducible apply State.regCmd_keeps | split | simp only [Keeps.mk_iff] | with_reducible assumption | intro _ | dsimp only

theorem execHostCompletion_ok {r₀ s : State} (hs : Keeps r₀ s) (tag : Nat) (data : BitVec 512) : Ok r₀ (execHostCompletion tag data s) := by
  unfold execHostCompletion
  repeat' first | refine State.takeRead_keeps ?_ _ _ hx | with_reducible refine Ok.next ?_ | (intro x hx) | with_reducible assumption | with_reducible exact hs | with_reducible apply State.aer_keeps | with_reducible apply State.endRead_keeps | refine State.takeRead_keeps ?_ _ ‹_› | split | simp only [Keeps.mk_iff] | with_reducible assumption | intro _ | dsimp only

theorem execCompletionTimeout_ok {r₀ s : State} (hs : Keeps r₀ s) (tag : Nat) : Ok r₀ (execCompletionTimeout tag s) := by
  unfold execCompletionTimeout
  repeat' first | with_reducible refine clocked_ok ?_ ?_   | with_reducible refine Ok.next ?_ | (intro x hx) | with_reducible assumption | with_reducible exact hs | with_reducible apply State.failRead_keeps | split | simp only [Keeps.mk_iff] | with_reducible assumption | intro _ | dsimp only

theorem execPoisonedCompletion_ok {r₀ s : State} (hs : Keeps r₀ s) (tag : Nat) : Ok r₀ (execPoisonedCompletion tag s) := by
  unfold execPoisonedCompletion
  repeat' first | with_reducible refine Ok.next ?_ | (intro x hx) | with_reducible assumption | with_reducible exact hs | with_reducible apply State.failRead_keeps | split | simp only [Keeps.mk_iff] | with_reducible assumption | intro _ | dsimp only

theorem execUnexpectedCompletion_ok {r₀ s : State} (hs : Keeps r₀ s) : Ok r₀ (execUnexpectedCompletion s) := by
  unfold execUnexpectedCompletion
  repeat' first | with_reducible refine Ok.next ?_ | (intro x hx) | with_reducible assumption | with_reducible exact hs | with_reducible apply State.aer_keeps | split | simp only [Keeps.mk_iff] | with_reducible assumption | intro _ | dsimp only

theorem execUnsupportedRequest_ok {r₀ s : State} (hs : Keeps r₀ s) (f : Nat) : Ok r₀ (execUnsupportedRequest f s) := by
  unfold execUnsupportedRequest
  repeat' first | with_reducible refine Ok.next ?_ | (intro x hx) | with_reducible assumption | with_reducible exact hs | with_reducible apply State.aer_keeps | split | simp only [Keeps.mk_iff] | with_reducible assumption | intro _ | dsimp only

theorem execLinkDown_ok {r₀ s : State} (hs : Keeps r₀ s) : Ok r₀ (execLinkDown s) := by
  unfold execLinkDown
  repeat' first | with_reducible refine clocked_ok ?_ ?_   | with_reducible refine Ok.next ?_ | (intro x hx) | with_reducible assumption | with_reducible exact hs | with_reducible apply State.aer_keeps | with_reducible apply State.linkDrop_keeps | split | simp only [Keeps.mk_iff] | with_reducible assumption | intro _ | dsimp only

theorem execDataLinkUp_ok {r₀ s : State} (hs : Keeps r₀ s) : Ok r₀ (execDataLinkUp s) := by
  unfold execDataLinkUp
  repeat' first | with_reducible refine clocked_ok ?_ ?_   | with_reducible refine Ok.next ?_ | (intro x hx) | with_reducible assumption | with_reducible exact hs | with_reducible apply State.modHost_keeps | split | simp only [Keeps.mk_iff] | with_reducible assumption | intro _ | dsimp only

theorem execBridgeInternalError_ok {r₀ s : State} (hs : Keeps r₀ s) : Ok r₀ (execBridgeInternalError s) := by
  unfold execBridgeInternalError
  repeat' first | with_reducible refine clocked_ok ?_ ?_   | with_reducible refine Ok.next ?_ | (intro x hx) | with_reducible assumption | with_reducible exact hs | with_reducible apply State.aer_keeps | with_reducible apply State.dropOutbound_keeps | split | simp only [Keeps.mk_iff] | with_reducible assumption | intro _ | dsimp only

theorem execPf0RateRelease_ok {r₀ s : State} (hs : Keeps r₀ s) : Ok r₀ (execPf0RateRelease s) := by
  unfold execPf0RateRelease
  repeat' first | with_reducible refine clocked_ok ?_ ?_   | with_reducible refine Ok.next ?_ | (intro x hx) | with_reducible assumption | with_reducible exact hs | with_reducible apply State.pf0Issue_keeps | split | simp only [Keeps.mk_iff] | with_reducible assumption | intro _ | dsimp only

theorem execVfFlr_ok {r₀ s : State} (hs : Keeps r₀ s) (f : Nat) : Ok r₀ (execVfFlr f s) := by
  unfold execVfFlr
  repeat' first | with_reducible refine Ok.next ?_ | (intro x hx) | with_reducible assumption | with_reducible exact hs | with_reducible apply State.vfFlr_keeps | split | simp only [Keeps.mk_iff] | with_reducible assumption | intro _ | dsimp only

theorem execVfFlrComplete_ok {r₀ s : State} (hs : Keeps r₀ s) (f : Nat) : Ok r₀ (execVfFlrComplete f s) := by
  unfold execVfFlrComplete
  repeat' first | with_reducible refine clocked_ok ?_ ?_   | with_reducible refine Ok.next ?_ | (intro x hx) | with_reducible assumption | with_reducible exact hs | with_reducible apply State.modFunc_keeps | with_reducible apply State.vfReset_keeps | split | simp only [Keeps.mk_iff] | with_reducible assumption | intro _ | dsimp only

theorem execPf0Flr_ok {r₀ s : State} (hs : Keeps r₀ s) : Ok r₀ (execPf0Flr s) := by
  unfold execPf0Flr
  repeat' first | with_reducible refine Ok.next ?_ | (intro x hx) | with_reducible assumption | with_reducible exact hs | with_reducible apply State.pf0Reset_keeps | split | simp only [Keeps.mk_iff] | with_reducible assumption | intro _ | dsimp only

theorem execHotReset_ok {r₀ s : State} (hs : Keeps r₀ s) : Ok r₀ (execHotReset s) := by
  unfold execHotReset
  repeat' first | with_reducible refine clocked_ok ?_ ?_   | with_reducible refine Ok.next ?_ | (intro x hx) | with_reducible assumption | with_reducible exact hs | with_reducible apply State.pf0Reset_keeps | split | simp only [Keeps.mk_iff] | with_reducible assumption | intro _ | dsimp only

theorem execD3hot_ok {r₀ s : State} (hs : Keeps r₀ s) : Ok r₀ (execD3hot s) := by
  unfold execD3hot
  repeat' first | with_reducible refine Ok.next ?_ | (intro x hx) | with_reducible assumption | with_reducible exact hs | with_reducible apply State.modHost_keeps | split | simp only [Keeps.mk_iff] | with_reducible assumption | intro _ | dsimp only

theorem execConfigurationRequest_ok {r₀ s : State} (hs : Keeps r₀ s) (f : Nat) (fld : ConfigField) (v : Word) : Ok r₀ (execConfigurationRequest f fld v s) := by
  unfold execConfigurationRequest
  repeat' first | with_reducible refine Ok.next ?_ | (intro x hx) | with_reducible assumption | with_reducible exact hs | with_reducible apply State.configure_keeps | split | simp only [Keeps.mk_iff] | with_reducible assumption | intro _ | dsimp only

theorem execIdeCheckFailure_ok {r₀ s : State} (hs : Keeps r₀ s) (stream : Fin 8) : Ok r₀ (execIdeCheckFailure stream s) := by
  unfold execIdeCheckFailure
  repeat' first | with_reducible refine clocked_ok ?_ ?_   | with_reducible refine Ok.next ?_ | (intro x hx) | with_reducible assumption | with_reducible exact hs | with_reducible apply State.dropOutbound_keeps | with_reducible apply State.modHost_keeps | split | simp only [Keeps.mk_iff] | with_reducible assumption | intro _ | dsimp only

theorem execIdeKm_ok {r₀ s : State} (hs : Keeps r₀ s) (stream : Fin 8) (key : BitVec 256) : Ok r₀ (execIdeKm stream key s) := by
  unfold execIdeKm
  repeat' first | with_reducible refine Ok.next ?_ | (intro x hx) | with_reducible assumption | with_reducible exact hs | with_reducible apply State.modHost_keeps | split | simp only [Keeps.mk_iff] | with_reducible assumption | intro _ | dsimp only

theorem execDoeObject_ok {r₀ s : State} (hs : Keeps r₀ s) (obj : List Byte) : Ok r₀ (execDoeObject obj s) := by
  unfold execDoeObject
  repeat' first | with_reducible refine Ok.next ?_ | (intro x hx) | with_reducible assumption | with_reducible exact hs | with_reducible apply State.doeAnswer_keeps | with_reducible apply State.modHost_keeps | split | simp only [Keeps.mk_iff] | with_reducible assumption | intro _ | dsimp only

theorem execDoeAbort_ok {r₀ s : State} (hs : Keeps r₀ s) : Ok r₀ (execDoeAbort s) := by
  unfold execDoeAbort
  repeat' first | with_reducible refine Ok.next ?_ | (intro x hx) | with_reducible assumption | with_reducible exact hs | with_reducible apply State.modHost_keeps | split | simp only [Keeps.mk_iff] | with_reducible assumption | intro _ | dsimp only

theorem execQuoteReq_ok {r₀ s : State} (hs : Keeps r₀ s) (cid : BitVec 8) (nonce : BitVec 256) : Ok r₀ (execQuoteReq cid nonce s) := by
  unfold execQuoteReq
  repeat' first | with_reducible refine Ok.next ?_ | (intro x hx) | with_reducible assumption | with_reducible exact hs | with_reducible apply State.modHost_keeps | with_reducible apply State.modTrust_keeps | with_reducible apply State.quoteGo_keeps | split | simp only [Keeps.mk_iff] | with_reducible assumption | intro _ | dsimp only

theorem execQuoteDone_ok {r₀ s : State} (hs : Keeps r₀ s) : Ok r₀ (execQuoteDone s) := by
  unfold execQuoteDone
  repeat' first | with_reducible refine clocked_ok ?_ ?_   | with_reducible refine Ok.next ?_ | (intro x hx) | with_reducible assumption | with_reducible exact hs | with_reducible apply State.doeAnswer_keeps | with_reducible apply State.modHost_keeps | with_reducible apply State.quoteSigned_keeps | split | simp only [Keeps.mk_iff] | with_reducible assumption | intro _ | dsimp only

theorem execSkeyReq_ok {r₀ s : State} (hs : Keeps r₀ s) : Ok r₀ (execSkeyReq s) := by
  unfold execSkeyReq
  repeat' first | with_reducible refine Ok.next ?_ | (intro x hx) | with_reducible assumption | with_reducible exact hs | with_reducible apply State.doeAnswer_keeps | split | simp only [Keeps.mk_iff] | with_reducible assumption | intro _ | dsimp only

theorem execSpdmMessage_ok {r₀ s : State} (hs : Keeps r₀ s) (msg : List Byte) : Ok r₀ (execSpdmMessage msg s) := by
  unfold execSpdmMessage
  repeat' first | with_reducible refine Ok.next ?_ | (intro x hx) | with_reducible assumption | with_reducible exact hs | with_reducible apply State.doeAnswer_keeps | with_reducible apply State.modHost_keeps | split | simp only [Keeps.mk_iff] | with_reducible assumption | intro _ | dsimp only

theorem execRdAtHome_ok {r₀ s : State} (hs : Keeps r₀ s) (node : Nat) (i : Nat) (ue : BitVec 2) : Ok r₀ (execRdAtHome node i ue s) := by
  unfold execRdAtHome
  repeat' first | with_reducible refine clocked_ok ?_ ?_   | with_reducible refine Ok.next ?_ | (intro x hx) | with_reducible assumption | with_reducible exact hs | with_reducible apply State.atHome_keeps | split | simp only [Keeps.mk_iff] | with_reducible assumption | intro _ | dsimp only

theorem execWrAtHome_ok {r₀ s : State} (hs : Keeps r₀ s) (node : Nat) (i : Nat) (ue : BitVec 2) : Ok r₀ (execWrAtHome node i ue s) := by
  unfold execWrAtHome
  repeat' first | with_reducible refine clocked_ok ?_ ?_   | with_reducible refine Ok.next ?_ | (intro x hx) | with_reducible assumption | with_reducible exact hs | with_reducible apply State.atHome_keeps | split | simp only [Keeps.mk_iff] | with_reducible assumption | intro _ | dsimp only

theorem execAtomAtHome_ok {r₀ s : State} (hs : Keeps r₀ s) (node : Nat) (i : Nat) (ue : BitVec 2) : Ok r₀ (execAtomAtHome node i ue s) := by
  unfold execAtomAtHome
  repeat' first | with_reducible refine clocked_ok ?_ ?_   | with_reducible refine Ok.next ?_ | (intro x hx) | with_reducible assumption | with_reducible exact hs | with_reducible apply State.atHome_keeps | split | simp only [Keeps.mk_iff] | with_reducible assumption | intro _ | dsimp only

theorem execAddAtHome_ok {r₀ s : State} (hs : Keeps r₀ s) (node : Nat) (i : Nat) (ue : BitVec 2) : Ok r₀ (execAddAtHome node i ue s) := by
  unfold execAddAtHome
  repeat' first | with_reducible refine clocked_ok ?_ ?_   | with_reducible refine Ok.next ?_ | (intro x hx) | with_reducible assumption | with_reducible exact hs | with_reducible apply State.atHome_keeps | split | simp only [Keeps.mk_iff] | with_reducible assumption | intro _ | dsimp only

theorem execChartLoadComplete_ok {r₀ s : State} (hs : Keeps r₀ s) : Ok r₀ (execChartLoadComplete s) := by
  unfold execChartLoadComplete
  repeat' first | with_reducible refine clocked_ok ?_ ?_   | with_reducible refine Ok.next ?_ | (intro x hx) | with_reducible assumption | with_reducible exact hs | with_reducible apply State.loadEnd_keeps | split | simp only [Keeps.mk_iff] | with_reducible assumption | intro _ | dsimp only

theorem execCommitComplete_ok {r₀ s : State} (hs : Keeps r₀ s) (c : Nat) : Ok r₀ (execCommitComplete c s) := by
  unfold execCommitComplete
  repeat' first | with_reducible refine clocked_ok ?_ ?_   | with_reducible refine Ok.next ?_ | (intro x hx) | with_reducible assumption | with_reducible exact hs | with_reducible apply State.commitEnd_keeps | split | simp only [Keeps.mk_iff] | with_reducible assumption | intro _ | dsimp only

theorem execStopComplete_ok {r₀ s : State} (hs : Keeps r₀ s) (c : Nat) : Ok r₀ (execStopComplete c s) := by
  unfold execStopComplete
  repeat' first | with_reducible refine clocked_ok ?_ ?_   | with_reducible refine Ok.next ?_ | (intro x hx) | with_reducible assumption | with_reducible exact hs | with_reducible apply State.chartEnd_keeps | with_reducible apply State.modCon_keeps | split | simp only [Keeps.mk_iff] | with_reducible assumption | intro _ | dsimp only

theorem execResetComplete_ok {r₀ s : State} (hs : Keeps r₀ s) (c : Nat) : Ok r₀ (execResetComplete c s) := by
  unfold execResetComplete
  repeat' first | with_reducible refine clocked_ok ?_ ?_   | with_reducible refine Ok.next ?_ | (intro x hx) | with_reducible assumption | with_reducible exact hs | with_reducible apply State.release_keeps | with_reducible apply State.resetEnd_keeps | split | simp only [Keeps.mk_iff] | with_reducible assumption | intro _ | dsimp only

theorem execReleaseComplete_ok {r₀ s : State} (hs : Keeps r₀ s) (c : Nat) : Ok r₀ (execReleaseComplete c s) := by
  unfold execReleaseComplete
  repeat' first | with_reducible refine clocked_ok ?_ ?_   | with_reducible refine Ok.next ?_ | (intro x hx) | with_reducible assumption | with_reducible exact hs | with_reducible apply State.release_keeps | with_reducible apply State.releaseEnd_keeps | split | simp only [Keeps.mk_iff] | with_reducible assumption | intro _ | dsimp only

theorem execFlrReset_ok {r₀ s : State} (hs : Keeps r₀ s) (c : Nat) : Ok r₀ (execFlrReset c s) := by
  unfold execFlrReset
  repeat' first | with_reducible refine clocked_ok ?_ ?_   | with_reducible refine Ok.next ?_ | (intro x hx) | with_reducible assumption | with_reducible exact hs | with_reducible apply State.modChart_keeps | with_reducible apply State.resetBegin_keeps | split | simp only [Keeps.mk_iff] | with_reducible assumption | intro _ | dsimp only

theorem execLoad_ok {r₀ s : State} (hs : Keeps r₀ s) : Ok r₀ (execLoad s) := by
  unfold execLoad
  repeat' first | with_reducible refine Ok.next ?_ | (intro x hx) | with_reducible assumption | with_reducible exact hs | with_reducible apply State.firmwareCmd_keeps | split | simp only [Keeps.mk_iff] | with_reducible assumption | intro _ | dsimp only

theorem execDiscard_ok {r₀ s : State} (hs : Keeps r₀ s) : Ok r₀ (execDiscard s) := by
  unfold execDiscard
  repeat' first | with_reducible refine Ok.next ?_ | (intro x hx) | with_reducible assumption | with_reducible exact hs | with_reducible apply State.firmwareCmd_keeps | split | simp only [Keeps.mk_iff] | with_reducible assumption | intro _ | dsimp only

theorem execCommit_ok {r₀ s : State} (hs : Keeps r₀ s) (c : Nat) : Ok r₀ (execCommit c s) := by
  unfold execCommit
  repeat' first | with_reducible refine Ok.next ?_ | (intro x hx) | with_reducible assumption | with_reducible exact hs | with_reducible apply State.firmwareCmd_keeps | split | simp only [Keeps.mk_iff] | with_reducible assumption | intro _ | dsimp only

theorem execStart_ok {r₀ s : State} (hs : Keeps r₀ s) (c : Nat) : Ok r₀ (execStart c s) := by
  unfold execStart
  repeat' first | with_reducible refine Ok.next ?_ | (intro x hx) | with_reducible assumption | with_reducible exact hs | with_reducible apply State.firmwareCmd_keeps | split | simp only [Keeps.mk_iff] | with_reducible assumption | intro _ | dsimp only

theorem execStop_ok {r₀ s : State} (hs : Keeps r₀ s) (c : Nat) : Ok r₀ (execStop c s) := by
  unfold execStop
  repeat' first | with_reducible refine Ok.next ?_ | (intro x hx) | with_reducible assumption | with_reducible exact hs | with_reducible apply State.firmwareCmd_keeps | split | simp only [Keeps.mk_iff] | with_reducible assumption | intro _ | dsimp only

theorem execReset_ok {r₀ s : State} (hs : Keeps r₀ s) (c : Nat) : Ok r₀ (execReset c s) := by
  unfold execReset
  repeat' first | with_reducible refine Ok.next ?_ | (intro x hx) | with_reducible assumption | with_reducible exact hs | with_reducible apply State.firmwareCmd_keeps | split | simp only [Keeps.mk_iff] | with_reducible assumption | intro _ | dsimp only

theorem execRelease_ok {r₀ s : State} (hs : Keeps r₀ s) (c : Nat) : Ok r₀ (execRelease c s) := by
  unfold execRelease
  repeat' first | with_reducible refine Ok.next ?_ | (intro x hx) | with_reducible assumption | with_reducible exact hs | with_reducible apply State.firmwareCmd_keeps | split | simp only [Keeps.mk_iff] | with_reducible assumption | intro _ | dsimp only

theorem execPerstNAssert_ok {r₀ s : State} (hs : Keeps r₀ s) : Ok r₀ (execPerstNAssert s) := by
  unfold execPerstNAssert
  repeat' first | with_reducible refine Ok.next ?_ | (intro x hx) | with_reducible assumption | with_reducible exact hs | with_reducible apply State.coldReset_keeps | with_reducible apply State.modPower_keeps | split | simp only [Keeps.mk_iff] | with_reducible assumption | intro _ | dsimp only

theorem execPerstNRelease_ok {r₀ s : State} (hs : Keeps r₀ s) : Ok r₀ (execPerstNRelease s) := by
  unfold execPerstNRelease
  repeat' first | with_reducible refine Ok.next ?_ | (intro x hx) | with_reducible assumption | with_reducible exact hs | with_reducible apply State.modPower_keeps | split | simp only [Keeps.mk_iff] | with_reducible assumption | intro _ | dsimp only

theorem execRomSelfCheck_ok {r₀ s : State} (hs : Keeps r₀ s) : Ok r₀ (execRomSelfCheck s) := by
  unfold execRomSelfCheck
  repeat' first | with_reducible refine clocked_ok ?_ ?_   | with_reducible refine Ok.next ?_ | (intro x hx) | with_reducible assumption | with_reducible exact hs | with_reducible apply State.bootTo_keeps | with_reducible apply State.modHost_keeps | with_reducible apply State.modKeeper_keeps | split | simp only [Keeps.mk_iff] | with_reducible assumption | intro _ | dsimp only

theorem execBootGo_ok {r₀ s : State} (hs : Keeps r₀ s) : Ok r₀ (execBootGo s) := by
  unfold execBootGo
  repeat' first | with_reducible refine clocked_ok ?_ ?_   | with_reducible refine Ok.next ?_ | (intro x hx) | with_reducible assumption | with_reducible exact hs | with_reducible apply State.bootGo_keeps | split | simp only [Keeps.mk_iff] | with_reducible assumption | intro _ | dsimp only

theorem execBootAbort_ok {r₀ s : State} (hs : Keeps r₀ s) : Ok r₀ (execBootAbort s) := by
  unfold execBootAbort
  repeat' first | with_reducible refine clocked_ok ?_ ?_   | with_reducible refine Ok.next ?_ | (intro x hx) | with_reducible assumption | with_reducible exact hs | with_reducible apply State.bootAbort_keeps | split | simp only [Keeps.mk_iff] | with_reducible assumption | intro _ | dsimp only

theorem execImageFetched_ok {r₀ s : State} (hs : Keeps r₀ s) : Ok r₀ (execImageFetched s) := by
  unfold execImageFetched
  repeat' first | with_reducible refine clocked_ok ?_ ?_   | with_reducible refine Ok.next ?_ | (intro x hx) | with_reducible assumption | with_reducible exact hs | with_reducible apply State.bootTo_keeps | with_reducible apply State.modKeeper_keeps | with_reducible apply State.pf0Drop_keeps | split | simp only [Keeps.mk_iff] | with_reducible assumption | intro _ | dsimp only

theorem execVerifyDone_ok {r₀ s : State} (hs : Keeps r₀ s) : Ok r₀ (execVerifyDone s) := by
  unfold execVerifyDone
  repeat' first | with_reducible refine clocked_ok ?_ ?_   | with_reducible refine Ok.next ?_ | (intro x hx) | with_reducible assumption | with_reducible exact hs | with_reducible apply State.bootWait_keeps | with_reducible apply State.runImage_keeps | split | simp only [Keeps.mk_iff] | with_reducible assumption | intro _ | dsimp only

theorem execWarm_ok {r₀ s : State} (hs : Keeps r₀ s) : Ok r₀ (execWarm s) := by
  unfold execWarm
  repeat' first | with_reducible refine clocked_ok ?_ ?_   | with_reducible refine Ok.next ?_ | (intro x hx) | with_reducible assumption | with_reducible exact hs | with_reducible apply State.warmGo_keeps | split | simp only [Keeps.mk_iff] | with_reducible assumption | intro _ | dsimp only

theorem execCoreResetGo_ok {r₀ s : State} (hs : Keeps r₀ s) (die : Nat) (index : Nat) : Ok r₀ (execCoreResetGo die index s) := by
  unfold execCoreResetGo
  repeat' first | with_reducible refine onDie_ok ?_ _ _ ?_ | with_reducible refine Ok.next ?_ | (intro x hx) | with_reducible assumption | with_reducible exact hs | with_reducible apply State.coreResetGo_keeps | split | simp only [Keeps.mk_iff] | with_reducible assumption | intro _ | dsimp only

theorem execCoreResetDone_ok {r₀ s : State} (hs : Keeps r₀ s) (die : Nat) : Ok r₀ (execCoreResetDone die s) := by
  unfold execCoreResetDone
  repeat' first | with_reducible refine onDie_ok ?_ _ _ ?_ | with_reducible refine Ok.next ?_ | (intro x hx) | with_reducible assumption | with_reducible exact hs | with_reducible apply State.coreResetEnd_keeps | split | simp only [Keeps.mk_iff] | with_reducible assumption | intro _ | dsimp only

theorem execTreset_ok {r₀ s : State} (hs : Keeps r₀ s) (t : Tid) : Ok r₀ (execTreset t s) := by
  unfold execTreset
  repeat' first | with_reducible refine clocked_ok ?_ ?_   | with_reducible refine Ok.next ?_ | (intro x hx) | with_reducible assumption | with_reducible exact hs | with_reducible apply State.tresetGo_keeps | split | simp only [Keeps.mk_iff] | with_reducible assumption | intro _ | dsimp only

theorem execThreadResetDone_ok {r₀ s : State} (hs : Keeps r₀ s) (t : Tid) : Ok r₀ (execThreadResetDone t s) := by
  unfold execThreadResetDone
  repeat' first | with_reducible refine clocked_ok ?_ ?_   | with_reducible refine Ok.next ?_ | (intro x hx) | with_reducible assumption | with_reducible exact hs | with_reducible apply State.tresetEnd_keeps | split | simp only [Keeps.mk_iff] | with_reducible assumption | intro _ | dsimp only

theorem execKick_ok {r₀ s : State} (hs : Keeps r₀ s) : Ok r₀ (execKick s) := by
  unfold execKick
  repeat' first | with_reducible refine State.keeperDoes_ok ?_ ?_   | with_reducible refine Ok.next ?_ | (intro x hx) | with_reducible assumption | with_reducible exact hs | with_reducible apply State.kick_keeps | split | simp only [Keeps.mk_iff] | with_reducible assumption | intro _ | dsimp only

theorem execWatchdogExpiry_ok {r₀ s : State} (hs : Keeps r₀ s) : Ok r₀ (execWatchdogExpiry s) := by
  unfold execWatchdogExpiry
  repeat' first | with_reducible refine State.keeperDoes_ok ?_ ?_   | with_reducible refine Ok.next ?_ | (intro x hx) | with_reducible assumption | with_reducible exact hs | with_reducible apply State.watchdog_keeps | split | simp only [Keeps.mk_iff] | with_reducible assumption | intro _ | dsimp only

theorem execLanternRetry_ok {r₀ s : State} (hs : Keeps r₀ s) (node : Nat) : Ok r₀ (execLanternRetry node s) := by
  unfold execLanternRetry
  repeat' first | with_reducible refine clocked_ok ?_ ?_   | with_reducible refine Ok.next ?_ | (intro x hx) | with_reducible assumption | with_reducible exact hs | with_reducible apply State.lanternRetry_keeps | split | simp only [Keeps.mk_iff] | with_reducible assumption | intro _ | dsimp only

theorem execFabricWireFailure_ok {r₀ s : State} (hs : Keeps r₀ s) (unit : FabricUnit) : Ok r₀ (execFabricWireFailure unit s) := by
  unfold execFabricWireFailure
  repeat' first | with_reducible refine Ok.next ?_ | (intro x hx) | with_reducible assumption | with_reducible exact hs | with_reducible apply State.loseTraffic_keeps | with_reducible apply State.modPower_keeps | split | simp only [Keeps.mk_iff] | with_reducible assumption | intro _ | dsimp only

theorem execAgeingSample_ok {r₀ s : State} (hs : Keeps r₀ s) (slacks : List Int) : Ok r₀ (execAgeingSample slacks s) := by
  unfold execAgeingSample
  repeat' first | with_reducible refine clocked_ok ?_ ?_   | with_reducible refine Ok.next ?_ | (intro x hx) | with_reducible assumption | with_reducible exact hs | with_reducible apply State.sample_keeps | split | simp only [Keeps.mk_iff] | with_reducible assumption | intro _ | dsimp only

theorem execMonitorGate_ok {r₀ s : State} (hs : Keeps r₀ s) (core : Nat) : Ok r₀ (execMonitorGate core s) := by
  unfold execMonitorGate
  repeat' first | with_reducible refine clocked_ok ?_ ?_   | with_reducible refine Ok.next ?_ | (intro x hx) | with_reducible assumption | with_reducible exact hs | with_reducible apply State.modCore_keeps | split | simp only [Keeps.mk_iff] | with_reducible assumption | intro _ | dsimp only

theorem execFloorRaise_ok {r₀ s : State} (hs : Keeps r₀ s) (rail : Nat) (slack : Int) : Ok r₀ (execFloorRaise rail slack s) := by
  unfold execFloorRaise
  repeat' first | with_reducible refine clocked_ok ?_ ?_   | with_reducible refine Ok.next ?_ | (intro x hx) | with_reducible assumption | with_reducible exact hs | with_reducible apply State.modAgeing_keeps | with_reducible apply State.railFloor_keeps | split | simp only [Keeps.mk_iff] | with_reducible assumption | intro _ | dsimp only

theorem execPlanCompute_ok {r₀ s : State} (hs : Keeps r₀ s) : Ok r₀ (execPlanCompute s) := by
  unfold execPlanCompute
  repeat' first | with_reducible refine State.keeperDoes_ok ?_ ?_   | with_reducible refine Ok.next ?_ | (intro x hx) | with_reducible assumption | with_reducible exact hs | with_reducible apply State.planCompute_keeps | split | simp only [Keeps.mk_iff] | with_reducible assumption | intro _ | dsimp only

theorem execLogbookWriteCycle_ok {r₀ s : State} (hs : Keeps r₀ s) : Ok r₀ (execLogbookWriteCycle s) := by
  unfold execLogbookWriteCycle
  repeat' first | with_reducible refine State.keeperDoes_ok ?_ ?_   | with_reducible refine Ok.next ?_ | (intro x hx) | with_reducible assumption | with_reducible exact hs | with_reducible apply State.refuseOut_keeps | with_reducible apply State.writeCycle_keeps | with_reducible apply State.writeHelper_keeps | split | simp only [Keeps.mk_iff] | with_reducible assumption | intro _ | dsimp only

theorem execPowerComparatorEval_ok {r₀ s : State} (hs : Keeps r₀ s) (powerMw : Nat) (vinMv : Nat) (currents : List Nat) (temps : List (Nat × Nat)) (stackTemps : List Nat) : Ok r₀ (execPowerComparatorEval powerMw vinMv currents temps stackTemps s) := by
  unfold execPowerComparatorEval
  repeat' first | with_reducible refine clocked_ok ?_ ?_   | with_reducible refine Ok.next ?_ | (intro x hx) | with_reducible assumption | with_reducible exact hs | with_reducible apply State.comparators_keeps | split | simp only [Keeps.mk_iff] | with_reducible assumption | intro _ | dsimp only

theorem execPwrLimitsWrite_ok {r₀ s : State} (hs : Keeps r₀ s) (v : Word) : Ok r₀ (execPwrLimitsWrite v s) := by
  unfold execPwrLimitsWrite
  repeat' first | with_reducible refine State.keeperDoes_ok ?_ ?_   | with_reducible refine Ok.next ?_ | (intro x hx) | with_reducible assumption | with_reducible exact hs | with_reducible apply State.pwrLimits_keeps | split | simp only [Keeps.mk_iff] | with_reducible assumption | intro _ | dsimp only

theorem execThermalTrip_ok {r₀ s : State} (hs : Keeps r₀ s) : Ok r₀ (execThermalTrip s) := by
  unfold execThermalTrip
  repeat' first | with_reducible refine Ok.next ?_ | (intro x hx) | with_reducible assumption | with_reducible exact hs | with_reducible apply State.trip_keeps | split | simp only [Keeps.mk_iff] | with_reducible assumption | intro _ | dsimp only

theorem execTripRelease_ok {r₀ s : State} (hs : Keeps r₀ s) : Ok r₀ (execTripRelease s) := by
  unfold execTripRelease
  repeat' first | with_reducible refine Ok.next ?_ | (intro x hx) | with_reducible assumption | with_reducible exact hs | with_reducible apply State.modPower_keeps | split | simp only [Keeps.mk_iff] | with_reducible assumption | intro _ | dsimp only

theorem execVinRise_ok {r₀ s : State} (hs : Keeps r₀ s) : Ok r₀ (execVinRise s) := by
  unfold execVinRise
  repeat' first | with_reducible refine Ok.next ?_ | (intro x hx) | with_reducible assumption | with_reducible exact hs | with_reducible apply State.modPower_keeps | split | simp only [Keeps.mk_iff] | with_reducible assumption | intro _ | dsimp only

theorem execPowerGood_ok {r₀ s : State} (hs : Keeps r₀ s) : Ok r₀ (execPowerGood s) := by
  unfold execPowerGood
  repeat' first | with_reducible refine Ok.next ?_ | (intro x hx) | with_reducible assumption | with_reducible exact hs | with_reducible apply State.modPower_keeps | split | simp only [Keeps.mk_iff] | with_reducible assumption | intro _ | dsimp only

theorem execVinFall_ok {r₀ s : State} (hs : Keeps r₀ s) : Ok r₀ (execVinFall s) := by
  unfold execVinFall
  repeat' first | with_reducible refine Ok.next ?_ | (intro x hx) | with_reducible assumption | with_reducible exact hs | with_reducible apply State.coldReset_keeps | with_reducible apply State.modPower_keeps | split | simp only [Keeps.mk_iff] | with_reducible assumption | intro _ | dsimp only

theorem execBlockedRetry_ok {r₀ s : State} (hs : Keeps r₀ s) (t : Tid) : Ok r₀ (execBlockedRetry t s) := by
  unfold execBlockedRetry
  repeat' first | refine State.retry_keeps ?_ _ _ _ hx | with_reducible refine Ok.next ?_ | (intro x hx) | with_reducible assumption | with_reducible exact hs | exact (State.retry_keeps (by assumption) _ _ _ ‹_›) | (with_reducible refine Keeps.getD (fun u hu => ?_) ?_) | refine State.retry_keeps ?_ _ _ _ (by assumption) | split | simp only [Keeps.mk_iff] | with_reducible assumption | intro _ | dsimp only

theorem execInterruptEntry_ok {r₀ s : State} (hs : Keeps r₀ s) (t : Tid) (pos : Nat) : Ok r₀ (execInterruptEntry t pos s) := by
  unfold execInterruptEntry
  repeat' first | with_reducible refine clocked_ok ?_ ?_   | with_reducible refine Ok.next ?_ | (intro x hx) | with_reducible assumption | with_reducible exact hs | with_reducible apply State.interrupt_keeps | split | simp only [Keeps.mk_iff] | with_reducible assumption | intro _ | dsimp only

theorem execDbgStop_ok {r₀ s : State} (hs : Keeps r₀ s) (t : Tid) : Ok r₀ (execDbgStop t s) := by
  unfold execDbgStop
  repeat' first | with_reducible refine clocked_ok ?_ ?_   | with_reducible refine Ok.next ?_ | (intro x hx) | with_reducible assumption | with_reducible exact hs | with_reducible apply State.dbgStop_keeps | split | simp only [Keeps.mk_iff] | with_reducible assumption | intro _ | dsimp only

theorem execDbgResume_ok {r₀ s : State} (hs : Keeps r₀ s) (t : Tid) : Ok r₀ (execDbgResume t s) := by
  unfold execDbgResume
  repeat' first | with_reducible refine clocked_ok ?_ ?_   | with_reducible refine Ok.next ?_ | (intro x hx) | with_reducible assumption | with_reducible exact hs | with_reducible apply State.modThr_keeps | split | simp only [Keeps.mk_iff] | with_reducible assumption | intro _ | dsimp only

theorem execDbgStep_ok {r₀ s : State} (hs : Keeps r₀ s) (t : Tid) : Ok r₀ (execDbgStep t s) := by
  unfold execDbgStep
  repeat' first | with_reducible refine clocked_ok ?_ ?_   | with_reducible refine Ok.next ?_ | (intro x hx) | with_reducible assumption | with_reducible exact hs | with_reducible apply State.dbgStep_keeps | split | simp only [Keeps.mk_iff] | with_reducible assumption | intro _ | dsimp only

theorem execStepStop_ok {r₀ s : State} (hs : Keeps r₀ s) (t : Tid) : Ok r₀ (execStepStop t s) := by
  unfold execStepStop
  repeat' first | with_reducible refine clocked_ok ?_ ?_   | with_reducible refine Ok.next ?_ | (intro x hx) | with_reducible assumption | with_reducible exact hs | with_reducible apply State.stepStop_keeps | split | simp only [Keeps.mk_iff] | with_reducible assumption | intro _ | dsimp only

theorem execBrk_ok {r₀ s : State} (hs : Keeps r₀ s) (t : Tid) : Ok r₀ (execBrk t s) := by
  unfold execBrk
  repeat' first | with_reducible refine issue_ok ?_ _ _ _ ?_ | with_reducible refine Ok.next ?_ | (intro x hx) | with_reducible assumption | with_reducible exact hs | with_reducible apply State.modThr_keeps | with_reducible apply State.past_keeps | with_reducible apply State.raiseAt_keeps | split | simp only [Keeps.mk_iff] | with_reducible assumption | intro _ | dsimp only

theorem execDbgDataAccess_ok {r₀ s : State} (hs : Keeps r₀ s) (core : Nat) (write : Bool) (data : Word) : Ok r₀ (execDbgDataAccess core write data s) := by
  unfold execDbgDataAccess
  repeat' first | with_reducible refine clocked_ok ?_ ?_   | with_reducible refine Ok.next ?_ | (intro x hx) | with_reducible assumption | with_reducible exact hs | with_reducible apply State.dbgRead_keeps | with_reducible apply State.dbgWrite_keeps | split | simp only [Keeps.mk_iff] | with_reducible assumption | intro _ | dsimp only

theorem execInfo_ok {r₀ s : State} (hs : Keeps r₀ s) : Ok r₀ (execInfo s) := by
  unfold execInfo
  repeat' first | with_reducible refine clocked_ok ?_ ?_   | with_reducible refine Ok.next ?_ | (intro x hx) | with_reducible assumption | with_reducible exact hs | with_reducible apply State.mailbox_keeps | with_reducible apply State.serveInfo_keeps | split | simp only [Keeps.mk_iff] | with_reducible assumption | intro _ | dsimp only

theorem execSetWallTime_ok {r₀ s : State} (hs : Keeps r₀ s) (v : Word) : Ok r₀ (execSetWallTime v s) := by
  unfold execSetWallTime
  repeat' first | with_reducible refine clocked_ok ?_ ?_   | with_reducible refine Ok.next ?_ | (intro x hx) | with_reducible assumption | with_reducible exact hs | with_reducible apply State.mailbox_keeps | with_reducible apply State.serveWall_keeps | split | simp only [Keeps.mk_iff] | with_reducible assumption | intro _ | dsimp only

theorem execChartLoad_ok {r₀ s : State} (hs : Keeps r₀ s) (src : Word) : Ok r₀ (execChartLoad src s) := by
  unfold execChartLoad
  repeat' first | with_reducible refine clocked_ok ?_ ?_   | with_reducible refine Ok.next ?_ | (intro x hx) | with_reducible assumption | with_reducible exact hs | with_reducible apply State.mailbox_keeps | with_reducible apply State.serveLoad_keeps | split | simp only [Keeps.mk_iff] | with_reducible assumption | intro _ | dsimp only

theorem execChartCmd_ok {r₀ s : State} (hs : Keeps r₀ s) (cmd : BitVec 8) (cid : BitVec 8) : Ok r₀ (execChartCmd cmd cid s) := by
  unfold execChartCmd
  repeat' first | with_reducible refine clocked_ok ?_ ?_   | with_reducible refine Ok.next ?_ | (intro x hx) | with_reducible assumption | with_reducible exact hs | with_reducible apply State.mailbox_keeps | with_reducible apply State.serveChart_keeps | split | simp only [Keeps.mk_iff] | with_reducible assumption | intro _ | dsimp only

theorem execFaultedSet_ok {r₀ s : State} (hs : Keeps r₀ s) (core : Nat) : Ok r₀ (execFaultedSet core s) := by
  unfold execFaultedSet
  repeat' first | with_reducible refine clocked_ok ?_ ?_   | with_reducible refine Ok.next ?_ | (intro x hx) | with_reducible assumption | with_reducible exact hs | with_reducible apply State.mailbox_keeps | with_reducible apply State.serveFaulted_keeps | split | simp only [Keeps.mk_iff] | with_reducible assumption | intro _ | dsimp only

theorem execFaultedClear_ok {r₀ s : State} (hs : Keeps r₀ s) (core : Nat) : Ok r₀ (execFaultedClear core s) := by
  unfold execFaultedClear
  repeat' first | with_reducible refine clocked_ok ?_ ?_   | with_reducible refine Ok.next ?_ | (intro x hx) | with_reducible assumption | with_reducible exact hs | with_reducible apply State.mailbox_keeps | with_reducible apply State.serveFaulted_keeps | split | simp only [Keeps.mk_iff] | with_reducible assumption | intro _ | dsimp only

theorem execEventRead_ok {r₀ s : State} (hs : Keeps r₀ s) (seq : Nat) (count : Nat) : Ok r₀ (execEventRead seq count s) := by
  unfold execEventRead
  repeat' first | with_reducible refine clocked_ok ?_ ?_   | with_reducible refine Ok.next ?_ | (intro x hx) | with_reducible assumption | with_reducible exact hs | with_reducible apply State.mailbox_keeps | with_reducible apply State.serveEvents_keeps | split | simp only [Keeps.mk_iff] | with_reducible assumption | intro _ | dsimp only

theorem execLogbookRead_ok {r₀ s : State} (hs : Keeps r₀ s) (page : Nat) (count : Nat) : Ok r₀ (execLogbookRead page count s) := by
  unfold execLogbookRead
  repeat' first | with_reducible refine clocked_ok ?_ ?_   | with_reducible refine Ok.next ?_ | (intro x hx) | with_reducible assumption | with_reducible exact hs | with_reducible apply State.mailbox_keeps | with_reducible apply State.serveLogbook_keeps | split | simp only [Keeps.mk_iff] | with_reducible assumption | intro _ | dsimp only

theorem execStackWear_ok {r₀ s : State} (hs : Keeps r₀ s) (stk : Nat) (ch : Nat) : Ok r₀ (execStackWear stk ch s) := by
  unfold execStackWear
  repeat' first | with_reducible refine clocked_ok ?_ ?_   | with_reducible refine Ok.next ?_ | (intro x hx) | with_reducible assumption | with_reducible exact hs | with_reducible apply State.mailbox_keeps | with_reducible apply State.serveWear_keeps | split | simp only [Keeps.mk_iff] | with_reducible assumption | intro _ | dsimp only

theorem execPowerCap_ok {r₀ s : State} (hs : Keeps r₀ s) (watts : BitVec 32) : Ok r₀ (execPowerCap watts s) := by
  unfold execPowerCap
  repeat' first | with_reducible refine clocked_ok ?_ ?_   | with_reducible refine Ok.next ?_ | (intro x hx) | with_reducible assumption | with_reducible exact hs | with_reducible apply State.mailbox_keeps | with_reducible apply State.servePower_keeps | split | simp only [Keeps.mk_iff] | with_reducible assumption | intro _ | dsimp only

theorem execSkeyRotate_ok {r₀ s : State} (hs : Keeps r₀ s) : Ok r₀ (execSkeyRotate s) := by
  unfold execSkeyRotate
  repeat' first | with_reducible refine clocked_ok ?_ ?_   | with_reducible refine Ok.next ?_ | (intro x hx) | with_reducible assumption | with_reducible exact hs | with_reducible apply State.mailbox_keeps | with_reducible apply State.serveRotate_keeps | split | simp only [Keeps.mk_iff] | with_reducible assumption | intro _ | dsimp only

theorem execTelemetryMirror_ok {r₀ s : State} (hs : Keeps r₀ s) : Ok r₀ (execTelemetryMirror s) := by
  unfold execTelemetryMirror
  repeat' first | with_reducible refine State.keeperDoes_ok ?_ ?_   | with_reducible refine Ok.next ?_ | (intro x hx) | with_reducible assumption | with_reducible exact hs | with_reducible apply State.modKeeper_keeps | split | simp only [Keeps.mk_iff] | with_reducible assumption | intro _ | dsimp only

theorem execTallyClear_ok {r₀ s : State} (hs : Keeps r₀ s) (acc : Accessor) (v : Word) : Ok r₀ (execTallyClear acc v s) := by
  unfold execTallyClear
  repeat' first | with_reducible refine clocked_ok ?_ ?_   | with_reducible refine Ok.next ?_ | (intro x hx) | with_reducible assumption | with_reducible exact hs | with_reducible apply State.regCmd_keeps | with_reducible apply State.tallyClear_keeps | split | simp only [Keeps.mk_iff] | with_reducible assumption | intro _ | dsimp only

theorem smbusRead_ok {r₀ s : State} (hs : Keeps r₀ s) (bytes : State → List Byte) : Ok r₀ (smbusRead bytes s) := by
  unfold smbusRead
  repeat' first | with_reducible refine Ok.next ?_ | (intro x hx) | with_reducible assumption | with_reducible exact hs | with_reducible apply EngRun.bytes_keeps | with_reducible apply State.modPower_keeps | split | simp only [Keeps.mk_iff] | with_reducible assumption | intro _ | dsimp only

theorem execSmbusStatus_ok {r₀ s : State} (hs : Keeps r₀ s) : Ok r₀ (execSmbusStatus s) := by
  unfold execSmbusStatus
  repeat' first | with_reducible refine smbusRead_ok ?_ _  | with_reducible refine Ok.next ?_ | (intro x hx) | with_reducible assumption | with_reducible exact hs | split | simp only [Keeps.mk_iff] | with_reducible assumption | intro _ | dsimp only

theorem execTjMax_ok {r₀ s : State} (hs : Keeps r₀ s) : Ok r₀ (execTjMax s) := by
  unfold execTjMax
  repeat' first | with_reducible refine smbusRead_ok ?_ _  | with_reducible refine Ok.next ?_ | (intro x hx) | with_reducible assumption | with_reducible exact hs | (with_reducible refine Keeps.foldlP InboundGot.s ?_ (fun _ _ _ => ?_) _) | (with_reducible refine Keeps.foldlP Hop.s ?_ (fun _ _ _ => ?_) _) | (with_reducible refine Keeps.foldlP EngRun.s ?_ (fun _ _ _ => ?_) _) | (with_reducible refine Keeps.foldlP Prod.snd ?_ (fun _ _ _ => ?_) _) | (with_reducible refine Keeps.foldlP Prod.fst ?_ (fun _ _ _ => ?_) _) | (with_reducible refine Keeps.foldlP (fun p => EngRun.s (Prod.snd p)) ?_ (fun _ _ _ => ?_) _) | (with_reducible refine Keeps.foldlP (fun p => Prod.snd (Prod.snd p)) ?_ (fun _ _ _ => ?_) _) | (with_reducible refine Keeps.foldl ?_ (fun _ _ _ => ?_) _) | split | simp only [Keeps.mk_iff] | with_reducible assumption | intro _ | dsimp only

theorem execStackTmax_ok {r₀ s : State} (hs : Keeps r₀ s) : Ok r₀ (execStackTmax s) := by
  unfold execStackTmax
  repeat' first | with_reducible refine smbusRead_ok ?_ _  | with_reducible refine Ok.next ?_ | (intro x hx) | with_reducible assumption | with_reducible exact hs | (with_reducible refine Keeps.foldlP InboundGot.s ?_ (fun _ _ _ => ?_) _) | (with_reducible refine Keeps.foldlP Hop.s ?_ (fun _ _ _ => ?_) _) | (with_reducible refine Keeps.foldlP EngRun.s ?_ (fun _ _ _ => ?_) _) | (with_reducible refine Keeps.foldlP Prod.snd ?_ (fun _ _ _ => ?_) _) | (with_reducible refine Keeps.foldlP Prod.fst ?_ (fun _ _ _ => ?_) _) | (with_reducible refine Keeps.foldlP (fun p => EngRun.s (Prod.snd p)) ?_ (fun _ _ _ => ?_) _) | (with_reducible refine Keeps.foldlP (fun p => Prod.snd (Prod.snd p)) ?_ (fun _ _ _ => ?_) _) | (with_reducible refine Keeps.foldl ?_ (fun _ _ _ => ?_) _) | split | simp only [Keeps.mk_iff] | with_reducible assumption | intro _ | dsimp only

theorem execInputPower_ok {r₀ s : State} (hs : Keeps r₀ s) : Ok r₀ (execInputPower s) := by
  unfold execInputPower
  repeat' first | with_reducible refine smbusRead_ok ?_ _  | with_reducible refine Ok.next ?_ | (intro x hx) | with_reducible assumption | with_reducible exact hs | split | simp only [Keeps.mk_iff] | with_reducible assumption | intro _ | dsimp only

theorem execSerial_ok {r₀ s : State} (hs : Keeps r₀ s) : Ok r₀ (execSerial s) := by
  unfold execSerial
  repeat' first | with_reducible refine smbusRead_ok ?_ _  | with_reducible refine Ok.next ?_ | (intro x hx) | with_reducible assumption | with_reducible exact hs | split | simp only [Keeps.mk_iff] | with_reducible assumption | intro _ | dsimp only

theorem execWarmReset_ok {r₀ s : State} (hs : Keeps r₀ s) (v : BitVec 8) (pecOk : Bool) : Ok r₀ (execWarmReset v pecOk s) := by
  unfold execWarmReset
  repeat' first | with_reducible refine clocked_ok ?_ ?_   | with_reducible refine Ok.next ?_ | (intro x hx) | with_reducible assumption | with_reducible exact hs | with_reducible apply State.warmGo_keeps | split | simp only [Keeps.mk_iff] | with_reducible assumption | intro _ | dsimp only

theorem execSmbusPowerCap_ok {r₀ s : State} (hs : Keeps r₀ s) (w : BitVec 16) (pecOk : Bool) : Ok r₀ (execSmbusPowerCap w pecOk s) := by
  unfold execSmbusPowerCap
  repeat' first | with_reducible refine Ok.next ?_ | (intro x hx) | with_reducible assumption | with_reducible exact hs | with_reducible apply State.capWrite_keeps | split | simp only [Keeps.mk_iff] | with_reducible assumption | intro _ | dsimp only

theorem jtag_ok {r₀ s : State} (hs : Keeps r₀ s) (ir : BitVec 8) (dr : Word) (scan : Nat) : Ok r₀ (jtag ir dr scan s) := by
  unfold jtag
  repeat' first | with_reducible refine Ok.next ?_ | (intro x hx) | with_reducible assumption | with_reducible exact hs | with_reducible apply State.modPower_keeps | split | simp only [Keeps.mk_iff] | with_reducible assumption | intro _ | dsimp only

theorem execBypass_ok {r₀ s : State} (hs : Keeps r₀ s) : Ok r₀ (execBypass s) := by
  unfold execBypass
  repeat' first | with_reducible refine jtag_ok ?_ _ _ _  | with_reducible refine Ok.next ?_ | (intro x hx) | with_reducible assumption | with_reducible exact hs | split | simp only [Keeps.mk_iff] | with_reducible assumption | intro _ | dsimp only

theorem execIdcode_ok {r₀ s : State} (hs : Keeps r₀ s) : Ok r₀ (execIdcode s) := by
  unfold execIdcode
  repeat' first | with_reducible refine jtag_ok ?_ _ _ _  | with_reducible refine Ok.next ?_ | (intro x hx) | with_reducible assumption | with_reducible exact hs | split | simp only [Keeps.mk_iff] | with_reducible assumption | intro _ | dsimp only

theorem execSamplePreload_ok {r₀ s : State} (hs : Keeps r₀ s) : Ok r₀ (execSamplePreload s) := by
  unfold execSamplePreload
  repeat' first | with_reducible refine jtag_ok ?_ _ _ _  | with_reducible refine Ok.next ?_ | (intro x hx) | with_reducible assumption | with_reducible exact hs | with_reducible apply State.draw_keeps | split | simp only [Keeps.mk_iff] | with_reducible assumption | intro _ | dsimp only

theorem execExtest_ok {r₀ s : State} (hs : Keeps r₀ s) : Ok r₀ (execExtest s) := by
  unfold execExtest
  repeat' first | with_reducible refine jtag_ok ?_ _ _ _  | with_reducible refine Ok.next ?_ | (intro x hx) | with_reducible assumption | with_reducible exact hs | with_reducible apply State.draw_keeps | split | simp only [Keeps.mk_iff] | with_reducible assumption | intro _ | dsimp only

theorem execClamp_ok {r₀ s : State} (hs : Keeps r₀ s) : Ok r₀ (execClamp s) := by
  unfold execClamp
  repeat' first | with_reducible refine jtag_ok ?_ _ _ _  | with_reducible refine Ok.next ?_ | (intro x hx) | with_reducible assumption | with_reducible exact hs | split | simp only [Keeps.mk_iff] | with_reducible assumption | intro _ | dsimp only

theorem execHighz_ok {r₀ s : State} (hs : Keeps r₀ s) : Ok r₀ (execHighz s) := by
  unfold execHighz
  repeat' first | with_reducible refine jtag_ok ?_ _ _ _  | with_reducible refine Ok.next ?_ | (intro x hx) | with_reducible assumption | with_reducible exact hs | split | simp only [Keeps.mk_iff] | with_reducible assumption | intro _ | dsimp only

theorem execHostInboundRead_ok {r₀ s : State} (hs : Keeps r₀ s) (f : Nat) (off : Nat) (len : Nat) : Ok r₀ (execHostInboundRead f off len s) := by
  unfold execHostInboundRead
  repeat' first | with_reducible refine Ok.next ?_ | (intro x hx) | with_reducible assumption | with_reducible exact hs | with_reducible apply State.barReadBytes_keeps | with_reducible apply State.hostRead_keeps | with_reducible apply State.hostReply_keeps | split | simp only [Keeps.mk_iff] | with_reducible assumption | intro _ | dsimp only

theorem execHostInboundWrite_ok {r₀ s : State} (hs : Keeps r₀ s) (f : Nat) (off : Nat) (data : List Byte) : Ok r₀ (execHostInboundWrite f off data s) := by
  unfold execHostInboundWrite
  repeat' first | with_reducible refine Ok.next ?_ | (intro x hx) | with_reducible assumption | with_reducible exact hs | with_reducible apply State.barWriteBytes_keeps | with_reducible apply State.hostWrite_keeps | split | simp only [Keeps.mk_iff] | with_reducible assumption | intro _ | dsimp only

theorem execRegisterWrite_ok {r₀ s : State} (hs : Keeps r₀ s) (acc : Accessor) (addr : Word) (val : Word) : Ok r₀ (execRegisterWrite acc addr val s) := by
  unfold execRegisterWrite
  repeat' first | with_reducible refine clocked_ok ?_ ?_   | with_reducible refine Ok.next ?_ | (intro x hx) | with_reducible assumption | with_reducible exact hs | with_reducible apply State.barWrite_keeps | with_reducible apply State.ctlWrite_keeps | split | simp only [Keeps.mk_iff] | with_reducible assumption | intro _ | dsimp only

theorem execFoeValidClear_ok {r₀ s : State} (hs : Keeps r₀ s) (acc : Accessor) (core : Nat) : Ok r₀ (execFoeValidClear acc core s) := by
  unfold execFoeValidClear
  repeat' first | with_reducible refine clocked_ok ?_ ?_   | with_reducible refine Ok.next ?_ | (intro x hx) | with_reducible assumption | with_reducible exact hs | with_reducible apply State.foeWrite_keeps | with_reducible apply State.regCmd_keeps | split | simp only [Keeps.mk_iff] | with_reducible assumption | intro _ | dsimp only

theorem execControlAccess_ok {r₀ s : State} (hs : Keeps r₀ s) (node : Nat) (i : Nat) : Ok r₀ (execControlAccess node i s) := by
  unfold execControlAccess
  repeat' first | with_reducible refine clocked_ok ?_ ?_   | with_reducible refine Ok.next ?_ | (intro x hx) | with_reducible assumption | with_reducible exact hs | with_reducible apply State.ctlPerform_keeps | with_reducible apply State.setInb_keeps | split | simp only [Keeps.mk_iff] | with_reducible assumption | intro _ | dsimp only

theorem execDbgAccess_ok {r₀ s : State} (hs : Keeps r₀ s) (write : Bool) (off : BitVec 32) (data : Word) : Ok r₀ (execDbgAccess write off data s) := by
  unfold execDbgAccess
  repeat' first | with_reducible refine Ok.next ?_ | (intro x hx) | with_reducible assumption | with_reducible exact hs | with_reducible apply State.ctlRead_keeps | with_reducible apply State.ctlWrite_keeps | with_reducible apply State.modPower_keeps | split | simp only [Keeps.mk_iff] | with_reducible assumption | intro _ | dsimp only


end Sys2Proof.Machine
end

