-- ==== Sys2Proof/Laws/State.lean ====
section
/-! SUPPORT. What each update of a piece of the state leaves alone, field by field, and what it reads as after. -/

namespace Sys2Proof.Machine

open Sys2Proof

/-! ## State.setThr -/

@[simp] theorem State.setThr_pending (s : State) (t : Tid) (x : Thread) : (s.setThr t x).pending = s.pending := rfl
@[simp] theorem State.setThr_member (s : State) (t : Tid) (x : Thread) : (s.setThr t x).member = s.member := rfl
@[simp] theorem State.setThr_clk (s : State) (t : Tid) (x : Thread) : (s.setThr t x).clk = s.clk := rfl
@[simp] theorem State.setThr_chart (s : State) (t : Tid) (x : Thread) : (s.setThr t x).chart = s.chart := rfl
@[simp] theorem State.setThr_cons (s : State) (t : Tid) (x : Thread) : (s.setThr t x).cons = s.cons := rfl
@[simp] theorem State.setThr_cores (s : State) (t : Tid) (x : Thread) : (s.setThr t x).cores = s.cores := rfl
@[simp] theorem State.setThr_ls (s : State) (t : Tid) (x : Thread) : (s.setThr t x).ls = s.ls := rfl
@[simp] theorem State.setThr_lsTag (s : State) (t : Tid) (x : Thread) : (s.setThr t x).lsTag = s.lsTag := rfl
@[simp] theorem State.setThr_lsSlot (s : State) (t : Tid) (x : Thread) : (s.setThr t x).lsSlot = s.lsSlot := rfl
@[simp] theorem State.setThr_lsBad (s : State) (t : Tid) (x : Thread) : (s.setThr t x).lsBad = s.lsBad := rfl
@[simp] theorem State.setThr_mem (s : State) (t : Tid) (x : Thread) : (s.setThr t x).mem = s.mem := rfl
@[simp] theorem State.setThr_memTag (s : State) (t : Tid) (x : Thread) : (s.setThr t x).memTag = s.memTag := rfl
@[simp] theorem State.setThr_memBad (s : State) (t : Tid) (x : Thread) : (s.setThr t x).memBad = s.memBad := rfl
@[simp] theorem State.setThr_stks (s : State) (t : Tid) (x : Thread) : (s.setThr t x).stks = s.stks := rfl
@[simp] theorem State.setThr_inbox (s : State) (t : Tid) (x : Thread) : (s.setThr t x).inbox = s.inbox := rfl
@[simp] theorem State.setThr_outbox (s : State) (t : Tid) (x : Thread) : (s.setThr t x).outbox = s.outbox := rfl
@[simp] theorem State.setThr_flits (s : State) (t : Tid) (x : Thread) : (s.setThr t x).flits = s.flits := rfl
@[simp] theorem State.setThr_injAt (s : State) (t : Tid) (x : Thread) : (s.setThr t x).injAt = s.injAt := rfl
@[simp] theorem State.setThr_failed (s : State) (t : Tid) (x : Thread) : (s.setThr t x).failed = s.failed := rfl
@[simp] theorem State.setThr_dies (s : State) (t : Tid) (x : Thread) : (s.setThr t x).dies = s.dies := rfl
@[simp] theorem State.setThr_dcFoe (s : State) (t : Tid) (x : Thread) : (s.setThr t x).dcFoe = s.dcFoe := rfl
@[simp] theorem State.setThr_lantern (s : State) (t : Tid) (x : Thread) : (s.setThr t x).lantern = s.lantern := rfl
@[simp] theorem State.setThr_barriers (s : State) (t : Tid) (x : Thread) : (s.setThr t x).barriers = s.barriers := rfl
@[simp] theorem State.setThr_replicas (s : State) (t : Tid) (x : Thread) : (s.setThr t x).replicas = s.replicas := rfl
@[simp] theorem State.setThr_beacon (s : State) (t : Tid) (x : Thread) : (s.setThr t x).beacon = s.beacon := rfl
@[simp] theorem State.setThr_lastBeacon (s : State) (t : Tid) (x : Thread) : (s.setThr t x).lastBeacon = s.lastBeacon := rfl
@[simp] theorem State.setThr_funcs (s : State) (t : Tid) (x : Thread) : (s.setThr t x).funcs = s.funcs := rfl
@[simp] theorem State.setThr_host (s : State) (t : Tid) (x : Thread) : (s.setThr t x).host = s.host := rfl
@[simp] theorem State.setThr_ports (s : State) (t : Tid) (x : Thread) : (s.setThr t x).ports = s.ports := rfl
@[simp] theorem State.setThr_bonds (s : State) (t : Tid) (x : Thread) : (s.setThr t x).bonds = s.bonds := rfl
@[simp] theorem State.setThr_digSent (s : State) (t : Tid) (x : Thread) : (s.setThr t x).digSent = s.digSent := rfl
@[simp] theorem State.setThr_digRecv (s : State) (t : Tid) (x : Thread) : (s.setThr t x).digRecv = s.digRecv := rfl
@[simp] theorem State.setThr_digSnapSent (s : State) (t : Tid) (x : Thread) : (s.setThr t x).digSnapSent = s.digSnapSent := rfl
@[simp] theorem State.setThr_digSnapRecv (s : State) (t : Tid) (x : Thread) : (s.setThr t x).digSnapRecv = s.digSnapRecv := rfl
@[simp] theorem State.setThr_tally (s : State) (t : Tid) (x : Thread) : (s.setThr t x).tally = s.tally := rfl
@[simp] theorem State.setThr_trust (s : State) (t : Tid) (x : Thread) : (s.setThr t x).trust = s.trust := rfl
@[simp] theorem State.setThr_keeper (s : State) (t : Tid) (x : Thread) : (s.setThr t x).keeper = s.keeper := rfl
@[simp] theorem State.setThr_ageing (s : State) (t : Tid) (x : Thread) : (s.setThr t x).ageing = s.ageing := rfl
@[simp] theorem State.setThr_power (s : State) (t : Tid) (x : Thread) : (s.setThr t x).power = s.power := rfl
@[simp] theorem State.setThr_dbgSel (s : State) (t : Tid) (x : Thread) : (s.setThr t x).dbgSel = s.dbgSel := rfl
@[simp] theorem State.setThr_dbgData (s : State) (t : Tid) (x : Thread) : (s.setThr t x).dbgData = s.dbgData := rfl
@[simp] theorem State.setThr_hwSet (s : State) (t : Tid) (x : Thread) : (s.setThr t x).hwSet = s.hwSet := rfl
@[simp] theorem State.setThr_hwAt (s : State) (t : Tid) (x : Thread) : (s.setThr t x).hwAt = s.hwAt := rfl
@[simp] theorem State.setThr_freeCtr (s : State) (t : Tid) (x : Thread) : (s.setThr t x).freeCtr = s.freeCtr := rfl
@[simp] theorem State.core_at_setThr (s : State) (t : Tid) (x : Thread) (i : Nat) : (s.setThr t x).core i = s.core i := rfl
@[simp] theorem State.con_at_setThr (s : State) (t : Tid) (x : Thread) (i : Nat) : (s.setThr t x).con i = s.con i := rfl
@[simp] theorem State.stack_at_setThr (s : State) (t : Tid) (x : Thread) (i : Nat) : (s.setThr t x).stack i = s.stack i := rfl
@[simp] theorem State.die_at_setThr (s : State) (t : Tid) (x : Thread) (i : Nat) : (s.setThr t x).die i = s.die i := rfl
@[simp] theorem State.func_at_setThr (s : State) (t : Tid) (x : Thread) (i : Nat) : (s.setThr t x).func i = s.func i := rfl
@[simp] theorem State.port_at_setThr (s : State) (t : Tid) (x : Thread) (i : Nat) : (s.setThr t x).port i = s.port i := rfl
@[simp] theorem State.bond_at_setThr (s : State) (t : Tid) (x : Thread) (i : Nat) : (s.setThr t x).bond i = s.bond i := rfl
@[simp] theorem State.eng_at_setThr (s : State) (t : Tid) (x : Thread) (i : Nat) : (s.setThr t x).eng i = s.eng i := rfl
@[simp] theorem State.barrier_at_setThr (s : State) (t : Tid) (x : Thread) (i : Nat) : (s.setThr t x).barrier i = s.barrier i := rfl
@[simp] theorem State.inb_at_setThr (s : State) (t : Tid) (x : Thread) (i : Nat) : (s.setThr t x).inb i = s.inb i := rfl
@[simp] theorem State.outb_at_setThr (s : State) (t : Tid) (x : Thread) (i : Nat) : (s.setThr t x).outb i = s.outb i := rfl
@[simp] theorem State.slot_at_setThr (s : State) (t : Tid) (x : Thread) (i : Nat) : (s.setThr t x).slot i = s.slot i := rfl
@[simp] theorem State.area_at_setThr (s : State) (t : Tid) (x : Thread) (i : Nat) : (s.setThr t x).area i = s.area i := rfl

/-! ## State.setCore -/

@[simp] theorem State.setCore_pending (s : State) (n : Nat) (x : Core) : (s.setCore n x).pending = s.pending := rfl
@[simp] theorem State.setCore_member (s : State) (n : Nat) (x : Core) : (s.setCore n x).member = s.member := rfl
@[simp] theorem State.setCore_clk (s : State) (n : Nat) (x : Core) : (s.setCore n x).clk = s.clk := rfl
@[simp] theorem State.setCore_chart (s : State) (n : Nat) (x : Core) : (s.setCore n x).chart = s.chart := rfl
@[simp] theorem State.setCore_cons (s : State) (n : Nat) (x : Core) : (s.setCore n x).cons = s.cons := rfl
@[simp] theorem State.setCore_threads (s : State) (n : Nat) (x : Core) : (s.setCore n x).threads = s.threads := rfl
@[simp] theorem State.setCore_ls (s : State) (n : Nat) (x : Core) : (s.setCore n x).ls = s.ls := rfl
@[simp] theorem State.setCore_lsTag (s : State) (n : Nat) (x : Core) : (s.setCore n x).lsTag = s.lsTag := rfl
@[simp] theorem State.setCore_lsSlot (s : State) (n : Nat) (x : Core) : (s.setCore n x).lsSlot = s.lsSlot := rfl
@[simp] theorem State.setCore_lsBad (s : State) (n : Nat) (x : Core) : (s.setCore n x).lsBad = s.lsBad := rfl
@[simp] theorem State.setCore_mem (s : State) (n : Nat) (x : Core) : (s.setCore n x).mem = s.mem := rfl
@[simp] theorem State.setCore_memTag (s : State) (n : Nat) (x : Core) : (s.setCore n x).memTag = s.memTag := rfl
@[simp] theorem State.setCore_memBad (s : State) (n : Nat) (x : Core) : (s.setCore n x).memBad = s.memBad := rfl
@[simp] theorem State.setCore_stks (s : State) (n : Nat) (x : Core) : (s.setCore n x).stks = s.stks := rfl
@[simp] theorem State.setCore_inbox (s : State) (n : Nat) (x : Core) : (s.setCore n x).inbox = s.inbox := rfl
@[simp] theorem State.setCore_outbox (s : State) (n : Nat) (x : Core) : (s.setCore n x).outbox = s.outbox := rfl
@[simp] theorem State.setCore_flits (s : State) (n : Nat) (x : Core) : (s.setCore n x).flits = s.flits := rfl
@[simp] theorem State.setCore_injAt (s : State) (n : Nat) (x : Core) : (s.setCore n x).injAt = s.injAt := rfl
@[simp] theorem State.setCore_failed (s : State) (n : Nat) (x : Core) : (s.setCore n x).failed = s.failed := rfl
@[simp] theorem State.setCore_dies (s : State) (n : Nat) (x : Core) : (s.setCore n x).dies = s.dies := rfl
@[simp] theorem State.setCore_dcFoe (s : State) (n : Nat) (x : Core) : (s.setCore n x).dcFoe = s.dcFoe := rfl
@[simp] theorem State.setCore_lantern (s : State) (n : Nat) (x : Core) : (s.setCore n x).lantern = s.lantern := rfl
@[simp] theorem State.setCore_barriers (s : State) (n : Nat) (x : Core) : (s.setCore n x).barriers = s.barriers := rfl
@[simp] theorem State.setCore_replicas (s : State) (n : Nat) (x : Core) : (s.setCore n x).replicas = s.replicas := rfl
@[simp] theorem State.setCore_beacon (s : State) (n : Nat) (x : Core) : (s.setCore n x).beacon = s.beacon := rfl
@[simp] theorem State.setCore_lastBeacon (s : State) (n : Nat) (x : Core) : (s.setCore n x).lastBeacon = s.lastBeacon := rfl
@[simp] theorem State.setCore_funcs (s : State) (n : Nat) (x : Core) : (s.setCore n x).funcs = s.funcs := rfl
@[simp] theorem State.setCore_host (s : State) (n : Nat) (x : Core) : (s.setCore n x).host = s.host := rfl
@[simp] theorem State.setCore_ports (s : State) (n : Nat) (x : Core) : (s.setCore n x).ports = s.ports := rfl
@[simp] theorem State.setCore_bonds (s : State) (n : Nat) (x : Core) : (s.setCore n x).bonds = s.bonds := rfl
@[simp] theorem State.setCore_digSent (s : State) (n : Nat) (x : Core) : (s.setCore n x).digSent = s.digSent := rfl
@[simp] theorem State.setCore_digRecv (s : State) (n : Nat) (x : Core) : (s.setCore n x).digRecv = s.digRecv := rfl
@[simp] theorem State.setCore_digSnapSent (s : State) (n : Nat) (x : Core) : (s.setCore n x).digSnapSent = s.digSnapSent := rfl
@[simp] theorem State.setCore_digSnapRecv (s : State) (n : Nat) (x : Core) : (s.setCore n x).digSnapRecv = s.digSnapRecv := rfl
@[simp] theorem State.setCore_tally (s : State) (n : Nat) (x : Core) : (s.setCore n x).tally = s.tally := rfl
@[simp] theorem State.setCore_trust (s : State) (n : Nat) (x : Core) : (s.setCore n x).trust = s.trust := rfl
@[simp] theorem State.setCore_keeper (s : State) (n : Nat) (x : Core) : (s.setCore n x).keeper = s.keeper := rfl
@[simp] theorem State.setCore_ageing (s : State) (n : Nat) (x : Core) : (s.setCore n x).ageing = s.ageing := rfl
@[simp] theorem State.setCore_power (s : State) (n : Nat) (x : Core) : (s.setCore n x).power = s.power := rfl
@[simp] theorem State.setCore_dbgSel (s : State) (n : Nat) (x : Core) : (s.setCore n x).dbgSel = s.dbgSel := rfl
@[simp] theorem State.setCore_dbgData (s : State) (n : Nat) (x : Core) : (s.setCore n x).dbgData = s.dbgData := rfl
@[simp] theorem State.setCore_hwSet (s : State) (n : Nat) (x : Core) : (s.setCore n x).hwSet = s.hwSet := rfl
@[simp] theorem State.setCore_hwAt (s : State) (n : Nat) (x : Core) : (s.setCore n x).hwAt = s.hwAt := rfl
@[simp] theorem State.setCore_freeCtr (s : State) (n : Nat) (x : Core) : (s.setCore n x).freeCtr = s.freeCtr := rfl
@[simp] theorem State.thr_at_setCore (s : State) (n : Nat) (x : Core) (i : Nat) : (s.setCore n x).thr i = s.thr i := rfl
@[simp] theorem State.con_at_setCore (s : State) (n : Nat) (x : Core) (i : Nat) : (s.setCore n x).con i = s.con i := rfl
@[simp] theorem State.stack_at_setCore (s : State) (n : Nat) (x : Core) (i : Nat) : (s.setCore n x).stack i = s.stack i := rfl
@[simp] theorem State.die_at_setCore (s : State) (n : Nat) (x : Core) (i : Nat) : (s.setCore n x).die i = s.die i := rfl
@[simp] theorem State.func_at_setCore (s : State) (n : Nat) (x : Core) (i : Nat) : (s.setCore n x).func i = s.func i := rfl
@[simp] theorem State.port_at_setCore (s : State) (n : Nat) (x : Core) (i : Nat) : (s.setCore n x).port i = s.port i := rfl
@[simp] theorem State.bond_at_setCore (s : State) (n : Nat) (x : Core) (i : Nat) : (s.setCore n x).bond i = s.bond i := rfl
@[simp] theorem State.eng_at_setCore (s : State) (n : Nat) (x : Core) (i : Nat) : (s.setCore n x).eng i = s.eng i := rfl
@[simp] theorem State.barrier_at_setCore (s : State) (n : Nat) (x : Core) (i : Nat) : (s.setCore n x).barrier i = s.barrier i := rfl
@[simp] theorem State.inb_at_setCore (s : State) (n : Nat) (x : Core) (i : Nat) : (s.setCore n x).inb i = s.inb i := rfl
@[simp] theorem State.outb_at_setCore (s : State) (n : Nat) (x : Core) (i : Nat) : (s.setCore n x).outb i = s.outb i := rfl
@[simp] theorem State.slot_at_setCore (s : State) (n : Nat) (x : Core) (i : Nat) : (s.setCore n x).slot i = s.slot i := rfl
@[simp] theorem State.area_at_setCore (s : State) (n : Nat) (x : Core) (i : Nat) : (s.setCore n x).area i = s.area i := rfl

/-! ## State.setCon -/

@[simp] theorem State.setCon_pending (s : State) (c : Nat) (x : Cons) : (s.setCon c x).pending = s.pending := rfl
@[simp] theorem State.setCon_member (s : State) (c : Nat) (x : Cons) : (s.setCon c x).member = s.member := rfl
@[simp] theorem State.setCon_clk (s : State) (c : Nat) (x : Cons) : (s.setCon c x).clk = s.clk := rfl
@[simp] theorem State.setCon_chart (s : State) (c : Nat) (x : Cons) : (s.setCon c x).chart = s.chart := rfl
@[simp] theorem State.setCon_cores (s : State) (c : Nat) (x : Cons) : (s.setCon c x).cores = s.cores := rfl
@[simp] theorem State.setCon_threads (s : State) (c : Nat) (x : Cons) : (s.setCon c x).threads = s.threads := rfl
@[simp] theorem State.setCon_ls (s : State) (c : Nat) (x : Cons) : (s.setCon c x).ls = s.ls := rfl
@[simp] theorem State.setCon_lsTag (s : State) (c : Nat) (x : Cons) : (s.setCon c x).lsTag = s.lsTag := rfl
@[simp] theorem State.setCon_lsSlot (s : State) (c : Nat) (x : Cons) : (s.setCon c x).lsSlot = s.lsSlot := rfl
@[simp] theorem State.setCon_lsBad (s : State) (c : Nat) (x : Cons) : (s.setCon c x).lsBad = s.lsBad := rfl
@[simp] theorem State.setCon_mem (s : State) (c : Nat) (x : Cons) : (s.setCon c x).mem = s.mem := rfl
@[simp] theorem State.setCon_memTag (s : State) (c : Nat) (x : Cons) : (s.setCon c x).memTag = s.memTag := rfl
@[simp] theorem State.setCon_memBad (s : State) (c : Nat) (x : Cons) : (s.setCon c x).memBad = s.memBad := rfl
@[simp] theorem State.setCon_stks (s : State) (c : Nat) (x : Cons) : (s.setCon c x).stks = s.stks := rfl
@[simp] theorem State.setCon_inbox (s : State) (c : Nat) (x : Cons) : (s.setCon c x).inbox = s.inbox := rfl
@[simp] theorem State.setCon_outbox (s : State) (c : Nat) (x : Cons) : (s.setCon c x).outbox = s.outbox := rfl
@[simp] theorem State.setCon_flits (s : State) (c : Nat) (x : Cons) : (s.setCon c x).flits = s.flits := rfl
@[simp] theorem State.setCon_injAt (s : State) (c : Nat) (x : Cons) : (s.setCon c x).injAt = s.injAt := rfl
@[simp] theorem State.setCon_failed (s : State) (c : Nat) (x : Cons) : (s.setCon c x).failed = s.failed := rfl
@[simp] theorem State.setCon_dies (s : State) (c : Nat) (x : Cons) : (s.setCon c x).dies = s.dies := rfl
@[simp] theorem State.setCon_dcFoe (s : State) (c : Nat) (x : Cons) : (s.setCon c x).dcFoe = s.dcFoe := rfl
@[simp] theorem State.setCon_lantern (s : State) (c : Nat) (x : Cons) : (s.setCon c x).lantern = s.lantern := rfl
@[simp] theorem State.setCon_barriers (s : State) (c : Nat) (x : Cons) : (s.setCon c x).barriers = s.barriers := rfl
@[simp] theorem State.setCon_replicas (s : State) (c : Nat) (x : Cons) : (s.setCon c x).replicas = s.replicas := rfl
@[simp] theorem State.setCon_beacon (s : State) (c : Nat) (x : Cons) : (s.setCon c x).beacon = s.beacon := rfl
@[simp] theorem State.setCon_lastBeacon (s : State) (c : Nat) (x : Cons) : (s.setCon c x).lastBeacon = s.lastBeacon := rfl
@[simp] theorem State.setCon_funcs (s : State) (c : Nat) (x : Cons) : (s.setCon c x).funcs = s.funcs := rfl
@[simp] theorem State.setCon_host (s : State) (c : Nat) (x : Cons) : (s.setCon c x).host = s.host := rfl
@[simp] theorem State.setCon_ports (s : State) (c : Nat) (x : Cons) : (s.setCon c x).ports = s.ports := rfl
@[simp] theorem State.setCon_bonds (s : State) (c : Nat) (x : Cons) : (s.setCon c x).bonds = s.bonds := rfl
@[simp] theorem State.setCon_digSent (s : State) (c : Nat) (x : Cons) : (s.setCon c x).digSent = s.digSent := rfl
@[simp] theorem State.setCon_digRecv (s : State) (c : Nat) (x : Cons) : (s.setCon c x).digRecv = s.digRecv := rfl
@[simp] theorem State.setCon_digSnapSent (s : State) (c : Nat) (x : Cons) : (s.setCon c x).digSnapSent = s.digSnapSent := rfl
@[simp] theorem State.setCon_digSnapRecv (s : State) (c : Nat) (x : Cons) : (s.setCon c x).digSnapRecv = s.digSnapRecv := rfl
@[simp] theorem State.setCon_tally (s : State) (c : Nat) (x : Cons) : (s.setCon c x).tally = s.tally := rfl
@[simp] theorem State.setCon_trust (s : State) (c : Nat) (x : Cons) : (s.setCon c x).trust = s.trust := rfl
@[simp] theorem State.setCon_keeper (s : State) (c : Nat) (x : Cons) : (s.setCon c x).keeper = s.keeper := rfl
@[simp] theorem State.setCon_ageing (s : State) (c : Nat) (x : Cons) : (s.setCon c x).ageing = s.ageing := rfl
@[simp] theorem State.setCon_power (s : State) (c : Nat) (x : Cons) : (s.setCon c x).power = s.power := rfl
@[simp] theorem State.setCon_dbgSel (s : State) (c : Nat) (x : Cons) : (s.setCon c x).dbgSel = s.dbgSel := rfl
@[simp] theorem State.setCon_dbgData (s : State) (c : Nat) (x : Cons) : (s.setCon c x).dbgData = s.dbgData := rfl
@[simp] theorem State.setCon_hwSet (s : State) (c : Nat) (x : Cons) : (s.setCon c x).hwSet = s.hwSet := rfl
@[simp] theorem State.setCon_hwAt (s : State) (c : Nat) (x : Cons) : (s.setCon c x).hwAt = s.hwAt := rfl
@[simp] theorem State.setCon_freeCtr (s : State) (c : Nat) (x : Cons) : (s.setCon c x).freeCtr = s.freeCtr := rfl
@[simp] theorem State.thr_at_setCon (s : State) (c : Nat) (x : Cons) (i : Nat) : (s.setCon c x).thr i = s.thr i := rfl
@[simp] theorem State.core_at_setCon (s : State) (c : Nat) (x : Cons) (i : Nat) : (s.setCon c x).core i = s.core i := rfl
@[simp] theorem State.stack_at_setCon (s : State) (c : Nat) (x : Cons) (i : Nat) : (s.setCon c x).stack i = s.stack i := rfl
@[simp] theorem State.die_at_setCon (s : State) (c : Nat) (x : Cons) (i : Nat) : (s.setCon c x).die i = s.die i := rfl
@[simp] theorem State.func_at_setCon (s : State) (c : Nat) (x : Cons) (i : Nat) : (s.setCon c x).func i = s.func i := rfl
@[simp] theorem State.port_at_setCon (s : State) (c : Nat) (x : Cons) (i : Nat) : (s.setCon c x).port i = s.port i := rfl
@[simp] theorem State.bond_at_setCon (s : State) (c : Nat) (x : Cons) (i : Nat) : (s.setCon c x).bond i = s.bond i := rfl
@[simp] theorem State.eng_at_setCon (s : State) (c : Nat) (x : Cons) (i : Nat) : (s.setCon c x).eng i = s.eng i := rfl
@[simp] theorem State.barrier_at_setCon (s : State) (c : Nat) (x : Cons) (i : Nat) : (s.setCon c x).barrier i = s.barrier i := rfl
@[simp] theorem State.inb_at_setCon (s : State) (c : Nat) (x : Cons) (i : Nat) : (s.setCon c x).inb i = s.inb i := rfl
@[simp] theorem State.outb_at_setCon (s : State) (c : Nat) (x : Cons) (i : Nat) : (s.setCon c x).outb i = s.outb i := rfl
@[simp] theorem State.slot_at_setCon (s : State) (c : Nat) (x : Cons) (i : Nat) : (s.setCon c x).slot i = s.slot i := rfl
@[simp] theorem State.area_at_setCon (s : State) (c : Nat) (x : Cons) (i : Nat) : (s.setCon c x).area i = s.area i := rfl

/-! ## State.setStack -/

@[simp] theorem State.setStack_pending (s : State) (k : Nat) (x : Stack) : (s.setStack k x).pending = s.pending := rfl
@[simp] theorem State.setStack_member (s : State) (k : Nat) (x : Stack) : (s.setStack k x).member = s.member := rfl
@[simp] theorem State.setStack_clk (s : State) (k : Nat) (x : Stack) : (s.setStack k x).clk = s.clk := rfl
@[simp] theorem State.setStack_chart (s : State) (k : Nat) (x : Stack) : (s.setStack k x).chart = s.chart := rfl
@[simp] theorem State.setStack_cons (s : State) (k : Nat) (x : Stack) : (s.setStack k x).cons = s.cons := rfl
@[simp] theorem State.setStack_cores (s : State) (k : Nat) (x : Stack) : (s.setStack k x).cores = s.cores := rfl
@[simp] theorem State.setStack_threads (s : State) (k : Nat) (x : Stack) : (s.setStack k x).threads = s.threads := rfl
@[simp] theorem State.setStack_ls (s : State) (k : Nat) (x : Stack) : (s.setStack k x).ls = s.ls := rfl
@[simp] theorem State.setStack_lsTag (s : State) (k : Nat) (x : Stack) : (s.setStack k x).lsTag = s.lsTag := rfl
@[simp] theorem State.setStack_lsSlot (s : State) (k : Nat) (x : Stack) : (s.setStack k x).lsSlot = s.lsSlot := rfl
@[simp] theorem State.setStack_lsBad (s : State) (k : Nat) (x : Stack) : (s.setStack k x).lsBad = s.lsBad := rfl
@[simp] theorem State.setStack_mem (s : State) (k : Nat) (x : Stack) : (s.setStack k x).mem = s.mem := rfl
@[simp] theorem State.setStack_memTag (s : State) (k : Nat) (x : Stack) : (s.setStack k x).memTag = s.memTag := rfl
@[simp] theorem State.setStack_memBad (s : State) (k : Nat) (x : Stack) : (s.setStack k x).memBad = s.memBad := rfl
@[simp] theorem State.setStack_inbox (s : State) (k : Nat) (x : Stack) : (s.setStack k x).inbox = s.inbox := rfl
@[simp] theorem State.setStack_outbox (s : State) (k : Nat) (x : Stack) : (s.setStack k x).outbox = s.outbox := rfl
@[simp] theorem State.setStack_flits (s : State) (k : Nat) (x : Stack) : (s.setStack k x).flits = s.flits := rfl
@[simp] theorem State.setStack_injAt (s : State) (k : Nat) (x : Stack) : (s.setStack k x).injAt = s.injAt := rfl
@[simp] theorem State.setStack_failed (s : State) (k : Nat) (x : Stack) : (s.setStack k x).failed = s.failed := rfl
@[simp] theorem State.setStack_dies (s : State) (k : Nat) (x : Stack) : (s.setStack k x).dies = s.dies := rfl
@[simp] theorem State.setStack_dcFoe (s : State) (k : Nat) (x : Stack) : (s.setStack k x).dcFoe = s.dcFoe := rfl
@[simp] theorem State.setStack_lantern (s : State) (k : Nat) (x : Stack) : (s.setStack k x).lantern = s.lantern := rfl
@[simp] theorem State.setStack_barriers (s : State) (k : Nat) (x : Stack) : (s.setStack k x).barriers = s.barriers := rfl
@[simp] theorem State.setStack_replicas (s : State) (k : Nat) (x : Stack) : (s.setStack k x).replicas = s.replicas := rfl
@[simp] theorem State.setStack_beacon (s : State) (k : Nat) (x : Stack) : (s.setStack k x).beacon = s.beacon := rfl
@[simp] theorem State.setStack_lastBeacon (s : State) (k : Nat) (x : Stack) : (s.setStack k x).lastBeacon = s.lastBeacon := rfl
@[simp] theorem State.setStack_funcs (s : State) (k : Nat) (x : Stack) : (s.setStack k x).funcs = s.funcs := rfl
@[simp] theorem State.setStack_host (s : State) (k : Nat) (x : Stack) : (s.setStack k x).host = s.host := rfl
@[simp] theorem State.setStack_ports (s : State) (k : Nat) (x : Stack) : (s.setStack k x).ports = s.ports := rfl
@[simp] theorem State.setStack_bonds (s : State) (k : Nat) (x : Stack) : (s.setStack k x).bonds = s.bonds := rfl
@[simp] theorem State.setStack_digSent (s : State) (k : Nat) (x : Stack) : (s.setStack k x).digSent = s.digSent := rfl
@[simp] theorem State.setStack_digRecv (s : State) (k : Nat) (x : Stack) : (s.setStack k x).digRecv = s.digRecv := rfl
@[simp] theorem State.setStack_digSnapSent (s : State) (k : Nat) (x : Stack) : (s.setStack k x).digSnapSent = s.digSnapSent := rfl
@[simp] theorem State.setStack_digSnapRecv (s : State) (k : Nat) (x : Stack) : (s.setStack k x).digSnapRecv = s.digSnapRecv := rfl
@[simp] theorem State.setStack_tally (s : State) (k : Nat) (x : Stack) : (s.setStack k x).tally = s.tally := rfl
@[simp] theorem State.setStack_trust (s : State) (k : Nat) (x : Stack) : (s.setStack k x).trust = s.trust := rfl
@[simp] theorem State.setStack_keeper (s : State) (k : Nat) (x : Stack) : (s.setStack k x).keeper = s.keeper := rfl
@[simp] theorem State.setStack_ageing (s : State) (k : Nat) (x : Stack) : (s.setStack k x).ageing = s.ageing := rfl
@[simp] theorem State.setStack_power (s : State) (k : Nat) (x : Stack) : (s.setStack k x).power = s.power := rfl
@[simp] theorem State.setStack_dbgSel (s : State) (k : Nat) (x : Stack) : (s.setStack k x).dbgSel = s.dbgSel := rfl
@[simp] theorem State.setStack_dbgData (s : State) (k : Nat) (x : Stack) : (s.setStack k x).dbgData = s.dbgData := rfl
@[simp] theorem State.setStack_hwSet (s : State) (k : Nat) (x : Stack) : (s.setStack k x).hwSet = s.hwSet := rfl
@[simp] theorem State.setStack_hwAt (s : State) (k : Nat) (x : Stack) : (s.setStack k x).hwAt = s.hwAt := rfl
@[simp] theorem State.setStack_freeCtr (s : State) (k : Nat) (x : Stack) : (s.setStack k x).freeCtr = s.freeCtr := rfl
@[simp] theorem State.thr_at_setStack (s : State) (k : Nat) (x : Stack) (i : Nat) : (s.setStack k x).thr i = s.thr i := rfl
@[simp] theorem State.core_at_setStack (s : State) (k : Nat) (x : Stack) (i : Nat) : (s.setStack k x).core i = s.core i := rfl
@[simp] theorem State.con_at_setStack (s : State) (k : Nat) (x : Stack) (i : Nat) : (s.setStack k x).con i = s.con i := rfl
@[simp] theorem State.die_at_setStack (s : State) (k : Nat) (x : Stack) (i : Nat) : (s.setStack k x).die i = s.die i := rfl
@[simp] theorem State.func_at_setStack (s : State) (k : Nat) (x : Stack) (i : Nat) : (s.setStack k x).func i = s.func i := rfl
@[simp] theorem State.port_at_setStack (s : State) (k : Nat) (x : Stack) (i : Nat) : (s.setStack k x).port i = s.port i := rfl
@[simp] theorem State.bond_at_setStack (s : State) (k : Nat) (x : Stack) (i : Nat) : (s.setStack k x).bond i = s.bond i := rfl
@[simp] theorem State.eng_at_setStack (s : State) (k : Nat) (x : Stack) (i : Nat) : (s.setStack k x).eng i = s.eng i := rfl
@[simp] theorem State.barrier_at_setStack (s : State) (k : Nat) (x : Stack) (i : Nat) : (s.setStack k x).barrier i = s.barrier i := rfl
@[simp] theorem State.inb_at_setStack (s : State) (k : Nat) (x : Stack) (i : Nat) : (s.setStack k x).inb i = s.inb i := rfl
@[simp] theorem State.outb_at_setStack (s : State) (k : Nat) (x : Stack) (i : Nat) : (s.setStack k x).outb i = s.outb i := rfl
@[simp] theorem State.slot_at_setStack (s : State) (k : Nat) (x : Stack) (i : Nat) : (s.setStack k x).slot i = s.slot i := rfl
@[simp] theorem State.area_at_setStack (s : State) (k : Nat) (x : Stack) (i : Nat) : (s.setStack k x).area i = s.area i := rfl

/-! ## State.modDie -/

@[simp] theorem State.modDie_pending (s : State) (d : Nat) (f : Die → Die) : (s.modDie d f).pending = s.pending := rfl
@[simp] theorem State.modDie_member (s : State) (d : Nat) (f : Die → Die) : (s.modDie d f).member = s.member := rfl
@[simp] theorem State.modDie_clk (s : State) (d : Nat) (f : Die → Die) : (s.modDie d f).clk = s.clk := rfl
@[simp] theorem State.modDie_chart (s : State) (d : Nat) (f : Die → Die) : (s.modDie d f).chart = s.chart := rfl
@[simp] theorem State.modDie_cons (s : State) (d : Nat) (f : Die → Die) : (s.modDie d f).cons = s.cons := rfl
@[simp] theorem State.modDie_cores (s : State) (d : Nat) (f : Die → Die) : (s.modDie d f).cores = s.cores := rfl
@[simp] theorem State.modDie_threads (s : State) (d : Nat) (f : Die → Die) : (s.modDie d f).threads = s.threads := rfl
@[simp] theorem State.modDie_ls (s : State) (d : Nat) (f : Die → Die) : (s.modDie d f).ls = s.ls := rfl
@[simp] theorem State.modDie_lsTag (s : State) (d : Nat) (f : Die → Die) : (s.modDie d f).lsTag = s.lsTag := rfl
@[simp] theorem State.modDie_lsSlot (s : State) (d : Nat) (f : Die → Die) : (s.modDie d f).lsSlot = s.lsSlot := rfl
@[simp] theorem State.modDie_lsBad (s : State) (d : Nat) (f : Die → Die) : (s.modDie d f).lsBad = s.lsBad := rfl
@[simp] theorem State.modDie_mem (s : State) (d : Nat) (f : Die → Die) : (s.modDie d f).mem = s.mem := rfl
@[simp] theorem State.modDie_memTag (s : State) (d : Nat) (f : Die → Die) : (s.modDie d f).memTag = s.memTag := rfl
@[simp] theorem State.modDie_memBad (s : State) (d : Nat) (f : Die → Die) : (s.modDie d f).memBad = s.memBad := rfl
@[simp] theorem State.modDie_stks (s : State) (d : Nat) (f : Die → Die) : (s.modDie d f).stks = s.stks := rfl
@[simp] theorem State.modDie_inbox (s : State) (d : Nat) (f : Die → Die) : (s.modDie d f).inbox = s.inbox := rfl
@[simp] theorem State.modDie_outbox (s : State) (d : Nat) (f : Die → Die) : (s.modDie d f).outbox = s.outbox := rfl
@[simp] theorem State.modDie_flits (s : State) (d : Nat) (f : Die → Die) : (s.modDie d f).flits = s.flits := rfl
@[simp] theorem State.modDie_injAt (s : State) (d : Nat) (f : Die → Die) : (s.modDie d f).injAt = s.injAt := rfl
@[simp] theorem State.modDie_failed (s : State) (d : Nat) (f : Die → Die) : (s.modDie d f).failed = s.failed := rfl
@[simp] theorem State.modDie_dcFoe (s : State) (d : Nat) (f : Die → Die) : (s.modDie d f).dcFoe = s.dcFoe := rfl
@[simp] theorem State.modDie_lantern (s : State) (d : Nat) (f : Die → Die) : (s.modDie d f).lantern = s.lantern := rfl
@[simp] theorem State.modDie_barriers (s : State) (d : Nat) (f : Die → Die) : (s.modDie d f).barriers = s.barriers := rfl
@[simp] theorem State.modDie_replicas (s : State) (d : Nat) (f : Die → Die) : (s.modDie d f).replicas = s.replicas := rfl
@[simp] theorem State.modDie_beacon (s : State) (d : Nat) (f : Die → Die) : (s.modDie d f).beacon = s.beacon := rfl
@[simp] theorem State.modDie_lastBeacon (s : State) (d : Nat) (f : Die → Die) : (s.modDie d f).lastBeacon = s.lastBeacon := rfl
@[simp] theorem State.modDie_funcs (s : State) (d : Nat) (f : Die → Die) : (s.modDie d f).funcs = s.funcs := rfl
@[simp] theorem State.modDie_host (s : State) (d : Nat) (f : Die → Die) : (s.modDie d f).host = s.host := rfl
@[simp] theorem State.modDie_ports (s : State) (d : Nat) (f : Die → Die) : (s.modDie d f).ports = s.ports := rfl
@[simp] theorem State.modDie_bonds (s : State) (d : Nat) (f : Die → Die) : (s.modDie d f).bonds = s.bonds := rfl
@[simp] theorem State.modDie_digSent (s : State) (d : Nat) (f : Die → Die) : (s.modDie d f).digSent = s.digSent := rfl
@[simp] theorem State.modDie_digRecv (s : State) (d : Nat) (f : Die → Die) : (s.modDie d f).digRecv = s.digRecv := rfl
@[simp] theorem State.modDie_digSnapSent (s : State) (d : Nat) (f : Die → Die) : (s.modDie d f).digSnapSent = s.digSnapSent := rfl
@[simp] theorem State.modDie_digSnapRecv (s : State) (d : Nat) (f : Die → Die) : (s.modDie d f).digSnapRecv = s.digSnapRecv := rfl
@[simp] theorem State.modDie_tally (s : State) (d : Nat) (f : Die → Die) : (s.modDie d f).tally = s.tally := rfl
@[simp] theorem State.modDie_trust (s : State) (d : Nat) (f : Die → Die) : (s.modDie d f).trust = s.trust := rfl
@[simp] theorem State.modDie_keeper (s : State) (d : Nat) (f : Die → Die) : (s.modDie d f).keeper = s.keeper := rfl
@[simp] theorem State.modDie_ageing (s : State) (d : Nat) (f : Die → Die) : (s.modDie d f).ageing = s.ageing := rfl
@[simp] theorem State.modDie_power (s : State) (d : Nat) (f : Die → Die) : (s.modDie d f).power = s.power := rfl
@[simp] theorem State.modDie_dbgSel (s : State) (d : Nat) (f : Die → Die) : (s.modDie d f).dbgSel = s.dbgSel := rfl
@[simp] theorem State.modDie_dbgData (s : State) (d : Nat) (f : Die → Die) : (s.modDie d f).dbgData = s.dbgData := rfl
@[simp] theorem State.modDie_hwSet (s : State) (d : Nat) (f : Die → Die) : (s.modDie d f).hwSet = s.hwSet := rfl
@[simp] theorem State.modDie_hwAt (s : State) (d : Nat) (f : Die → Die) : (s.modDie d f).hwAt = s.hwAt := rfl
@[simp] theorem State.modDie_freeCtr (s : State) (d : Nat) (f : Die → Die) : (s.modDie d f).freeCtr = s.freeCtr := rfl
@[simp] theorem State.thr_at_modDie (s : State) (d : Nat) (f : Die → Die) (i : Nat) : (s.modDie d f).thr i = s.thr i := rfl
@[simp] theorem State.core_at_modDie (s : State) (d : Nat) (f : Die → Die) (i : Nat) : (s.modDie d f).core i = s.core i := rfl
@[simp] theorem State.con_at_modDie (s : State) (d : Nat) (f : Die → Die) (i : Nat) : (s.modDie d f).con i = s.con i := rfl
@[simp] theorem State.stack_at_modDie (s : State) (d : Nat) (f : Die → Die) (i : Nat) : (s.modDie d f).stack i = s.stack i := rfl
@[simp] theorem State.func_at_modDie (s : State) (d : Nat) (f : Die → Die) (i : Nat) : (s.modDie d f).func i = s.func i := rfl
@[simp] theorem State.port_at_modDie (s : State) (d : Nat) (f : Die → Die) (i : Nat) : (s.modDie d f).port i = s.port i := rfl
@[simp] theorem State.bond_at_modDie (s : State) (d : Nat) (f : Die → Die) (i : Nat) : (s.modDie d f).bond i = s.bond i := rfl
@[simp] theorem State.eng_at_modDie (s : State) (d : Nat) (f : Die → Die) (i : Nat) : (s.modDie d f).eng i = s.eng i := rfl
@[simp] theorem State.barrier_at_modDie (s : State) (d : Nat) (f : Die → Die) (i : Nat) : (s.modDie d f).barrier i = s.barrier i := rfl
@[simp] theorem State.inb_at_modDie (s : State) (d : Nat) (f : Die → Die) (i : Nat) : (s.modDie d f).inb i = s.inb i := rfl
@[simp] theorem State.outb_at_modDie (s : State) (d : Nat) (f : Die → Die) (i : Nat) : (s.modDie d f).outb i = s.outb i := rfl
@[simp] theorem State.slot_at_modDie (s : State) (d : Nat) (f : Die → Die) (i : Nat) : (s.modDie d f).slot i = s.slot i := rfl
@[simp] theorem State.area_at_modDie (s : State) (d : Nat) (f : Die → Die) (i : Nat) : (s.modDie d f).area i = s.area i := rfl

/-! ## State.modFunc -/

@[simp] theorem State.modFunc_pending (s : State) (f : Nat) (g : Func → Func) : (s.modFunc f g).pending = s.pending := rfl
@[simp] theorem State.modFunc_member (s : State) (f : Nat) (g : Func → Func) : (s.modFunc f g).member = s.member := rfl
@[simp] theorem State.modFunc_clk (s : State) (f : Nat) (g : Func → Func) : (s.modFunc f g).clk = s.clk := rfl
@[simp] theorem State.modFunc_chart (s : State) (f : Nat) (g : Func → Func) : (s.modFunc f g).chart = s.chart := rfl
@[simp] theorem State.modFunc_cons (s : State) (f : Nat) (g : Func → Func) : (s.modFunc f g).cons = s.cons := rfl
@[simp] theorem State.modFunc_cores (s : State) (f : Nat) (g : Func → Func) : (s.modFunc f g).cores = s.cores := rfl
@[simp] theorem State.modFunc_threads (s : State) (f : Nat) (g : Func → Func) : (s.modFunc f g).threads = s.threads := rfl
@[simp] theorem State.modFunc_ls (s : State) (f : Nat) (g : Func → Func) : (s.modFunc f g).ls = s.ls := rfl
@[simp] theorem State.modFunc_lsTag (s : State) (f : Nat) (g : Func → Func) : (s.modFunc f g).lsTag = s.lsTag := rfl
@[simp] theorem State.modFunc_lsSlot (s : State) (f : Nat) (g : Func → Func) : (s.modFunc f g).lsSlot = s.lsSlot := rfl
@[simp] theorem State.modFunc_lsBad (s : State) (f : Nat) (g : Func → Func) : (s.modFunc f g).lsBad = s.lsBad := rfl
@[simp] theorem State.modFunc_mem (s : State) (f : Nat) (g : Func → Func) : (s.modFunc f g).mem = s.mem := rfl
@[simp] theorem State.modFunc_memTag (s : State) (f : Nat) (g : Func → Func) : (s.modFunc f g).memTag = s.memTag := rfl
@[simp] theorem State.modFunc_memBad (s : State) (f : Nat) (g : Func → Func) : (s.modFunc f g).memBad = s.memBad := rfl
@[simp] theorem State.modFunc_stks (s : State) (f : Nat) (g : Func → Func) : (s.modFunc f g).stks = s.stks := rfl
@[simp] theorem State.modFunc_inbox (s : State) (f : Nat) (g : Func → Func) : (s.modFunc f g).inbox = s.inbox := rfl
@[simp] theorem State.modFunc_outbox (s : State) (f : Nat) (g : Func → Func) : (s.modFunc f g).outbox = s.outbox := rfl
@[simp] theorem State.modFunc_flits (s : State) (f : Nat) (g : Func → Func) : (s.modFunc f g).flits = s.flits := rfl
@[simp] theorem State.modFunc_injAt (s : State) (f : Nat) (g : Func → Func) : (s.modFunc f g).injAt = s.injAt := rfl
@[simp] theorem State.modFunc_failed (s : State) (f : Nat) (g : Func → Func) : (s.modFunc f g).failed = s.failed := rfl
@[simp] theorem State.modFunc_dies (s : State) (f : Nat) (g : Func → Func) : (s.modFunc f g).dies = s.dies := rfl
@[simp] theorem State.modFunc_dcFoe (s : State) (f : Nat) (g : Func → Func) : (s.modFunc f g).dcFoe = s.dcFoe := rfl
@[simp] theorem State.modFunc_lantern (s : State) (f : Nat) (g : Func → Func) : (s.modFunc f g).lantern = s.lantern := rfl
@[simp] theorem State.modFunc_barriers (s : State) (f : Nat) (g : Func → Func) : (s.modFunc f g).barriers = s.barriers := rfl
@[simp] theorem State.modFunc_replicas (s : State) (f : Nat) (g : Func → Func) : (s.modFunc f g).replicas = s.replicas := rfl
@[simp] theorem State.modFunc_beacon (s : State) (f : Nat) (g : Func → Func) : (s.modFunc f g).beacon = s.beacon := rfl
@[simp] theorem State.modFunc_lastBeacon (s : State) (f : Nat) (g : Func → Func) : (s.modFunc f g).lastBeacon = s.lastBeacon := rfl
@[simp] theorem State.modFunc_host (s : State) (f : Nat) (g : Func → Func) : (s.modFunc f g).host = s.host := rfl
@[simp] theorem State.modFunc_ports (s : State) (f : Nat) (g : Func → Func) : (s.modFunc f g).ports = s.ports := rfl
@[simp] theorem State.modFunc_bonds (s : State) (f : Nat) (g : Func → Func) : (s.modFunc f g).bonds = s.bonds := rfl
@[simp] theorem State.modFunc_digSent (s : State) (f : Nat) (g : Func → Func) : (s.modFunc f g).digSent = s.digSent := rfl
@[simp] theorem State.modFunc_digRecv (s : State) (f : Nat) (g : Func → Func) : (s.modFunc f g).digRecv = s.digRecv := rfl
@[simp] theorem State.modFunc_digSnapSent (s : State) (f : Nat) (g : Func → Func) : (s.modFunc f g).digSnapSent = s.digSnapSent := rfl
@[simp] theorem State.modFunc_digSnapRecv (s : State) (f : Nat) (g : Func → Func) : (s.modFunc f g).digSnapRecv = s.digSnapRecv := rfl
@[simp] theorem State.modFunc_tally (s : State) (f : Nat) (g : Func → Func) : (s.modFunc f g).tally = s.tally := rfl
@[simp] theorem State.modFunc_trust (s : State) (f : Nat) (g : Func → Func) : (s.modFunc f g).trust = s.trust := rfl
@[simp] theorem State.modFunc_keeper (s : State) (f : Nat) (g : Func → Func) : (s.modFunc f g).keeper = s.keeper := rfl
@[simp] theorem State.modFunc_ageing (s : State) (f : Nat) (g : Func → Func) : (s.modFunc f g).ageing = s.ageing := rfl
@[simp] theorem State.modFunc_power (s : State) (f : Nat) (g : Func → Func) : (s.modFunc f g).power = s.power := rfl
@[simp] theorem State.modFunc_dbgSel (s : State) (f : Nat) (g : Func → Func) : (s.modFunc f g).dbgSel = s.dbgSel := rfl
@[simp] theorem State.modFunc_dbgData (s : State) (f : Nat) (g : Func → Func) : (s.modFunc f g).dbgData = s.dbgData := rfl
@[simp] theorem State.modFunc_hwSet (s : State) (f : Nat) (g : Func → Func) : (s.modFunc f g).hwSet = s.hwSet := rfl
@[simp] theorem State.modFunc_hwAt (s : State) (f : Nat) (g : Func → Func) : (s.modFunc f g).hwAt = s.hwAt := rfl
@[simp] theorem State.modFunc_freeCtr (s : State) (f : Nat) (g : Func → Func) : (s.modFunc f g).freeCtr = s.freeCtr := rfl
@[simp] theorem State.thr_at_modFunc (s : State) (f : Nat) (g : Func → Func) (i : Nat) : (s.modFunc f g).thr i = s.thr i := rfl
@[simp] theorem State.core_at_modFunc (s : State) (f : Nat) (g : Func → Func) (i : Nat) : (s.modFunc f g).core i = s.core i := rfl
@[simp] theorem State.con_at_modFunc (s : State) (f : Nat) (g : Func → Func) (i : Nat) : (s.modFunc f g).con i = s.con i := rfl
@[simp] theorem State.stack_at_modFunc (s : State) (f : Nat) (g : Func → Func) (i : Nat) : (s.modFunc f g).stack i = s.stack i := rfl
@[simp] theorem State.die_at_modFunc (s : State) (f : Nat) (g : Func → Func) (i : Nat) : (s.modFunc f g).die i = s.die i := rfl
@[simp] theorem State.port_at_modFunc (s : State) (f : Nat) (g : Func → Func) (i : Nat) : (s.modFunc f g).port i = s.port i := rfl
@[simp] theorem State.bond_at_modFunc (s : State) (f : Nat) (g : Func → Func) (i : Nat) : (s.modFunc f g).bond i = s.bond i := rfl
@[simp] theorem State.eng_at_modFunc (s : State) (f : Nat) (g : Func → Func) (i : Nat) : (s.modFunc f g).eng i = s.eng i := rfl
@[simp] theorem State.barrier_at_modFunc (s : State) (f : Nat) (g : Func → Func) (i : Nat) : (s.modFunc f g).barrier i = s.barrier i := rfl
@[simp] theorem State.inb_at_modFunc (s : State) (f : Nat) (g : Func → Func) (i : Nat) : (s.modFunc f g).inb i = s.inb i := rfl
@[simp] theorem State.outb_at_modFunc (s : State) (f : Nat) (g : Func → Func) (i : Nat) : (s.modFunc f g).outb i = s.outb i := rfl
@[simp] theorem State.slot_at_modFunc (s : State) (f : Nat) (g : Func → Func) (i : Nat) : (s.modFunc f g).slot i = s.slot i := rfl
@[simp] theorem State.area_at_modFunc (s : State) (f : Nat) (g : Func → Func) (i : Nat) : (s.modFunc f g).area i = s.area i := rfl

/-! ## State.modPort -/

@[simp] theorem State.modPort_pending (s : State) (p : Nat) (f : MPort → MPort) : (s.modPort p f).pending = s.pending := rfl
@[simp] theorem State.modPort_member (s : State) (p : Nat) (f : MPort → MPort) : (s.modPort p f).member = s.member := rfl
@[simp] theorem State.modPort_clk (s : State) (p : Nat) (f : MPort → MPort) : (s.modPort p f).clk = s.clk := rfl
@[simp] theorem State.modPort_chart (s : State) (p : Nat) (f : MPort → MPort) : (s.modPort p f).chart = s.chart := rfl
@[simp] theorem State.modPort_cons (s : State) (p : Nat) (f : MPort → MPort) : (s.modPort p f).cons = s.cons := rfl
@[simp] theorem State.modPort_cores (s : State) (p : Nat) (f : MPort → MPort) : (s.modPort p f).cores = s.cores := rfl
@[simp] theorem State.modPort_threads (s : State) (p : Nat) (f : MPort → MPort) : (s.modPort p f).threads = s.threads := rfl
@[simp] theorem State.modPort_ls (s : State) (p : Nat) (f : MPort → MPort) : (s.modPort p f).ls = s.ls := rfl
@[simp] theorem State.modPort_lsTag (s : State) (p : Nat) (f : MPort → MPort) : (s.modPort p f).lsTag = s.lsTag := rfl
@[simp] theorem State.modPort_lsSlot (s : State) (p : Nat) (f : MPort → MPort) : (s.modPort p f).lsSlot = s.lsSlot := rfl
@[simp] theorem State.modPort_lsBad (s : State) (p : Nat) (f : MPort → MPort) : (s.modPort p f).lsBad = s.lsBad := rfl
@[simp] theorem State.modPort_mem (s : State) (p : Nat) (f : MPort → MPort) : (s.modPort p f).mem = s.mem := rfl
@[simp] theorem State.modPort_memTag (s : State) (p : Nat) (f : MPort → MPort) : (s.modPort p f).memTag = s.memTag := rfl
@[simp] theorem State.modPort_memBad (s : State) (p : Nat) (f : MPort → MPort) : (s.modPort p f).memBad = s.memBad := rfl
@[simp] theorem State.modPort_stks (s : State) (p : Nat) (f : MPort → MPort) : (s.modPort p f).stks = s.stks := rfl
@[simp] theorem State.modPort_inbox (s : State) (p : Nat) (f : MPort → MPort) : (s.modPort p f).inbox = s.inbox := rfl
@[simp] theorem State.modPort_outbox (s : State) (p : Nat) (f : MPort → MPort) : (s.modPort p f).outbox = s.outbox := rfl
@[simp] theorem State.modPort_flits (s : State) (p : Nat) (f : MPort → MPort) : (s.modPort p f).flits = s.flits := rfl
@[simp] theorem State.modPort_injAt (s : State) (p : Nat) (f : MPort → MPort) : (s.modPort p f).injAt = s.injAt := rfl
@[simp] theorem State.modPort_failed (s : State) (p : Nat) (f : MPort → MPort) : (s.modPort p f).failed = s.failed := rfl
@[simp] theorem State.modPort_dies (s : State) (p : Nat) (f : MPort → MPort) : (s.modPort p f).dies = s.dies := rfl
@[simp] theorem State.modPort_dcFoe (s : State) (p : Nat) (f : MPort → MPort) : (s.modPort p f).dcFoe = s.dcFoe := rfl
@[simp] theorem State.modPort_lantern (s : State) (p : Nat) (f : MPort → MPort) : (s.modPort p f).lantern = s.lantern := rfl
@[simp] theorem State.modPort_barriers (s : State) (p : Nat) (f : MPort → MPort) : (s.modPort p f).barriers = s.barriers := rfl
@[simp] theorem State.modPort_replicas (s : State) (p : Nat) (f : MPort → MPort) : (s.modPort p f).replicas = s.replicas := rfl
@[simp] theorem State.modPort_beacon (s : State) (p : Nat) (f : MPort → MPort) : (s.modPort p f).beacon = s.beacon := rfl
@[simp] theorem State.modPort_lastBeacon (s : State) (p : Nat) (f : MPort → MPort) : (s.modPort p f).lastBeacon = s.lastBeacon := rfl
@[simp] theorem State.modPort_funcs (s : State) (p : Nat) (f : MPort → MPort) : (s.modPort p f).funcs = s.funcs := rfl
@[simp] theorem State.modPort_host (s : State) (p : Nat) (f : MPort → MPort) : (s.modPort p f).host = s.host := rfl
@[simp] theorem State.modPort_bonds (s : State) (p : Nat) (f : MPort → MPort) : (s.modPort p f).bonds = s.bonds := rfl
@[simp] theorem State.modPort_digSent (s : State) (p : Nat) (f : MPort → MPort) : (s.modPort p f).digSent = s.digSent := rfl
@[simp] theorem State.modPort_digRecv (s : State) (p : Nat) (f : MPort → MPort) : (s.modPort p f).digRecv = s.digRecv := rfl
@[simp] theorem State.modPort_digSnapSent (s : State) (p : Nat) (f : MPort → MPort) : (s.modPort p f).digSnapSent = s.digSnapSent := rfl
@[simp] theorem State.modPort_digSnapRecv (s : State) (p : Nat) (f : MPort → MPort) : (s.modPort p f).digSnapRecv = s.digSnapRecv := rfl
@[simp] theorem State.modPort_tally (s : State) (p : Nat) (f : MPort → MPort) : (s.modPort p f).tally = s.tally := rfl
@[simp] theorem State.modPort_trust (s : State) (p : Nat) (f : MPort → MPort) : (s.modPort p f).trust = s.trust := rfl
@[simp] theorem State.modPort_keeper (s : State) (p : Nat) (f : MPort → MPort) : (s.modPort p f).keeper = s.keeper := rfl
@[simp] theorem State.modPort_ageing (s : State) (p : Nat) (f : MPort → MPort) : (s.modPort p f).ageing = s.ageing := rfl
@[simp] theorem State.modPort_power (s : State) (p : Nat) (f : MPort → MPort) : (s.modPort p f).power = s.power := rfl
@[simp] theorem State.modPort_dbgSel (s : State) (p : Nat) (f : MPort → MPort) : (s.modPort p f).dbgSel = s.dbgSel := rfl
@[simp] theorem State.modPort_dbgData (s : State) (p : Nat) (f : MPort → MPort) : (s.modPort p f).dbgData = s.dbgData := rfl
@[simp] theorem State.modPort_hwSet (s : State) (p : Nat) (f : MPort → MPort) : (s.modPort p f).hwSet = s.hwSet := rfl
@[simp] theorem State.modPort_hwAt (s : State) (p : Nat) (f : MPort → MPort) : (s.modPort p f).hwAt = s.hwAt := rfl
@[simp] theorem State.modPort_freeCtr (s : State) (p : Nat) (f : MPort → MPort) : (s.modPort p f).freeCtr = s.freeCtr := rfl
@[simp] theorem State.thr_at_modPort (s : State) (p : Nat) (f : MPort → MPort) (i : Nat) : (s.modPort p f).thr i = s.thr i := rfl
@[simp] theorem State.core_at_modPort (s : State) (p : Nat) (f : MPort → MPort) (i : Nat) : (s.modPort p f).core i = s.core i := rfl
@[simp] theorem State.con_at_modPort (s : State) (p : Nat) (f : MPort → MPort) (i : Nat) : (s.modPort p f).con i = s.con i := rfl
@[simp] theorem State.stack_at_modPort (s : State) (p : Nat) (f : MPort → MPort) (i : Nat) : (s.modPort p f).stack i = s.stack i := rfl
@[simp] theorem State.die_at_modPort (s : State) (p : Nat) (f : MPort → MPort) (i : Nat) : (s.modPort p f).die i = s.die i := rfl
@[simp] theorem State.func_at_modPort (s : State) (p : Nat) (f : MPort → MPort) (i : Nat) : (s.modPort p f).func i = s.func i := rfl
@[simp] theorem State.bond_at_modPort (s : State) (p : Nat) (f : MPort → MPort) (i : Nat) : (s.modPort p f).bond i = s.bond i := rfl
@[simp] theorem State.eng_at_modPort (s : State) (p : Nat) (f : MPort → MPort) (i : Nat) : (s.modPort p f).eng i = s.eng i := rfl
@[simp] theorem State.barrier_at_modPort (s : State) (p : Nat) (f : MPort → MPort) (i : Nat) : (s.modPort p f).barrier i = s.barrier i := rfl
@[simp] theorem State.inb_at_modPort (s : State) (p : Nat) (f : MPort → MPort) (i : Nat) : (s.modPort p f).inb i = s.inb i := rfl
@[simp] theorem State.outb_at_modPort (s : State) (p : Nat) (f : MPort → MPort) (i : Nat) : (s.modPort p f).outb i = s.outb i := rfl
@[simp] theorem State.slot_at_modPort (s : State) (p : Nat) (f : MPort → MPort) (i : Nat) : (s.modPort p f).slot i = s.slot i := rfl
@[simp] theorem State.area_at_modPort (s : State) (p : Nat) (f : MPort → MPort) (i : Nat) : (s.modPort p f).area i = s.area i := rfl

/-! ## State.modBond -/

@[simp] theorem State.modBond_pending (s : State) (p : Nat) (f : Bond → Bond) : (s.modBond p f).pending = s.pending := rfl
@[simp] theorem State.modBond_member (s : State) (p : Nat) (f : Bond → Bond) : (s.modBond p f).member = s.member := rfl
@[simp] theorem State.modBond_clk (s : State) (p : Nat) (f : Bond → Bond) : (s.modBond p f).clk = s.clk := rfl
@[simp] theorem State.modBond_chart (s : State) (p : Nat) (f : Bond → Bond) : (s.modBond p f).chart = s.chart := rfl
@[simp] theorem State.modBond_cons (s : State) (p : Nat) (f : Bond → Bond) : (s.modBond p f).cons = s.cons := rfl
@[simp] theorem State.modBond_cores (s : State) (p : Nat) (f : Bond → Bond) : (s.modBond p f).cores = s.cores := rfl
@[simp] theorem State.modBond_threads (s : State) (p : Nat) (f : Bond → Bond) : (s.modBond p f).threads = s.threads := rfl
@[simp] theorem State.modBond_ls (s : State) (p : Nat) (f : Bond → Bond) : (s.modBond p f).ls = s.ls := rfl
@[simp] theorem State.modBond_lsTag (s : State) (p : Nat) (f : Bond → Bond) : (s.modBond p f).lsTag = s.lsTag := rfl
@[simp] theorem State.modBond_lsSlot (s : State) (p : Nat) (f : Bond → Bond) : (s.modBond p f).lsSlot = s.lsSlot := rfl
@[simp] theorem State.modBond_lsBad (s : State) (p : Nat) (f : Bond → Bond) : (s.modBond p f).lsBad = s.lsBad := rfl
@[simp] theorem State.modBond_mem (s : State) (p : Nat) (f : Bond → Bond) : (s.modBond p f).mem = s.mem := rfl
@[simp] theorem State.modBond_memTag (s : State) (p : Nat) (f : Bond → Bond) : (s.modBond p f).memTag = s.memTag := rfl
@[simp] theorem State.modBond_memBad (s : State) (p : Nat) (f : Bond → Bond) : (s.modBond p f).memBad = s.memBad := rfl
@[simp] theorem State.modBond_stks (s : State) (p : Nat) (f : Bond → Bond) : (s.modBond p f).stks = s.stks := rfl
@[simp] theorem State.modBond_inbox (s : State) (p : Nat) (f : Bond → Bond) : (s.modBond p f).inbox = s.inbox := rfl
@[simp] theorem State.modBond_outbox (s : State) (p : Nat) (f : Bond → Bond) : (s.modBond p f).outbox = s.outbox := rfl
@[simp] theorem State.modBond_flits (s : State) (p : Nat) (f : Bond → Bond) : (s.modBond p f).flits = s.flits := rfl
@[simp] theorem State.modBond_injAt (s : State) (p : Nat) (f : Bond → Bond) : (s.modBond p f).injAt = s.injAt := rfl
@[simp] theorem State.modBond_failed (s : State) (p : Nat) (f : Bond → Bond) : (s.modBond p f).failed = s.failed := rfl
@[simp] theorem State.modBond_dies (s : State) (p : Nat) (f : Bond → Bond) : (s.modBond p f).dies = s.dies := rfl
@[simp] theorem State.modBond_dcFoe (s : State) (p : Nat) (f : Bond → Bond) : (s.modBond p f).dcFoe = s.dcFoe := rfl
@[simp] theorem State.modBond_lantern (s : State) (p : Nat) (f : Bond → Bond) : (s.modBond p f).lantern = s.lantern := rfl
@[simp] theorem State.modBond_barriers (s : State) (p : Nat) (f : Bond → Bond) : (s.modBond p f).barriers = s.barriers := rfl
@[simp] theorem State.modBond_replicas (s : State) (p : Nat) (f : Bond → Bond) : (s.modBond p f).replicas = s.replicas := rfl
@[simp] theorem State.modBond_beacon (s : State) (p : Nat) (f : Bond → Bond) : (s.modBond p f).beacon = s.beacon := rfl
@[simp] theorem State.modBond_lastBeacon (s : State) (p : Nat) (f : Bond → Bond) : (s.modBond p f).lastBeacon = s.lastBeacon := rfl
@[simp] theorem State.modBond_funcs (s : State) (p : Nat) (f : Bond → Bond) : (s.modBond p f).funcs = s.funcs := rfl
@[simp] theorem State.modBond_host (s : State) (p : Nat) (f : Bond → Bond) : (s.modBond p f).host = s.host := rfl
@[simp] theorem State.modBond_ports (s : State) (p : Nat) (f : Bond → Bond) : (s.modBond p f).ports = s.ports := rfl
@[simp] theorem State.modBond_digSent (s : State) (p : Nat) (f : Bond → Bond) : (s.modBond p f).digSent = s.digSent := rfl
@[simp] theorem State.modBond_digRecv (s : State) (p : Nat) (f : Bond → Bond) : (s.modBond p f).digRecv = s.digRecv := rfl
@[simp] theorem State.modBond_digSnapSent (s : State) (p : Nat) (f : Bond → Bond) : (s.modBond p f).digSnapSent = s.digSnapSent := rfl
@[simp] theorem State.modBond_digSnapRecv (s : State) (p : Nat) (f : Bond → Bond) : (s.modBond p f).digSnapRecv = s.digSnapRecv := rfl
@[simp] theorem State.modBond_tally (s : State) (p : Nat) (f : Bond → Bond) : (s.modBond p f).tally = s.tally := rfl
@[simp] theorem State.modBond_trust (s : State) (p : Nat) (f : Bond → Bond) : (s.modBond p f).trust = s.trust := rfl
@[simp] theorem State.modBond_keeper (s : State) (p : Nat) (f : Bond → Bond) : (s.modBond p f).keeper = s.keeper := rfl
@[simp] theorem State.modBond_ageing (s : State) (p : Nat) (f : Bond → Bond) : (s.modBond p f).ageing = s.ageing := rfl
@[simp] theorem State.modBond_power (s : State) (p : Nat) (f : Bond → Bond) : (s.modBond p f).power = s.power := rfl
@[simp] theorem State.modBond_dbgSel (s : State) (p : Nat) (f : Bond → Bond) : (s.modBond p f).dbgSel = s.dbgSel := rfl
@[simp] theorem State.modBond_dbgData (s : State) (p : Nat) (f : Bond → Bond) : (s.modBond p f).dbgData = s.dbgData := rfl
@[simp] theorem State.modBond_hwSet (s : State) (p : Nat) (f : Bond → Bond) : (s.modBond p f).hwSet = s.hwSet := rfl
@[simp] theorem State.modBond_hwAt (s : State) (p : Nat) (f : Bond → Bond) : (s.modBond p f).hwAt = s.hwAt := rfl
@[simp] theorem State.modBond_freeCtr (s : State) (p : Nat) (f : Bond → Bond) : (s.modBond p f).freeCtr = s.freeCtr := rfl
@[simp] theorem State.thr_at_modBond (s : State) (p : Nat) (f : Bond → Bond) (i : Nat) : (s.modBond p f).thr i = s.thr i := rfl
@[simp] theorem State.core_at_modBond (s : State) (p : Nat) (f : Bond → Bond) (i : Nat) : (s.modBond p f).core i = s.core i := rfl
@[simp] theorem State.con_at_modBond (s : State) (p : Nat) (f : Bond → Bond) (i : Nat) : (s.modBond p f).con i = s.con i := rfl
@[simp] theorem State.stack_at_modBond (s : State) (p : Nat) (f : Bond → Bond) (i : Nat) : (s.modBond p f).stack i = s.stack i := rfl
@[simp] theorem State.die_at_modBond (s : State) (p : Nat) (f : Bond → Bond) (i : Nat) : (s.modBond p f).die i = s.die i := rfl
@[simp] theorem State.func_at_modBond (s : State) (p : Nat) (f : Bond → Bond) (i : Nat) : (s.modBond p f).func i = s.func i := rfl
@[simp] theorem State.port_at_modBond (s : State) (p : Nat) (f : Bond → Bond) (i : Nat) : (s.modBond p f).port i = s.port i := rfl
@[simp] theorem State.eng_at_modBond (s : State) (p : Nat) (f : Bond → Bond) (i : Nat) : (s.modBond p f).eng i = s.eng i := rfl
@[simp] theorem State.barrier_at_modBond (s : State) (p : Nat) (f : Bond → Bond) (i : Nat) : (s.modBond p f).barrier i = s.barrier i := rfl
@[simp] theorem State.inb_at_modBond (s : State) (p : Nat) (f : Bond → Bond) (i : Nat) : (s.modBond p f).inb i = s.inb i := rfl
@[simp] theorem State.outb_at_modBond (s : State) (p : Nat) (f : Bond → Bond) (i : Nat) : (s.modBond p f).outb i = s.outb i := rfl
@[simp] theorem State.slot_at_modBond (s : State) (p : Nat) (f : Bond → Bond) (i : Nat) : (s.modBond p f).slot i = s.slot i := rfl
@[simp] theorem State.area_at_modBond (s : State) (p : Nat) (f : Bond → Bond) (i : Nat) : (s.modBond p f).area i = s.area i := rfl

/-! ## State.modEng -/

@[simp] theorem State.modEng_pending (s : State) (d : Nat) (f : TEngine → TEngine) : (s.modEng d f).pending = s.pending := rfl
@[simp] theorem State.modEng_member (s : State) (d : Nat) (f : TEngine → TEngine) : (s.modEng d f).member = s.member := rfl
@[simp] theorem State.modEng_clk (s : State) (d : Nat) (f : TEngine → TEngine) : (s.modEng d f).clk = s.clk := rfl
@[simp] theorem State.modEng_chart (s : State) (d : Nat) (f : TEngine → TEngine) : (s.modEng d f).chart = s.chart := rfl
@[simp] theorem State.modEng_cons (s : State) (d : Nat) (f : TEngine → TEngine) : (s.modEng d f).cons = s.cons := rfl
@[simp] theorem State.modEng_cores (s : State) (d : Nat) (f : TEngine → TEngine) : (s.modEng d f).cores = s.cores := rfl
@[simp] theorem State.modEng_threads (s : State) (d : Nat) (f : TEngine → TEngine) : (s.modEng d f).threads = s.threads := rfl
@[simp] theorem State.modEng_ls (s : State) (d : Nat) (f : TEngine → TEngine) : (s.modEng d f).ls = s.ls := rfl
@[simp] theorem State.modEng_lsTag (s : State) (d : Nat) (f : TEngine → TEngine) : (s.modEng d f).lsTag = s.lsTag := rfl
@[simp] theorem State.modEng_lsSlot (s : State) (d : Nat) (f : TEngine → TEngine) : (s.modEng d f).lsSlot = s.lsSlot := rfl
@[simp] theorem State.modEng_lsBad (s : State) (d : Nat) (f : TEngine → TEngine) : (s.modEng d f).lsBad = s.lsBad := rfl
@[simp] theorem State.modEng_mem (s : State) (d : Nat) (f : TEngine → TEngine) : (s.modEng d f).mem = s.mem := rfl
@[simp] theorem State.modEng_memTag (s : State) (d : Nat) (f : TEngine → TEngine) : (s.modEng d f).memTag = s.memTag := rfl
@[simp] theorem State.modEng_memBad (s : State) (d : Nat) (f : TEngine → TEngine) : (s.modEng d f).memBad = s.memBad := rfl
@[simp] theorem State.modEng_stks (s : State) (d : Nat) (f : TEngine → TEngine) : (s.modEng d f).stks = s.stks := rfl
@[simp] theorem State.modEng_inbox (s : State) (d : Nat) (f : TEngine → TEngine) : (s.modEng d f).inbox = s.inbox := rfl
@[simp] theorem State.modEng_outbox (s : State) (d : Nat) (f : TEngine → TEngine) : (s.modEng d f).outbox = s.outbox := rfl
@[simp] theorem State.modEng_flits (s : State) (d : Nat) (f : TEngine → TEngine) : (s.modEng d f).flits = s.flits := rfl
@[simp] theorem State.modEng_injAt (s : State) (d : Nat) (f : TEngine → TEngine) : (s.modEng d f).injAt = s.injAt := rfl
@[simp] theorem State.modEng_failed (s : State) (d : Nat) (f : TEngine → TEngine) : (s.modEng d f).failed = s.failed := rfl
@[simp] theorem State.modEng_dies (s : State) (d : Nat) (f : TEngine → TEngine) : (s.modEng d f).dies = s.dies := rfl
@[simp] theorem State.modEng_dcFoe (s : State) (d : Nat) (f : TEngine → TEngine) : (s.modEng d f).dcFoe = s.dcFoe := rfl
@[simp] theorem State.modEng_lantern (s : State) (d : Nat) (f : TEngine → TEngine) : (s.modEng d f).lantern = s.lantern := rfl
@[simp] theorem State.modEng_barriers (s : State) (d : Nat) (f : TEngine → TEngine) : (s.modEng d f).barriers = s.barriers := rfl
@[simp] theorem State.modEng_replicas (s : State) (d : Nat) (f : TEngine → TEngine) : (s.modEng d f).replicas = s.replicas := rfl
@[simp] theorem State.modEng_beacon (s : State) (d : Nat) (f : TEngine → TEngine) : (s.modEng d f).beacon = s.beacon := rfl
@[simp] theorem State.modEng_lastBeacon (s : State) (d : Nat) (f : TEngine → TEngine) : (s.modEng d f).lastBeacon = s.lastBeacon := rfl
@[simp] theorem State.modEng_funcs (s : State) (d : Nat) (f : TEngine → TEngine) : (s.modEng d f).funcs = s.funcs := rfl
@[simp] theorem State.modEng_host (s : State) (d : Nat) (f : TEngine → TEngine) : (s.modEng d f).host = s.host := rfl
@[simp] theorem State.modEng_ports (s : State) (d : Nat) (f : TEngine → TEngine) : (s.modEng d f).ports = s.ports := rfl
@[simp] theorem State.modEng_bonds (s : State) (d : Nat) (f : TEngine → TEngine) : (s.modEng d f).bonds = s.bonds := rfl
@[simp] theorem State.modEng_digSent (s : State) (d : Nat) (f : TEngine → TEngine) : (s.modEng d f).digSent = s.digSent := rfl
@[simp] theorem State.modEng_digRecv (s : State) (d : Nat) (f : TEngine → TEngine) : (s.modEng d f).digRecv = s.digRecv := rfl
@[simp] theorem State.modEng_digSnapSent (s : State) (d : Nat) (f : TEngine → TEngine) : (s.modEng d f).digSnapSent = s.digSnapSent := rfl
@[simp] theorem State.modEng_digSnapRecv (s : State) (d : Nat) (f : TEngine → TEngine) : (s.modEng d f).digSnapRecv = s.digSnapRecv := rfl
@[simp] theorem State.modEng_trust (s : State) (d : Nat) (f : TEngine → TEngine) : (s.modEng d f).trust = s.trust := rfl
@[simp] theorem State.modEng_keeper (s : State) (d : Nat) (f : TEngine → TEngine) : (s.modEng d f).keeper = s.keeper := rfl
@[simp] theorem State.modEng_ageing (s : State) (d : Nat) (f : TEngine → TEngine) : (s.modEng d f).ageing = s.ageing := rfl
@[simp] theorem State.modEng_power (s : State) (d : Nat) (f : TEngine → TEngine) : (s.modEng d f).power = s.power := rfl
@[simp] theorem State.modEng_dbgSel (s : State) (d : Nat) (f : TEngine → TEngine) : (s.modEng d f).dbgSel = s.dbgSel := rfl
@[simp] theorem State.modEng_dbgData (s : State) (d : Nat) (f : TEngine → TEngine) : (s.modEng d f).dbgData = s.dbgData := rfl
@[simp] theorem State.modEng_hwSet (s : State) (d : Nat) (f : TEngine → TEngine) : (s.modEng d f).hwSet = s.hwSet := rfl
@[simp] theorem State.modEng_hwAt (s : State) (d : Nat) (f : TEngine → TEngine) : (s.modEng d f).hwAt = s.hwAt := rfl
@[simp] theorem State.modEng_freeCtr (s : State) (d : Nat) (f : TEngine → TEngine) : (s.modEng d f).freeCtr = s.freeCtr := rfl
@[simp] theorem State.thr_at_modEng (s : State) (d : Nat) (f : TEngine → TEngine) (i : Nat) : (s.modEng d f).thr i = s.thr i := rfl
@[simp] theorem State.core_at_modEng (s : State) (d : Nat) (f : TEngine → TEngine) (i : Nat) : (s.modEng d f).core i = s.core i := rfl
@[simp] theorem State.con_at_modEng (s : State) (d : Nat) (f : TEngine → TEngine) (i : Nat) : (s.modEng d f).con i = s.con i := rfl
@[simp] theorem State.stack_at_modEng (s : State) (d : Nat) (f : TEngine → TEngine) (i : Nat) : (s.modEng d f).stack i = s.stack i := rfl
@[simp] theorem State.die_at_modEng (s : State) (d : Nat) (f : TEngine → TEngine) (i : Nat) : (s.modEng d f).die i = s.die i := rfl
@[simp] theorem State.func_at_modEng (s : State) (d : Nat) (f : TEngine → TEngine) (i : Nat) : (s.modEng d f).func i = s.func i := rfl
@[simp] theorem State.port_at_modEng (s : State) (d : Nat) (f : TEngine → TEngine) (i : Nat) : (s.modEng d f).port i = s.port i := rfl
@[simp] theorem State.bond_at_modEng (s : State) (d : Nat) (f : TEngine → TEngine) (i : Nat) : (s.modEng d f).bond i = s.bond i := rfl
@[simp] theorem State.barrier_at_modEng (s : State) (d : Nat) (f : TEngine → TEngine) (i : Nat) : (s.modEng d f).barrier i = s.barrier i := rfl
@[simp] theorem State.inb_at_modEng (s : State) (d : Nat) (f : TEngine → TEngine) (i : Nat) : (s.modEng d f).inb i = s.inb i := rfl
@[simp] theorem State.outb_at_modEng (s : State) (d : Nat) (f : TEngine → TEngine) (i : Nat) : (s.modEng d f).outb i = s.outb i := rfl
@[simp] theorem State.slot_at_modEng (s : State) (d : Nat) (f : TEngine → TEngine) (i : Nat) : (s.modEng d f).slot i = s.slot i := rfl
@[simp] theorem State.area_at_modEng (s : State) (d : Nat) (f : TEngine → TEngine) (i : Nat) : (s.modEng d f).area i = s.area i := rfl

/-! ## State.modBarrier -/

@[simp] theorem State.modBarrier_pending (s : State) (b : Nat) (f : Barrier → Barrier) : (s.modBarrier b f).pending = s.pending := rfl
@[simp] theorem State.modBarrier_member (s : State) (b : Nat) (f : Barrier → Barrier) : (s.modBarrier b f).member = s.member := rfl
@[simp] theorem State.modBarrier_clk (s : State) (b : Nat) (f : Barrier → Barrier) : (s.modBarrier b f).clk = s.clk := rfl
@[simp] theorem State.modBarrier_chart (s : State) (b : Nat) (f : Barrier → Barrier) : (s.modBarrier b f).chart = s.chart := rfl
@[simp] theorem State.modBarrier_cons (s : State) (b : Nat) (f : Barrier → Barrier) : (s.modBarrier b f).cons = s.cons := rfl
@[simp] theorem State.modBarrier_cores (s : State) (b : Nat) (f : Barrier → Barrier) : (s.modBarrier b f).cores = s.cores := rfl
@[simp] theorem State.modBarrier_threads (s : State) (b : Nat) (f : Barrier → Barrier) : (s.modBarrier b f).threads = s.threads := rfl
@[simp] theorem State.modBarrier_ls (s : State) (b : Nat) (f : Barrier → Barrier) : (s.modBarrier b f).ls = s.ls := rfl
@[simp] theorem State.modBarrier_lsTag (s : State) (b : Nat) (f : Barrier → Barrier) : (s.modBarrier b f).lsTag = s.lsTag := rfl
@[simp] theorem State.modBarrier_lsSlot (s : State) (b : Nat) (f : Barrier → Barrier) : (s.modBarrier b f).lsSlot = s.lsSlot := rfl
@[simp] theorem State.modBarrier_lsBad (s : State) (b : Nat) (f : Barrier → Barrier) : (s.modBarrier b f).lsBad = s.lsBad := rfl
@[simp] theorem State.modBarrier_mem (s : State) (b : Nat) (f : Barrier → Barrier) : (s.modBarrier b f).mem = s.mem := rfl
@[simp] theorem State.modBarrier_memTag (s : State) (b : Nat) (f : Barrier → Barrier) : (s.modBarrier b f).memTag = s.memTag := rfl
@[simp] theorem State.modBarrier_memBad (s : State) (b : Nat) (f : Barrier → Barrier) : (s.modBarrier b f).memBad = s.memBad := rfl
@[simp] theorem State.modBarrier_stks (s : State) (b : Nat) (f : Barrier → Barrier) : (s.modBarrier b f).stks = s.stks := rfl
@[simp] theorem State.modBarrier_inbox (s : State) (b : Nat) (f : Barrier → Barrier) : (s.modBarrier b f).inbox = s.inbox := rfl
@[simp] theorem State.modBarrier_outbox (s : State) (b : Nat) (f : Barrier → Barrier) : (s.modBarrier b f).outbox = s.outbox := rfl
@[simp] theorem State.modBarrier_flits (s : State) (b : Nat) (f : Barrier → Barrier) : (s.modBarrier b f).flits = s.flits := rfl
@[simp] theorem State.modBarrier_injAt (s : State) (b : Nat) (f : Barrier → Barrier) : (s.modBarrier b f).injAt = s.injAt := rfl
@[simp] theorem State.modBarrier_failed (s : State) (b : Nat) (f : Barrier → Barrier) : (s.modBarrier b f).failed = s.failed := rfl
@[simp] theorem State.modBarrier_dies (s : State) (b : Nat) (f : Barrier → Barrier) : (s.modBarrier b f).dies = s.dies := rfl
@[simp] theorem State.modBarrier_dcFoe (s : State) (b : Nat) (f : Barrier → Barrier) : (s.modBarrier b f).dcFoe = s.dcFoe := rfl
@[simp] theorem State.modBarrier_lantern (s : State) (b : Nat) (f : Barrier → Barrier) : (s.modBarrier b f).lantern = s.lantern := rfl
@[simp] theorem State.modBarrier_replicas (s : State) (b : Nat) (f : Barrier → Barrier) : (s.modBarrier b f).replicas = s.replicas := rfl
@[simp] theorem State.modBarrier_beacon (s : State) (b : Nat) (f : Barrier → Barrier) : (s.modBarrier b f).beacon = s.beacon := rfl
@[simp] theorem State.modBarrier_lastBeacon (s : State) (b : Nat) (f : Barrier → Barrier) : (s.modBarrier b f).lastBeacon = s.lastBeacon := rfl
@[simp] theorem State.modBarrier_funcs (s : State) (b : Nat) (f : Barrier → Barrier) : (s.modBarrier b f).funcs = s.funcs := rfl
@[simp] theorem State.modBarrier_host (s : State) (b : Nat) (f : Barrier → Barrier) : (s.modBarrier b f).host = s.host := rfl
@[simp] theorem State.modBarrier_ports (s : State) (b : Nat) (f : Barrier → Barrier) : (s.modBarrier b f).ports = s.ports := rfl
@[simp] theorem State.modBarrier_bonds (s : State) (b : Nat) (f : Barrier → Barrier) : (s.modBarrier b f).bonds = s.bonds := rfl
@[simp] theorem State.modBarrier_digSent (s : State) (b : Nat) (f : Barrier → Barrier) : (s.modBarrier b f).digSent = s.digSent := rfl
@[simp] theorem State.modBarrier_digRecv (s : State) (b : Nat) (f : Barrier → Barrier) : (s.modBarrier b f).digRecv = s.digRecv := rfl
@[simp] theorem State.modBarrier_digSnapSent (s : State) (b : Nat) (f : Barrier → Barrier) : (s.modBarrier b f).digSnapSent = s.digSnapSent := rfl
@[simp] theorem State.modBarrier_digSnapRecv (s : State) (b : Nat) (f : Barrier → Barrier) : (s.modBarrier b f).digSnapRecv = s.digSnapRecv := rfl
@[simp] theorem State.modBarrier_tally (s : State) (b : Nat) (f : Barrier → Barrier) : (s.modBarrier b f).tally = s.tally := rfl
@[simp] theorem State.modBarrier_trust (s : State) (b : Nat) (f : Barrier → Barrier) : (s.modBarrier b f).trust = s.trust := rfl
@[simp] theorem State.modBarrier_keeper (s : State) (b : Nat) (f : Barrier → Barrier) : (s.modBarrier b f).keeper = s.keeper := rfl
@[simp] theorem State.modBarrier_ageing (s : State) (b : Nat) (f : Barrier → Barrier) : (s.modBarrier b f).ageing = s.ageing := rfl
@[simp] theorem State.modBarrier_power (s : State) (b : Nat) (f : Barrier → Barrier) : (s.modBarrier b f).power = s.power := rfl
@[simp] theorem State.modBarrier_dbgSel (s : State) (b : Nat) (f : Barrier → Barrier) : (s.modBarrier b f).dbgSel = s.dbgSel := rfl
@[simp] theorem State.modBarrier_dbgData (s : State) (b : Nat) (f : Barrier → Barrier) : (s.modBarrier b f).dbgData = s.dbgData := rfl
@[simp] theorem State.modBarrier_hwSet (s : State) (b : Nat) (f : Barrier → Barrier) : (s.modBarrier b f).hwSet = s.hwSet := rfl
@[simp] theorem State.modBarrier_hwAt (s : State) (b : Nat) (f : Barrier → Barrier) : (s.modBarrier b f).hwAt = s.hwAt := rfl
@[simp] theorem State.modBarrier_freeCtr (s : State) (b : Nat) (f : Barrier → Barrier) : (s.modBarrier b f).freeCtr = s.freeCtr := rfl
@[simp] theorem State.thr_at_modBarrier (s : State) (b : Nat) (f : Barrier → Barrier) (i : Nat) : (s.modBarrier b f).thr i = s.thr i := rfl
@[simp] theorem State.core_at_modBarrier (s : State) (b : Nat) (f : Barrier → Barrier) (i : Nat) : (s.modBarrier b f).core i = s.core i := rfl
@[simp] theorem State.con_at_modBarrier (s : State) (b : Nat) (f : Barrier → Barrier) (i : Nat) : (s.modBarrier b f).con i = s.con i := rfl
@[simp] theorem State.stack_at_modBarrier (s : State) (b : Nat) (f : Barrier → Barrier) (i : Nat) : (s.modBarrier b f).stack i = s.stack i := rfl
@[simp] theorem State.die_at_modBarrier (s : State) (b : Nat) (f : Barrier → Barrier) (i : Nat) : (s.modBarrier b f).die i = s.die i := rfl
@[simp] theorem State.func_at_modBarrier (s : State) (b : Nat) (f : Barrier → Barrier) (i : Nat) : (s.modBarrier b f).func i = s.func i := rfl
@[simp] theorem State.port_at_modBarrier (s : State) (b : Nat) (f : Barrier → Barrier) (i : Nat) : (s.modBarrier b f).port i = s.port i := rfl
@[simp] theorem State.bond_at_modBarrier (s : State) (b : Nat) (f : Barrier → Barrier) (i : Nat) : (s.modBarrier b f).bond i = s.bond i := rfl
@[simp] theorem State.eng_at_modBarrier (s : State) (b : Nat) (f : Barrier → Barrier) (i : Nat) : (s.modBarrier b f).eng i = s.eng i := rfl
@[simp] theorem State.inb_at_modBarrier (s : State) (b : Nat) (f : Barrier → Barrier) (i : Nat) : (s.modBarrier b f).inb i = s.inb i := rfl
@[simp] theorem State.outb_at_modBarrier (s : State) (b : Nat) (f : Barrier → Barrier) (i : Nat) : (s.modBarrier b f).outb i = s.outb i := rfl
@[simp] theorem State.slot_at_modBarrier (s : State) (b : Nat) (f : Barrier → Barrier) (i : Nat) : (s.modBarrier b f).slot i = s.slot i := rfl
@[simp] theorem State.area_at_modBarrier (s : State) (b : Nat) (f : Barrier → Barrier) (i : Nat) : (s.modBarrier b f).area i = s.area i := rfl

/-! ## State.setInb -/

@[simp] theorem State.setInb_pending (s : State) (n : Nat) (l : List Packet) : (s.setInb n l).pending = s.pending := rfl
@[simp] theorem State.setInb_member (s : State) (n : Nat) (l : List Packet) : (s.setInb n l).member = s.member := rfl
@[simp] theorem State.setInb_clk (s : State) (n : Nat) (l : List Packet) : (s.setInb n l).clk = s.clk := rfl
@[simp] theorem State.setInb_chart (s : State) (n : Nat) (l : List Packet) : (s.setInb n l).chart = s.chart := rfl
@[simp] theorem State.setInb_cons (s : State) (n : Nat) (l : List Packet) : (s.setInb n l).cons = s.cons := rfl
@[simp] theorem State.setInb_cores (s : State) (n : Nat) (l : List Packet) : (s.setInb n l).cores = s.cores := rfl
@[simp] theorem State.setInb_threads (s : State) (n : Nat) (l : List Packet) : (s.setInb n l).threads = s.threads := rfl
@[simp] theorem State.setInb_ls (s : State) (n : Nat) (l : List Packet) : (s.setInb n l).ls = s.ls := rfl
@[simp] theorem State.setInb_lsTag (s : State) (n : Nat) (l : List Packet) : (s.setInb n l).lsTag = s.lsTag := rfl
@[simp] theorem State.setInb_lsSlot (s : State) (n : Nat) (l : List Packet) : (s.setInb n l).lsSlot = s.lsSlot := rfl
@[simp] theorem State.setInb_lsBad (s : State) (n : Nat) (l : List Packet) : (s.setInb n l).lsBad = s.lsBad := rfl
@[simp] theorem State.setInb_mem (s : State) (n : Nat) (l : List Packet) : (s.setInb n l).mem = s.mem := rfl
@[simp] theorem State.setInb_memTag (s : State) (n : Nat) (l : List Packet) : (s.setInb n l).memTag = s.memTag := rfl
@[simp] theorem State.setInb_memBad (s : State) (n : Nat) (l : List Packet) : (s.setInb n l).memBad = s.memBad := rfl
@[simp] theorem State.setInb_stks (s : State) (n : Nat) (l : List Packet) : (s.setInb n l).stks = s.stks := rfl
@[simp] theorem State.setInb_outbox (s : State) (n : Nat) (l : List Packet) : (s.setInb n l).outbox = s.outbox := rfl
@[simp] theorem State.setInb_flits (s : State) (n : Nat) (l : List Packet) : (s.setInb n l).flits = s.flits := rfl
@[simp] theorem State.setInb_injAt (s : State) (n : Nat) (l : List Packet) : (s.setInb n l).injAt = s.injAt := rfl
@[simp] theorem State.setInb_failed (s : State) (n : Nat) (l : List Packet) : (s.setInb n l).failed = s.failed := rfl
@[simp] theorem State.setInb_dies (s : State) (n : Nat) (l : List Packet) : (s.setInb n l).dies = s.dies := rfl
@[simp] theorem State.setInb_dcFoe (s : State) (n : Nat) (l : List Packet) : (s.setInb n l).dcFoe = s.dcFoe := rfl
@[simp] theorem State.setInb_lantern (s : State) (n : Nat) (l : List Packet) : (s.setInb n l).lantern = s.lantern := rfl
@[simp] theorem State.setInb_barriers (s : State) (n : Nat) (l : List Packet) : (s.setInb n l).barriers = s.barriers := rfl
@[simp] theorem State.setInb_replicas (s : State) (n : Nat) (l : List Packet) : (s.setInb n l).replicas = s.replicas := rfl
@[simp] theorem State.setInb_beacon (s : State) (n : Nat) (l : List Packet) : (s.setInb n l).beacon = s.beacon := rfl
@[simp] theorem State.setInb_lastBeacon (s : State) (n : Nat) (l : List Packet) : (s.setInb n l).lastBeacon = s.lastBeacon := rfl
@[simp] theorem State.setInb_funcs (s : State) (n : Nat) (l : List Packet) : (s.setInb n l).funcs = s.funcs := rfl
@[simp] theorem State.setInb_host (s : State) (n : Nat) (l : List Packet) : (s.setInb n l).host = s.host := rfl
@[simp] theorem State.setInb_ports (s : State) (n : Nat) (l : List Packet) : (s.setInb n l).ports = s.ports := rfl
@[simp] theorem State.setInb_bonds (s : State) (n : Nat) (l : List Packet) : (s.setInb n l).bonds = s.bonds := rfl
@[simp] theorem State.setInb_digSent (s : State) (n : Nat) (l : List Packet) : (s.setInb n l).digSent = s.digSent := rfl
@[simp] theorem State.setInb_digRecv (s : State) (n : Nat) (l : List Packet) : (s.setInb n l).digRecv = s.digRecv := rfl
@[simp] theorem State.setInb_digSnapSent (s : State) (n : Nat) (l : List Packet) : (s.setInb n l).digSnapSent = s.digSnapSent := rfl
@[simp] theorem State.setInb_digSnapRecv (s : State) (n : Nat) (l : List Packet) : (s.setInb n l).digSnapRecv = s.digSnapRecv := rfl
@[simp] theorem State.setInb_tally (s : State) (n : Nat) (l : List Packet) : (s.setInb n l).tally = s.tally := rfl
@[simp] theorem State.setInb_trust (s : State) (n : Nat) (l : List Packet) : (s.setInb n l).trust = s.trust := rfl
@[simp] theorem State.setInb_keeper (s : State) (n : Nat) (l : List Packet) : (s.setInb n l).keeper = s.keeper := rfl
@[simp] theorem State.setInb_ageing (s : State) (n : Nat) (l : List Packet) : (s.setInb n l).ageing = s.ageing := rfl
@[simp] theorem State.setInb_power (s : State) (n : Nat) (l : List Packet) : (s.setInb n l).power = s.power := rfl
@[simp] theorem State.setInb_dbgSel (s : State) (n : Nat) (l : List Packet) : (s.setInb n l).dbgSel = s.dbgSel := rfl
@[simp] theorem State.setInb_dbgData (s : State) (n : Nat) (l : List Packet) : (s.setInb n l).dbgData = s.dbgData := rfl
@[simp] theorem State.setInb_hwSet (s : State) (n : Nat) (l : List Packet) : (s.setInb n l).hwSet = s.hwSet := rfl
@[simp] theorem State.setInb_hwAt (s : State) (n : Nat) (l : List Packet) : (s.setInb n l).hwAt = s.hwAt := rfl
@[simp] theorem State.setInb_freeCtr (s : State) (n : Nat) (l : List Packet) : (s.setInb n l).freeCtr = s.freeCtr := rfl
@[simp] theorem State.thr_at_setInb (s : State) (n : Nat) (l : List Packet) (i : Nat) : (s.setInb n l).thr i = s.thr i := rfl
@[simp] theorem State.core_at_setInb (s : State) (n : Nat) (l : List Packet) (i : Nat) : (s.setInb n l).core i = s.core i := rfl
@[simp] theorem State.con_at_setInb (s : State) (n : Nat) (l : List Packet) (i : Nat) : (s.setInb n l).con i = s.con i := rfl
@[simp] theorem State.stack_at_setInb (s : State) (n : Nat) (l : List Packet) (i : Nat) : (s.setInb n l).stack i = s.stack i := rfl
@[simp] theorem State.die_at_setInb (s : State) (n : Nat) (l : List Packet) (i : Nat) : (s.setInb n l).die i = s.die i := rfl
@[simp] theorem State.func_at_setInb (s : State) (n : Nat) (l : List Packet) (i : Nat) : (s.setInb n l).func i = s.func i := rfl
@[simp] theorem State.port_at_setInb (s : State) (n : Nat) (l : List Packet) (i : Nat) : (s.setInb n l).port i = s.port i := rfl
@[simp] theorem State.bond_at_setInb (s : State) (n : Nat) (l : List Packet) (i : Nat) : (s.setInb n l).bond i = s.bond i := rfl
@[simp] theorem State.eng_at_setInb (s : State) (n : Nat) (l : List Packet) (i : Nat) : (s.setInb n l).eng i = s.eng i := rfl
@[simp] theorem State.barrier_at_setInb (s : State) (n : Nat) (l : List Packet) (i : Nat) : (s.setInb n l).barrier i = s.barrier i := rfl
@[simp] theorem State.outb_at_setInb (s : State) (n : Nat) (l : List Packet) (i : Nat) : (s.setInb n l).outb i = s.outb i := rfl
@[simp] theorem State.slot_at_setInb (s : State) (n : Nat) (l : List Packet) (i : Nat) : (s.setInb n l).slot i = s.slot i := rfl
@[simp] theorem State.area_at_setInb (s : State) (n : Nat) (l : List Packet) (i : Nat) : (s.setInb n l).area i = s.area i := rfl

/-! ## State.setOutb -/

@[simp] theorem State.setOutb_pending (s : State) (n : Nat) (l : List Packet) : (s.setOutb n l).pending = s.pending := rfl
@[simp] theorem State.setOutb_member (s : State) (n : Nat) (l : List Packet) : (s.setOutb n l).member = s.member := rfl
@[simp] theorem State.setOutb_clk (s : State) (n : Nat) (l : List Packet) : (s.setOutb n l).clk = s.clk := rfl
@[simp] theorem State.setOutb_chart (s : State) (n : Nat) (l : List Packet) : (s.setOutb n l).chart = s.chart := rfl
@[simp] theorem State.setOutb_cons (s : State) (n : Nat) (l : List Packet) : (s.setOutb n l).cons = s.cons := rfl
@[simp] theorem State.setOutb_cores (s : State) (n : Nat) (l : List Packet) : (s.setOutb n l).cores = s.cores := rfl
@[simp] theorem State.setOutb_threads (s : State) (n : Nat) (l : List Packet) : (s.setOutb n l).threads = s.threads := rfl
@[simp] theorem State.setOutb_ls (s : State) (n : Nat) (l : List Packet) : (s.setOutb n l).ls = s.ls := rfl
@[simp] theorem State.setOutb_lsTag (s : State) (n : Nat) (l : List Packet) : (s.setOutb n l).lsTag = s.lsTag := rfl
@[simp] theorem State.setOutb_lsSlot (s : State) (n : Nat) (l : List Packet) : (s.setOutb n l).lsSlot = s.lsSlot := rfl
@[simp] theorem State.setOutb_lsBad (s : State) (n : Nat) (l : List Packet) : (s.setOutb n l).lsBad = s.lsBad := rfl
@[simp] theorem State.setOutb_mem (s : State) (n : Nat) (l : List Packet) : (s.setOutb n l).mem = s.mem := rfl
@[simp] theorem State.setOutb_memTag (s : State) (n : Nat) (l : List Packet) : (s.setOutb n l).memTag = s.memTag := rfl
@[simp] theorem State.setOutb_memBad (s : State) (n : Nat) (l : List Packet) : (s.setOutb n l).memBad = s.memBad := rfl
@[simp] theorem State.setOutb_stks (s : State) (n : Nat) (l : List Packet) : (s.setOutb n l).stks = s.stks := rfl
@[simp] theorem State.setOutb_inbox (s : State) (n : Nat) (l : List Packet) : (s.setOutb n l).inbox = s.inbox := rfl
@[simp] theorem State.setOutb_flits (s : State) (n : Nat) (l : List Packet) : (s.setOutb n l).flits = s.flits := rfl
@[simp] theorem State.setOutb_injAt (s : State) (n : Nat) (l : List Packet) : (s.setOutb n l).injAt = s.injAt := rfl
@[simp] theorem State.setOutb_failed (s : State) (n : Nat) (l : List Packet) : (s.setOutb n l).failed = s.failed := rfl
@[simp] theorem State.setOutb_dies (s : State) (n : Nat) (l : List Packet) : (s.setOutb n l).dies = s.dies := rfl
@[simp] theorem State.setOutb_dcFoe (s : State) (n : Nat) (l : List Packet) : (s.setOutb n l).dcFoe = s.dcFoe := rfl
@[simp] theorem State.setOutb_lantern (s : State) (n : Nat) (l : List Packet) : (s.setOutb n l).lantern = s.lantern := rfl
@[simp] theorem State.setOutb_barriers (s : State) (n : Nat) (l : List Packet) : (s.setOutb n l).barriers = s.barriers := rfl
@[simp] theorem State.setOutb_replicas (s : State) (n : Nat) (l : List Packet) : (s.setOutb n l).replicas = s.replicas := rfl
@[simp] theorem State.setOutb_beacon (s : State) (n : Nat) (l : List Packet) : (s.setOutb n l).beacon = s.beacon := rfl
@[simp] theorem State.setOutb_lastBeacon (s : State) (n : Nat) (l : List Packet) : (s.setOutb n l).lastBeacon = s.lastBeacon := rfl
@[simp] theorem State.setOutb_funcs (s : State) (n : Nat) (l : List Packet) : (s.setOutb n l).funcs = s.funcs := rfl
@[simp] theorem State.setOutb_host (s : State) (n : Nat) (l : List Packet) : (s.setOutb n l).host = s.host := rfl
@[simp] theorem State.setOutb_ports (s : State) (n : Nat) (l : List Packet) : (s.setOutb n l).ports = s.ports := rfl
@[simp] theorem State.setOutb_bonds (s : State) (n : Nat) (l : List Packet) : (s.setOutb n l).bonds = s.bonds := rfl
@[simp] theorem State.setOutb_digSent (s : State) (n : Nat) (l : List Packet) : (s.setOutb n l).digSent = s.digSent := rfl
@[simp] theorem State.setOutb_digRecv (s : State) (n : Nat) (l : List Packet) : (s.setOutb n l).digRecv = s.digRecv := rfl
@[simp] theorem State.setOutb_digSnapSent (s : State) (n : Nat) (l : List Packet) : (s.setOutb n l).digSnapSent = s.digSnapSent := rfl
@[simp] theorem State.setOutb_digSnapRecv (s : State) (n : Nat) (l : List Packet) : (s.setOutb n l).digSnapRecv = s.digSnapRecv := rfl
@[simp] theorem State.setOutb_tally (s : State) (n : Nat) (l : List Packet) : (s.setOutb n l).tally = s.tally := rfl
@[simp] theorem State.setOutb_trust (s : State) (n : Nat) (l : List Packet) : (s.setOutb n l).trust = s.trust := rfl
@[simp] theorem State.setOutb_keeper (s : State) (n : Nat) (l : List Packet) : (s.setOutb n l).keeper = s.keeper := rfl
@[simp] theorem State.setOutb_ageing (s : State) (n : Nat) (l : List Packet) : (s.setOutb n l).ageing = s.ageing := rfl
@[simp] theorem State.setOutb_power (s : State) (n : Nat) (l : List Packet) : (s.setOutb n l).power = s.power := rfl
@[simp] theorem State.setOutb_dbgSel (s : State) (n : Nat) (l : List Packet) : (s.setOutb n l).dbgSel = s.dbgSel := rfl
@[simp] theorem State.setOutb_dbgData (s : State) (n : Nat) (l : List Packet) : (s.setOutb n l).dbgData = s.dbgData := rfl
@[simp] theorem State.setOutb_hwSet (s : State) (n : Nat) (l : List Packet) : (s.setOutb n l).hwSet = s.hwSet := rfl
@[simp] theorem State.setOutb_hwAt (s : State) (n : Nat) (l : List Packet) : (s.setOutb n l).hwAt = s.hwAt := rfl
@[simp] theorem State.setOutb_freeCtr (s : State) (n : Nat) (l : List Packet) : (s.setOutb n l).freeCtr = s.freeCtr := rfl
@[simp] theorem State.thr_at_setOutb (s : State) (n : Nat) (l : List Packet) (i : Nat) : (s.setOutb n l).thr i = s.thr i := rfl
@[simp] theorem State.core_at_setOutb (s : State) (n : Nat) (l : List Packet) (i : Nat) : (s.setOutb n l).core i = s.core i := rfl
@[simp] theorem State.con_at_setOutb (s : State) (n : Nat) (l : List Packet) (i : Nat) : (s.setOutb n l).con i = s.con i := rfl
@[simp] theorem State.stack_at_setOutb (s : State) (n : Nat) (l : List Packet) (i : Nat) : (s.setOutb n l).stack i = s.stack i := rfl
@[simp] theorem State.die_at_setOutb (s : State) (n : Nat) (l : List Packet) (i : Nat) : (s.setOutb n l).die i = s.die i := rfl
@[simp] theorem State.func_at_setOutb (s : State) (n : Nat) (l : List Packet) (i : Nat) : (s.setOutb n l).func i = s.func i := rfl
@[simp] theorem State.port_at_setOutb (s : State) (n : Nat) (l : List Packet) (i : Nat) : (s.setOutb n l).port i = s.port i := rfl
@[simp] theorem State.bond_at_setOutb (s : State) (n : Nat) (l : List Packet) (i : Nat) : (s.setOutb n l).bond i = s.bond i := rfl
@[simp] theorem State.eng_at_setOutb (s : State) (n : Nat) (l : List Packet) (i : Nat) : (s.setOutb n l).eng i = s.eng i := rfl
@[simp] theorem State.barrier_at_setOutb (s : State) (n : Nat) (l : List Packet) (i : Nat) : (s.setOutb n l).barrier i = s.barrier i := rfl
@[simp] theorem State.inb_at_setOutb (s : State) (n : Nat) (l : List Packet) (i : Nat) : (s.setOutb n l).inb i = s.inb i := rfl
@[simp] theorem State.slot_at_setOutb (s : State) (n : Nat) (l : List Packet) (i : Nat) : (s.setOutb n l).slot i = s.slot i := rfl
@[simp] theorem State.area_at_setOutb (s : State) (n : Nat) (l : List Packet) (i : Nat) : (s.setOutb n l).area i = s.area i := rfl

/-! ## The piece that was written -/

@[simp] theorem State.thr_setThr_same (s : State) (t : Tid) (x : Thread) : (s.setThr t x).thr t = x := Map.get_set_same _ _ _ _
theorem State.thr_setThr_other (s : State) (t : Tid) (x : Thread) (i : Nat) (h : i ≠ t) : (s.setThr t x).thr i = s.thr i := Map.get_set_other h _ _ _
@[simp] theorem State.core_setCore_same (s : State) (n : Nat) (x : Core) : (s.setCore n x).core n = x := Map.get_set_same _ _ _ _
theorem State.core_setCore_other (s : State) (n : Nat) (x : Core) (i : Nat) (h : i ≠ n) : (s.setCore n x).core i = s.core i := Map.get_set_other h _ _ _
@[simp] theorem State.con_setCon_same (s : State) (c : Nat) (x : Cons) : (s.setCon c x).con c = x := Map.get_set_same _ _ _ _
theorem State.con_setCon_other (s : State) (c : Nat) (x : Cons) (i : Nat) (h : i ≠ c) : (s.setCon c x).con i = s.con i := Map.get_set_other h _ _ _
@[simp] theorem State.stack_setStack_same (s : State) (k : Nat) (x : Stack) : (s.setStack k x).stack k = x := Map.get_set_same _ _ _ _
theorem State.stack_setStack_other (s : State) (k : Nat) (x : Stack) (i : Nat) (h : i ≠ k) : (s.setStack k x).stack i = s.stack i := Map.get_set_other h _ _ _
@[simp] theorem State.die_modDie_same (s : State) (d : Nat) (f : Die → Die) : (s.modDie d f).die d = f (s.die d) := Map.get_set_same _ _ _ _
theorem State.die_modDie_other (s : State) (d : Nat) (f : Die → Die) (i : Nat) (h : i ≠ d) : (s.modDie d f).die i = s.die i := Map.get_set_other h _ _ _
@[simp] theorem State.func_modFunc_same (s : State) (f : Nat) (g : Func → Func) : (s.modFunc f g).func f = g (s.func f) := Map.get_set_same _ _ _ _
theorem State.func_modFunc_other (s : State) (f : Nat) (g : Func → Func) (i : Nat) (h : i ≠ f) : (s.modFunc f g).func i = s.func i := Map.get_set_other h _ _ _
@[simp] theorem State.port_modPort_same (s : State) (p : Nat) (f : MPort → MPort) : (s.modPort p f).port p = f (s.port p) := Map.get_set_same _ _ _ _
theorem State.port_modPort_other (s : State) (p : Nat) (f : MPort → MPort) (i : Nat) (h : i ≠ p) : (s.modPort p f).port i = s.port i := Map.get_set_other h _ _ _
@[simp] theorem State.bond_modBond_same (s : State) (p : Nat) (f : Bond → Bond) : (s.modBond p f).bond p = f (s.bond p) := Map.get_set_same _ _ _ _
theorem State.bond_modBond_other (s : State) (p : Nat) (f : Bond → Bond) (i : Nat) (h : i ≠ p) : (s.modBond p f).bond i = s.bond i := Map.get_set_other h _ _ _
@[simp] theorem State.eng_modEng_same (s : State) (d : Nat) (f : TEngine → TEngine) : (s.modEng d f).eng d = f (s.eng d) := Map.get_set_same _ _ _ _
theorem State.eng_modEng_other (s : State) (d : Nat) (f : TEngine → TEngine) (i : Nat) (h : i ≠ d) : (s.modEng d f).eng i = s.eng i := Map.get_set_other h _ _ _
@[simp] theorem State.barrier_modBarrier_same (s : State) (b : Nat) (f : Barrier → Barrier) : (s.modBarrier b f).barrier b = f (s.barrier b) := Map.get_set_same _ _ _ _
theorem State.barrier_modBarrier_other (s : State) (b : Nat) (f : Barrier → Barrier) (i : Nat) (h : i ≠ b) : (s.modBarrier b f).barrier i = s.barrier i := Map.get_set_other h _ _ _
@[simp] theorem State.inb_setInb_same (s : State) (n : Nat) (l : List Packet) : (s.setInb n l).inb n = l := Map.get_set_same _ _ _ _
theorem State.inb_setInb_other (s : State) (n : Nat) (l : List Packet) (i : Nat) (h : i ≠ n) : (s.setInb n l).inb i = s.inb i := Map.get_set_other h _ _ _
@[simp] theorem State.outb_setOutb_same (s : State) (n : Nat) (l : List Packet) : (s.setOutb n l).outb n = l := Map.get_set_same _ _ _ _
theorem State.outb_setOutb_other (s : State) (n : Nat) (l : List Packet) (i : Nat) (h : i ≠ n) : (s.setOutb n l).outb i = s.outb i := Map.get_set_other h _ _ _
theorem State.modThr_def (s : State) (i : Nat) (f : Thread → Thread) : s.modThr i f = s.setThr i (f (s.thr i)) := rfl
@[simp] theorem State.thr_modThr_same (s : State) (i : Nat) (f : Thread → Thread) : (s.modThr i f).thr i = f (s.thr i) := Map.get_set_same _ _ _ _
theorem State.thr_modThr_other (s : State) (i : Nat) (f : Thread → Thread) (j : Nat) (h : j ≠ i) : (s.modThr i f).thr j = s.thr j := Map.get_set_other h _ _ _
theorem State.modCore_def (s : State) (i : Nat) (f : Core → Core) : s.modCore i f = s.setCore i (f (s.core i)) := rfl
@[simp] theorem State.core_modCore_same (s : State) (i : Nat) (f : Core → Core) : (s.modCore i f).core i = f (s.core i) := Map.get_set_same _ _ _ _
theorem State.core_modCore_other (s : State) (i : Nat) (f : Core → Core) (j : Nat) (h : j ≠ i) : (s.modCore i f).core j = s.core j := Map.get_set_other h _ _ _
theorem State.modCon_def (s : State) (i : Nat) (f : Cons → Cons) : s.modCon i f = s.setCon i (f (s.con i)) := rfl
@[simp] theorem State.con_modCon_same (s : State) (i : Nat) (f : Cons → Cons) : (s.modCon i f).con i = f (s.con i) := Map.get_set_same _ _ _ _
theorem State.con_modCon_other (s : State) (i : Nat) (f : Cons → Cons) (j : Nat) (h : j ≠ i) : (s.modCon i f).con j = s.con j := Map.get_set_other h _ _ _
theorem State.modStack_def (s : State) (i : Nat) (f : Stack → Stack) : s.modStack i f = s.setStack i (f (s.stack i)) := rfl
@[simp] theorem State.stack_modStack_same (s : State) (i : Nat) (f : Stack → Stack) : (s.modStack i f).stack i = f (s.stack i) := Map.get_set_same _ _ _ _
theorem State.stack_modStack_other (s : State) (i : Nat) (f : Stack → Stack) (j : Nat) (h : j ≠ i) : (s.modStack i f).stack j = s.stack j := Map.get_set_other h _ _ _

/-! ## Registers of a thread -/

@[simp] theorem Thread.greg_setG_same (th : Thread) (r : Reg) (v : Word) : (th.setG r v).greg r = if r.val = 0 then 0 else v := by
  unfold Thread.setG Thread.greg
  split
  · rfl
  · exact Map.get_set_same _ _ _ _

theorem Thread.greg_setG_other (th : Thread) (r q : Reg) (v : Word) (h : q ≠ r) : (th.setG r v).greg q = th.greg q := by
  unfold Thread.setG Thread.greg
  split
  · rfl
  · split
    · rfl
    · exact Map.get_set_other (fun e => h (Fin.ext e)) _ _ _

@[simp] theorem Thread.vreg_setV_same (th : Thread) (r : Reg) (v : Line) : (th.setV r v).vreg r = v := Map.get_set_same _ _ _ _

theorem Thread.vreg_setV_other (th : Thread) (r q : Reg) (v : Line) (h : q ≠ r) : (th.setV r v).vreg q = th.vreg q :=
  Map.get_set_other (fun e => h (Fin.ext e)) _ _ _

end Sys2Proof.Machine
end

