-- ==== Sys2Proof/Laws/Issue.lean ====
section
/-! SUPPORT. What an issue does: the shared forms that write one general register or move only PC. -/

namespace Sys2Proof

open Sys2Proof.Machine

theorem ThreadOnly.trans {s u w : State} {t : Tid} (h : ThreadOnly s u t) (k : ThreadOnly u w t) : ThreadOnly s w t := by
  refine ⟨?_, fun i hi => (k.others i hi).trans (h.others i hi)⟩
  have e := h.rest
  have d := k.rest
  generalize w.threads = a at d
  subst d
  generalize u.threads = b at e
  subst e
  rfl

end Sys2Proof

namespace Sys2Proof.Machine

open Sys2Proof

/-- A ready thread's instruction has its effect on the state with the marks of the issue. -/
theorem issue_ready {s : State} {t : Tid} {srcs : List Nat} (h : s.ready t srcs = true) (k : State → State) :
    issue s t srcs k = .next (k (s.modThr t Thread.issued1)) := by
  unfold issue
  rw [if_pos h]

/-- A thread that is not ready: nothing happens. -/
theorem issue_not_ready {s : State} {t : Tid} {srcs : List Nat} (h : s.ready t srcs = false) (k : State → State) :
    issue s t srcs k = .next s := by
  unfold issue
  rw [if_neg (by simp [h])]

@[simp] theorem Thread.issued1_greg (th : Thread) (r : Reg) : th.issued1.greg r = th.greg r := rfl
@[simp] theorem Thread.issued1_pgreg (th : Thread) (n : Nat) : th.issued1.pgreg n = th.pgreg n := rfl
@[simp] theorem Thread.issued1_vreg (th : Thread) (r : Reg) : th.issued1.vreg r = th.vreg r := rfl
@[simp] theorem Thread.issued1_pc (th : Thread) : th.issued1.pc = th.pc := rfl
@[simp] theorem Thread.issued1_status (th : Thread) : th.issued1.status = th.status := rfl
@[simp] theorem Thread.issued1_tag (th : Thread) : th.issued1.tag = th.tag := rfl
@[simp] theorem Thread.advance_greg (th : Thread) (n : Nat) (r : Reg) : (th.advance n).greg r = th.greg r := rfl
@[simp] theorem Thread.advance_vreg (th : Thread) (n : Nat) (r : Reg) : (th.advance n).vreg r = th.vreg r := rfl
@[simp] theorem Thread.advance_pc (th : Thread) (n : Nat) : (th.advance n).pc = pcOf (th.pc + BitVec.ofNat 64 n) := rfl
@[simp] theorem Thread.setG_pc (th : Thread) (r : Reg) (v : Word) : (th.setG r v).pc = th.pc := by
  unfold Thread.setG; split <;> rfl

/-- A register write keeps to general registers. -/
theorem Thread.setG_onlyG (th : Thread) (r : Reg) (v : Word) : OnlyG th (th.setG r v) := by
  unfold Thread.setG OnlyG; split <;> rfl

/-- An update of one thread keeps to it. -/
theorem setThr_threadOnly (s : State) (t : Tid) (x : Thread) : ThreadOnly s (s.setThr t x) t :=
  ⟨rfl, fun i h => State.thr_setThr_other s t x i h⟩

theorem modThr_threadOnly (s : State) (t : Tid) (f : Thread → Thread) : ThreadOnly s (s.modThr t f) t :=
  setThr_threadOnly s t _

/-- The state after an instruction that writes one general register. -/
def wroteG (s : State) (t : Tid) (rd : Reg) (v : Word) : State := ((s.modThr t Thread.issued1).setG t rd v).past t 4

theorem wroteG_thr (s : State) (t : Tid) (rd : Reg) (v : Word) :
    (wroteG s t rd v).thr t = ((s.thr t).issued1.setG rd v).advance 4 := by
  unfold wroteG State.setG State.past
  simp

/-- An instruction that writes one general register completes so. -/
theorem writesG_of {i : Instr} {s : State} {t : Tid} {rd : Reg} {v : Word} (h : exec i s = .next (wroteG s t rd v)) :
    WritesG i s t rd v := by
  refine ⟨_, h, ?_, ?_, ?_, ?_, ?_⟩
  · rw [wroteG_thr]; simp
  · intro r hr; rw [wroteG_thr]; simp [Thread.greg_setG_other _ _ _ _ hr]
  · rw [wroteG_thr]; simp
  · rw [wroteG_thr]; have := Thread.setG_onlyG (s.thr t).issued1 rd v
    unfold OnlyG Thread.advance at *
    generalize (s.thr t).issued1.setG rd v = x at *
    rw [this]; rfl
  · unfold wroteG State.setG State.past
    exact ((modThr_threadOnly s t _).trans (modThr_threadOnly _ t _)).trans (modThr_threadOnly _ t _)

theorem alu2_ready {s : State} {t : Tid} {rd ra rb : Reg} (f : Word → Word → Word) (h : s.ready t [ra.val, rb.val] = true) :
    alu2 t rd ra rb f s = .next (wroteG s t rd (f ((s.thr t).greg ra) ((s.thr t).greg rb))) := by
  unfold alu2
  rw [issue_ready (srcs := [gk ra, gk rb]) h]
  simp [wroteG]

theorem alu1_ready {s : State} {t : Tid} {rd ra : Reg} (f : Word → Word) (h : s.ready t [ra.val] = true) :
    alu1 t rd ra f s = .next (wroteG s t rd (f ((s.thr t).greg ra))) := by
  unfold alu1
  rw [issue_ready (srcs := [gk ra]) h]
  simp [wroteG]

theorem alu0_ready {s : State} {t : Tid} {rd : Reg} (v : State → Word) (h : s.ready t [] = true) :
    alu0 t rd v s = .next (wroteG s t rd (v (s.modThr t Thread.issued1))) := by
  unfold alu0
  rw [issue_ready h]
  rfl

/-- An instruction that only moves PC completes so. -/
theorem goesTo_of {i : Instr} {s : State} {t : Tid} {pc : Word}
    (h : exec i s = .next ((s.modThr t Thread.issued1).modThr t fun th => { th with pc })) : GoesTo i s t pc := by
  refine ⟨_, h, ?_, ?_, ?_⟩
  · simp
  · rw [State.thr_modThr_same, State.thr_modThr_same]; rfl
  · exact (modThr_threadOnly s t _).trans (modThr_threadOnly _ t _)

end Sys2Proof.Machine
end

