-- ==== Sys2Proof/Laws/Entry.lean ====
section
/-! SUPPORT. What taking an exception, locking up a core and counting a refusal do, each said once. -/

namespace Sys2Proof.Machine

open Sys2Proof

theorem Thread.bank_setBank_same (th : Thread) (w : Bool) (b : EBank) : (th.setBank w b).bank w = b := by
  cases w <;> rfl

theorem Thread.bank_setBank_other (th : Thread) (w : Bool) (b : EBank) : (th.setBank w b).bank (!w) = th.bank (!w) := by
  cases w <;> rfl

/-- An exception while the entry lock is free enters the handler of the thread's world. -/
theorem raiseAt_enters {s : State} {t : Tid} (h : (s.thr t).el = false) (code acc : Nat) (info epc : Word) :
    Enters s ((s.modThr t Thread.issued1).raiseAt t code acc false info epc) t code acc info epc := by
  have hl : (s.thr t).issued1.el = false := h
  generalize hc : s.issueCycle t = cy
  have hcy : (s.modThr t Thread.issued1).issueCycle t = cy := hc
  have e : (s.modThr t Thread.issued1).raiseAt t code acc false info epc =
      ((s.modThr t Thread.issued1).dropLong t).setThr t
        ((s.thr t).issued1.enter (s.thr t).world code acc false info epc (s.thr t).status cy) := by
    unfold State.raiseAt
    rw [State.thr_modThr_same, if_neg (by simp [hl]), hcy]
    rfl
  rw [e]
  generalize hth : s.thr t = th at *
  have hu : (((s.modThr t Thread.issued1).dropLong t).setThr t (th.issued1.enter th.world code acc false info epc th.status cy)).thr t =
      th.issued1.enter th.world code acc false info epc th.status cy := State.thr_setThr_same _ _ _
  refine ⟨?_, ?_, ?_, ?_, ?_, ?_⟩
  · rw [hth, hu]; cases hw : th.world <;> rfl
  · rw [hth, hu]; cases hw : th.world <;> rfl
  · rw [hth, hu]; unfold Thread.enter Thread.setBank Thread.bank; cases hw : th.world <;> dsimp only [Thread.issued1] <;> simp only [if_true, hw] <;> rfl
  · intro i hi
    rw [State.thr_setThr_other _ _ _ _ hi]
    unfold State.dropLong
    rw [State.thr_modThr_other _ _ _ _ hi]
    exact State.thr_modThr_other _ _ _ _ hi
  · intro n
    show (State.dropLong _ t).core n = _
    unfold State.dropLong
    show ((s.modThr t Thread.issued1).modCore (coreOf t) fun c => c.freeLong (tnum t)).core n = _
    split
    · subst n; rw [State.core_modCore_same]; rfl
    · rw [State.core_modCore_other _ _ _ _ (by assumption)]; rfl
  · unfold State.dropLong State.modThr State.modCore State.setThr State.setCore; rfl

/-- A mark of the present core cycle touches only the record of such marks. -/
theorem hwMark_eq (s : State) (b : StatusBit) : s.hwMark b = { s with hwSet := (s.hwMark b).hwSet, hwAt := (s.hwMark b).hwAt } := by
  unfold State.hwMark
  split <;> rfl

/-- Reports to no constellation leave cores, constellations, threads, memories and the chart alone. -/
theorem report_nil (s : State) (cls node : Nat) (sld : Bool) (addr : Word) :
    (s.report cls [] node sld addr).core = s.core ∧ (s.report cls [] node sld addr).con = s.con ∧
      (s.report cls [] node sld addr).thr = s.thr ∧ (s.report cls [] node sld addr).chart = s.chart ∧
      (s.report cls [] node sld addr).ls = s.ls ∧ (s.report cls [] node sld addr).mem = s.mem ∧
      (s.report cls [] node sld addr).lsTag = s.lsTag ∧ (s.report cls [] node sld addr).memTag = s.memTag := by
  unfold State.report
  dsimp only [overAll, List.foldl]
  rw [hwMark_eq s]
  generalize (s.hwMark _).hwSet = a
  generalize (s.hwMark _).hwAt = b
  split <;> exact ⟨rfl, rfl, rfl, rfl, rfl, rfl, rfl, rfl⟩

/-- A lockup. -/
theorem lockup_locks (s : State) (t : Tid) (code : Nat) : LocksUp s ((s.modThr t Thread.issued1).lockup t code) t code := by
  generalize hm : s.modThr t Thread.issued1 = m
  have hthr : m.thr t = (s.thr t).issued1 := by rw [← hm, State.thr_modThr_same]
  have hoth : ∀ i, i ≠ t → m.thr i = s.thr i := fun i hi => by rw [← hm, State.thr_modThr_other _ _ _ _ hi]
  have hcore : m.core = s.core := by rw [← hm]; rfl
  have hcon : m.con = s.con := by rw [← hm]; rfl
  have hmem : m.ls = s.ls ∧ m.mem = s.mem ∧ m.lsTag = s.lsTag ∧ m.memTag = s.memTag := by rw [← hm]; exact ⟨rfl, rfl, rfl, rfl⟩
  have hnow : m.now = s.clk.sidereal := by rw [← hm]; rfl
  generalize hc' : (fun c : Core => ({ c with
    locked := true, lockCause := code, lockSealed := (m.thr t).world, lockThread := tnum t
    lockPc := if (m.thr t).world then 0 else (m.thr t).pc, lockTime := m.now } : Core)) = f
  let s1 := m.modCore (coreOf t) f
  let s2 : State := { s1 with chart := { s1.chart with faulted := Map.set false s1.chart.faulted (coreOf t) true } }
  let g : Cons → Cons := fun x => if x.st = CState.running then { x with st := CState.stopping } else x
  let s3 := match (s2.core (coreOf t)).member with
    | none => s2
    | some c => s2.modCon c g
  have e : m.lockup t code = s3.report 4 [] (coreOf t) (m.thr t).world (m.thr t).pc := by
    subst hc'; rfl
  have r := report_nil s3 4 (coreOf t) (m.thr t).world (m.thr t).pc
  have h2c : s2.core (coreOf t) = f (s.core (coreOf t)) := by
    show s1.core (coreOf t) = _
    rw [← hcore]; exact State.core_modCore_same _ _ _
  have h3 : s3.core = s2.core ∧ s3.thr = m.thr ∧ s3.chart = s2.chart ∧ s3.ls = m.ls ∧ s3.mem = m.mem ∧ s3.lsTag = m.lsTag ∧ s3.memTag = m.memTag := by
    show State.core (match (s2.core (coreOf t)).member with | none => s2 | some c => s2.modCon c g) = _ ∧ _
    dsimp only [s3]
    cases (s2.core (coreOf t)).member <;> exact ⟨rfl, rfl, rfl, rfl, rfl, rfl, rfl⟩
  rw [e]
  obtain ⟨r1, r2, r3, r4, r5, r6, r7, r8⟩ := r
  obtain ⟨k1, k2, k3, k4, k5, k6, k7⟩ := h3
  refine ⟨?_, ?_, ?_, ?_, ?_, ?_⟩
  · rw [r1, k1, h2c, ← hc', hthr, hnow]
    exact ⟨rfl, rfl, rfl, rfl, rfl, rfl⟩
  · rw [r4, k3]
    show Map.get false (Map.set false s1.chart.faulted (coreOf t) true) (coreOf t) = true
    exact Map.get_set_same _ _ _ _
  · intro c hm' hr
    rw [r2]
    have : (s2.core (coreOf t)).member = some c := by rw [h2c, ← hc']; exact hm'
    show (State.con (match (s2.core (coreOf t)).member with | none => s2 | some c => s2.modCon c g) c).st = _
    rw [this]
    show ((s2.modCon c g).con c).st = _
    rw [State.con_modCon_same]
    have : s2.con c = s.con c := by rw [← hcon]; rfl
    rw [this]
    show (if _ then _ else _ : Cons).st = _
    rw [if_pos hr]
  · rw [r3, k2, hthr]; exact ⟨rfl, rfl⟩
  · intro i hi; rw [r3, k2]; exact hoth i hi
  · rw [r5, r6, r7, r8, k4, k5, k6, k7]; exact hmem

/-- An exception under the entry lock locks up the core. -/
theorem raiseAt_locks {s : State} {t : Tid} (h : (s.thr t).el = true) (code acc : Nat) (info epc : Word) :
    LocksUp s ((s.modThr t Thread.issued1).raiseAt t code acc false info epc) t code := by
  have e : (s.modThr t Thread.issued1).raiseAt t code acc false info epc = (s.modThr t Thread.issued1).lockup t code := by
    unfold State.raiseAt
    rw [State.thr_modThr_same]
    exact if_pos h
  rw [e]
  exact lockup_locks s t code

end Sys2Proof.Machine
end

