-- ==== Sys2Proof/Laws/Exec.lean ====
section
/-! SUPPORT. exec at each command is its meaning: one equation per constructor, so that no proof unfolds the match. -/

namespace Sys2Proof.Machine

open Sys2Proof

@[simp] theorem exec_registerWrite acc addr val s : exec (.registerWrite acc addr val) s = execRegisterWrite acc addr val s := rfl
@[simp] theorem exec_load s : exec (.load) s = execLoad s := rfl
@[simp] theorem exec_chartLoadComplete s : exec (.chartLoadComplete) s = execChartLoadComplete s := rfl
@[simp] theorem exec_discard s : exec (.discard) s = execDiscard s := rfl
@[simp] theorem exec_commit c s : exec (.commit c) s = execCommit c s := rfl
@[simp] theorem exec_commitComplete c s : exec (.commitComplete c) s = execCommitComplete c s := rfl
@[simp] theorem exec_start c s : exec (.start c) s = execStart c s := rfl
@[simp] theorem exec_stop c s : exec (.stop c) s = execStop c s := rfl
@[simp] theorem exec_stopComplete c s : exec (.stopComplete c) s = execStopComplete c s := rfl
@[simp] theorem exec_reset c s : exec (.reset c) s = execReset c s := rfl
@[simp] theorem exec_resetComplete c s : exec (.resetComplete c) s = execResetComplete c s := rfl
@[simp] theorem exec_release c s : exec (.release c) s = execRelease c s := rfl
@[simp] theorem exec_releaseComplete c s : exec (.releaseComplete c) s = execReleaseComplete c s := rfl
@[simp] theorem exec_flrReset c s : exec (.flrReset c) s = execFlrReset c s := rfl
@[simp] theorem exec_rootLock s : exec (.rootLock) s = execRootLock s := rfl
@[simp] theorem exec_rootLossOfLock s : exec (.rootLossOfLock) s = execRootLossOfLock s := rfl
@[simp] theorem exec_referenceLoss s : exec (.referenceLoss) s = execReferenceLoss s := rfl
@[simp] theorem exec_siderealIncrement s : exec (.siderealIncrement) s = execSiderealIncrement s := rfl
@[simp] theorem exec_siderealLoad v s : exec (.siderealLoad v) s = execSiderealLoad v s := rfl
@[simp] theorem exec_siderealStep v s : exec (.siderealStep v) s = execSiderealStep v s := rfl
@[simp] theorem exec_timeExchange s : exec (.timeExchange) s = execTimeExchange s := rfl
@[simp] theorem exec_holdoverEntry s : exec (.holdoverEntry) s = execHoldoverEntry s := rfl
@[simp] theorem exec_add t rd ra rb s : exec (.add t rd ra rb) s = execAdd t rd ra rb s := rfl
@[simp] theorem exec_sub t rd ra rb s : exec (.sub t rd ra rb) s = execSub t rd ra rb s := rfl
@[simp] theorem exec_and t rd ra rb s : exec (.and t rd ra rb) s = execAnd t rd ra rb s := rfl
@[simp] theorem exec_or t rd ra rb s : exec (.or t rd ra rb) s = execOr t rd ra rb s := rfl
@[simp] theorem exec_xor t rd ra rb s : exec (.xor t rd ra rb) s = execXor t rd ra rb s := rfl
@[simp] theorem exec_andn t rd ra rb s : exec (.andn t rd ra rb) s = execAndn t rd ra rb s := rfl
@[simp] theorem exec_shl t rd ra rb s : exec (.shl t rd ra rb) s = execShl t rd ra rb s := rfl
@[simp] theorem exec_shr t rd ra rb s : exec (.shr t rd ra rb) s = execShr t rd ra rb s := rfl
@[simp] theorem exec_sar t rd ra rb s : exec (.sar t rd ra rb) s = execSar t rd ra rb s := rfl
@[simp] theorem exec_rol t rd ra rb s : exec (.rol t rd ra rb) s = execRol t rd ra rb s := rfl
@[simp] theorem exec_slt t rd ra rb s : exec (.slt t rd ra rb) s = execSlt t rd ra rb s := rfl
@[simp] theorem exec_sltu t rd ra rb s : exec (.sltu t rd ra rb) s = execSltu t rd ra rb s := rfl
@[simp] theorem exec_min t rd ra rb s : exec (.min t rd ra rb) s = execMin t rd ra rb s := rfl
@[simp] theorem exec_max t rd ra rb s : exec (.max t rd ra rb) s = execMax t rd ra rb s := rfl
@[simp] theorem exec_minu t rd ra rb s : exec (.minu t rd ra rb) s = execMinu t rd ra rb s := rfl
@[simp] theorem exec_maxu t rd ra rb s : exec (.maxu t rd ra rb) s = execMaxu t rd ra rb s := rfl
@[simp] theorem exec_mul t rd ra rb s : exec (.mul t rd ra rb) s = execMul t rd ra rb s := rfl
@[simp] theorem exec_mulh t rd ra rb s : exec (.mulh t rd ra rb) s = execMulh t rd ra rb s := rfl
@[simp] theorem exec_mulhu t rd ra rb s : exec (.mulhu t rd ra rb) s = execMulhu t rd ra rb s := rfl
@[simp] theorem exec_div t rd ra rb s : exec (.div t rd ra rb) s = execDiv t rd ra rb s := rfl
@[simp] theorem exec_divu t rd ra rb s : exec (.divu t rd ra rb) s = execDivu t rd ra rb s := rfl
@[simp] theorem exec_rem t rd ra rb s : exec (.rem t rd ra rb) s = execRem t rd ra rb s := rfl
@[simp] theorem exec_remu t rd ra rb s : exec (.remu t rd ra rb) s = execRemu t rd ra rb s := rfl
@[simp] theorem exec_clz t rd ra s : exec (.clz t rd ra) s = execClz t rd ra s := rfl
@[simp] theorem exec_ctz t rd ra s : exec (.ctz t rd ra) s = execCtz t rd ra s := rfl
@[simp] theorem exec_pop t rd ra s : exec (.pop t rd ra) s = execPop t rd ra s := rfl
@[simp] theorem exec_addi t rd ra imm s : exec (.addi t rd ra imm) s = execAddi t rd ra imm s := rfl
@[simp] theorem exec_andi t rd ra imm s : exec (.andi t rd ra imm) s = execAndi t rd ra imm s := rfl
@[simp] theorem exec_ori t rd ra imm s : exec (.ori t rd ra imm) s = execOri t rd ra imm s := rfl
@[simp] theorem exec_xori t rd ra imm s : exec (.xori t rd ra imm) s = execXori t rd ra imm s := rfl
@[simp] theorem exec_slti t rd ra imm s : exec (.slti t rd ra imm) s = execSlti t rd ra imm s := rfl
@[simp] theorem exec_sltiu t rd ra imm s : exec (.sltiu t rd ra imm) s = execSltiu t rd ra imm s := rfl
@[simp] theorem exec_shli t rd ra amt s : exec (.shli t rd ra amt) s = execShli t rd ra amt s := rfl
@[simp] theorem exec_shri t rd ra amt s : exec (.shri t rd ra amt) s = execShri t rd ra amt s := rfl
@[simp] theorem exec_sari t rd ra amt s : exec (.sari t rd ra amt) s = execSari t rd ra amt s := rfl
@[simp] theorem exec_roli t rd ra amt s : exec (.roli t rd ra amt) s = execRoli t rd ra amt s := rfl
@[simp] theorem exec_li t rd imm s : exec (.li t rd imm) s = execLi t rd imm s := rfl
@[simp] theorem exec_lsh t rd imm s : exec (.lsh t rd imm) s = execLsh t rd imm s := rfl
@[simp] theorem exec_ldb t rd ra pg imm s : exec (.ldb t rd ra pg imm) s = execLdb t rd ra pg imm s := rfl
@[simp] theorem exec_ldbs t rd ra pg imm s : exec (.ldbs t rd ra pg imm) s = execLdbs t rd ra pg imm s := rfl
@[simp] theorem exec_ldh t rd ra pg imm s : exec (.ldh t rd ra pg imm) s = execLdh t rd ra pg imm s := rfl
@[simp] theorem exec_ldhs t rd ra pg imm s : exec (.ldhs t rd ra pg imm) s = execLdhs t rd ra pg imm s := rfl
@[simp] theorem exec_ldw t rd ra pg imm s : exec (.ldw t rd ra pg imm) s = execLdw t rd ra pg imm s := rfl
@[simp] theorem exec_ldws t rd ra pg imm s : exec (.ldws t rd ra pg imm) s = execLdws t rd ra pg imm s := rfl
@[simp] theorem exec_ldd t rd ra pg imm s : exec (.ldd t rd ra pg imm) s = execLdd t rd ra pg imm s := rfl
@[simp] theorem exec_stb t rs ra pg imm s : exec (.stb t rs ra pg imm) s = execStb t rs ra pg imm s := rfl
@[simp] theorem exec_sth t rs ra pg imm s : exec (.sth t rs ra pg imm) s = execSth t rs ra pg imm s := rfl
@[simp] theorem exec_stw t rs ra pg imm s : exec (.stw t rs ra pg imm) s = execStw t rs ra pg imm s := rfl
@[simp] theorem exec_std t rs ra pg imm s : exec (.std t rs ra pg imm) s = execStd t rs ra pg imm s := rfl
@[simp] theorem exec_ldx t rd ra rb pg scale size sx s : exec (.ldx t rd ra rb pg scale size sx) s = execLdx t rd ra rb pg scale size sx s := rfl
@[simp] theorem exec_stx t rs ra rb pg scale size s : exec (.stx t rs ra rb pg scale size) s = execStx t rs ra rb pg scale size s := rfl
@[simp] theorem exec_beq t ra rb disp s : exec (.beq t ra rb disp) s = execBeq t ra rb disp s := rfl
@[simp] theorem exec_bne t ra rb disp s : exec (.bne t ra rb disp) s = execBne t ra rb disp s := rfl
@[simp] theorem exec_blt t ra rb disp s : exec (.blt t ra rb disp) s = execBlt t ra rb disp s := rfl
@[simp] theorem exec_bge t ra rb disp s : exec (.bge t ra rb disp) s = execBge t ra rb disp s := rfl
@[simp] theorem exec_bltu t ra rb disp s : exec (.bltu t ra rb disp) s = execBltu t ra rb disp s := rfl
@[simp] theorem exec_bgeu t ra rb disp s : exec (.bgeu t ra rb disp) s = execBgeu t ra rb disp s := rfl
@[simp] theorem exec_jmp t disp s : exec (.jmp t disp) s = execJmp t disp s := rfl
@[simp] theorem exec_call t disp s : exec (.call t disp) s = execCall t disp s := rfl
@[simp] theorem exec_jr t ra s : exec (.jr t ra) s = execJr t ra s := rfl
@[simp] theorem exec_callr t ra s : exec (.callr t ra) s = execCallr t ra s := rfl
@[simp] theorem exec_ret t s : exec (.ret t) s = execRet t s := rfl
@[simp] theorem exec_setpg t pg ra s : exec (.setpg t pg ra) s = execSetpg t pg ra s := rfl
@[simp] theorem exec_getpg t rd pg s : exec (.getpg t rd pg) s = execGetpg t rd pg s := rfl
@[simp] theorem exec_undef t fetchRefused s : exec (.undef t fetchRefused) s = execUndef t fetchRefused s := rfl
@[simp] theorem exec_nop t s : exec (.nop t) s = execNop t s := rfl
@[simp] theorem exec_brk t s : exec (.brk t) s = execBrk t s := rfl
@[simp] theorem exec_rdtime t rd s : exec (.rdtime t rd) s = execRdtime t rd s := rfl
@[simp] theorem exec_rdcyc t rd s : exec (.rdcyc t rd) s = execRdcyc t rd s := rfl
@[simp] theorem exec_rdfw t rd n s : exec (.rdfw t rd n) s = execRdfw t rd n s := rfl
@[simp] theorem exec_rdrsp t rd s : exec (.rdrsp t rd) s = execRdrsp t rd s := rfl
@[simp] theorem exec_wrrsp t ra s : exec (.wrrsp t ra) s = execWrrsp t ra s := rfl
@[simp] theorem exec_cwb t ra pg s : exec (.cwb t ra pg) s = execCwb t ra pg s := rfl
@[simp] theorem exec_cinv t ra pg s : exec (.cinv t ra pg) s = execCinv t ra pg s := rfl
@[simp] theorem exec_cwba t s : exec (.cwba t) s = execCwba t s := rfl
@[simp] theorem exec_cinva t s : exec (.cinva t) s = execCinva t s := rfl
@[simp] theorem exec_iinv t s : exec (.iinv t) s = execIinv t s := rfl
@[simp] theorem exec_storeDrain t s : exec (.storeDrain t) s = execStoreDrain t s := rfl
@[simp] theorem exec_blockedRetry t s : exec (.blockedRetry t) s = execBlockedRetry t s := rfl
@[simp] theorem exec_pwr t peer ra s : exec (.pwr t peer ra) s = execPwr t peer ra s := rfl
@[simp] theorem exec_pwrl t peer ra s : exec (.pwrl t peer ra) s = execPwrl t peer ra s := rfl
@[simp] theorem exec_prd t rd peer s : exec (.prd t rd peer) s = execPrd t rd peer s := rfl
@[simp] theorem exec_ptst t rd peer s : exec (.ptst t rd peer) s = execPtst t rd peer s := rfl
@[simp] theorem exec_foeValidClear acc core s : exec (.foeValidClear acc core) s = execFoeValidClear acc core s := rfl
@[simp] theorem exec_scall t s : exec (.scall t) s = execScall t s := rfl
@[simp] theorem exec_gate t ra s : exec (.gate t ra) s = execGate t ra s := rfl
@[simp] theorem exec_gateOut t s : exec (.gateOut t) s = execGateOut t s := rfl
@[simp] theorem exec_eret t s : exec (.eret t) s = execEret t s := rfl
@[simp] theorem exec_mfe t rd n s : exec (.mfe t rd n) s = execMfe t rd n s := rfl
@[simp] theorem exec_mte t n ra s : exec (.mte t n ra) s = execMte t n ra s := rfl
@[simp] theorem exec_xsw t rd n s : exec (.xsw t rd n) s = execXsw t rd n s := rfl
@[simp] theorem exec_edone t s : exec (.edone t) s = execEdone t s := rfl
@[simp] theorem exec_nibegin t ra s : exec (.nibegin t ra) s = execNibegin t ra s := rfl
@[simp] theorem exec_niend t s : exec (.niend t) s = execNiend t s := rfl
@[simp] theorem exec_mfs t rd s : exec (.mfs t rd) s = execMfs t rd s := rfl
@[simp] theorem exec_mts t ra s : exec (.mts t ra) s = execMts t ra s := rfl
@[simp] theorem exec_niWindowEnd t s : exec (.niWindowEnd t) s = execNiWindowEnd t s := rfl
@[simp] theorem exec_interruptEntry t pos s : exec (.interruptEntry t pos) s = execInterruptEntry t pos s := rfl
@[simp] theorem exec_timerInterrupt t sealedBank s : exec (.timerInterrupt t sealedBank) s = execTimerInterrupt t sealedBank s := rfl
@[simp] theorem exec_eviction t s : exec (.eviction t) s = execEviction t s := rfl
@[simp] theorem exec_lockupOverrun t s : exec (.lockupOverrun t) s = execLockupOverrun t s := rfl
@[simp] theorem exec_p4ItemPerform t sub bad s : exec (.p4ItemPerform t sub bad) s = execP4ItemPerform t sub bad s := rfl
@[simp] theorem exec_p7InboundPerform core sub bad s : exec (.p7InboundPerform core sub bad) s = execP7InboundPerform core sub bad s := rfl
@[simp] theorem exec_scrubSlot core sub bad s : exec (.scrubSlot core sub bad) s = execScrubSlot core sub bad s := rfl
@[simp] theorem exec_scrubForced core sub bad s : exec (.scrubForced core sub bad) s = execScrubForced core sub bad s := rfl
@[simp] theorem exec_rpush t ring va s : exec (.rpush t ring va) s = execRpush t ring va s := rfl
@[simp] theorem exec_rpushg t ring ra s : exec (.rpushg t ring ra) s = execRpushg t ring ra s := rfl
@[simp] theorem exec_rpop t vd ring s : exec (.rpop t vd ring) s = execRpop t vd ring s := rfl
@[simp] theorem exec_rpopg t rd ring s : exec (.rpopg t rd ring) s = execRpopg t rd ring s := rfl
@[simp] theorem exec_rtpush t rd ring va s : exec (.rtpush t rd ring va) s = execRtpush t rd ring va s := rfl
@[simp] theorem exec_rtpushg t rd ring ra s : exec (.rtpushg t rd ring ra) s = execRtpushg t rd ring ra s := rfl
@[simp] theorem exec_rtpop t rd ring va s : exec (.rtpop t rd ring va) s = execRtpop t rd ring va s := rfl
@[simp] theorem exec_rtpopg t rd ring ra s : exec (.rtpopg t rd ring ra) s = execRtpopg t rd ring ra s := rfl
@[simp] theorem exec_rstat t rd ring s : exec (.rstat t rd ring) s = execRstat t rd ring s := rfl
@[simp] theorem exec_rrd t rd ring f s : exec (.rrd t rd ring f) s = execRrd t rd ring f s := rfl
@[simp] theorem exec_rwbase t ring ra s : exec (.rwbase t ring ra) s = execRwbase t ring ra s := rfl
@[simp] theorem exec_rwsize t ring ra s : exec (.rwsize t ring ra) s = execRwsize t ring ra s := rfl
@[simp] theorem exec_rwhead t ring ra s : exec (.rwhead t ring ra) s = execRwhead t ring ra s := rfl
@[simp] theorem exec_rwtail t ring ra s : exec (.rwtail t ring ra) s = execRwtail t ring ra s := rfl
@[simp] theorem exec_rclr t ring s : exec (.rclr t ring) s = execRclr t ring s := rfl
@[simp] theorem exec_tlda t ra rc pg rowsM1 bytesM1 s : exec (.tlda t ra rc pg rowsM1 bytesM1) s = execTlda t ra rc pg rowsM1 bytesM1 s := rfl
@[simp] theorem exec_tldb t rb rc pg rowsM1 bytesM1 s : exec (.tldb t rb rc pg rowsM1 bytesM1) s = execTldb t rb rc pg rowsM1 bytesM1 s := rfl
@[simp] theorem exec_tldab t ra rb rc pga rowsA bytesA pgb rowsB bytesB s : exec (.tldab t ra rb rc pga rowsA bytesA pgb rowsB bytesB) s = execTldab t ra rb rc pga rowsA bytesA pgb rowsB bytesB s := rfl
@[simp] theorem exec_mma t z cm s : exec (.mma t z cm) s = execMma t z cm s := rfl
@[simp] theorem exec_tclr t z s : exec (.tclr t z) s = execTclr t z s := rfl
@[simp] theorem exec_trel t mask s : exec (.trel t mask) s = execTrel t mask s := rfl
@[simp] theorem exec_tst t z ra rb rc pg fmt sc bi cl sr vs s : exec (.tst t z ra rb rc pg fmt sc bi cl sr vs) s = execTst t z ra rb rc pg fmt sc bi cl sr vs s := rfl
@[simp] theorem exec_range t ra rb rc pgs pgd src tgt mode s : exec (.range t ra rb rc pgs pgd src tgt mode) s = execRange t ra rb rc pgs pgd src tgt mode s := rfl
@[simp] theorem exec_txld t ra pg s : exec (.txld t ra pg) s = execTxld t ra pg s := rfl
@[simp] theorem exec_tsave t ra pg tile s : exec (.tsave t ra pg tile) s = execTsave t ra pg tile s := rfl
@[simp] theorem exec_trestore t ra pg tile s : exec (.trestore t ra pg tile) s = execTrestore t ra pg tile s := rfl
@[simp] theorem exec_mft t rd n s : exec (.mft t rd n) s = execMft t rd n s := rfl
@[simp] theorem exec_mtt t ra n s : exec (.mtt t ra n) s = execMtt t ra n s := rfl
@[simp] theorem exec_twait t s : exec (.twait t) s = execTwait t s := rfl
@[simp] theorem exec_tileEngineStart core e s : exec (.tileEngineStart core e) s = execTileEngineStart core e s := rfl
@[simp] theorem exec_unitInstructionComplete core s : exec (.unitInstructionComplete core) s = execUnitInstructionComplete core s := rfl
@[simp] theorem exec_longTileRetire t upto s : exec (.longTileRetire t upto) s = execLongTileRetire t upto s := rfl
@[simp] theorem exec_vadd t vd va vb et s : exec (.vadd t vd va vb et) s = execVadd t vd va vb et s := rfl
@[simp] theorem exec_vsub t vd va vb et s : exec (.vsub t vd va vb et) s = execVsub t vd va vb et s := rfl
@[simp] theorem exec_vmul t vd va vb et s : exec (.vmul t vd va vb et) s = execVmul t vd va vb et s := rfl
@[simp] theorem exec_vfma t vd va vb vc et s : exec (.vfma t vd va vb vc et) s = execVfma t vd va vb vc et s := rfl
@[simp] theorem exec_vmax t vd va vb et u s : exec (.vmax t vd va vb et u) s = execVmax t vd va vb et u s := rfl
@[simp] theorem exec_vmin t vd va vb et u s : exec (.vmin t vd va vb et u) s = execVmin t vd va vb et u s := rfl
@[simp] theorem exec_vand t vd va vb et s : exec (.vand t vd va vb et) s = execVand t vd va vb et s := rfl
@[simp] theorem exec_vor t vd va vb et s : exec (.vor t vd va vb et) s = execVor t vd va vb et s := rfl
@[simp] theorem exec_vxor t vd va vb et s : exec (.vxor t vd va vb et) s = execVxor t vd va vb et s := rfl
@[simp] theorem exec_vshl t vd va vb et s : exec (.vshl t vd va vb et) s = execVshl t vd va vb et s := rfl
@[simp] theorem exec_vshr t vd va vb et u s : exec (.vshr t vd va vb et u) s = execVshr t vd va vb et u s := rfl
@[simp] theorem exec_vcmp t vd va vb et sub u s : exec (.vcmp t vd va vb et sub u) s = execVcmp t vd va vb et sub u s := rfl
@[simp] theorem exec_vsel t vd va vb vc et s : exec (.vsel t vd va vb vc et) s = execVsel t vd va vb vc et s := rfl
@[simp] theorem exec_vexp t vd va et s : exec (.vexp t vd va et) s = execVexp t vd va et s := rfl
@[simp] theorem exec_vrcp t vd va et s : exec (.vrcp t vd va et) s = execVrcp t vd va et s := rfl
@[simp] theorem exec_vcvt t vd va rb et et2 rm u s : exec (.vcvt t vd va rb et et2 rm u) s = execVcvt t vd va rb et et2 rm u s := rfl
@[simp] theorem exec_vred t rd va et sub u s : exec (.vred t rd va et sub u) s = execVred t rd va et sub u s := rfl
@[simp] theorem exec_vbcast t vd ra et s : exec (.vbcast t vd ra et) s = execVbcast t vd ra et s := rfl
@[simp] theorem exec_vext t rd va rb et s : exec (.vext t rd va rb et) s = execVext t rd va rb et s := rfl
@[simp] theorem exec_vins t vd ra rb et s : exec (.vins t vd ra rb et) s = execVins t vd ra rb et s := rfl
@[simp] theorem exec_vmfc t rd n s : exec (.vmfc t rd n) s = execVmfc t rd n s := rfl
@[simp] theorem exec_vmtc t n ra s : exec (.vmtc t n ra) s = execVmtc t n ra s := rfl
@[simp] theorem exec_vld t vd ra pg s : exec (.vld t vd ra pg) s = execVld t vd ra pg s := rfl
@[simp] theorem exec_vst t va rd pg s : exec (.vst t va rd pg) s = execVst t va rd pg s := rfl
@[simp] theorem exec_vldc t vd ra pg s : exec (.vldc t vd ra pg) s = execVldc t vd ra pg s := rfl
@[simp] theorem exec_vgth t vd ra vb et pg s : exec (.vgth t vd ra vb et pg) s = execVgth t vd ra vb et pg s := rfl
@[simp] theorem exec_vsct t vc ra vb et pg s : exec (.vsct t vc ra vb et pg) s = execVsct t vc ra vb et pg s := rfl
@[simp] theorem exec_vlop t rd ra rb vc et sub u pg s : exec (.vlop t rd ra rb vc et sub u pg) s = execVlop t rd ra rb vc et sub u pg s := rfl
@[simp] theorem exec_vlcvt t rd ra rb rc et et2 rm u pg s : exec (.vlcvt t rd ra rb rc et et2 rm u pg) s = execVlcvt t rd ra rb rc et et2 rm u pg s := rfl
@[simp] theorem exec_vlred t rd ra rb et sub u pg s : exec (.vlred t rd ra rb et sub u pg) s = execVlred t rd ra rb et sub u pg s := rfl
@[simp] theorem exec_streamEngineStart core s : exec (.streamEngineStart core) s = execStreamEngineStart core s := rfl
@[simp] theorem exec_vectorMemoryRetire t upto s : exec (.vectorMemoryRetire t upto) s = execVectorMemoryRetire t upto s := rfl
@[simp] theorem exec_fence t s : exec (.fence t) s = execFence t s := rfl
@[simp] theorem exec_fencer t s : exec (.fencer t) s = execFencer t s := rfl
@[simp] theorem exec_fencea t s : exec (.fencea t) s = execFencea t s := rfl
@[simp] theorem exec_cwait t ra k s : exec (.cwait t ra k) s = execCwait t ra k s := rfl
@[simp] theorem exec_cwaita t s : exec (.cwaita t) s = execCwaita t s := rfl
@[simp] theorem exec_crd t rd k s : exec (.crd t rd k) s = execCrd t rd k s := rfl
@[simp] theorem exec_swap t rd ra rb pg s : exec (.swap t rd ra rb pg) s = execSwap t rd ra rb pg s := rfl
@[simp] theorem exec_cas t rd ra rb pg s : exec (.cas t rd ra rb pg) s = execCas t rd ra rb pg s := rfl
@[simp] theorem exec_fadd t rd ra rb pg s : exec (.fadd t rd ra rb pg) s = execFadd t rd ra rb pg s := rfl
@[simp] theorem exec_fand t rd ra rb pg s : exec (.fand t rd ra rb pg) s = execFand t rd ra rb pg s := rfl
@[simp] theorem exec_forA t rd ra rb pg s : exec (.forA t rd ra rb pg) s = execForA t rd ra rb pg s := rfl
@[simp] theorem exec_fxor t rd ra rb pg s : exec (.fxor t rd ra rb pg) s = execFxor t rd ra rb pg s := rfl
@[simp] theorem exec_fmax t rd ra rb pg s : exec (.fmax t rd ra rb pg) s = execFmax t rd ra rb pg s := rfl
@[simp] theorem exec_fmin t rd ra rb pg s : exec (.fmin t rd ra rb pg) s = execFmin t rd ra rb pg s := rfl
@[simp] theorem exec_fmaxu t rd ra rb pg s : exec (.fmaxu t rd ra rb pg) s = execFmaxu t rd ra rb pg s := rfl
@[simp] theorem exec_fminu t rd ra rb pg s : exec (.fminu t rd ra rb pg) s = execFminu t rd ra rb pg s := rfl
@[simp] theorem exec_aload t rd ra pg s : exec (.aload t rd ra pg) s = execAload t rd ra pg s := rfl
@[simp] theorem exec_addn32 t ra rb pg rtag s : exec (.addn32 t ra rb pg rtag) s = execAddn32 t ra rb pg rtag s := rfl
@[simp] theorem exec_addn64 t ra rb pg rtag s : exec (.addn64 t ra rb pg rtag) s = execAddn64 t ra rb pg rtag s := rfl
@[simp] theorem exec_inject node s : exec (.inject node) s = execInject node s := rfl
@[simp] theorem exec_flitHop plane x y damage s : exec (.flitHop plane x y damage) s = execFlitHop plane x y damage s := rfl
@[simp] theorem exec_injectionThrottleEval core s : exec (.injectionThrottleEval core) s = execInjectionThrottleEval core s := rfl
@[simp] theorem exec_rdAtHome node j ue s : exec (.rdAtHome node j ue) s = execRdAtHome node j ue s := rfl
@[simp] theorem exec_wrAtHome node j ue s : exec (.wrAtHome node j ue) s = execWrAtHome node j ue s := rfl
@[simp] theorem exec_atomAtHome node j ue s : exec (.atomAtHome node j ue) s = execAtomAtHome node j ue s := rfl
@[simp] theorem exec_addAtHome node j ue s : exec (.addAtHome node j ue) s = execAddAtHome node j ue s := rfl
@[simp] theorem exec_rdataArrive core j ue s : exec (.rdataArrive core j ue) s = execRdataArrive core j ue s := rfl
@[simp] theorem exec_wackArrive core j s : exec (.wackArrive core j) s = execWackArrive core j s := rfl
@[simp] theorem exec_atomrArrive core j ue s : exec (.atomrArrive core j ue) s = execAtomrArrive core j ue s := rfl
@[simp] theorem exec_sourceRefusalComplete t s : exec (.sourceRefusalComplete t) s = execSourceRefusalComplete t s := rfl
@[simp] theorem exec_controlAccess node j s : exec (.controlAccess node j) s = execControlAccess node j s := rfl
@[simp] theorem exec_cpset t ch f ra s : exec (.cpset t ch f ra) s = execCpset t ch f ra s := rfl
@[simp] theorem exec_cpget t rd ch f s : exec (.cpget t rd ch f) s = execCpget t rd ch f s := rfl
@[simp] theorem exec_cpwait t ch s : exec (.cpwait t ch) s = execCpwait t ch s := rfl
@[simp] theorem exec_copyGo t ch ra s : exec (.copyGo t ch ra) s = execCopyGo t ch ra s := rfl
@[simp] theorem exec_copyAbort t ch ra s : exec (.copyAbort t ch ra) s = execCopyAbort t ch ra s := rfl
@[simp] theorem exec_copyEventClear t ch ra s : exec (.copyEventClear t ch ra) s = execCopyEventClear t ch ra s := rfl
@[simp] theorem exec_copyBurstIssue core s : exec (.copyBurstIssue core) s = execCopyBurstIssue core s := rfl
@[simp] theorem exec_copyBurstComplete core ch j s : exec (.copyBurstComplete core ch j) s = execCopyBurstComplete core ch j s := rfl
@[simp] theorem exec_copyStop core ch s : exec (.copyStop core ch) s = execCopyStop core ch s := rfl
@[simp] theorem exec_stackAccept stk j bad s : exec (.stackAccept stk j bad) s = execStackAccept stk j bad s := rfl
@[simp] theorem exec_stackSlot stk ch s : exec (.stackSlot stk ch) s = execStackSlot stk ch s := rfl
@[simp] theorem exec_stackRefresh stk ch s : exec (.stackRefresh stk ch) s = execStackRefresh stk ch s := rfl
@[simp] theorem exec_stackResponse stk j ue s : exec (.stackResponse stk j ue) s = execStackResponse stk j ue s := rfl
@[simp] theorem exec_atomicUnitOp stk s : exec (.atomicUnitOp stk) s = execAtomicUnitOp stk s := rfl
@[simp] theorem exec_atomicEvictWriteback stk s : exec (.atomicEvictWriteback stk) s = execAtomicEvictWriteback stk s := rfl
@[simp] theorem exec_patrolScrubCreate stk ch s : exec (.patrolScrubCreate stk ch) s = execPatrolScrubCreate stk ch s := rfl
@[simp] theorem exec_neighbourRefresh stk ch bank row s : exec (.neighbourRefresh stk ch bank row) s = execNeighbourRefresh stk ch bank row s := rfl
@[simp] theorem exec_phyCalibration stk ch s : exec (.phyCalibration stk ch) s = execPhyCalibration stk ch s := rfl
@[simp] theorem exec_telemetryReadout stk ch s : exec (.telemetryReadout stk ch) s = execTelemetryReadout stk ch s := rfl
@[simp] theorem exec_regionLog stk ch q s : exec (.regionLog stk ch q) s = execRegionLog stk ch q s := rfl
@[simp] theorem exec_stackFailure stk s : exec (.stackFailure stk) s = execStackFailure stk s := rfl
@[simp] theorem exec_train stk s : exec (.train stk) s = execTrain stk s := rfl
@[simp] theorem exec_trainingDone stk ok s : exec (.trainingDone stk ok) s = execTrainingDone stk ok s := rfl
@[simp] theorem exec_stkClearRetire stk s : exec (.stkClearRetire stk) s = execStkClearRetire stk s := rfl
@[simp] theorem exec_stkClearErr stk s : exec (.stkClearErr stk) s = execStkClearErr stk s := rfl
@[simp] theorem exec_walkLineReturn core by_ k s : exec (.walkLineReturn core by_ k) s = execWalkLineReturn core by_ k s := rfl
@[simp] theorem exec_wtbaseWrite acc c v s : exec (.wtbaseWrite acc c v) s = execWtbaseWrite acc c v s := rfl
@[simp] theorem exec_wtcountWrite acc c v s : exec (.wtcountWrite acc c v) s = execWtcountWrite acc c v s := rfl
@[simp] theorem exec_winvAll acc c s : exec (.winvAll acc c) s = execWinvAll acc c s := rfl
@[simp] theorem exec_winvEntry acc c e s : exec (.winvEntry acc c e) s = execWinvEntry acc c e s := rfl
@[simp] theorem exec_winvDone c s : exec (.winvDone c) s = execWinvDone c s := rfl
@[simp] theorem exec_hostInboundRead f off len s : exec (.hostInboundRead f off len) s = execHostInboundRead f off len s := rfl
@[simp] theorem exec_hostInboundWrite f off data s : exec (.hostInboundWrite f off data) s = execHostInboundWrite f off data s := rfl
@[simp] theorem exec_doorbell f j size v s : exec (.doorbell f j size v) s = execDoorbell f j size v s := rfl
@[simp] theorem exec_dbPendClear acc f v s : exec (.dbPendClear acc f v) s = execDbPendClear acc f v s := rfl
@[simp] theorem exec_msixSend t f v s : exec (.msixSend t f v) s = execMsixSend t f v s := rfl
@[simp] theorem exec_hostCompletion tag data s : exec (.hostCompletion tag data) s = execHostCompletion tag data s := rfl
@[simp] theorem exec_pf0RateRelease s : exec (.pf0RateRelease) s = execPf0RateRelease s := rfl
@[simp] theorem exec_vfFlr f s : exec (.vfFlr f) s = execVfFlr f s := rfl
@[simp] theorem exec_vfFlrComplete f s : exec (.vfFlrComplete f) s = execVfFlrComplete f s := rfl
@[simp] theorem exec_pf0Flr s : exec (.pf0Flr) s = execPf0Flr s := rfl
@[simp] theorem exec_hotReset s : exec (.hotReset) s = execHotReset s := rfl
@[simp] theorem exec_d3hot s : exec (.d3hot) s = execD3hot s := rfl
@[simp] theorem exec_linkDown s : exec (.linkDown) s = execLinkDown s := rfl
@[simp] theorem exec_completionTimeout tag s : exec (.completionTimeout tag) s = execCompletionTimeout tag s := rfl
@[simp] theorem exec_poisonedWrite f off s : exec (.poisonedWrite f off) s = execPoisonedWrite f off s := rfl
@[simp] theorem exec_poisonedCompletion tag s : exec (.poisonedCompletion tag) s = execPoisonedCompletion tag s := rfl
@[simp] theorem exec_unexpectedCompletion s : exec (.unexpectedCompletion) s = execUnexpectedCompletion s := rfl
@[simp] theorem exec_unsupportedRequest f s : exec (.unsupportedRequest f) s = execUnsupportedRequest f s := rfl
@[simp] theorem exec_bridgeInternalError s : exec (.bridgeInternalError) s = execBridgeInternalError s := rfl
@[simp] theorem exec_ideCheckFailure stream s : exec (.ideCheckFailure stream) s = execIdeCheckFailure stream s := rfl
@[simp] theorem exec_ideKm stream key s : exec (.ideKm stream key) s = execIdeKm stream key s := rfl
@[simp] theorem exec_doeObject obj s : exec (.doeObject obj) s = execDoeObject obj s := rfl
@[simp] theorem exec_doeAbort s : exec (.doeAbort) s = execDoeAbort s := rfl
@[simp] theorem exec_quoteReq cid nonce s : exec (.quoteReq cid nonce) s = execQuoteReq cid nonce s := rfl
@[simp] theorem exec_skeyReq s : exec (.skeyReq) s = execSkeyReq s := rfl
@[simp] theorem exec_spdmMessage msg s : exec (.spdmMessage msg) s = execSpdmMessage msg s := rfl
@[simp] theorem exec_frameTransmit port s : exec (.frameTransmit port) s = execFrameTransmit port s := rfl
@[simp] theorem exec_frameReceive port f s : exec (.frameReceive port f) s = execFrameReceive port f s := rfl
@[simp] theorem exec_ackTimeoutReplay port s : exec (.ackTimeoutReplay port) s = execAckTimeoutReplay port s := rfl
@[simp] theorem exec_controlFrameReceive port m s : exec (.controlFrameReceive port m) s = execControlFrameReceive port m s := rfl
@[simp] theorem exec_meridianHandoff port s : exec (.meridianHandoff port) s = execMeridianHandoff port s := rfl
@[simp] theorem exec_lanesLocked port s : exec (.lanesLocked port) s = execLanesLocked port s := rfl
@[simp] theorem exec_trainingTimeout port halfLocked s : exec (.trainingTimeout port halfLocked) s = execTrainingTimeout port halfLocked s := rfl
@[simp] theorem exec_downRetry port s : exec (.downRetry port) s = execDownRetry port s := rfl
@[simp] theorem exec_identify port peerAccepts s : exec (.identify port peerAccepts) s = execIdentify port peerAccepts s := rfl
@[simp] theorem exec_linkFailure port s : exec (.linkFailure port) s = execLinkFailure port s := rfl
@[simp] theorem exec_retrainDone port lanes s : exec (.retrainDone port lanes) s = execRetrainDone port lanes s := rfl
@[simp] theorem exec_retrainTimeout port s : exec (.retrainTimeout port) s = execRetrainTimeout port s := rfl
@[simp] theorem exec_retrain port s : exec (.retrain port) s = execRetrain port s := rfl
@[simp] theorem exec_disable port s : exec (.disable port) s = execDisable port s := rfl
@[simp] theorem exec_cablePresenceChange port present s : exec (.cablePresenceChange port present) s = execCablePresenceChange port present s := rfl
@[simp] theorem exec_tallySubmit t die addr s : exec (.tallySubmit t die addr) s = execTallySubmit t die addr s := rfl
@[simp] theorem exec_tallyJobStart die s : exec (.tallyJobStart die) s = execTallyJobStart die s := rfl
@[simp] theorem exec_tallyLineReceive die half step index data s : exec (.tallyLineReceive die half step index data) s = execTallyLineReceive die half step index data s := rfl
@[simp] theorem exec_tallyAbortLine die s : exec (.tallyAbortLine die) s = execTallyAbortLine die s := rfl
@[simp] theorem exec_tallyTimeout die s : exec (.tallyTimeout die) s = execTallyTimeout die s := rfl
@[simp] theorem exec_tallyJobEnd die s : exec (.tallyJobEnd die) s = execTallyJobEnd die s := rfl
@[simp] theorem exec_tallyAbort t die tag s : exec (.tallyAbort t die tag) s = execTallyAbort t die tag s := rfl
@[simp] theorem exec_snap s : exec (.snap) s = execSnap s := rfl
@[simp] theorem exec_digClear s : exec (.digClear) s = execDigClear s := rfl
@[simp] theorem exec_key c slot s : exec (.key c slot) s = execKey c slot s := rfl
@[simp] theorem exec_keyStart s : exec (.keyStart) s = execKeyStart s := rfl
@[simp] theorem exec_keyReplicationAnswer stk hash s : exec (.keyReplicationAnswer stk hash) s = execKeyReplicationAnswer stk hash s := rfl
@[simp] theorem exec_replicationTimeout stk s : exec (.replicationTimeout stk) s = execReplicationTimeout stk s := rfl
@[simp] theorem exec_keyComplete s : exec (.keyComplete) s = execKeyComplete s := rfl
@[simp] theorem exec_bind c slot s : exec (.bind c slot) s = execBind c slot s := rfl
@[simp] theorem exec_unbind c slot s : exec (.unbind c slot) s = execUnbind c slot s := rfl
@[simp] theorem exec_retire c slot fill s : exec (.retire c slot fill) s = execRetire c slot fill s := rfl
@[simp] theorem exec_rotate s : exec (.rotate) s = execRotate s := rfl
@[simp] theorem exec_recon s : exec (.recon) s = execRecon s := rfl
@[simp] theorem exec_enrol s : exec (.enrol) s = execEnrol s := rfl
@[simp] theorem exec_identityReady s : exec (.identityReady) s = execIdentityReady s := rfl
@[simp] theorem exec_quoteGo cid pkg s : exec (.quoteGo cid pkg) s = execQuoteGo cid pkg s := rfl
@[simp] theorem exec_quoteDone s : exec (.quoteDone) s = execQuoteDone s := rfl
@[simp] theorem exec_bdecl t ra rb s : exec (.bdecl t ra rb) s = execBdecl t ra rb s := rfl
@[simp] theorem exec_bfree t ra s : exec (.bfree t ra) s = execBfree t ra s := rfl
@[simp] theorem exec_barr t rd ra s : exec (.barr t rd ra) s = execBarr t rd ra s := rfl
@[simp] theorem exec_bstat t rd ra s : exec (.bstat t rd ra) s = execBstat t rd ra s := rfl
@[simp] theorem exec_wait t rd ra rb s : exec (.wait t rd ra rb) s = execWait t rd ra rb s := rfl
@[simp] theorem exec_sig t ra rb s : exec (.sig t ra rb) s = execSig t ra rb s := rfl
@[simp] theorem exec_spoll t rd ra s : exec (.spoll t rd ra) s = execSpoll t rd ra s := rfl
@[simp] theorem exec_sigcfg t ra s : exec (.sigcfg t ra) s = execSigcfg t ra s := rfl
@[simp] theorem exec_sigrd t rd s : exec (.sigrd t rd) s = execSigrd t rd s := rfl
@[simp] theorem exec_declareAtHome die j s : exec (.declareAtHome die j) s = execDeclareAtHome die j s := rfl
@[simp] theorem exec_freeAtHome die j s : exec (.freeAtHome die j) s = execFreeAtHome die j s := rfl
@[simp] theorem exec_arriveAtHome die j s : exec (.arriveAtHome die j) s = execArriveAtHome die j s := rfl
@[simp] theorem exec_declareEvent s : exec (.declareEvent) s = execDeclareEvent s := rfl
@[simp] theorem exec_freeEvent s : exec (.freeEvent) s = execFreeEvent s := rfl
@[simp] theorem exec_releaseEvent s : exec (.releaseEvent) s = execReleaseEvent s := rfl
@[simp] theorem exec_flushEvent s : exec (.flushEvent) s = execFlushEvent s := rfl
@[simp] theorem exec_flushReportComplete b s : exec (.flushReportComplete b) s = execFlushReportComplete b s := rfl
@[simp] theorem exec_beaconParityResend s : exec (.beaconParityResend) s = execBeaconParityResend s := rfl
@[simp] theorem exec_signalArrive core j s : exec (.signalArrive core j) s = execSignalArrive core j s := rfl
@[simp] theorem exec_fogSample c s : exec (.fogSample c) s = execFogSample c s := rfl
@[simp] theorem exec_fogEscalation c s : exec (.fogEscalation c) s = execFogEscalation c s := rfl
@[simp] theorem exec_fogAlarmClear acc c s : exec (.fogAlarmClear acc c) s = execFogAlarmClear acc c s := rfl
@[simp] theorem exec_liveLimitsWrite acc c v s : exec (.liveLimitsWrite acc c v) s = execLiveLimitsWrite acc c v s := rfl
@[simp] theorem exec_meshLimitsWrite acc c v s : exec (.meshLimitsWrite acc c v) s = execMeshLimitsWrite acc c v s := rfl
@[simp] theorem exec_meshClearTraffic die s : exec (.meshClearTraffic die) s = execMeshClearTraffic die s := rfl
@[simp] theorem exec_meshClearStatus die s : exec (.meshClearStatus die) s = execMeshClearStatus die s := rfl
@[simp] theorem exec_perstNAssert s : exec (.perstNAssert) s = execPerstNAssert s := rfl
@[simp] theorem exec_perstNRelease s : exec (.perstNRelease) s = execPerstNRelease s := rfl
@[simp] theorem exec_romSelfCheck s : exec (.romSelfCheck) s = execRomSelfCheck s := rfl
@[simp] theorem exec_bootGo s : exec (.bootGo) s = execBootGo s := rfl
@[simp] theorem exec_bootAbort s : exec (.bootAbort) s = execBootAbort s := rfl
@[simp] theorem exec_imageFetched s : exec (.imageFetched) s = execImageFetched s := rfl
@[simp] theorem exec_verifyDone s : exec (.verifyDone) s = execVerifyDone s := rfl
@[simp] theorem exec_warm s : exec (.warm) s = execWarm s := rfl
@[simp] theorem exec_coreResetGo die index s : exec (.coreResetGo die index) s = execCoreResetGo die index s := rfl
@[simp] theorem exec_coreResetDone die s : exec (.coreResetDone die) s = execCoreResetDone die s := rfl
@[simp] theorem exec_treset t s : exec (.treset t) s = execTreset t s := rfl
@[simp] theorem exec_threadResetDone t s : exec (.threadResetDone t) s = execThreadResetDone t s := rfl
@[simp] theorem exec_kick s : exec (.kick) s = execKick s := rfl
@[simp] theorem exec_watchdogExpiry s : exec (.watchdogExpiry) s = execWatchdogExpiry s := rfl
@[simp] theorem exec_lanternRetry node s : exec (.lanternRetry node) s = execLanternRetry node s := rfl
@[simp] theorem exec_ageingSample slacks s : exec (.ageingSample slacks) s = execAgeingSample slacks s := rfl
@[simp] theorem exec_monitorGate core s : exec (.monitorGate core) s = execMonitorGate core s := rfl
@[simp] theorem exec_planCompute s : exec (.planCompute) s = execPlanCompute s := rfl
@[simp] theorem exec_floorRaise rail slack s : exec (.floorRaise rail slack) s = execFloorRaise rail slack s := rfl
@[simp] theorem exec_logbookWriteCycle s : exec (.logbookWriteCycle) s = execLogbookWriteCycle s := rfl
@[simp] theorem exec_info s : exec (.info) s = execInfo s := rfl
@[simp] theorem exec_setWallTime v s : exec (.setWallTime v) s = execSetWallTime v s := rfl
@[simp] theorem exec_chartLoad src s : exec (.chartLoad src) s = execChartLoad src s := rfl
@[simp] theorem exec_chartCmd cmd cid s : exec (.chartCmd cmd cid) s = execChartCmd cmd cid s := rfl
@[simp] theorem exec_faultedSet core s : exec (.faultedSet core) s = execFaultedSet core s := rfl
@[simp] theorem exec_faultedClear core s : exec (.faultedClear core) s = execFaultedClear core s := rfl
@[simp] theorem exec_eventRead seq count s : exec (.eventRead seq count) s = execEventRead seq count s := rfl
@[simp] theorem exec_logbookRead page count s : exec (.logbookRead page count) s = execLogbookRead page count s := rfl
@[simp] theorem exec_stackWear stk ch s : exec (.stackWear stk ch) s = execStackWear stk ch s := rfl
@[simp] theorem exec_powerCap watts s : exec (.powerCap watts) s = execPowerCap watts s := rfl
@[simp] theorem exec_skeyRotate s : exec (.skeyRotate) s = execSkeyRotate s := rfl
@[simp] theorem exec_telemetryMirror s : exec (.telemetryMirror) s = execTelemetryMirror s := rfl
@[simp] theorem exec_tallyClear acc v s : exec (.tallyClear acc v) s = execTallyClear acc v s := rfl
@[simp] theorem exec_smbusStatus s : exec (.smbusStatus) s = execSmbusStatus s := rfl
@[simp] theorem exec_tjMax s : exec (.tjMax) s = execTjMax s := rfl
@[simp] theorem exec_stackTmax s : exec (.stackTmax) s = execStackTmax s := rfl
@[simp] theorem exec_inputPower s : exec (.inputPower) s = execInputPower s := rfl
@[simp] theorem exec_serial s : exec (.serial) s = execSerial s := rfl
@[simp] theorem exec_warmReset v pecOk s : exec (.warmReset v pecOk) s = execWarmReset v pecOk s := rfl
@[simp] theorem exec_smbusPowerCap w pecOk s : exec (.smbusPowerCap w pecOk) s = execSmbusPowerCap w pecOk s := rfl
@[simp] theorem exec_bypass s : exec (.bypass) s = execBypass s := rfl
@[simp] theorem exec_idcode s : exec (.idcode) s = execIdcode s := rfl
@[simp] theorem exec_samplePreload s : exec (.samplePreload) s = execSamplePreload s := rfl
@[simp] theorem exec_extest s : exec (.extest) s = execExtest s := rfl
@[simp] theorem exec_clamp s : exec (.clamp) s = execClamp s := rfl
@[simp] theorem exec_highz s : exec (.highz) s = execHighz s := rfl
@[simp] theorem exec_dbgAccess write off data s : exec (.dbgAccess write off data) s = execDbgAccess write off data s := rfl
@[simp] theorem exec_dbgStop t s : exec (.dbgStop t) s = execDbgStop t s := rfl
@[simp] theorem exec_dbgResume t s : exec (.dbgResume t) s = execDbgResume t s := rfl
@[simp] theorem exec_dbgStep t s : exec (.dbgStep t) s = execDbgStep t s := rfl
@[simp] theorem exec_stepStop t s : exec (.stepStop t) s = execStepStop t s := rfl
@[simp] theorem exec_dbgDataAccess core write data s : exec (.dbgDataAccess core write data) s = execDbgDataAccess core write data s := rfl
@[simp] theorem exec_vinRise s : exec (.vinRise) s = execVinRise s := rfl
@[simp] theorem exec_powerGood s : exec (.powerGood) s = execPowerGood s := rfl
@[simp] theorem exec_vinFall s : exec (.vinFall) s = execVinFall s := rfl
@[simp] theorem exec_powerComparatorEval powerMw vinMv currents temps stackTemps s : exec (.powerComparatorEval powerMw vinMv currents temps stackTemps) s = execPowerComparatorEval powerMw vinMv currents temps stackTemps s := rfl
@[simp] theorem exec_pwrLimitsWrite v s : exec (.pwrLimitsWrite v) s = execPwrLimitsWrite v s := rfl
@[simp] theorem exec_thermalTrip s : exec (.thermalTrip) s = execThermalTrip s := rfl
@[simp] theorem exec_tripRelease s : exec (.tripRelease) s = execTripRelease s := rfl
@[simp] theorem exec_retirementComplete slot s : exec (.retirementComplete slot) s = execRetirementComplete slot s := rfl
@[simp] theorem exec_dataLinkUp s : exec (.dataLinkUp) s = execDataLinkUp s := rfl
@[simp] theorem exec_configurationRequest f fld v s : exec (.configurationRequest f fld v) s = execConfigurationRequest f fld v s := rfl
@[simp] theorem exec_fabricWireFailure unit s : exec (.fabricWireFailure unit) s = execFabricWireFailure unit s := rfl
@[simp] theorem exec_referenceReturn s : exec (.referenceReturn) s = execReferenceReturn s := rfl

end Sys2Proof.Machine
end

