-- ==== Sys2Proof/Tests/Slice0.lean ====
section
/-! SUPPORT. The model's own tests: ill-formed commands that `wf` refuses, a witness for the hypotheses of each
statement, and small checks of single commands against the spec's worked examples. -/

namespace Sys2Proof.Tests

-- One theorem after another: each takes the kernel much memory.
set_option Elab.async false

open Sys2Proof Sys2Proof.Machine Sys2Proof.Claims

/-! ## Small states -/

/-- Thread 22 (core 5, thread 2) of running constellation 3, at supervisor level of the Open world. -/
def W : State :=
  { power := { capW := 3200, perstLow := false }, clk := { rootLock := true, ccycle := 20000, sidereal := 5000 }
    cores := [(5, { member := some 3 })], cons := [(3, { st := .running })]
    threads := [(22, { g := [(1, 0x10), (2, 0x8000000000000000), (3, -1), (4, 64)], pc := 0x100000, level := true
                       pg := [(0, 0x10000AE00000), (1, 0x10000A000000)] })] }

/-- W with thread 22 changed. -/
def wThr (f : Thread → Thread) : State := W.modThr 22 f
/-- W with core 5 changed. -/
def wCore (f : Core → Core) : State := W.modCore 5 f
/-- W with constellation 3 changed. -/
def wCon (f : Cons → Cons) : State := W.modCon 3 f
/-- W with thread 22 in the Sealed world, in session 7. -/
def wSealed : State := wThr fun th => { th with world := true, session := 7, bankS := { gretRsp := 3, gretPc := 0x2000 } }
/-- W with the firmware running. -/
def wKeeper : State := { W with keeper := { boot := .running } }

/-! ## Witnesses: states and operands that meet the hypotheses of each statement, clause by clause -/

theorem witness_EveryCommandCompletes : (Instr.add 4607 1 2 3).wf .nv8 = true ∧ (Instr.stackFailure 5).wf .nv2 = true ∧
    ∃ u, exec (.nop 22) W = .next u := ⟨by decide, by decide, _, rfl⟩

theorem witness_StepKeepsMemories : W.memOk = true ∧ ∃ u, step W = .next u := ⟨by decide +kernel, _, rfl⟩

theorem witness_QueueRuns : ∃ u, step { W with pending := [.nop 22, .rootLock] } = .next u ∧ u.pending = [.rootLock] :=
  ⟨_, rfl, rfl⟩

theorem witness_StepRunsFront : W.pending = [] ∧ W.clk.rootLock = true ∧ W.ageing.moves = [] ∧ State.reset.pending = [] ∧
    State.reset.clk.rootLock = false := by decide +kernel

theorem witness_ArithmeticResults : W.ready 22 [1, 2] = true ∧ W.ready 22 [2, 3] = true ∧ (W.thr 22).greg 2 = 0x8000000000000000 ∧
    (W.thr 22).greg 3 = -1 ∧ (W.thr 22).greg 4 = 64 ∧ W.ready 22 [1, 4] = true ∧ (W.thr 22).greg 0 = 0 := by decide +kernel

theorem witness_ImmediateResults : W.ready 22 [1] = true ∧ ((W.thr 22).greg 1).toNat < 2 ^ (4 + 1) ∧ 2 ^ 4 ≤ ((W.thr 22).greg 1).toNat ∧
    ((W.thr 22).greg 1).toNat % 2 ^ (4 + 1) = 2 ^ 4 ∧ ((W.thr 22).greg 2).toNat / 2 ^ 63 % 2 = 1 ∧ W.ready 22 [] = true := by decide +kernel

/-- The bits of g1. -/
theorem witness_ImmediateResults_pop : [4].Nodup ∧ ∀ i, i ∈ [4] ↔ ((W.thr 22).greg 1).toNat / 2 ^ i % 2 = 1 := by
  have e : ((W.thr 22).greg 1).toNat = 2 ^ 4 := by decide +kernel
  refine ⟨by decide, fun i => ?_⟩
  rw [e, List.mem_singleton]
  constructor
  · rintro rfl; decide
  · intro h
    rcases Nat.lt_trichotomy i 4 with hi | hi | hi
    · interval_cases i <;> simp at h
    · exact hi
    · rw [Nat.div_eq_of_lt (Nat.pow_lt_pow_right (by decide) hi)] at h; simp at h

theorem witness_ReadsOfState : W.ready 22 [] = true ∧ (22 : Nat) < 4 * W.member.cores ∧ (3 : Nat) < 32 ∧ (W.core (22 / 4)).member = some 3 ∧
    (W.con 3).cfg.commonMib ≤ 28 ∧ W.ready 22 [1] = true := by decide +kernel

theorem witness_BranchTargets : W.ready 22 [1, 2] = true ∧ (W.thr 22).greg 1 ≠ (W.thr 22).greg 2 ∧ (W.thr 22).greg 1 = (W.thr 22).greg 1 ∧
    W.ready 22 [1, 1] = true := by decide +kernel

/-- RSP at 0, 2047 and 2048, in both worlds. -/
theorem witness_ReturnStack :
    (let s := wThr fun th => { th with rsp := 2047 }
     (s.thr 22).rsp < 2048 ∧ s.ready 22 [] = true ∧ (s.thr 22).retBad = false ∧ s.conflict 22 ((lsBase (coreOf 22) + s.retOff 22) / 64) = false) ∧
    (let s := wThr fun th => { th with rsp := 2048, level := false }
     (s.thr 22).rsp = 2048 ∧ s.ready 22 [] = true ∧ s.ready 22 [1] = true ∧ (s.thr 22).level = false) ∧
    (W.thr 22).rsp = 0 ∧ W.ready 22 [1] = true ∧ (W.thr 22).level = true ∧
    (let s := wSealed.modThr 22 fun th => { th with rsp := 3 }
     s.ready 22 [] = true ∧ (s.thr 22).world = true ∧ (s.thr 22).rsp = (s.thr 22).bankS.gretRsp.toNat) := by decide +kernel

/-- The two consequences of the last clause have an entry and a return to speak of. -/
theorem witness_ReturnStack_entry : ∃ u, exec (.eret 22) W = .next u := ⟨_, rfl⟩

theorem witness_ExceptionEntries : W.ready 22 [] = true ∧ (W.thr 22).el = false ∧ (W.thr 22).brkStop = false ∧ (W.thr 22).world = false ∧
    (wThr fun th => { th with el := true }).ready 22 [] = true ∧ ((wThr fun th => { th with el := true }).thr 22).el = true ∧
    ((wThr fun th => { th with brkStop := true }).thr 22).brkStop = true ∧ (wThr fun th => { th with brkStop := true }).ready 22 [] = true ∧
    (wThr fun th => { th with pc := 0x10000AE00000 }).fetchable 22 0x10000AE00000 = true ∧
    (wThr fun th => { th with pc := 0x10000A000000 }).fetchable 22 0x10000A000000 = false := by
  decide +kernel

theorem witness_MisalignedRaises :
    (∃ f, IsLoad (.ldh 22 5 1 0 1) 22 [1] 2 false 5 f ∧ W.ready 22 [1] = true ∧ f (W.thr 22) % 2 ≠ 0 ∧
      W.stalls 22 { kind := .load 2 false 5, addr := f (W.thr 22) } = false) ∧
    (∃ f, IsStore (.stx 22 5 1 3 0 0 3) 22 [5, 1, 3] 8 5 f ∧ W.ready 22 [5, 1, 3] = true ∧ f (W.thr 22) % 8 ≠ 0) ∧
    (8 : Nat) ∈ [1, 2, 4, 8] ∧ 56 % 8 = 0 :=
  ⟨⟨_, .m (.ldh, 2, false) (by simp [loadOps]) 22 5 1 0 1, by decide +kernel, by decide +kernel, by decide +kernel⟩,
   ⟨_, .x 22 5 1 3 0 0 3, by decide +kernel, by decide +kernel⟩, by decide, by decide⟩

/-- A line of the gather buffer that holds the first bytes of thread 22's slice. -/
def gathered : GEntry := { line := 0xE00000 / 128, valid := BitVec.allOnes 128 }

theorem witness_OwnLoads : ∃ f, IsLoad (.ldd 22 5 1 0 0) 22 [1] 8 false 5 f ∧
    (∀ s ∈ [W, wThr fun th => { th with gather := [gathered] }], s.ready 22 [1] = true ∧ f (s.thr 22) % 8 = 0 ∧
      ownOffset (coreOf 22) (f (s.thr 22)) = some 0xE00010 ∧ s.ownOk 22 0xE00010 false = true ∧ s.conflict 22 (f (s.thr 22) / 64) = false) ∧
    (W.thr 22).gatherHit 0xE00010 8 = none ∧ (W.thr 22).p4 = [] ∧ (W.thr 22).gather = [] ∧ W.rowBad 5 (0xE00010 / 128) = 0 ∧
    (0 : Fin 8).val = 0xE00010 / 128 % 8 ∧ ((wThr fun th => { th with gather := [gathered] }).thr 22).gatherHit 0xE00010 8 = some 0 :=
  ⟨_, .m (.ldd, 8, false) (by simp [loadOps]) 22 5 1 0 0, by decide +kernel, by decide +kernel, rfl, rfl, by decide +kernel, by decide, by decide +kernel⟩

theorem witness_OwnStores : ∃ f, IsStore (.std 22 2 1 0 0) 22 [2, 1] 8 2 f ∧ W.ready 22 [2, 1] = true ∧ f (W.thr 22) % 8 = 0 ∧
    ownOffset (coreOf 22) (f (W.thr 22)) = some 0xE00010 ∧ W.ownOk 22 0xE00010 true = true ∧ (W.thr 22).storeQ = [] ∧ (W.thr 22).p4 = [] ∧
    (W.thr 22).gather = [] ∧ W.rowBad 5 (0xE00010 / 128) = 0 ∧ (0 : Fin 8).val = 0xE00010 / 128 % 8 :=
  ⟨_, .m (.std, 8) (by simp [storeOps]) 22 2 1 0 0, by decide +kernel, by decide +kernel, by decide +kernel, by decide +kernel, rfl, rfl, rfl,
    by decide +kernel, by decide⟩

/-- Page 1 names the slice of thread 0. The last byte of the own slice, and the return-stack region at both levels. -/
theorem witness_SliceRefusals :
    (∃ f, IsLoad (.ldd 22 5 1 1 0) 22 [1] 8 false 5 f ∧ W.ready 22 [1] = true ∧ f (W.thr 22) % 8 = 0 ∧
      ownOffset (coreOf 22) (f (W.thr 22)) = some 0x10 ∧ W.ownOk 22 0x10 false = false ∧ W.conflict 22 (f (W.thr 22) / 64) = false) ∧
    (∃ f, IsStore (.std 22 2 1 1 0) 22 [2, 1] 8 2 f ∧ W.ready 22 [2, 1] = true ∧ f (W.thr 22) % 8 = 0 ∧
      ownOffset (coreOf 22) (f (W.thr 22)) = some 0x10 ∧ W.ownOk 22 0x10 true = false) ∧
    W.ownOk 22 0x14FFFFF false = true ∧ W.ownOk 22 0x14FC000 true = true ∧
    (wThr fun th => { th with level := false }).ownOk 22 0x14FC000 true = false ∧
    (let s := wThr fun th => { th with refusals := [{ due := 20000, dst := .g 5 9 }], busy := [(5, 9)] }
     s.clocksOn = true ∧ (s.thr 22).refusals = { due := 20000, dst := .g 5 9 } :: [] ∧ Map.get 0 (s.thr 22).busy 5 = 9) :=
  ⟨⟨_, .m (.ldd, 8, false) (by simp [loadOps]) 22 5 1 1 0, by decide +kernel, by decide +kernel, by decide +kernel, by decide +kernel, by decide +kernel⟩,
   ⟨_, .m (.std, 8) (by simp [storeOps]) 22 2 1 1 0, by decide +kernel, by decide +kernel, by decide +kernel, by decide +kernel⟩, by decide +kernel⟩

theorem witness_NotPermitted :
    (let s := wThr fun th => { th with level := false }
     (s.thr 22).level = false ∧ s.ready 22 [] = true ∧ s.ready 22 [1] = true) ∧
    (W.thr 22).world ≠ decide (16 ≤ (31 : Fin 32).val) ∧ W.ready 22 [] = true ∧ W.ready 22 [1] = true ∧ (W.thr 22).world = false ∧
    (wSealed.ready 22 [1] = true ∧ (wSealed.thr 22).world = true) ∧
    (let s := wThr fun th => { th with el := true }
     s.ready 22 [1] = true ∧ (s.thr 22).level = true ∧ (s.thr 22).el = true) := by decide +kernel

theorem witness_EntryRegisters : W.ready 22 [] = true ∧ W.ready 22 [1] = true ∧ (W.thr 22).level = true ∧
    (W.thr 22).world = decide (16 ≤ (15 : Fin 32).val) ∧ wSealed.ready 22 [1] = true ∧ (wSealed.thr 22).level = true ∧
    (wSealed.thr 22).world = decide (16 ≤ (31 : Fin 32).val) := by decide +kernel

theorem witness_ReturnAndGate : W.ready 22 [] = true ∧ (W.thr 22).level = true ∧
    (let s : State := { (wCon fun x => { x with cfg := { x.cfg with sealedCapable := true } }) with
       trust := { slots := [(16, { st := .bound, owner := 3 })] } }
     s.ready 22 [1] = true ∧ (s.thr 22).world = false ∧ (s.thr 22).el = false ∧ (s.thr 22).ni = false ∧ (s.core (coreOf 22)).member = some 3 ∧
       (s.con 3).cfg.sealedCapable = true ∧ (s.slot (((s.thr 22).greg 1).toNat % 4096)).st = .bound ∧
       (s.slot (((s.thr 22).greg 1).toNat % 4096)).owner = 3) := by decide +kernel

theorem witness_GateOutScrubs : wSealed.ready 22 [] = true ∧ (wSealed.thr 22).world = true ∧ (wSealed.thr 22).level = true := by decide +kernel

theorem witness_InterruptDelivery :
    (let s := wThr fun th => { th with ie := true, bankO := { ipend := 0x20, imask := 0x20 }, blocked := some (.prd 5 1) }
     s.runs 22 = true ∧ (s.thr 22).stopped = false ∧ (s.thr 22).walk = none ∧ (s.thr 22).pcWait = false ∧ (s.thr 22).treset = false ∧
       (s.thr 22).long = none ∧ (s.thr 22).blocked = some (.prd 5 1) ∧ (BlockOp.prd 5 1).leaves = true ∧ lowestBit (s.deliverable 22) = some 5) ∧
    (W.thr 22).ie = false ∧ (BlockOp.scan true false none 0).leaves = false ∧ (BlockOp.rclr 3).leaves = true ∧
    (let s := wThr fun th => { th with bankO := { tcmp := 5000 } }
     s.clocksOn = true ∧ ((s.thr 22).bank false).tcmp ≠ 0 ∧ ((s.thr 22).bank false).tcmp.toNat ≤ s.clk.sidereal.toNat) := by decide +kernel

theorem witness_InterruptWindows : W.ready 22 [1] = true ∧ (W.thr 22).level = true ∧ (W.thr 22).el = false ∧
    (W.core (coreOf 22)).member = some 3 ∧ W.ready 22 [] = true ∧
    ((wThr fun th => { th with el := true }).ready 22 [1] = true ∧ ((wThr fun th => { th with el := true }).thr 22).el = true) ∧
    (let s := wThr fun th => { th with ni := true, niEnd := 20000 }
     s.clocksOn = true ∧ (s.thr 22).ni = true) := by decide +kernel

/-- 8192 cycles after the demand, and one less; 256 cycles after EL was set. -/
theorem witness_EvictionAndOverrun :
    (let s := wSealed.modThr 22 fun th => { th with demand := some 11808 }
     s.clocksOn = true ∧ (s.thr 22).demand = some 11808 ∧ (s.thr 22).world = true ∧ (s.core (coreOf 22)).locked = false ∧
       (11808 : Word).toNat + 8192 ≤ s.clk.ccycle.toNat) ∧
    (let s := wSealed.modThr 22 fun th => { th with demand := some 11809 }
     (s.thr 22).demand = some 11809 ∧ s.clk.ccycle.toNat < (11809 : Word).toNat + 8192) ∧
    (let s := wThr fun th => { th with el := true, elSince := 19744 }
     s.clocksOn = true ∧ (s.thr 22).el = true ∧ (s.core (coreOf 22)).locked = false ∧ (s.core (coreOf 22)).member = some 3 ∧
       (s.thr 22).elSince.toNat + 256 ≤ s.clk.ccycle.toNat) := by decide +kernel

/-- W with words in the pipes of core 5. -/
def wPipe (ps : Map (List PipeWord)) (f : Thread → Thread := id) : State := (W.modCore 5 fun x => { x with pipes := ps }).modThr 22 f
/-- A word of an open thread's message. -/
def pw (committed : Bool) : PipeWord := { data := 9, tag := {}, committed, last := committed }
def pwSealed : PipeWord := { data := 9, tag := { sealed := true, session := 7 }, committed := true, last := true }

/-- Six and seven open words; a full pipe; words of the thread's tag and of another. -/
theorem witness_PipesInOrder :
    (let s := wPipe [(8, List.replicate 6 (pw false))]
     s.ready 22 [1] = true ∧ (pipeOf s 22 2 0).length < 8 ∧ txOpen (pipeOf s 22 2 0) < 7) ∧
    (let s := wPipe [(8, List.replicate 7 (pw false))]
     s.ready 22 [1] = true ∧ (pipeOf s 22 2 0).length < 8 ∧ 7 ≤ txOpen (pipeOf s 22 2 0)) ∧
    (let s := wPipe [(6, [pw true])]
     s.ready 22 [] = true ∧ pipeOf s 22 1 2 = pw true :: [] ∧ (pw true).committed = true ∧ (pw true).tag = (s.thr 22).tag) ∧
    (let s := wPipe [(6, [pwSealed])]
     pipeOf s 22 1 2 = pwSealed :: [] ∧ pwSealed.committed = true ∧ pwSealed.tag ≠ (s.thr 22).tag) ∧
    (pipeOf W 22 1 2).head?.all (fun w => !w.committed) = true ∧
    (let s := wPipe [(6, [pw true])] fun th => { th with blocked := some (.prd 3 1) }
     s.runs 22 = true ∧ (s.thr 22).stopped = false ∧ (s.thr 22).blocked = some (.prd 3 1) ∧ pipeOf s 22 1 2 = pw true :: []) ∧
    (let s := wPipe [(8, List.replicate 8 (pw true))]
     s.ready 22 [1] = true ∧ 8 ≤ (pipeOf s 22 2 0).length ∧ txOpen (pipeOf s 22 2 0) < 7) ∧
    (let s := wPipe [(8, List.replicate 6 (pw false))] fun th => { th with blocked := some (.pwr false 0 9) }
     s.runs 22 = true ∧ (s.thr 22).stopped = false ∧ (s.thr 22).blocked = some (.pwr false 0 9) ∧ (pipeOf s 22 2 0).length < 8 ∧
       txOpen (pipeOf s 22 2 0) < 7) ∧
    (2 : Fin 4).val = 22 % 4 ∧ (0 : Fin 4).val ≠ 22 % 4 ∧ (pipeOf W 22 2 0).length ≤ 8 ∧ (pipeOf W 22 0 2).length ≤ 8 := by decide +kernel

/-- An entry that maps 0x1000 to 0x1FFF on a target, readable, writable and cacheable; and on itself. -/
def entryTo (target : Nat) : BitVec 256 := BitVec.ofNat 256 (0x1000 + 2 ^ 52 + 2 ^ 54 + 2 ^ 55 + 2 ^ 57 + 0x1FFF * 2 ^ 64 + target * 2 ^ 128)
def entry : BitVec 256 := entryTo 0x1000

/-- Constellation 3 reaches set 0, the first GiB of stack 0; its window table has `n` entries, of which entry 0 is `entry`. -/
def wWin (n : Nat) (ws : List WCached) (f : Thread → Thread := id) : State :=
  ((({ W with chart := { W.chart with pkg := { sets := [(0, { mask := 1, sizeGib := 1 })] } } } : State).modCon 3 fun x =>
    { x with wtcount := BitVec.ofNat 64 n, wtbase := 0x8000, cfg := { x.cfg with reach := 1 } }).setStkLine 0 512
      (entry.setWidth 512)).modThr 22 f |>.modCore 5 fun x => { x with wcache := ws, dcache := [{ line := 0x40, tag := {}, data := 7, dirty := 1 }] }

theorem witness_CacheMaintenance :
    (let s := wThr fun th => { th with blocked := some .maint }
     s.runs 22 = true ∧ (s.thr 22).stopped = false ∧ (s.thr 22).blocked = some .maint ∧ s.wbDone 22 = true) ∧
    (∀ k ∈ [0, 127, 128], let s := wThr fun th => { th with blocked := some (.scan true false (some 19990) k) }
     s.runs 22 = true ∧ (s.thr 22).stopped = false ∧ (s.thr 22).blocked = some (.scan true false (some 19990) k)) ∧
    ((W.thr 22).cachedWaits = false ∧ W.wbDone 22 = true ∧ (W.core (coreOf 22)).dcache = [] ∧
      let clk : Clock := { rootLock := true, ccycle := 20128 }
      clk.rootLock = true ∧ W.clk.ccycle.toNat + 128 ≤ clk.ccycle.toNat) ∧
    W.ready 22 [] = true ∧ W.ready 22 [1] = true ∧ ownOffset (coreOf 22) ((W.thr 22).eaA 1 0) ≠ none ∧
    (let s := wThr fun th => { th with pg := [(0, 0xF000400000000)] }
     s.ready 22 [1] = true ∧ isCtl ((s.thr 22).eaA 1 0) = true) ∧
    (let s := wWin 1 [{ index := 0, raw := entry }] fun th => { th with pg := [(0, 0x1000)] }
     let a := (s.thr 22).eaA 0 0
     s.ready 22 [0] = true ∧ ownOffset 5 a = none ∧ isCtl a = false ∧ (s.core 5).member = some 3 ∧ s.tableOk 3 = true ∧
       s.cachedEntry 5 3 a = some { index := 0, raw := entry } ∧ useEntry entry (s.thr 22).tag {} a = .ok 0x1000 {} true ∧
       ownOffset 5 0x1000 = none ∧ s.homeNode 3 0x1000 ≠ none ∧
       let e := entryTo 0x200000000000
       let q : State := { wWin 1 [{ index := 0, raw := e }] fun th => { th with pg := [(0, 0x1000)] } with
         funcs := [(0, { bound := some 3, hwbase := 0x200000000000, hwlimit := 0x200000000000 })] }
       q.cachedEntry 5 3 a = some { index := 0, raw := e } ∧ useEntry e (s.thr 22).tag {} a = .ok 0x200000000000 {} true ∧
         q.ready 22 [0] = true ∧ q.tableOk 3 = true ∧ ownOffset 5 0x200000000000 = none ∧ q.homeNode 3 0x200000000000 = none) := by decide +kernel

/-- W with g1 = 4. -/
def wMis : State := wThr fun th => { th with g := [(1, 4)] }

theorem witness_AtomicIssue :
    (W.ready 22 [1, 0] = true ∧ W.ready 22 [1, 3, 2] = true ∧ coreOf 22 < W.member.cores ∧ (W.thr 22).eaA 1 0 % 8 = 0 ∧
      ownOffset (coreOf 22) ((W.thr 22).eaA 1 0) = some 0xE00010 ∧ W.ownOkAt 22 false 0xE00010 true = true ∧
      W.conflict 22 ((W.thr 22).eaA 1 0 / 64) = false ∧ (W.core (coreOf 22)).dcache = [] ∧
      (W.core (coreOf 22)).waitQ = [] ∧ (W.core (coreOf 22)).injQ.length < 16 ∧ (W.thr 22).outstanding 0 < 4096 ∧
      ((W.core (coreOf 22)).outst.all fun o => o.line != (W.thr 22).eaA 1 0 / 64) = true) ∧
    (W.core (coreOf 22)).member = some 3 ∧ (W.thr 22).world = false ∧ W.ready 22 [1, 3] = true ∧
    (let s := wThr fun th => { th with pg := [(0, 0x10000B4FBFF0)] }
     ((s.thr 22).eaA 1 0 % 8 = 0 ∧ ownOffset (coreOf 22) ((s.thr 22).eaA 1 0) = some 0x14FC000 ∧ s.conflict 22 ((s.thr 22).eaA 1 0 / 64) = false ∧
       s.ready 22 [1, 0] = true ∧ s.ready 22 [1, 3] = true) ∧
       W.ownOkAt 22 false 0x14FC000 true = false) ∧
    (wMis.thr 22).eaA 1 0 % 8 ≠ 0 ∧ wMis.ready 22 [1, 0] = true := by decide +kernel

/-- No kind of access stalls at a misaligned own-store address with an empty store queue. -/
theorem witness_AtomicIssue_stalls (k : AccKind) : wMis.stalls 22 { kind := k, addr := (wMis.thr 22).eaA 1 0 } = false := by
  have e : wMis.accLine 22 ((wMis.thr 22).eaA 1 0) = some (0x10000AE00004 / 64) := by decide +kernel
  have c : wMis.conflict 22 (0x10000AE00004 / 64) = false := by decide +kernel
  simp only [State.stalls, e, c, Bool.and_false]

/-- A packet for the first half of thread 22's slice. -/
def pk (typ : PType) : Packet := { typ, line := 0x10000AE00000 / 64, first := 8, last := 15, dst := 5, src := 7 }

/-- Stored halves of the packet's tag, and of a Sealed session. -/
theorem witness_HomeRequests :
    (∀ p ∈ [pk .rd, pk .wr, pk .atom, pk .add], AtCore (W.setInb 5 [p]) 5 0 p ∧ p.first ≤ p.last ∧ p.last < 64 ∧ p.word < 8 ∧
      W.halfTag 5 (p.line * 64 % 0x2000000 / 64) = p.tag ∧ mayRead p.tag (W.halfTag 5 (p.line * 64 % 0x2000000 / 64)) = true ∧
      (0 : Fin 8).val = subStore (p.line * 64 % 0x2000000)) ∧
    (let s := (W.setHalf 5 0x38000 1 { sealed := true, session := 7 }).setInb 5 [pk .rd]
     AtCore s 5 0 (pk .rd) ∧ s.halfTag 5 ((pk .rd).line * 64 % 0x2000000 / 64) ≠ (pk .rd).tag ∧
       mayRead (pk .rd).tag (s.halfTag 5 ((pk .rd).line * 64 % 0x2000000 / 64)) = false ∧ s.keeper.violPkg ≠ BitVec.allOnes 48) ∧
    (pk .add).first % 8 = 0 ∧ (pk .add).last % 8 = 7 := by
  unfold AtCore; decide +kernel

/-- Core 5 waits for one packet, and its answer is at its endpoint. -/
def wWait (typ : PType) (use : Use) : State :=
  ((W.modCore 5 fun x => { x with outst := [{ engine := .thread 22, thread := 2, stream := 1, seq := 4, line := 9, use }] }).modThr 22
    fun th => { th with busy := [(6, 3)], long := some { op := .twait, id := 8, owed := [4] } }).setInb 5
    [{ typ, line := 9, thread := 2, stream := 1, seq := 4 }]

theorem witness_AnswersComplete :
    (∀ x ∈ [(PType.rdata, Use.load 22 (.g 6 3) 8 4 true), (.atomr, .atomOld 22 (.g 6 3)), (.wack, .ack 22),
        (.rdata, .copyRead 2 0 0), (.wack, .copyWrite 2 0), (.rdata, .fill 22 (.g 6 3) 8 4 true), (.rdata, .engine 22 8 4)],
      let s := wWait x.1 x.2
      s.clocksOn = true ∧ (s.inb 5)[0]? = some { typ := x.1, line := 9, thread := 2, stream := 1, seq := 4 } ∧
        s.findOutst 5 { typ := x.1, line := 9, thread := 2, stream := 1, seq := 4 } =
          some (0, { engine := .thread 22, thread := 2, stream := 1, seq := 4, line := 9, use := x.2 }) ∧ (s.core 5).waitQ = [] ∧
        Map.get 0 (s.thr 22).busy 6 = 3 ∧ (s.thr 22).long = some { op := .twait, id := 8, owed := [4] }) ∧
    (let s := W.setInb 5 [{ typ := .wack, line := 9 }]
     (s.inb 5)[0]? = some { typ := .wack, line := 9 } ∧ s.findOutst 5 { typ := .wack, line := 9 } = none) := by decide +kernel

/-- MESH_LIMITS at the ends of its two fields: 1 and 64, 1 and 16, and one beyond. -/
theorem witness_InjectionAndLimits :
    (let s := W.setOutb nodeControl [pk .rdata]
     s.clocksOn = true ∧ s.outb nodeControl = pk .rdata :: [] ∧
       let r := s.routerOf nodeControl (pk .rdata).line
       (s.freePlanes r.1 r.2.1 r.2.2).head? = some 0) ∧
    (let s := wCore fun x => { x with injQ := [pk .rd] }
     5 < s.member.cores ∧ s.outb 5 = [] ∧ (s.core 5).injQ = pk .rd :: [] ∧ (s.core 5).waitQ = [] ∧ (s.core 5).throttled = false ∧
       (s.freePlanes (s.member.xy 5).1 (s.member.xy 5).2 0).head? = some 0) ∧
    (let s := wCore fun x => { x with injQ := [pk .rd], throttled := true, lastInj := (List.range 4).map fun i => (i, 40001) }
     s.outb 5 = [] ∧ (s.core 5).throttled = true ∧
       ∀ pl < 4, Map.get 0 (s.core 5).lastInj pl ≠ 0 ∧ s.fab < Map.get 0 (s.core 5).lastInj pl + 7) ∧
    (∀ e ∈ [39938, 40001], ((wCore fun x => { x with evalAt := e }).core 5).evalAt ≠ 0 ∧
      W.fab < ((wCore fun x => { x with evalAt := e }).core 5).evalAt + 63) ∧
    (W.core 5).evalAt = 0 ∧ ((wCore fun x => { x with evalAt := 39937 }).core 5).evalAt + 63 ≤ W.fab ∧
    (W.core 5).member = some 3 ∧ W.isSup 22 3 = true ∧ W.isSup 22 4 = false ∧ wKeeper.clocksOn = true ∧ wKeeper.firmware = true ∧
    7 < wKeeper.member.dies ∧
    (∀ d ∈ [1, 64, 65, 0], ((BitVec.ofNat 64 (d * 256 + 16)).extractLsb' 8 7).toNat = d) ∧ (17#64).extractLsb' 0 5 = 17#5 := by decide +kernel

/-- A flit of a packet for core 5 (5, 0), at a router. -/
def fl (p : Packet) (x y : Nat) : Flit := { pkt := { p with dx := 5, dy := 0 }, plane := 1, x, y }
def wFlits (l : List Flit) : State := { W with flits := l }

/-- A flit at its destination, one on its way, one that the full Meridian port cannot take, two for one ejection port, and two
ADD flits whose counts sum to 8191 and to 8192. -/
theorem witness_RouterCycle :
    (let f := fl (pk .rd) 5 0; let s := wFlits [f]
     s.clocksOn = true ∧ s.failed = [] ∧ s.flitsAt 1 5 0 = [f] ∧ f.due < s.fab ∧ s.fab ≤ { f with due := 40000 }.due ∧ f.pkt.dx = 5 ∧ f.pkt.dy = 0 ∧
       s.accepts f.pkt 1 = true ∧
       ¬ (0xD00 ≤ f.pkt.dst ∧ f.pkt.dst < 0xE00)) ∧
    (let f := fl (pk .rd) 4 0; let s := wFlits [f]
     s.flitsAt 1 4 0 = [f] ∧ (productive f.pkt 4 0).head? = some 1 ∧ (s.member.out 4 0 1).isSome = true) ∧
    (let f := fl { pk .rd with dst := 0xD00 } 5 0; let s := (wFlits [f]).setInb 0xD00 (List.replicate 256 { pk .rd with came := 1 })
     s.flitsAt 1 5 0 = [f] ∧ f.due < s.fab ∧ f.pkt.dx = 5 ∧ f.pkt.dy = 0 ∧ s.accepts f.pkt 1 = false ∧
       ((List.range 4).find? fun o => (s.member.out 5 0 o).isSome) = some 1) ∧
    (let f := fl (pk .rd) 5 0; let g := fl { pk .wr with src := 9 } 5 0; let s := wFlits [g, f]
     s.flitsAt 1 5 0 = [g, f] ∧ s.rank f.pkt < s.rank g.pkt ∧ f.due < s.fab ∧ g.due < s.fab ∧ f.pkt.dport = g.pkt.dport ∧ f.pkt.typ ≠ g.pkt.typ ∧
       s.accepts f.pkt 1 = true) ∧
    (let f := fl { pk .add with cnt := 8190 } 4 0; let g := fl { pk .add with src := 9, cnt := 1 } 4 0; let s := wFlits [f, g]
     s.flitsAt 1 4 0 = [f, g] ∧ s.rank f.pkt < s.rank g.pkt ∧ f.pkt.line = g.pkt.line ∧ f.pkt.dport = g.pkt.dport ∧
       f.due < s.fab ∧ g.due < s.fab ∧ f.pkt.bad = 0 ∧ g.pkt.bad = 0 ∧ (s.member.out 4 0 1).isSome = true ∧ f.pkt.rtag = g.pkt.rtag ∧
         f.pkt.cid = g.pkt.cid ∧ f.pkt.wide = g.pkt.wide ∧ f.pkt.cnt + g.pkt.cnt = 8191 ∧
       mergeable f.pkt g.pkt = true ∧ mergeable f.pkt { g.pkt with cnt := 2 } = false ∧ (productive f.pkt 4 0).head? = some 1) := by decide +kernel

/-- A line that returns early, one that moves a walk on, one that ends it as the last of its table, one that holds its entry,
and one that holds the entry of an engine's walk. -/
theorem witness_WindowTables :
    (let w : Walk := { acc := { kind := .store 8 1, addr := 0x5000 } }
     let s := wWin 3 [] fun th => { th with walk := some w }
     s.clocksOn = true ∧ (22 : Nat) = 4 * 5 + (2 : Fin 64).val ∧ (s.core 5).member = some 3 ∧ (s.thr 22).walk = some w ∧
       w.nextLine + (1 : Fin 8).val < s.tableLines 3 ∧ w.got = [] ∧ w.got.lookup (w.nextLine + 1) = none ∧
       (let r := s.tableLine 3 1; r.2.tableOk 3 = true ∧ w.nextLine < r.2.tableLines 3) ∧
       (let r := s.tableLine 3 0
        r.2.tableOk 3 = true ∧ r.2.matchIn 3 0 r.1 0x5000 = none ∧ w.nextLine + 1 < r.2.tableLines 3) ∧
       (let r := (wWin 2 [] fun th => { th with walk := some w }).tableLine 3 0
        r.2.tableOk 3 = true ∧ r.2.matchIn 3 0 r.1 0x5000 = none ∧ w.nextLine < r.2.tableLines 3 ∧ r.2.tableLines 3 ≤ w.nextLine + 1)) ∧
    (let w : Walk := { acc := { kind := .load 8 false 6, addr := 0x1008 } }
     let s := wWin 2 [] fun th => { th with walk := some w }
     let r := s.tableLine 3 0
     w.nextLine + (0 : Fin 8).val < s.tableLines 3 ∧ r.2.tableOk 3 = true ∧ w.nextLine < r.2.tableLines 3 ∧
       r.2.matchIn 3 0 r.1 0x1008 = some { index := 0, raw := entry } ∧ s.conflict 22 (entryLine entry 0x1008) = false ∧
       useEntry entry (s.thr 22).tag { r := true } 0x1008 = .ok 0x1008 {} true ∧ ownOffset 5 0x1008 = none ∧
       r.2.homeNode 3 0x1008 = some (0x800, none) ∧
       (s.core 5).cached (0x1008 / 64) {} = some { line := 0x40, tag := {}, data := 7, dirty := 1 } ∧
       let q := (wWin 2 []).modCore 5 fun x => { x with walks := [(4, w)] }
       let r := q.tableLine 3 0
       4 ≤ (8 : Fin 64).val ∧ Map.find (q.core 5).walks ((8 : Fin 64).val - 4) = some w ∧ w.nextLine < q.tableLines 3 ∧
         r.2.tableOk 3 = true ∧ w.nextLine < r.2.tableLines 3 ∧ r.2.matchIn 3 0 r.1 0x1008 = some { index := 0, raw := entry }) ∧
    (let s := wWin 2 []; s.isSup 22 3 = true ∧ 5 ∈ s.members 3 ∧ 6 ∉ s.members 3) ∧
    ((wCon fun x => { x with winv := [pk .wr] }).con 3).winv = [pk .wr] := by decide +kernel

/-- The host's view of function 0. -/
def wHost : State := { W with host := { linkUp := true, ready := true, vfEnable := true } }

theorem witness_RegisterAccess :
    (W.clocksOn = true ∧ (0x1D#64).toNat % 8 ≠ 0 ∧ (0xF000F00000000#64).toNat % 8 = 0 ∧ W.ctlMay (.thread 22) 0xF000F00000000 true = false) ∧
    (5 : Nat) < W.member.cores ∧ (W.core 5).member = some 3 ∧ W.isSup 22 3 = true ∧ wKeeper.firmware = true ∧ (W.con 3).faultLateAt ≠ W.clk.ccycle ∧
    (W.core 5).foe.lateAt ≠ W.clk.ccycle ∧ W.hwNow (.fault 3 2) = false ∧ (W.hwMark (.fault 3 2)).hwNow (.fault 3 2) = true ∧
    (wHost.hostSees 0 = true ∧ wHost.ideBroken 0 = false ∧ (wHost.func 0).flr = false ∧ wHost.keeper.boot ≠ .waiting) ∧
    ({ wHost with keeper := { boot := .waiting } } : State).keeper.boot = .waiting ∧
    (∀ typ ∈ [PType.rd, .wr], let p : Packet := { typ, line := 0xF000400000000 / 64, word := 3, control := true, opnd := 16 }
      let s := W.setInb nodeControl [p]
      (s.inb nodeControl)[0]? = some p ∧ p.control = true ∧ p.line * 64 + 8 * p.word = 0xF000400000000 + 8 * 3 ∧ s.ctlFirst nodeControl 0 p = true ∧
        (p.opnd.extractLsb' 0 5).toNat = 16) := by decide +kernel

/-- W with ring 8 (of thread 2) of core 5: `size` slots of the slice of thread 22 from 0xE01000, and states for its first two. -/
def wRing (size head tail st0 st1 : Nat) (f : Thread → Thread := id) : State :=
  (((W.modCore 5 fun x => { x with rings := [(8, { base := 0x10000AE01000, size, head, tail })] }).setSlotSt 5 0x38040 st0).setSlotSt 5
    0x38041 st1).modThr 22 f

/-- A fence with work left in each of its five ways, and with none; scans at their first, a middle and their last set. -/
theorem witness_FencesAndWaits :
    W.ready 22 [] = true ∧ (W.thr 22).stopped = false ∧ W.wbDone 22 = true ∧ (W.core (coreOf 22)).dcache = [] ∧
    (let clk : Clock := { rootLock := true, ccycle := 20128 }
     clk.rootLock = true ∧ W.clk.ccycle.toNat + 128 ≤ clk.ccycle.toNat) ∧
    (∀ f ∈ [fun th : Thread => ({ th with storeQ := [.own 0 8 1 {} 1] } : Thread), fun th => { th with gather := [{ line := 0, dirty := 1 }] },
            fun th => { th with p4 := [{ line := 0, kind := .ringPush 0 1, tag := {}, level := true, born := 0 }] },
            fun th => { th with issued := [(0, 1)] }], (wThr f).ready 22 [] = true ∧ (wThr f).fenceDone 22 = false) ∧
    ((wThr fun th => { th with blocked := some .fence }).runs 22 = true ∧
      ((wThr fun th => { th with blocked := some .fence }).thr 22).blocked = some .fence) ∧
    (∀ k ∈ [0, 127, 128], let s := wThr fun th => { th with blocked := some (.scan false true (some 19990) k) }
     s.runs 22 = true ∧ (s.thr 22).stopped = false ∧ (s.thr 22).blocked = some (.scan false true (some 19990) k)) ∧
    (let s := wThr fun th => { th with g := [(1, 4095), (2, 4096), (4, 1)], issued := [(3, 4096), (4, 1)] }
     s.ready 22 [1] = true ∧ ((s.thr 22).greg 1).toNat < 4096 ∧ ((s.thr 22).greg 1).toNat < (s.thr 22).outstanding 3 ∧
       4096 ≤ ((s.thr 22).greg 2).toNat ∧ s.ready 22 [4] = true ∧ ((s.thr 22).greg 4).toNat ≠ 0 ∧
       (s.thr 22).outstanding 4 ≤ ((s.thr 22).greg 4).toNat ∧ s.ready 22 [0] = true ∧ ((s.thr 22).greg 0).toNat = 0 ∧
       Map.get 0 (s.thr 22).issued 4 ≠ Map.get 0 (s.thr 22).done 4) := by decide +kernel

/-- Thread 22 has nothing left, in stream 0 and in every other. -/
theorem witness_FencesAndWaits_quiet : Drained W 22 ∧ ∀ k : Fin 16, Quiet W 22 k :=
  ⟨⟨by decide +kernel, by decide +kernel, by decide +kernel, by decide +kernel⟩, by unfold Quiet; decide +kernel⟩

/-- A push to an empty slot and a pop of a full one, each in the last slot of its ring, and blocked ones. -/
theorem witness_RingTransfers :
    (let s := wRing 2 0 1 2 0
     s.ringOk 5 8 = true ∧ (s.ring 5 8).size ≠ 0 ∧ s.ready 22 [32] = true ∧ s.ready 22 [1] = true ∧
       s.slotSt 5 (s.ringHalf 5 8 (s.ring 5 8).tail) = 0 ∧ s.slotSt 5 (s.ringHalf 5 8 (s.ring 5 8).head) = 2 ∧
       mayRead (s.thr 22).tag (s.halfTag 5 (s.ringHalf 5 8 (s.ring 5 8).head)) = true) ∧
    (let s := wRing 2 1 1 0 1
     s.ringOk 5 8 = true ∧ s.slotSt 5 (s.ringHalf 5 8 (s.ring 5 8).tail) = 1 ∧ s.slotSt 5 (s.ringHalf 5 8 (s.ring 5 8).head) = 1) ∧
    (let s := (wRing 2 0 1 2 0).setHalf 5 0x38040 1 { sealed := true, session := 7 }
     s.ready 22 [] = true ∧ s.ringOk 5 8 = true ∧ mayRead (s.thr 22).tag (s.halfTag 5 (s.ringHalf 5 8 (s.ring 5 8).head)) = false) ∧
    (let s := wRing 2 0 1 2 0 fun th => { th with blocked := some (.rpush 8 7) }
     s.runs 22 = true ∧ (s.thr 22).stopped = false ∧ (s.thr 22).blocked = some (.rpush 8 7) ∧ s.ringOk 5 8 = true ∧
       (s.thr 22).storeQ.length + (s.thr 22).p4.length < 8 ∧ s.slotSt 5 (s.ringHalf 5 8 (s.ring 5 8).tail) = 0) ∧
    (let s := wRing 2 0 1 2 0 fun th => { th with blocked := some (.rpop 8 false 6) }
     s.runs 22 = true ∧ (s.thr 22).blocked = some (.rpop 8 false 6) ∧ s.slotSt 5 (s.ringHalf 5 8 (s.ring 5 8).head) = 2 ∧
       mayRead (s.thr 22).tag (s.halfTag 5 (s.ringHalf 5 8 (s.ring 5 8).head)) = true) ∧
    ((wRing 0 0 0 0 0).ringOk 5 8 = true ∧ ((wRing 0 0 0 0 0).ring 5 8).size = 0 ∧ (wRing 2 2 0 0 0).ringOk 5 8 = false) ∧
    (∀ k ∈ [P4Kind.ringPush 0x38040 7, .ringPop 0x38040 (.v 6 3), .ringPop 0x38040 (.g 6 3)],
      let it : P4Item := { line := 0x1C020, kind := k, tag := {}, level := true, born := 1 }
      let s := wThr fun th => { th with p4 := [it], busy := [(6, 3), (38, 3)] }
      s.clocksOn = true ∧ (s.thr 22).p4 = [it] ∧ (s.thr 22).gather = [] ∧ it.line = 0x38040 / 2 ∧ s.rowBad 5 it.line = 0 ∧ (0 : Fin 8).val = it.line % 8 ∧
        Map.get 0 (s.thr 22).busy 38 = 3 ∧ Map.get 0 (s.thr 22).busy 6 = 3) ∧
    (W.ring 5 8).size = 0 ∧ (W.ring 5 8).head = 0 ∧ (W.ring 5 8).tail = 0 := by decide +kernel

/-- The owner (ring 8 of thread 2), another thread at O.s, and another thread at user level. -/
theorem witness_RingRegisters :
    W.ready 22 [1] = true ∧ 22 % 4 = (8 : Fin 16).val / 4 ∧ 22 % 4 ≠ (15 : Fin 16).val / 4 ∧ (W.thr 22).level = true ∧
    (let s := wThr fun th => { th with level := false }; s.ready 22 [1] = true ∧ ((s.thr 22).world = true ∨ (s.thr 22).level = false)) ∧
    (let s := wRing 2 0 1 2 0; s.ready 22 [] = true ∧ s.ringOk 5 8 = true ∧ (s.ring 5 8).size ≠ 0 ∧ s.memOk = true ∧
      (s.slotSt 5 (s.ringHalf 5 8 0) = 2 ∧ s.slotSt 5 (s.ringHalf 5 8 0 + 1) = 0)) ∧
    (let s := wRing 2 0 1 2 3; s.ringOk 5 8 = true ∧ s.slotSt 5 (s.ringHalf 5 8 0 + 1) = 3) ∧
    (let s := wRing 2 0 1 2 0 fun th => { th with blocked := some (.rclr 8) }
     s.runs 22 = true ∧ (s.thr 22).stopped = false ∧ (s.thr 22).blocked = some (.rclr 8) ∧ s.ringOk 5 8 = true ∧ s.memOk = true) ∧
    (wRing 2 2 0 0 0).ringOk 5 8 = false ∧ (wRing 0 0 0 0 0).ringOk 5 8 = true ∧ ((wRing 0 0 0 0 0).ring 5 8).size = 0 ∧
    W.p7Head 5 7 = none ∧ (W.core 5).member ≠ none ∧
    (let s : State := { W with clk := { W.clk with ccycle := 32768 } }
     s.clocksOn = true ∧ Map.get 0 (s.core 5).scrubLast 7 + 4096 ≤ s.clk.ccycle.toNat / 8) := by decide +kernel

/-- Every slot state of a ring with states 2 and 0 is below 4. -/
theorem witness_RingRegisters_slots (h : Nat) : (wRing 2 0 1 2 0).slotSt 5 h < 4 := by
  have e : (wRing 2 0 1 2 0).lsSlot = [(0x2B8040, 2)] := by decide +kernel
  simp only [State.slotSt, e, Map.get, Map.find]
  split_ifs <;> simp

theorem witness_MatrixIssue :
    W.ready 22 [1, 2] = true ∧ W.ready 22 [1, 2, 3] = true ∧ W.ready 22 ([1, 2, 3] ++ tstSrcs true true 3) = true ∧ W.ready 22 [] = true ∧
    ((W.thr 22).acc 1).st ≠ 2 ∧ ((wThr fun th => { th with z1 := { st := 2 } }).thr 22 |>.acc 1).st = 2 ∧
    (let s := wThr fun th => { th with pg := [(0, 0x10000AE00000)], g := [(1, 64), (2, 63)] }
     s.ready 22 [1] = true ∧ (s.thr 22).eaA 1 0 % 64 = 0 ∧ (s.thr 22).eaA 2 0 % 64 ≠ 0) ∧
    (W.thr 22).unitQ.length < 4 ∧ mmaWhy (W.thr 22).tshape (W.refOk 22) (W.thr 22).ta (W.thr 22).tb ((W.thr 22).acc 0) true = none ∧
    mmaWhy (W.thr 22).tshape (W.refOk 22) (W.thr 22).ta (W.thr 22).tb ((W.thr 22).acc 0) false = some 6 ∧
    ((wThr fun th => { th with unitQ := List.replicate 4 { op := .trel 1, tag := {} } }).thr 22).unitQ.length = 4 ∧
    (∀ i < 4, (W.thr 22).tileSt i ≤ 2) := by decide +kernel

/-- OwnRead, line by line. -/
theorem own_read {s : State} {t : Tid} {a n : Nat}
    (h : ((linesOf a n).all fun l => (ownOffset (coreOf t) (64 * l)).any fun off => s.ownOk t off false &&
      mayRead (s.thr t).tag (s.halfTag (coreOf t) (off / 64)) && decide (s.rowBad (coreOf t) (off / 128) = 0)) = true) : OwnRead s t a n := by
  intro l hl
  have := List.all_eq_true.1 h l hl
  match e : ownOffset (coreOf t) (64 * l), this with
  | some off, this =>
    simp only [Option.any_some, Bool.and_eq_true, decide_eq_true_eq] at this
    exact ⟨off, rfl, this.1.1, this.1.2, this.2⟩

/-- OwnWrite, byte by byte. -/
theorem own_write {s : State} {t : Tid} {a n : Nat}
    (h : ((List.range n).all fun j => (ownOffset (coreOf t) (a + j)).any fun off => s.ownOk t off true &&
      decide (s.halfTag (coreOf t) (off / 64) = (s.thr t).tag) && decide (s.rowBad (coreOf t) (off / 128) = 0)) = true) : OwnWrite s t a n := by
  intro j hj
  have := List.all_eq_true.1 h j (List.mem_range.2 hj)
  match e : ownOffset (coreOf t) (a + j), this with
  | some off, this =>
    simp only [Option.any_some, Bool.and_eq_true, decide_eq_true_eq] at this
    exact ⟨off, rfl, this.1.1, this.1.2, this.2⟩

/-- A thread without tagged halves, stacks or refusals writes any range within its slice below its return stack. -/
theorem own_slice {j : Nat} (h : j < 0x6FC000) (f : Thread → Thread) (hl : ((wThr f).thr 22).tag = {}) :
    ∃ off, ownOffset (coreOf 22) (0x10000AE00000 + j) = some off ∧ (wThr f).ownOk 22 off true = true ∧
      (wThr f).halfTag (coreOf 22) (off / 64) = ((wThr f).thr 22).tag ∧ (wThr f).rowBad (coreOf 22) (off / 128) = 0 := by
  have es : (wThr f).sliceBytes (coreOf 22) = W.sliceBytes 5 := rfl
  have ev : W.sliceBytes 5 = 0x700000 := by decide +kernel
  refine ⟨0xE00000 + j, ?_, ?_, ?_, rfl⟩
  · show ownOffset 5 _ = _
    unfold ownOffset
    rw [if_pos (by omega)]; congr 1; omega
  · have eb : (wThr f).rstackBase 22 = 0x14FC000 := (rfl : _ = W.rstackBase 22).trans (by decide +kernel)
    have k (l : Bool) : ((2 * 0x700000 ≤ 0xE00000 + j && 0xE00000 + j < (2 + 1) * 0x700000 || (4 * 0x700000 ≤ 0xE00000 + j && 0xE00000 + j < lsBytes)) &&
        !(true && (0x14FC000 ≤ 0xE00000 + j && 0xE00000 + j < (2 + 1) * 0x700000) && !l)) = true := by
      have h1 : decide (2 * 0x700000 ≤ 0xE00000 + j) = true := decide_eq_true (by omega)
      have h2 : decide (0xE00000 + j < (2 + 1) * 0x700000) = true := decide_eq_true (by omega)
      have h3 : decide (0x14FC000 ≤ 0xE00000 + j) = false := decide_eq_false (by omega)
      rw [h1, h2, h3]; rfl
    unfold State.ownOk State.ownOkAt
    rw [es, ev, eb]
    exact k _
  · have e : (wThr f).lsTag = [] := rfl
    simp only [State.halfTag, e, hl, Map.get, Map.find, Option.getD_none]

/-- Thread 22 in a started instruction. -/
def wLong (op : LongOp) (f : Thread → Thread := id) : State := wThr fun th => { f th with long := some { op, started := true } }

/-- A record of an operand tile with one row of one byte, at the start of the slice. -/
def wRecord : State := { wLong (.trestore 0x10000AE00000 0) with ls := [(0xAE00000, 2)] }

theorem witness_MatrixResults :
    (let s := wThr fun th => { th with unitQ := [{ op := .tclr 0 1 1, tag := {} }] }
     s.clocksOn = true ∧ (s.core 5).locked = false ∧ (s.core 5).gatedTo.toNat ≤ s.clk.ccycle.toNat ∧ (s.core 5).arrayBusy = none ∧
       (s.thr 22).unitQ ≠ []) ∧
    (let s := (wThr fun th => { th with long := some { op := .tld true false 0 0 64 0 0 64 64 0 0 } }).modCore 5 fun x =>
       { x with lastA := 1, lastArray := 1 }
     (s.core 5).aBusy = none ∧ (s.core 5).lastA = (2 + 3) % 4 ∧ (s.core 5).lastArray = (2 + 3) % 4 ∧ s.runs 22 = true ∧ (s.thr 22).unitQ = []) ∧
    (∀ op ∈ [UnitOp.mma 1 true 0 {} {} [], .tclr 1 64 64, .trel 0xC],
      let s := (wThr fun th => { th with unitQ := [{ op, tag := {} }] }).modCore 5 fun x => { x with arrayBusy := some 2 }
      (s.core 5).arrayBusy = some 2 ∧ (s.thr 22).unitQ = { op, tag := {} } :: []) ∧
    ((wLong .twait).thr 22).long = some { op := .twait, started := true } ∧ ((wLong .twait).thr 22).unitQ = [] ∧
    (wLong .twait).works 22 = true ∧ ((wLong .twait).thr 22).tstart.getLsbD 24 = false := by decide +kernel

/-- A queued MMA that reads the first buffer of ta leaves the second free. -/
theorem witness_MatrixResults_buffer :
    BufFree { unitQ := [{ op := .mma 0 true 0x3F000 { buf := false } {} [], tag := {} }] } false true := by
  rintro i hi z c w p q e he -
  rw [List.mem_singleton.1 hi] at he
  cases he
  decide

/-- The addresses of the long instructions: 64 rows of 64 bytes, 1 KiB of expansion state, one row of four NF32, a record of
4160 bytes, and two blocks of NF32. -/
theorem witness_MatrixResults_addresses :
    (AtStart (wLong (.tld true true 0 0 64 0x10000AE00000 0x10000AE00000 64 64 64 64)) 22 (.tld true true 0 0 64 0x10000AE00000 0x10000AE00000 64 64 64 64) ∧
      ∀ i < 64, OwnRead (wLong (.tld true true 0 0 64 0x10000AE00000 0x10000AE00000 64 64 64 64)) 22 (rowAddr 0x10000AE00000 0 64 i) 64) ∧
    (AtStart (wLong (.txld 0x10000AE00000)) 22 (.txld 0x10000AE00000) ∧ OwnRead (wLong (.txld 0x10000AE00000)) 22 0x10000AE00000 1024) ∧
    (let s := wLong (.tst 0 0x10000AE00000 0 0 5 false false false false 0 0 0) fun th => { th with z0 := { st := 2, m := 1, n := 4 } }
     0 < ((s.thr 22).acc 0).m ∧ fmtBits 5 ≤ 32 ∧ OwnWrite s 22 (rowAddr 0x10000AE00000 0 0 0) ((4 * fmtBits 5 + 7) / 8)) ∧
    (OwnRead wRecord 22 0x10000AE00000 4160 ∧ lsByte wRecord 0x10000AE00000 = 2 ∧ (∀ j < 64, 1 ≤ j → lsByte wRecord (0x10000AE00000 + j) = 0)) ∧
    (OwnRead (wLong (.range 0x10000AE00000 0x10000AE01000 33 5 3 false)) 22 0x10000AE00000 132 ∧
      OwnWrite (wLong (.range 0x10000AE00000 0x10000AE01000 33 5 3 false)) 22 0x10000AE01000 2) := by
  refine ⟨⟨⟨by decide +kernel, ⟨0, rfl⟩, by decide +kernel⟩, fun i hi => own_read ?_⟩, ⟨⟨by decide +kernel, ⟨0, rfl⟩, by decide +kernel⟩,
    own_read (by decide +kernel)⟩,
    ⟨by decide +kernel, by decide +kernel, own_write (by decide +kernel)⟩, ⟨own_read (by decide +kernel), by decide +kernel, by decide +kernel⟩,
    own_read (by decide +kernel), own_write (by decide +kernel)⟩
  revert i; decide +kernel

/-- A tile save of 4160 bytes. -/
theorem witness_MatrixResults_save :
    let s := wLong (.tsave 0x10000AE00000 0) fun th => { th with ta := { st := 2, rows := 64, bytes := 64 } }
    AtStart s 22 (.tsave 0x10000AE00000 0) ∧ (s.thr 22).ta.st = 2 ∧ (s.thr 22).ta.tag.sealed = false ∧ OwnWrite s 22 0x10000AE00000 4160 :=
  ⟨⟨by decide +kernel, ⟨0, rfl⟩, by decide +kernel⟩, by decide +kernel, by decide +kernel, fun _ h => own_slice (by omega) _ (by decide +kernel)⟩

theorem witness_VectorResults : W.ready 22 [32, 33] = true ∧ W.ready 22 [32, 33, 34] = true ∧ W.ready 22 [32, 1] = true ∧
    W.ready 22 [32, 1, 2] = true ∧ EType.i64.fmt = none ∧ EType.nf4 ∉ allTypes ∧ EType.i64 ∈ allTypes ∧
    nf32.decode 0x7FFFFFFF = .nan ∧ nf32.decode 0x80000000 = .fin true 0 (-276) ∧ nf16.decode 0x7E00 = .inf false := by decide +kernel

theorem witness_VectorMemory :
    (let s := wThr fun th => { th with g := [(1, 64), (2, 66)] }
     s.ready 22 [1] = true ∧ s.ready 22 [35, 1, 34] = true ∧ (s.thr 22).eaA 1 0 % 64 = 0 ∧ (s.thr 22).eaA 2 0 % 64 ≠ 0 ∧
       (s.thr 22).eaA 1 0 % EType.i32.bytes = 0 ∧ s.ready 22 [1, 2, 3, 36] = true ∧ s.ready 22 [1, 2, 3, 4] = true) ∧
    (let s := (wThr fun th => { th with long := some { op := .vld 3 0x10000AE00000 } }).modCore 5 fun x => { x with lastStream := 1 }
     s.clocksOn = true ∧ (s.core 5).locked = false ∧ (s.core 5).streamBusy = none ∧ (s.core 5).lastStream = (2 + 3) % 4 ∧
       s.runs 22 = true ∧ (s.thr 22).long = some { op := .vld 3 0x10000AE00000 }) ∧
    ownOffset 5 0x1000 = none ∧ W.keeper.violPkg ≠ BitVec.allOnes 48 := by decide +kernel

/-- A line, 32 elements 1024 bytes apart, sixteen lanes by index, and two elements of a source and a destination apart. -/
theorem witness_VectorMemory_addresses (op : LongOp) :
    let s := wLong op
    VStarted s 22 op ∧ (2 ^ 21 : Nat) ≤ 2097152 ∧
    (∀ n < 0x6FC000, OwnWrite s 22 0x10000AE00000 n) ∧
    (∀ j < 0x6FC000, ∃ off, ownOffset 5 (0x10000AE00000 + j) = some off ∧ s.ownOk 22 off false = true ∧
      mayRead (s.thr 22).tag (s.halfTag 5 (off / 64)) = true ∧ s.rowBad 5 (off / 128) = 0) ∧
    (∀ i < 32, 1024 * i < 0x6FC000 ∧ (0x10000AE00000 + 1024 * i) % 0x2000000 < 0x1C00000) ∧
    (∀ i < 16, laneAddr 0x10000AE00000 0 0 .i32 i = 0x10000AE00000) ∧
    (∀ i < 2, ∀ k < 2, elemAddr 0x10000AE00000 0 .i32 i + 4 ≤ elemAddr 0x10000AE00000 64 .i32 k ∧
      (i ≠ k → elemAddr 0x10000AE00000 64 .i32 i ≠ elemAddr 0x10000AE00000 64 .i32 k)) := by
  refine ⟨⟨rfl, ⟨0, rfl⟩, show (0 : Word).getLsbD 24 = false by decide⟩, by decide, fun n hn j hj => own_slice (by omega) _ rfl, fun j hj => ?_,
    by decide +kernel, by decide +kernel, by decide +kernel⟩
  obtain ⟨off, h, w, -, -⟩ := own_slice hj (fun th => { id th with long := some { op, started := true } }) rfl
  refine ⟨off, h, ?_, rfl, rfl⟩
  unfold State.ownOk State.ownOkAt at w ⊢
  simp only [Bool.and_eq_true] at w ⊢
  exact ⟨w.1, by simp⟩

/-- W with a channel of core 5. -/
def wChan (x : Chan) (f : Thread → Thread := id) : State := (W.modCore 5 fun c => { c with chans := [(2, x)], lastChan := 1 }).modThr 22 f

/-- The owner of channel 2 (thread 2), the three words of CCTL, a busy channel, a hidden one, and channel 3 of thread 3. -/
theorem witness_CopyChannels :
    (OwnsChan W 22 2 ∧ ¬ OwnsChan W 22 3 ∧ W.ready 22 [1] = true ∧ ((W.core (coreOf 22)).chan 2).st ≠ 1 ∧ Visible W 22 2) ∧
    (let s := wChan { st := 1, cnt := 128, issuedTo := 64 }
     OwnsChan s 22 2 ∧ Visible s 22 2 ∧ ((s.core 5).chan 2).st = 1 ∧ ((s.core 5).chan 2).stopAs = 0 ∧
       ((s.core 5).chan 2).issuedTo < ((s.core 5).chan 2).cnt) ∧
    (wChan { tag := { sealed := true, session := 7 } }).ready 22 [1] = true ∧ ¬ Visible (wChan { tag := { sealed := true, session := 7 } }) 22 2 ∧
    (W.thr 22).world = false ∧ (W.thr 22).level = true := by
  refine ⟨⟨(by decide +kernel : _ = _), (by decide +kernel : ¬ _ = _), by decide +kernel, by decide +kernel, .inl (by decide +kernel)⟩,
    ⟨(by decide +kernel : _ = _), .inl (by decide +kernel), by decide +kernel, by decide +kernel, by decide +kernel⟩, by decide +kernel, ?_,
      by decide +kernel,
    by decide +kernel⟩
  rintro (h | h) <;> revert h <;> decide +kernel

/-- The words of CCTL that start, stop and clear, on channels that are not busy; a channel that stops already, one that has issued
its last burst, and an EVENT that hardware has set in the same core cycle. -/
theorem witness_CopyChannels_words :
    (∀ x ∈ [({ st := 1, cnt := 128, issuedTo := 64, stopAs := 2 } : Chan), { st := 1, cnt := 128, issuedTo := 128 }],
      Visible (wChan x) 22 2 ∧ OwnsChan (wChan x) 22 2 ∧ (x.stopAs ≠ 0 ∨ x.cnt ≤ x.issuedTo)) ∧
    W.hwAt ≠ W.clk.ccycle ∧ (let s := W.hwMark (.copyEvent 5 2); s.hwAt = s.clk.ccycle ∧ StatusBit.copyEvent 5 2 ∈ s.hwSet) ∧
      (∀ j : Fin 4, ((W.core (coreOf 22)).chan j).st ≠ 1) ∧
    (0x8000 : Word).getLsbD 15 = true ∧ (0x8000 : Word).getLsbD 16 = false ∧ (0x10000 : Word).getLsbD 15 = false ∧
    (0x10000 : Word).getLsbD 16 = true ∧ (8 : Word).getLsbD 3 = true ∧ (8 : Word).getLsbD 15 = false ∧ (8 : Word).getLsbD 16 = false := by
  unfold Visible OwnsChan; decide +kernel

/-- A burst of four lines, complete bursts of each operation, and a channel at its end. -/
theorem witness_CopyEngine :
    (let s := wChan { src := 0x10000AE00000, dst := 0x10000AE10000, cnt := 512, st := 1 }
     let x := (s.core 5).chan 2
     s.clocksOn = true ∧ (s.core 5).member ≠ none ∧ (s.core 5).lastChan = (2 + 3) % 4 ∧ x.st = 1 ∧ x.stopAs = 0 ∧ x.issuedTo < x.cnt ∧
       x.bursts.length < 8 ∧ x.op = 0 ∧
       min (256 - (x.dst.toNat + x.issuedTo) % 256) (x.cnt - x.issuedTo) / 64 = 4 ∧
       (∀ i < 4, ((ownOffset 5 ((x.src.toNat + x.issuedTo + 64 * i) % 2 ^ 52)).any fun o => s.ownOkAt (s.chanWho 5 2 5).t x.level o false) = true ∧
         ((ownOffset 5 ((x.dst.toNat + x.issuedTo + 64 * i) % 2 ^ 52)).any fun o => s.ownOkAt (s.chanWho 5 2 5).t x.level o true) = true)) ∧
    (∀ op < 5, let b : Burst := { off := 0, len := 64, src := if op = 1 then [] else [.own 0xE00000], dst := [.own 0xE10000] }
      let s := wChan { op, st := 1, bursts := [b], cnt := 64, issuedTo := 64 }
      let x := (s.core 5).chan 2
      s.engineRuns 5 = true ∧ x.bursts[0]? = some b ∧ mayRead x.tag (s.halfTag 5 (0xE00000 / 64)) = true ∧
        mayRead x.tag (s.halfTag 5 (0xE10000 / 64)) = true ∧ s.rowBad 5 (0xE00000 / 128) = 0 ∧ s.rowBad 5 (0xE10000 / 128) = 0 ∧
        (s.core 5).outst = [] ∧ (s.core 5).waitQ = [] ∧ (s.core 5).injQ.length < 16) ∧
    (∀ w ∈ [true, false], let s := wChan { st := 1, cnt := 64, issuedTo := 64, wipe := w }
      let x := (s.core 5).chan 2
      x.st = 1 ∧ x.bursts = [] ∧ x.issuedTo = x.cnt ∧ x.wipe = w) := by decide +kernel

/-- Bursts with a line of core 9 as source or destination: one that waits, one whose WR is answered, and one ready to write. -/
theorem witness_CopyEngine_mesh :
    ∀ p ∈ [(1, false, EngTo.line 9 0x10001200000 {} none 0, EngTo.own 0xE10000), (0, true, .own 0xE00000, .line 9 0x10001200000 {} none 0),
        (0, false, .line 9 0x10001200000 {} none 0, .own 0xE10000), (0, false, .own 0xE00000, .line 9 0x10001200000 {} none 0)],
      let b : Burst := { off := 0, len := 64, src := [p.2.2.1], dst := [p.2.2.2], waits := p.1, wrote := p.2.1 }
      let s := wChan { st := 1, bursts := [b], cnt := 64, issuedTo := 64 }
      let x := (s.core 5).chan 2
      s.engineRuns 5 = true ∧ x.bursts[0]? = some b ∧ x.op = 0 ∧ mayRead x.tag (s.halfTag 5 (0xE00000 / 64)) = true ∧ s.rowBad 5 (0xE00000 / 128) = 0 ∧
        (s.core 5).waitQ = [] ∧ (s.core 5).injQ.length < 16 ∧ (s.core 5).outst = [] ∧
        (s.thr (s.chanWho 5 2 6).t).outstanding x.stream < 4096 := by decide +kernel

/-- FILL of a line of another core: its WR is sent, and the burst ends once that is answered. -/
theorem test_fill_over_mesh :
    let b : Burst := { off := 0, len := 64, dst := [.line 9 0x10001200040 {} none 0] }
    let s := (wChan { op := 1, fill := 0xABCD, st := 1, bursts := [b], cnt := 64, issuedTo := 64 }).burstDone 5 2 0
    ((s.core 5).injQ.map fun p => (p.typ, p.line, lineNat p.data 56 8)) = [(.wr, 0x10001200040 / 64, 0xABCD)] ∧
      ((s.core 5).chan 2).bursts.map (fun b => (b.waits, b.wrote)) = [(1, true)] ∧
      ((s.modCore 5 fun c => c.modBurst 2 0 fun b => { b with waits := 0 }).burstDone 5 2 0 |>.core 5 |>.chan 2).bursts = [] := by
  decide +kernel

/-- W with the stack 0 of set 0 in service. -/
def wStk (f : Stack → Stack := id) : State := { wWin 0 [] with stks := [(0, f { phyLock := true, trained := true })] }
/-- A packet for line 0x1000 of stack 0. -/
def ps (typ : PType) : Packet := { typ, line := 0x1000, dst := 0x800, src := 5, cid := 3 }

theorem witness_StackRequests :
    (∀ typ ∈ [PType.rd, .wr, .atom, .add], AtStack ((wStk).setInb 0x800 [ps typ]) 0 0 0x1000 (ps typ)) ∧
    (wStk.stack 0).buffered 0x1000 = none ∧ ((wStk.stack 0).chan (chOf 0x1000)).written 0x1000 = false ∧ (wStk.stack 0).atomQ = [] ∧
    (wStk.stack 0).evicted = [] ∧ (wStk.stack 0).buf.length < 64 ∧ mayRead {} (wStk.stkTag 0 0x1000).tag = true ∧
    mayRead {} ((wStk.setStkTag 0 0x1000 { tag := { sealed := true, session := 7 } }).stkTag 0 0x1000).tag = false ∧
    (let b : BufLine := { line := 0x1000, ready := true }
     let s := wStk fun x => { x with atomQ := [ps .atom], buf := [b] }
     (s.stack 0).atomQ = ps .atom :: [] ∧ s.stkOf 0 (ps .atom) = some 0x1000 ∧ (s.stack 0).buffered 0x1000 = some b ∧ s.keyGone {} = false ∧
       (s.stkTag 0 0x1000).tag = (ps .atom).tag ∧ ((s.setStkTag 0 0x1000 { tag := { sealed := true } }).stkTag 0 0x1000).tag ≠ (ps .atom).tag) ∧
    (let s := wStk fun x => { x with evicted := [0x1000] }
     (s.stack 0).evicted = [0x1000] ∧ (s.stack 0).atomQ = [] ∧ (queueOf s 0 0x1000).length < 64) ∧
    ((wStk fun x => { x with ready := [ps .rdata] }).stack 0).ready[0]? = some (ps .rdata) ∧
    (let s := (wStk fun x => { x with dead := true }).setInb 0x800 [ps .rd]
     (s.stack 0).dead = true ∧ (s.inb 0x800)[0]? = some (ps .rd)) := by
  unfold AtStack; decide +kernel

/-- A refresh slot, a reserved slot with a forced item, and slots for a row hit, an empty bank and a row change, each at its first
admissible slot. -/
theorem witness_StackRequests_slots :
    let r : SReq := { line := 0x8000, needRead := true, needWrite := false, answer := some (ps .rdata) }
    let neighbour : BgItem := { kind := .neighbour, created := 31 }
    ∀ c ∈ [({} : SChan), { slotNo := 42 }, { slotNo := 85 }, { slotNo := 287, bg := [neighbour] },
           { slotNo := 5, queue := [r], banks := [(0, { row := some 1, hitFrom := 5 })] }, { slotNo := 1, queue := [r] },
           { slotNo := 70, queue := [r], banks := [(0, { row := some 2, rowFrom := 70 })] }],
      let s := wStk fun x => { x with chans := [(0, c)] }
      s.clocksOn = true ∧ 0 < s.member.stks ∧ (s.stack 0).inService = true ∧
        (c.slotNo % 128 = 0 ∨ c.slotNo % 128 = 42 ∨ c.slotNo % 128 = 85 ∨
         c.slotNo % 32 = 31 ∧ c.bg = neighbour :: [] ∧ neighbour.created + 256 ≤ c.slotNo ∨
         c.slotNo % 32 ≠ 31 ∧ c.queue = r :: [] ∧ r.notBefore ≤ c.slotNo ∧ (s.stack 0).ready.length + (s.outb (nodeStack 0)).length < 256 ∧
           if (c.bank 0).row = some 1 then (c.bank 0).hitFrom ≤ c.slotNo else (c.bank 0).rowFrom ≤ c.slotNo) := by decide +kernel

/-- A row at its 16th corrected word, one with an uncorrectable word, a sound one, a logged one, and 4096 activations. -/
theorem witness_StackMaintenance :
    (∀ c ∈ [({ corrected := [(1, 16)] } : SChan), { bad := [(1, true)] }, {}],
      let s := wStk fun x => { x with chans := [(0, c)] }
      (2097152 : Nat) / 64 % 32 = 0 ∧ s.clocksOn = true ∧ (s.stack 0).inService = true ∧
        (decide (16 ≤ Map.get 0 ((s.stack 0).chan 0).corrected 1) = true ∨ Map.get false ((s.stack 0).chan 0).bad 1 = true ∨ c = {})) ∧
    (let e : RetEntry := { kind := 1, channel := 0, block := 32, row := 1 }
     let s := wStk fun x => { x with retire := [e], chans := [(0, { bad := [(1, true)] })] }
     (s.stack 0).retire = [e] ∧ Map.get false ((s.stack 0).chan 0).bad 1 = true) ∧
    (let s := wStk fun x => { x with chans := [(31, { acts := [(65536 * 31 + 65535, 4096)], slotNo := 1 })] }
     4096 ≤ Map.get 0 ((s.stack 0).chan 31).acts (65536 * 31 + 65535) ∧ ¬ (((s.stack 0).chan 31).slotNo % 128 = 0 ∨
       ((s.stack 0).chan 31).slotNo % 128 = 42 ∨ ((s.stack 0).chan 31).slotNo % 128 = 85)) ∧
    (let s : State := { wStk with keeper := { boot := .running }, stks := [(0, { training := true })] }
     s.firmware = true ∧ (s.stack 0).training = true) ∧ (W.stack 5).training = false ∧ (5 : Nat) < W.member.stks ∧
    (∀ n ∈ [(2047, 1), (2048, 1), (4095, 1)], decide (n.1 < 2048 * n.2) = decide (n.1 = 2047)) ∧
    (∀ v ∈ [true, false], ((wCon fun x => { x with faultValid := v, faultSince := 7 }).con 3).faultSince ≠ W.clk.ccycle) ∧
    (W.con 3).faultLateAt ≠ W.clk.ccycle := by decide +kernel

/-- Barriers 1 (declared), 2 (KERNEL) and 3 (not declared) of the range 1 to 3 of constellation 3. -/
def wBar (f : Thread → Thread := id) : State :=
  { (wCon fun x => { x with cfg := { x.cfg with barFirst := 1, barCount := 3 } }).modThr 22 f with
    replicas := [(1, { declared := true, gen := 9 }), (2, { declared := true, kernel := true })]
    barriers := [(1, { declared := true, count := 4, arrived := 3, gen := 9 }), (2, { declared := true, kernel := true, count := 2 })] }

/-- The ends of the range, one below and one above it; counts 0, 1, 4608 and 4609. -/
theorem witness_Barriers_issue :
    (MayUse wBar 22 1 ∧ MayUse wBar 22 3 ∧ ¬ MayUse wBar 22 0 ∧ ¬ MayUse wBar 22 4) ∧
    (let s := wBar fun th => { th with g := [(1, 1), (2, 2), (3, 3), (4, 4), (5, 1), (6, 4608), (7, 4609)] }
     s.ready 22 [1] = true ∧ s.ready 22 [3, 6] = true ∧ ((s.thr 22).greg 1).toNat % 1024 = 1 ∧ ((s.thr 22).greg 6).toNat % 8192 = 4608 ∧
       ((s.thr 22).greg 7).toNat % 8192 = 4609 ∧ ((s.thr 22).greg 0).toNat % 8192 = 0 ∧
       (s.replica 1).declared = true ∧ (s.replica 1).kernel = false ∧ (s.replica 2).kernel = true ∧ (s.replica 3).declared = false ∧
       (s.replica 1).last < 4) ∧
    (let s := wBar fun th => { th with g := [(2, 2)], storeQ := [.own 0 8 1 {} 1] }
     s.ready 22 [2] = true ∧ (s.thr 22).storeQ ≠ []) := by
  have m : (wBar.core (coreOf 22)).member = some 3 := by decide +kernel
  have b : (wBar.con 3).cfg.barFirst = 1 ∧ (wBar.con 3).cfg.barCount = 3 := by decide +kernel
  have k (n : Nat) : MayUse wBar 22 n ↔ 1 ≤ n ∧ n < 4 := by
    constructor
    · rintro ⟨c, hc, h⟩
      rw [m] at hc; cases hc; rw [b.1, b.2] at h; exact h
    · intro h; exact ⟨3, m, by rw [b.1, b.2]; exact h⟩
  refine ⟨⟨(k 1).2 (by omega), (k 3).2 (by omega), fun h => absurd ((k 0).1 h) (by omega), fun h => absurd ((k 4).1 h) (by omega)⟩, ?_⟩
  decide +kernel

/-- A packet at the beacon unit of die 0. -/
def pb (kind line cnt : Nat) : Packet := { typ := .arrive, line, first := kind, cnt, src := 5, thread := 2, cid := 3 }

theorem witness_Barriers_home :
    (∀ p ∈ [pb 1 3 0, pb 2 1 0, pb 0 1 1, pb 0 2 4, pb 0 3 1], AtBeacon (wBar.setInb 0xF00 [p]) 0 0 p.first p ∧
      (wBar.barrier (p.line % 1024)).flushing = []) ∧
    (∀ k ∈ [BKind.declare, .free, .release, .flush],
      let e : BEvent := { kind := k, barrier := 1, replica := { declared := true }, cid := 3, by_ := some 22 }
      let s : State := { wBar fun th => { th with blocked := some (.bdecl 1) } with beacon := [(0, [e])] }
      NextEvent s 0 e [] ∧ s.failed.contains (.beacon 0) = false ∧ (s.thr 22).blocked = some (.bdecl e.barrier) ∧
        (s.core 5).waitQ = [] ∧ ({ s with failed := [.beacon 0] } : State).failed.contains (.beacon 0) = true) ∧
    (let s : State := { wBar with barriers := [(1, { flushing := [(3, {})] })] }
     s.clocksOn = true ∧ (s.barrier 1).flushing = [(3, {})] ∧ s.beacon = [] ∧ (s.core 5).outst = [] ∧ (s.core 5).waitQ = []) := by
  refine ⟨by unfold AtBeacon; decide +kernel, fun k _ => ?_, by decide +kernel⟩
  cases k <;> refine ⟨⟨by decide +kernel, rfl, 0, by decide, by decide +kernel, fun j hj => absurd hj (by omega)⟩, rfl, by decide +kernel,
    by decide +kernel, rfl⟩

/-- A set flag, a freed barrier, an empty mask, and none of them; the last thread of the member and one beyond. -/
theorem witness_Signals :
    (let s := wBar fun th => { th with g := [(1, 3), (2, 0x80010009), (3, 0x80000000), (4, 4607), (5, 4608)], flags := 2 }
     s.ready 22 [1, 2] = true ∧ (s.thr 22).flags &&& ((s.thr 22).greg 1).setWidth 16 ≠ 0 ∧ ((s.thr 22).greg 2).getLsbD 31 = true ∧
       ((s.thr 22).greg 2).toNat / 65536 % 1024 = 1 ∧ ((s.thr 22).greg 2).setWidth 16 = (s.replica 1).gen ∧
       ((s.thr 22).greg 3).toNat / 65536 % 1024 = 0 ∧ ((s.thr 22).greg 4).toNat % 8192 < 4 * s.member.cores ∧
       4 * s.member.cores ≤ ((s.thr 22).greg 5).toNat % 8192) ∧
    (let s := wThr fun th => { th with blocked := some (.wait 6 2 0), flags := 2 }
     s.runs 22 = true ∧ (s.thr 22).stopped = false ∧ (s.thr 22).blocked = some (.wait 6 2 0) ∧ (s.thr 22).flags &&& 2 ≠ 0) ∧
    (∀ cid ∈ [3, 4], let p : Packet := { typ := .signal, line := 22, data := 5, cid }
      let s := (wThr fun th => { th with sigopen := 4 }).setInb 5 [p]
      s.clocksOn = true ∧ (s.inb 5)[0]? = some p ∧ (s.core 5).member = some 3 ∧
        (if 3 = p.cid then p.data.setWidth 16 else p.data.setWidth 16 &&& (s.thr 22).sigopen) ≠ 0 ∧
        (4#16 &&& (W.thr 22).sigopen) = 0) ∧
    (let s := W.setInb 6 [{ typ := .signal, line := 24 }]; (s.core 6).member = none ∧ (s.inb 6)[0]? = some { typ := .signal, line := 24 }) := by
  decide +kernel

/-- Constellation 3 with each thread blocked in WAIT. -/
def wQuiet (f : Cons → Cons) : State :=
  let b : Thread := { blocked := some (.wait 1 0 0x80000000) }
  { W with threads := [(20, b), (21, b), (22, b), (23, b)], cons := [(3, f { st := .running, fogUs := 2, fogLive := 2 })] }

/-- The interval is over after 1100 ticks and not before; an alarm that is set in the same core cycle. -/
theorem witness_FogAlarm_sample :
    (∀ a ∈ [(3900, 1100), (3901, 1099), (5000, 0)], let s := wQuiet fun x => { x with fogAt := a.1 }
      (s.clk.sidereal - (s.con 3).fogAt).toNat = a.2) ∧
    W.hwAt ≠ W.clk.ccycle ∧ (let s := W.hwMark (.fogAlarm 3); s.hwAt = s.clk.ccycle ∧ StatusBit.fogAlarm 3 ∈ s.hwSet) := by decide +kernel

/-- The last quiet interval before the alarm, the one that raises it, and the intervals before and at the escalation. -/
theorem witness_FogAlarm :
    (∃ n ∈ ({ W with threads := [(22, { ran := true })] } : State).members 3, ∃ k < 4,
      (({ W with threads := [(22, { ran := true })] } : State).thr (4 * n + k)).ran = true) ∧
    (∀ x ∈ [fun x : Cons => ({ x with fogArmed := true } : Cons), fun x => { x with fogArmed := true, quietRun := 1 }],
      let s := wQuiet x
      s.clocksOn = true ∧ (∀ o, s.quiet 3 o = true) ∧
        (((s.con 3).fogArmed = true ∧ (s.con 3).fogLive ≤ (s.con 3).quietRun + 1) ∨ (s.con 3).quietRun + 2 = (s.con 3).fogLive)) ∧
    (let s := wQuiet fun x => { x with fogSince := some 2 }
     (s.con 3).fogSince = some 2 ∧ (s.con 3).fogLive ≤ 2 ∧ (s.thr (s.supThread 3)).tookFog = false ∧ 1 < (s.con 3).fogLive) ∧
    W.isSup 22 3 = true ∧ W.isSup 22 4 = false ∧ wKeeper.firmware = true ∧
    (∀ f ∈ [1, 1000000, 1000001, 0], ((BitVec.ofNat 64 f).extractLsb' 0 20).toNat = f) := by decide +kernel

/-- Function 1 bound to constellation 3, with the window of set 0 at aperture GiB 0 and the local store of core 5 at GiB 1. -/
def wVf : State := { wWin 0 [] with
  host := { linkUp := true, ready := true, vfEnable := true }
  funcs := [(1, { bound := some 3, vectors := 4, inb := [(0, 7), (1, BitVec.ofNat 64 (7 + 0x4000 * 2 ^ 30))], busMaster := true, msixEnable := true
                  dbPend := 5 })] }

/-- The first and last GiB of the aperture, an offset that no entry admits, and lengths to the end of a line. -/
theorem witness_HostTraffic_inbound :
    HostUp wVf 1 ∧ Admits wVf 1 0x8020 false 0x8020 ∧ (∃ v, wVf.homeRead {} (0x8020 / 64 * 64) = (v, false)) ∧ wVf.lostWords (0x8020 / 64 * 64) = 0 ∧
    (∀ a, ¬ Admits wVf 1 (62 * 2 ^ 30) false a) ∧ (∀ a, ¬ Admits wVf 1 (63 * 2 ^ 30 - 64) true a) ∧ (0x8020 : Nat) % 64 + 32 ≤ 64 ∧
    (63 * 2 ^ 30 - 64) % 64 + [0, (0 : Byte)].length ≤ 64 ∧
    Admits wVf 1 (2 ^ 30 + 0xAE00000) true 0x10000AE00000 ∧ wVf.target 0x10000AE00000 = .ls 5 0xE00000 ∧ (wVf.func 1).bound = some 3 ∧
    wVf.tableFree none 0x10000AE00000 (0x10000AE00000 + 2 - 1) = true ∧ wVf.rowBad 5 (0xE00000 / 128) = 0 ∧
    (let s := wWin 2 []; Admits { wVf with cons := s.cons } 1 0x8020 false 0x8020 ∧ s.tableFree none 0x8020 0x8021 = false) := by
  refine ⟨⟨by decide +kernel, by decide +kernel, by decide +kernel⟩,
    ⟨by decide, by decide, by decide +kernel, by decide +kernel, by decide +kernel, 3, by decide +kernel, .inl ⟨(0, { mask := 1, sizeGib := 1 }),
      by decide +kernel⟩⟩,
    ⟨(wVf.homeRead {} (0x8020 / 64 * 64)).1, by decide +kernel⟩, by decide +kernel, fun a h => absurd h.2.2.2.1 (by decide +kernel),
    fun a h => absurd h.2.2.2.1 (by decide +kernel), by decide, by decide, ⟨by decide, by decide, by decide +kernel, by decide +kernel, by decide +kernel, 3,
      by decide +kernel, .inr ⟨5, 0xE00000, by decide +kernel⟩⟩, by decide +kernel, by decide +kernel, by decide +kernel, by decide +kernel,
    ⟨by decide, by decide, by decide +kernel, by decide +kernel, by decide +kernel, 3, by decide +kernel, .inl ⟨(0, { mask := 1, sizeGib := 1 }),
      by decide +kernel⟩⟩,
    by decide +kernel⟩

/-- A read of the bridge that waits for tag 9. -/
def wRead : State := { wVf with host := { wVf.host with reads := [{ tag := 9, func := 1, pkt := some (pk .rd) }] } }

/-- MSI-X of the last vector and of one beyond, masked and not, and with either enable off. -/
theorem witness_HostTraffic :
    (wVf.clocksOn = true ∧ (wVf.core (coreOf 22)).member = some 3 ∧ (wVf.func 1).vectors = 4 ∧ (3 : Word).toNat % 2048 < 4 ∧ 4 ≤ (4 : Word).toNat % 2048 ∧
      (wVf.func 1).msixEnable = true ∧ (wVf.func 1).busMaster = true ∧ (wVf.func 1).msixMask = false ∧
        (Map.get 0 (wVf.func 1).msixTable 3).getLsbD 96 = false ∧
      wVf.ideBroken 1 = false ∧ ((wVf.modFunc 1 fun x => { x with msixMask := true }).func 1).msixMask = true ∧
      ((wVf.modFunc 1 fun x => { x with msixEnable := false }).func 1).msixEnable = false ∧ wVf.hwAt ≠ wVf.clk.ccycle ∧
      wVf.ideLost 1 0 = false ∧ (wVf.hwMark (.doorbell 1 2)).hwAt = wVf.clk.ccycle) ∧
    (wRead.host.reads.find? (fun r => r.tag == 9) = some { tag := 9, func := 1, pkt := some (pk .rd) } ∧ wRead.host.linkUp = true ∧
      (∀ q ∈ wRead.funcs, q.2.flr = false) ∧ wRead.inb nodeHost = [] ∧ wRead.host.reads ≠ [] ∧ wRead.fab < 0 + wRead.host.timeoutFab ∧
        wRead.host.timeoutOff = false ∧
      (let s := { wRead with clk := { wRead.clk with ccycle := 55000000 } }; 0 + s.host.timeoutFab ≤ s.fab) ∧
      ({ wRead with host := { wRead.host with timeoutOff := true } } : State).host.timeoutOff = true ∧ (∀ r ∈ wRead.host.reads, r.tag ≠ 8)) ∧
    (let s := { wVf with host := { wVf.host with pf0Fetch := some (0x200000000000, 2), pf0Tokens := 1, pf0At := 40000 },
                         funcs := [(0, { hwbase := 0x200000000000, hwlimit := 0x200000000000, busMaster := true })] }
     s.host.pf0Fetch = some (0x200000000000, 2) ∧ 0 < min 64 (s.host.pf0Tokens + (s.fab - s.host.pf0At) * 5 / 352) ∧
       (s.func 0).hwHolds 0x200000000000 = true ∧ (s.func 0).busMaster = true ∧ s.host.linkUp = true ∧ s.ideLost 0 0 = false ∧
       s.chart.busy ≠ some .load ∧ let q : State := { s with chart := { s.chart with busy := some .load, flr := some 3 } }
       q.chart.busy = some .load ∧ q.chart.flr ≠ none ∧ q.host.pf0Fetch = some (0x200000000000, 2)) ∧
    (let s := { wVf with host := { wVf.host with pf0Fetch := some (0, 1), pf0Tokens := 0, pf0At := 40000 } }
     min 64 (s.host.pf0Tokens + (s.fab - s.host.pf0At) * 5 / 352) = 0) ∧
    (let p : Packet := { pk .wr with host := some (1, 0x1000) }
     let s := wVf.setInb nodeHost [p]
     (s.inb nodeHost)[0]? = some p ∧ p.control = false ∧ p.host = some (1, 0x1000) ∧ s.ideLost 1 (0x1000 / 64 * 64) = false) ∧
    wVf.host.ready = true ∧ wVf.host.vfEnable = true ∧ ({ wVf with host := { linkUp := true } } : State).host.ready = false ∧
    (1 : Word).getLsbD 0 = true ∧ (wVf.func 1).msixPba = [] := by decide +kernel

theorem witness_FunctionResets :
    (wVf.hostSees 1 = true ∧ (wVf.func 1).bound = some 3 ∧ (wVf.con 3).st ≠ .dark ∧ 1 ∉ (wVf.con 3).flrWaiting ∧ (wVf.func 2).bound = none) ∧
    (let s := wVf.modFunc 1 fun x => { x with flr := true }
     s.hostSees 1 = true ∧ s.ideBroken 1 = false ∧ (s.func 1).flr = true ∧ s.clocksOn = true ∧ 1 ∉ (s.con 3).flrWaiting ∧
       1 ∈ ((s.modCon 3 fun x => { x with flrWaiting := [1] }).con 3).flrWaiting) ∧
    ((wVf.modFunc 2 fun x => { x with flr := true }).func 2).flr = true ∧ wVf.host.vfEnable = true ∧
    ({ wVf with host := { linkUp := true } } : State).host.vfEnable = false ∧ wRead.inb nodeHost = [] ∧ wRead.host.reads ≠ [] ∧ wVf.host.reads = [] ∧
    ({ wVf with host := { wVf.host with d3hot := true } } : State).host.d3hot = true ∧
    wVf.power.perstLow = false ∧ wVf.power.powerGood = true ∧ wVf.power.railsOn = true ∧ State.reset.power.perstLow = true := by decide +kernel

/-- The firmware runs, with an identity and with none. -/
def wId (busy ready : Bool) : State :=
  { wVf with keeper := { boot := .running }, trust := { quoteBusy := busy, idReady := ready, skeyValid := false } }

theorem witness_HostSecurity :
    (wId false true).inb nodeHost = [] ∧ (wId false true).host.linkUp = true ∧ (wId false true).hostSees 0 = true ∧ (wId false true).firmware = true ∧
    (wId false true).trust.quoteBusy = false ∧ (wId false true).trust.idReady = true ∧ (wId true true).trust.quoteBusy = true ∧
    (wId false true).trust.skeyValid = false ∧ wVf.firmware = false ∧ [(1 : Byte), 0, 0, 7].take 3 = [1, 0, 0] ∧ [(2 : Byte), 0, 0].take 3 ≠ [1, 0, 0] ∧
    (wId false true).bridgeUp = true ∧ (wId false true).host.ready = true ∧ (31 : BitVec 8).toNat < 32 := by decide +kernel

/-- An object one byte too long, and one at the limit. -/
theorem witness_HostSecurity_length : 65536 < (List.replicate 65537 (0 : Byte)).length ∧ (List.replicate 65536 (0 : Byte)).length ≤ 65536 := by
  simp only [List.length_replicate]; omega

/-- Port 0 as bond 0 of the part, with the firmware running. -/
def wPort (q : MPort) (x : Bond := {}) : State :=
  { wKeeper with chart := { wKeeper.chart with pkg := { admits := 2, ports := [(0, { bondFirst := 0, bondWidth := 1, enable := true })] } }
                 ports := [(0, q)], bonds := [(0, x)] }

/-- Each timer of the port at its last cycle before the event and at the event. -/
theorem witness_PortStates_timers :
    (∀ x ∈ [(44000000, PState.training), (2200000000, .down), (4400000, .retraining)],
      let late : State := { wPort { st := x.2 } with clk := { wKeeper.clk with ccycle := BitVec.ofNat 64 (x.1 / 2) } }
      let soon : State := { wPort { st := x.2 } with clk := { wKeeper.clk with ccycle := BitVec.ofNat 64 (x.1 / 2 - 1) } }
      late.clocksOn = true ∧ 0 < late.member.ports ∧ (late.port 0).st = x.2 ∧ (late.port 0).since + x.1 ≤ late.fab ∧
        soon.fab < (soon.port 0).since + x.1 ∧ (late.port 0).cable = true ∧ (late.port 0).changed = false) ∧
    (wPort {}).clocksOn = true := by decide +kernel

/-- An accepted identity, and one of a fleet that is not admitted. -/
theorem witness_PortStates :
    (let s := wPort { st := .identify, peerMsg := some (1, 0, 0, 1) }
     (s.port 0).st = .identify ∧ (s.port 0).peerMsg = some (1, 0, 0, 1) ∧ Accepted s 0 1 0 0 1 ∧ s.livePorts (s.bondOf 0) = []) ∧
    ¬ Accepted (wPort { st := .identify, peerMsg := some (2, 0, 0, 1) }) 0 2 0 0 1 ∧
    (UpPort (wPort { st := .up }) 0 ∧ (∀ d < 8, ((wPort { st := .up }).eng d).run = none) ∧ (wPort { st := .up }).firmware = true) ∧
    ((wPort { st := .retraining }).port 0).st = .retraining ∧
    (let s := wPort { st := .disabled }
     s.firmware = true ∧ (s.portRec 0).enable = true ∧ (s.port 0).cable = true ∧ (s.port 0).st = .disabled ∧ (s.port 0).heldDown = false ∧
       (s.portRec 1).enable = false ∧ ((wPort { st := .disabled, heldDown := true }).port 0).heldDown = true) := by
  refine ⟨⟨rfl, rfl, ⟨by decide +kernel, by decide +kernel, by decide +kernel, by decide +kernel, ?_⟩, by decide +kernel⟩,
    fun h => absurd h.1 (by decide +kernel),
    ⟨⟨by decide +kernel, by decide +kernel, rfl, by decide +kernel⟩, by decide +kernel, by decide +kernel⟩, rfl, by decide +kernel⟩
  have e : (wPort { st := .identify, peerMsg := some (1, 0, 0, 1) }).livePorts
      ((wPort { st := .identify, peerMsg := some (1, 0, 0, 1) }).portRec 0).bondFirst = [] := by decide +kernel
  intro q hq; rw [e] at hq; cases hq

/-- A line of an answer, and one of a request to the first line of the part. -/
def ml (typ : Nat) : MLine := { typ, line := 0, tag := 7, first := 0, last := 63, data := 3 }
def frame (good : Bool) (seq : Nat) : Frame := { kind := 1, seq, ack := 0, nak := false, credit := 1, good, lines := [ml 2] }

theorem witness_MeridianFrames :
    (UpPort (wPort { st := .up } { replay := [frame true 5] }) 0 ∧ ((wPort { st := .up } { replay := [frame true 5] }).bond 0).replay = frame true 5 :: []) ∧
    (let s := wPort { st := .up } { replay := [frame true 5] }; MaySend s 0 ∧ NoStamps s 0) ∧
    (let s := wPort { st := .up, owes := [(7, 4000)], asks := true }
     UpPort s 0 ∧ MaySend s 0 ∧ (s.port 0).owes = (7, 4000) :: [] ∧ (s.port 0).asks = true ∧
       (wPort { st := .up, asks := true } |>.port 0).owes = []) ∧
    (∀ st ∈ [PState.training, .identify, .retraining, .disabled, .down, .refused],
      ((wPort { st }).port 0).st = st ∧ ((wPort { st }).port 0).nextTx ≤ 5 * (wPort { st }).fab) ∧
    5 * (wPort { nextTx := 200001 }).fab < ((wPort { nextTx := 200001 }).port 0).nextTx ∧
    (let s := wPort { st := .up, outQ := [(0, ml 2)] } { credits := 1 }
     UpPort s 0 ∧ MaySend s 0 ∧ NoStamps s 0 ∧ (s.bond (s.bondOf 0)).replay = [] ∧ (∀ q ∈ 0 :: s.bondPorts (s.bondOf 0), s.inb (nodePort q) = []) ∧
       (∀ q ∈ s.bondPorts (s.bondOf 0), q ≠ 0 → (s.port q).outQ = []) ∧ (s.eng (s.portDie 0)).out = [] ∧ (s.port 0).outQ = [(0, ml 2)] ∧
       0 < (s.bond (s.bondOf 0)).credits ∧ (s.bond (s.bondOf 0)).unacked.length < 512 * (s.livePorts (s.bondOf 0)).length) ∧
    (let s := (wPort { st := .up } { credits := 1 }).setInb 0xD00 [pk .wr]
     s.inb (nodePort 0) = [pk .wr] ∧ (∀ q ∈ 0 :: s.bondPorts (s.bondOf 0), (s.port q).outQ = []) ∧
       (∀ q ∈ s.bondPorts (s.bondOf 0), q ≠ 0 → s.inb (nodePort q) = []) ∧ (s.port 0).reqs = []) ∧
    ((frame true 1).seq = ((wPort { st := .up }).bond 0).rxSeq ∧ (frame true 1).lines.length ≤ 25 ∧ (frame true 1).nak = false ∧
      (∀ l ∈ (frame true 1).lines, l.typ ≠ 0 ∧ l.bad = 0) ∧ (frame true 2).seq ≠ ((wPort { st := .up }).bond 0).rxSeq ∧ (frame false 1).good = false) ∧
    (let s := wPort { st := .up } { unacked := [frame true 0], ackAt := 4800 }
     let soon := wPort { st := .up } { unacked := [frame true 0], ackAt := 4801 }
     (s.bond 0).unacked = frame true 0 :: [] ∧ (frame true 0).seq = (frame true 1).ack ∧ (s.bond 0).ackAt + 35200 ≤ s.fab ∧
       soon.fab < (soon.bond 0).ackAt + 35200) := by
  unfold UpPort MaySend NoStamps; decide +kernel

/-- The hand-off of an answer, of a request within the export aperture, and of the first line beyond it. -/
theorem witness_MeridianFrames_handoff :
    (let r : RemoteReq := { tag := 7, pkt := pk .rd }
     let s := wPort { st := .up, inQ := [(0, ml 2)], reqs := [r] }
     s.clocksOn = true ∧ (s.port 0).inQ = (0, ml 2) :: [] ∧ s.bondPorts (s.bondOf 0) = [0] ∧ (s.port 0).reqs = [r] ∧ r.tag = (ml 2).tag ∧ r.pkt.src < 0x480) ∧
    (let s := wPort { st := .up, inQ := [(0, ml 1)] }
     let e : State := { s with chart := { s.chart with pkg := { s.chart.pkg with exportSize := 1, sets := [(0, { mask := 1, sizeGib := 1 })] } } }
     s.chart.pkg.exportSize * 2 ^ 30 ≤ (ml 1).line * 64 ∧ (ml 1).line * 64 < e.chart.pkg.exportSize * 2 ^ 30 ∧
       e.target (e.chart.pkg.exportBase * 2 ^ 30 + (ml 1).line * 64) = .stack 0 0 ∧ (e.port 0).serving = [] ∧ e.bondPorts (e.bondOf 0) = [0] ∧
         e.firmware = true) := by
  decide +kernel

/-- A descriptor at 0x1000: ALLREDUCE of 32 elements from 0x1400 to 0x1800 in a group of 3, on bond 0. -/
def desc (op : Nat) : List Byte :=
  natBytes 1 op ++ natBytes 1 0 ++ natBytes 2 3 ++ natBytes 2 0 ++ natBytes 1 0 ++ natBytes 1 0 ++ natBytes 4 6 ++ natBytes 1 8 ++ natBytes 3 0 ++
  natBytes 8 32 ++ natBytes 8 0x1400 ++ natBytes 8 0x1800 ++ natBytes 8 0x1C00 ++ natBytes 8 0 ++ natBytes 8 0 ++ natBytes 4 0 ++ natBytes 2 22 ++
  natBytes 2 4 ++ natBytes 8 0x1F00

/-- Constellation 3 with `entry`, bond 0 up, and the descriptor in memory. -/
def wTally (op : Nat) : State :=
  let s := (wWin 1 []).modCon 3 fun x => { x with cfg := { x.cfg with portMask := 1 } }
  { (s.setStkLine 0 0x40 (lineOf ((desc op).take 64))).setStkLine 0 0x41 (lineOf ((desc op).drop 64)) with
    chart := { s.chart with pkg := { s.chart.pkg with ports := [(0, { bondFirst := 0, bondWidth := 1, enable := true })] } }
    ports := [(0, { st := .up })], tally := [(0, { queue := [{ addr := 0x1000, cid := 3, by_ := 22 }] })] }

/-- A descriptor that R392 admits and one with OP 0; seven and eight waiting jobs. -/
theorem witness_TallyJobs_start :
    (∀ op ∈ [0, 1], EngineOn (wTally op) 0 ∧ ((wTally op).eng 0).run = none ∧ ((wTally op).eng 0).held = [] ∧
      ((wTally op).eng 0).queue = { addr := 0x1000, cid := 3, by_ := 22 } :: [] ∧
      (((wTally op).tallyBytes 0 3 0x1000 128).2.eng 0).held = []) ∧
    (TDesc.of ((wTally 0).tallyBytes 0 3 0x1000 128).1).op = 0 ∧
    ((wTally 1).tallyBytes 0 3 0x1000 128).2.descOk 0 3 (TDesc.of ((wTally 1).tallyBytes 0 3 0x1000 128).1) ((wTally 1).tallyBytes 0 3 0x1000 128).1 = true ∧
    (((wTally 1).modEng 0 fun e => { e with queue := List.replicate 7 { addr := 0, cid := 3, by_ := 22 } }).eng 0).queue.length < 8 ∧
    8 ≤ (((wTally 1).modEng 0 fun e => { e with queue := List.replicate 8 { addr := 0, cid := 3, by_ := 22 } }).eng 0).queue.length ∧
    wSealed.clocksOn = true ∧ (wSealed.thr 22).world = true ∧ ((wTally 1).core (coreOf 22)).member = some 3 := by
  unfold EngineOn; decide +kernel

/-- The job of that descriptor as it runs. -/
def wRun (f : TRun → TRun) : State :=
  let r : TRun := f { job := { addr := 0x1000, cid := 3, by_ := 22 }, desc := TDesc.of (desc 1), half0 := { active := true } }
  { wTally 1 with tally := [(0, { run := some r })] }

/-- The timeout at its cycle and one before, for TIMEOUT_US 0; a count of 0; a reduction step with more lines to come. -/
theorem witness_TallyJobs_run :
    (∀ f ∈ [fun r : TRun => r, fun r => { r with desc := { r.desc with count := 0 } }, fun r => { r with heard := 0 },
            fun r => { r with half0 := { active := true, phase := 3 }, desc := { r.desc with count := 96 } }],
      EngineOn (wRun f) 0 ∧ ∃ r, ((wRun f).eng 0).run = some r ∧ r.ended = none ∧ r.half1.active = false ∧ r.desc.both = false ∧ r.half0.active = true ∧
        r.half0.finished = false ∧ r.job.cid = 3) ∧
    (let r : TRun := { job := { addr := 0x1000, cid := 3, by_ := 22 }, desc := { TDesc.of (desc 1) with count := 96 } }
     r.desc.group = 3 ∧ 0 + 1 < r.desc.group - 1 ∧ 0 + 1 < r.desc.recvLines false 3 0 ∧ r.desc.timeout = 0 ∧ r.desc.jobTag = 6) ∧
    (let at_ (n : Nat) : State := { wRun id with clk := { wKeeper.clk with ccycle := BitVec.ofNat 64 n } }
     0 + 2200 * 100000 ≤ (at_ 110000000).fab ∧ (at_ 109999999).fab < 0 + 2200 * 100000) := by
  refine ⟨fun f hf => ?_, by decide +kernel, by decide +kernel⟩
  simp only [List.mem_cons, List.not_mem_nil, or_false] at hf
  rcases hf with rfl | rfl | rfl | rfl <;> exact ⟨by unfold EngineOn; decide +kernel, _, rfl, by decide +kernel⟩

/-- An entry that maps 0x1000 to 0x1FFF to the slice of thread 22. -/
def entryLs : BitVec 256 := BitVec.ofNat 256 (0x1000 + 2 ^ 52 + 2 ^ 54 + 2 ^ 55 + 0x1FFF * 2 ^ 64 + 0x10000AE00000 * 2 ^ 128)

theorem witness_TallyJobs_end :
    let s := (wRun fun r => { r with ended := some 0 }).setStkLine 0 512 (entryLs.setWidth 512)
    EngineOn s 0 ∧ (∃ r, (s.eng 0).run = some r ∧ r.ended = some 0 ∧ r.desc.status = 0x1F00 ∧ r.desc.sigThread < 4 * s.member.cores ∧ r.job.cid = 3 ∧
        r.recorded = false) ∧ s.tallyOwes 0 = false ∧ s.tableFree none 0x10000AE00F00 (0x10000AE00F00 + 63) = true ∧ s.rowBad 5 (0xE00F00 / 128) = 0 ∧
      s.tallyTo 3 0x1F00 true = .line 5 0x10000AE00F00 {} none 0 ∧ s.target 0x10000AE00F00 = .ls 5 0xE00F00 ∧ 0x1F00 % 64 = 0 ∧ 0x10000AE00F00 % 64 = 0 := by
  refine ⟨by unfold EngineOn; decide +kernel, ⟨_, rfl, by decide +kernel⟩, by decide +kernel⟩

/-- Constellation 3, sealed-capable with a quota of 2, and slot 16. -/
def wSlot (x : Slot) (f : Trust → Trust := id) : State :=
  { (wCon fun c => { c with cfg := { c.cfg with sealedCapable := true, quota := 2 } }) with
    trust := f { slots := [(16, x)], keyQ := [(3, 16)], skeyValid := true }, keeper := { boot := .running } }

/-- A slot in each state, of its owner and of another; the first and the last slot. -/
theorem witness_SessionsAndIdentity :
    (∀ st ∈ [SlotSt.free, .keyed, .bound, .retired], ∀ n ∈ [0, 16, 4095], SessAt (wSlot { st, owner := 3 }) 3 n ∧
      ((wSlot { st, owner := 3 }).slot 16).st = st ∧ ((wSlot { st, owner := 3 }).slot 16).owner = 3) ∧
    ((wSlot { st := .bound, owner := 4 }).slot 16).owner ≠ 3 ∧ (((wSlot {} fun x => { x with areas := [(3, { busy := true })] }).area 3).busy = true) ∧
    (let s := wSlot {}
     3 = (s.trust.lastKey + 1 + 3) % 32 ∧ s.trust.keyQ.find? (fun k => k.1 == 3) = some (3, 16) ∧
       (∀ i < 3, ∀ k ∈ s.trust.keyQ, k.1 ≠ (s.trust.lastKey + 1 + i) % 32) ∧ s.trust.keyRun = none ∧ (s.slot 16).st = .free ∧
       (s.trust.slots.filter fun p => p.2.st != .free && p.2.owner == 3).length < (s.con 3).cfg.quota ∧ s.trust.skeyValid = true) ∧
    ((wSlot {} fun x => { x with slots := [(1, { st := .keyed, owner := 3 }), (2, { st := .bound, owner := 3 })] }).trust.slots.filter
      fun p => p.2.st != .free && p.2.owner == 3).length = 2 ∧
    (∀ w ∈ [[(23, 1)], [(23, 3)], [(23, 4)], []], let r : KeyRun := { cid := 3, slot := 16, pair := 1, confirm := 2, waiting := w }
      let s := wSlot {} fun x => { x with keyRun := some r }
      s.trust.keyRun = some r ∧ 23 < s.member.stks ∧ s.trust.rotatePending = false) ∧
    (∀ e ∈ [(35600, true), (35601, false)], let r : KeyRun := { cid := 3, slot := 16, pair := 1, confirm := 2, waiting := [(23, 1)], sentAt := [(23, e.1)] }
      decide (Map.get 0 r.sentAt 23 + 4400 ≤ (wSlot {}).fab) = e.2) ∧
    (wSlot {}).memOk = true ∧ (wSlot {}).firmware = true ∧ (wSlot {}).trust.idUsed = false ∧ (wSlot {}).trust.idReady = false ∧
    (∀ b, (wSlot {} fun x => { x with idUsed := true, idReady := true, quoteBusy := b, idPending := true, idEnrol := b }).clocksOn = true) := by
  unfold SessAt; decide +kernel

/-- A chart in the shadow store that gives constellation 3 cores 5 and 6, or leaves it out. -/
def wChart (st : CState) (g : Option ConsCfg) (f : ChartEngine → ChartEngine := id) : State :=
  { wKeeper with cons := [(3, { st })], chart := f { shadow := some { cons := [(3, g)] } } }
def twoCores : ConsCfg := { cores := [5, 6], supervisor := 5 }

theorem witness_ChartLifecycle :
    (∀ st ∈ [CState.dark, .held, .running, .halted, .stopping], ChartIdle (wChart st (some twoCores)) 3 ∧ ((wChart st (some twoCores)).con 3).st = st) ∧
    ((wChart .dark none fun x => { x with busy := some .load }).chart.busy ≠ none) ∧ ChartIdle wKeeper 0 ∧
    (let s := wChart .dark none fun x => { x with busy := some .load }
     s.clocksOn = true ∧ s.chart.busy = some .load ∧ s.chart.flr = none ∧ s.host.pf0Done = true ∧
       ({ s with host := { s.host with pf0Fetch := some (64, 1) } } : State).host.pf0Done = false) ∧
    (let h : HostBridge := { pf0Lines := 130 }
     rdAt (h.pf0Bytes 8320) 0 4 ≠ 0x74726863 ∧ readChart W.member (fun k => (W.stack k).trained) 0 (h.pf0Bytes 8320) = .inl ⟨1, 0, 0⟩) ∧
    (let s := wChart .dark (some twoCores)
     s.chart.shadow = some { cons := [(3, some twoCores)] } ∧ ({ cons := [(3, some twoCores)] } : Chart).cfg 3 = some twoCores ∧
       ({ cons := [(3, none)] } : Chart).cfg 3 = none ∧ ({ cons := [(3, some twoCores)] } : Chart).pkg = s.chart.pkg ∧
       s.commitCode 3 { cons := [(3, some twoCores)] } twoCores = 0 ∧ (∀ n ∈ twoCores.cores, n < s.member.cores) ∧
       (∀ n ∈ twoCores.cores, Map.get false s.chart.faulted n = false)) ∧
    ({ shadow := none } : ChartEngine).shadow = none := by
  unfold ChartIdle; decide +kernel

/-- The checks of COMMIT that fail, each alone, and the ends of the commands. -/
theorem witness_ChartLifecycle_ends :
    ({ fleetId := 1 } : PkgCfg) ≠ (wChart .dark none).chart.pkg ∧ (({ wChart .dark none with cons := [(4, { st := .running })] } : State).con 4).st ≠ .dark ∧
    (let s := wChart .dark (some twoCores) fun x => { x with faulted := [(6, true)] }
     6 ∈ twoCores.cores ∧ Map.get false s.chart.faulted 6 = true ∧ (s.core 6).member ≠ some 3) ∧
    (let s := { wChart .dark (some twoCores) with cons := [(4, { st := .held })], cores := [(6, { member := some 4 })] }
     (s.con 4).st ≠ .dark ∧ 6 ∈ twoCores.cores ∧ (s.core 6).member = some 4) ∧
    (let s := wChart .committing (some twoCores) fun x => { x with busy := some (.commit 3) }
     s.chart.busy = some (.commit 3) ∧ (s.con 3).st = .committing ∧ (s.con 3).flrWaiting = []) ∧
    (let g : ConsCfg := { twoCores with entries := [entry], tableBase := 0x8000 }
     let s := { wChart .committing (some g) with stks := [(0, { trained := true })], chart :=
       { pkg := { sets := [(0, { mask := 1, sizeGib := 1 })] }, busy := some (.commit 3) } }
     g.tableBase % 32 = 0 ∧ g.entries.length = 1 ∧ s.target (g.tableBase + 32 * 0) = .stack 0 0x8000 ∧ s.target g.tableBase = .stack 0 0x8000 ∧
       g.tableBase % 64 = 0 ∧ (s.stack 0).dead = false) ∧
    (let s := wChart .halted none; 5 ∈ s.members 3 ∧ (s.core 5).locked = false ∧ ((s.modCore 5 fun x => { x with locked := true }).core 5).locked = true) ∧
    (∀ k ∈ [(ChartCmd.stop 3, CState.stopping), (.reset 3, .resetting), (.release 3, .resetting)],
      let s := wChart k.2 none fun x => { x with busy := some k.1 }
      (s.con 3).cfg.tableBase % 32 = 0 ∧ (s.con 3).cfg.entries = [] ∧ (s.con 3).st = k.2 ∧ s.chart.busy = some k.1 ∧ s.chart.flr = none ∧
        (s.con 3).flrWaiting = []) ∧
    (let s := { wChart .running none with cons := [(3, { st := .running, flrWaiting := [1] })] }
     (s.con 3).flrWaiting ≠ [] ∧ s.chart.flr = none ∧ s.chart.busy = none ∧
       (∀ n ∈ s.members 3, s.coreAtPoint n = true) ∧ (wThr fun th => { th with pcWait := true }).coreAtPoint 5 = false ∧
         (∀ n ∈ s.members 3, (s.core n).resetPending = false)) := by decide +kernel

/-- Trims at both ends of their range, a load, a step, and a state that refuses a load; offsets at both ends of the good range. -/
theorem witness_ClocksAndTime :
    (∀ trim ∈ [(0 : Int), -8388608, 8388607], let s : State := { wKeeper with clk := { wKeeper.clk with trim, frac := 2 ^ 32 - 1, servo := .acquiring } }
      Counts s ∧ s.clk.frac < 2 ^ 32 ∧ -(2 ^ 23) ≤ s.clk.trim ∧ s.clk.trim ≤ 2 ^ 23 ∧ s.clk.pendLoad = none ∧ s.clk.pendStep = []) ∧
    (W.clk.refPresent = true ∧ W.power.railsOn = true ∧ W.power.perstLow = false ∧ W.clk.rootLock = true ∧ W.clk.lost = false) ∧
    (∃ c < 32, (wKeeper.con c).st ≠ .dark ∧ (wKeeper.con c).st ≠ .held) ∧ (∀ c < 32, (State.reset.con c).st = .dark) ∧ wKeeper.firmware = true ∧
    wKeeper.clk.servo = .free ∧ (4 * ((30 : Nat) + 1) = 124) ∧
    (let s : State := { W with clk := { W.clk with servo := .locked, sidereal := 1100005, lastX := 5 } }
     s.clk.servo = .locked ∧ s.clk.lastX.toNat + 1100000 ≤ s.clk.sidereal.toNat ∧
       ({ s with clk := { s.clk with lastX := 6 } } : State).clk.sidereal.toNat < (6 : Word).toNat + 1100000) := by
  unfold Counts; decide +kernel

/-- An exchange that is due in each state over port 0, 125 µs after the last one, with an answer and with none; one that comes a tick
early, one with no live port, and one in a state that exchanges nothing. -/
theorem witness_ClocksAndTime_exchange :
    let at_ (v : Servo) (now : Word) (q : MPort) : State := { wPort q with
      clk := { wKeeper.clk with servo := v, goodRun := 15, sidereal := now, lastTry := 5000 }
      chart := { (wPort q).chart with pkg := { (wPort q).chart.pkg with upstream := 0 } } }
    let a : TimeAnswer := { asked := 5100, heard := 5200, sent := 5300, got := 5400, hops := 30 }
    (∀ v ∈ [Servo.acquiring, .locked, .holdover], ∀ x ∈ [some a, none],
      let s := at_ v 142500 { st := .up, stamp := x }
      ExchangeDue s ∧ Upstream s 0 ∧ (s.port 0).stamp = x ∧ -(2 ^ 23) ≤ s.clk.trim ∧ s.clk.trim ≤ 2 ^ 23) ∧
    (∃ c < 32, ((at_ .acquiring 142500 {}).con c).st ≠ .dark ∧ ((at_ .acquiring 142500 {}).con c).st ≠ .held) ∧
    ¬ ExchangeDue (at_ .acquiring 142499 {}) ∧ ¬ ExchangeDue (at_ .master 142500 {}) ∧
    ExchangeDue (at_ .acquiring 142500 {}) ∧ (at_ .acquiring 142500 {}).livePorts ((at_ .acquiring 142500 {}).bondOf 0) = [] := by
  unfold ExchangeDue Upstream; decide +kernel

/-- Lengths at both ends of the range and one line outside it; each state of the boot ROM. -/
theorem witness_ResetsAndBoot :
    ((W.ports.map (·.1)).Nodup ∧ W.clocksOn = true) ∧
    (∀ b ∈ [BootSt.reset, .warm, .waiting, .loading, .verifying, .running], ({ wHost with keeper := { boot := b } } : State).keeper.boot = b ∧
      ({ wHost with keeper := { boot := b } } : State).hostSees 0 = true) ∧
    (∀ n ∈ [32768, 0x1000000, 32704, 0x1000040], n % 64 = 0) ∧
    (let s : State := { wHost with keeper := { boot := .waiting, bootLen := 32768, bootSrc := 0x200000000000 },
                                   funcs := [(0, { hwbase := 0x200000000000, hwlimit := 0x200000007000, busMaster := true })] }
     s.keeper.bootLen % 64 = 0 ∧ 32768 ≤ s.keeper.bootLen ∧ s.keeper.bootLen ≤ 0x1000000 ∧ (s.func 0).busMaster = true ∧
       (∀ i < 512, (s.func 0).hwHolds (s.keeper.bootSrc.toNat + 64 * i) = true) ∧ s.ideBroken 0 = false ∧ 1 ≤ s.host.pf0Tokens) ∧
    (let s : State := { wHost with keeper := { boot := .loading, bootLen := 32768 } }
     s.host.pf0Fetch = none ∧ (∀ r ∈ s.host.reads, r.pkt ≠ none) ∧ s.chart.busy = none ∧ s.ideLost 0 0 = false ∧
       let q : State := { s with host := { s.host with pf0Fetch := some (64, 1), reads := [{ tag := 9, func := 0, pkt := none }] } }
       q.host.reads.find? (fun x => x.tag == 9) = some { tag := 9, func := 0, pkt := none } ∧ q.host.linkUp = true ∧ q.host.pf0Fetch ≠ none) ∧
    imageHeaderOk [] = false ∧ (wHost.trust.slots.map (·.1)).Nodup := by
  decide +kernel

/-- An image with a well-formed header for the NV8: the checks that follow are of the signing standard. -/
theorem witness_ResetsAndBoot_image :
    let im := natBytes 4 0x6E777248 ++ natBytes 2 1 ++ natBytes 1 (2 ^ Member.imageBit .nv8) ++ natBytes 9 0 ++ natBytes 4 64 ++ List.replicate 32812 (0 : Byte)
    imageHeaderOk im = true ∧ (im.getD 6 0).getLsbD (Member.imageBit .nv8) = true := by decide +kernel

/-- Core 5 of a held constellation, whose reset may begin and one that is in progress; a stopped thread and its reset. -/
theorem witness_ResetsAndBoot_parts :
    (let s : State := { wKeeper with cons := [(3, { st := .held })] }
     0 < s.member.dies ∧ s.dieCore 0 5 = 5 ∧ (s.core 5).member = some 3 ∧ (s.con 3).st = .held ∧ (s.core 5).locked = false ∧ (s.die 0).resetBusy = false ∧
       s.firmware = true ∧ (s.core (s.dieCore 7 143)).member = none) ∧
    (let s : State :=
      { W with
        cores := [(5, { member := some 3, resetPending := true })]
        dies := [(0, { resetBusy := true, resetIndex := 5, resetCore := 5 })] }
     (s.die 0).resetBusy = true ∧ s.dieCore 0 (s.die 0).resetCore = 5 ∧ (s.core 5).resetPending = true ∧ s.coreQuiet 5 = true ∧ s.chart.waits = false ∧
       (s.modThr 22 fun th => { th with issued := [(0, 1)] }).coreQuiet 5 = false) ∧
    (let s := wThr fun th => { th with stopped := true }; (s.thr 22).stopped = true ∧ (s.thr 22).world = false) ∧
    (let s := wThr fun th => { th with stopped := true, treset := true }
     (s.thr 22).treset = true ∧ (s.thr 22).storeQ = [] ∧ s.streamsQuiet 22 = true ∧ (s.thr 22).gather = [] ∧
       (wThr fun th => { th with treset := true, issued := [(0, 1)] }).streamsQuiet 22 = false) := by decide +kernel

/-- The watchdog, the lantern window, the plan and the write cycle, each at its first instant and one before. -/
theorem witness_HealthAndAgeing :
    (let at_ (n : Nat) : State := { wKeeper with clk := { wKeeper.clk with ccycle := BitVec.ofNat 64 n } }
     (at_ 1100000000).firmware = true ∧ (at_ 1100000000).keeper.kickAt + 1100000000 ≤ (at_ 1100000000).clk.ccycle.toNat ∧
       (at_ 1099999999).clk.ccycle.toNat < (at_ 1099999999).keeper.kickAt + 1100000000) ∧
    (∀ x ∈ [((2 : Nat), (35600 : Nat)), (1, 35600), (2, 35599), (0, 0)], Map.get (0, 0) ({ W with lantern := [(9, x)] } : State).lantern 9 = x ∧
      W.clocksOn = true ∧
      (x.2 = 35600 → W.fab ≤ x.2 + 4400) ∧ (x.2 < 35600 → x.2 + 4400 < W.fab)) ∧
    (List.replicate 168 (0 : Int)).length = 21 * W.member.dies ∧ ¬ SampleDue W ∧
    (let s : State := { W with stks := [(0, { trainFailed := true })] }; s.ageing.sampleAt = none ∧ 0 < s.member.stks ∧ (s.stack 0).trainFailed = true) ∧
    (let s : State := { W with clk := { W.clk with ccycle := 1100000000 }, ageing := { slacks := [19] } }
     0 < s.ageing.slacks.length ∧ s.ageing.slacks.getD 0 0 < 20 ∧ Map.get 0 s.ageing.raisedAt 0 + 1100000000 ≤ s.clk.ccycle.toNat) ∧
    RailIs 8 0 (-6) 12 50 20 6 ∧ RailIs 8 128 (-4) 8 30 12 4 ∧ RailIs 8 136 (-4) 4 200 100 20 ∧ RailIs 8 167 (-6) 12 8 3 1 ∧
    (let s : State := { wKeeper with ageing := { slacks := [1], planAtBoot := true, minutes := 1440 } }
     s.firmware = true ∧ s.ageing.slacks ≠ [] ∧ s.ageing.planAtBoot = true ∧ s.chart.pkg.policy ≠ 2 ∧ s.ageing.planMin + 1440 ≤ s.poweredMin ∧
       s.trust.enrolled = false ∧ s.ageing.lastWrite + 60 ≤ s.poweredMin) ∧
    wKeeper.poweredMin < wKeeper.ageing.lastWrite + 60 ∧ wKeeper.poweredMin < wKeeper.ageing.planMin + 1440 := by
  refine ⟨by decide +kernel, by decide +kernel, List.length_replicate, ?_, ⟨rfl, by decide +kernel, by decide +kernel⟩, by decide +kernel,
    by unfold RailIs; decide, by unfold RailIs; decide, by unfold RailIs; decide, by unfold RailIs; decide, by decide +kernel, by decide +kernel,
    by decide +kernel⟩
  rintro (⟨-, k, hk, h⟩ | ⟨t, h, -⟩)
  · have e : W.stks = [] := rfl
    simp [State.stack, e, Map.get, Map.find] at h
  · cases h

/-- A rail on its way, whose next step is due in this core cycle, in the next and later. -/
theorem witness_HealthAndAgeing_ramp : ∀ due ∈ [20000, 20001, 20002],
    let s : State := { W with clk := { W.clk with odd := true }, ageing := { moves := [(3, -2, due)] } }
    s.pending = [] ∧ s.clk.rootLock = true ∧ s.clk.odd = true ∧ s.ageing.moves = [(3, -2, due)] ∧ (s.clk.ccycle + 1).toNat = 20001 := by
  decide +kernel

/-- The host with the mailbox of running firmware. -/
def wMail (f : Keeper → Keeper := id) : State := { wHost with keeper := f { boot := .running } }

/-- Arguments at both ends of each range and one beyond. -/
theorem witness_MailboxCommands :
    (MailboxFree wMail ∧ wMail.keeper.wall = none ∧ wMail.trust.keyRun = none ∧ wMail.chart.busy = none ∧ (wMail.con 3).st = .running ∧
      wHost.keeper.boot ≠ .running ∧ (wMail fun k => { k with mbBusy := true }).keeper.mbBusy = true ∧
      (wMail fun k => { k with stopped := true }).keeper.stopped = true) ∧
    (24 = wMail.member.stks ∧ 1152 = wMail.member.cores ∧ (31 : BitVec 8).toNat < 32 ∧ 7 < (8 : BitVec 8).toNat ∧
      ({ wMail with chart := { busy := some .load } } : State).chart.busy ≠ none ∧
        ({ wMail with trust := { idReady := true } } : State).trust.idReady = true) ∧
    (let s : State :=
      { wMail fun k => { k with mbWait := some (some 3), request := [(0, 0x11)] } with
        cons := [(3, { st := .stopping })]
        chart := { busy := some (.stop 3) } }
     s.firmware = true ∧ s.clocksOn = true ∧ s.keeper.mbWait = some (some 3) ∧ (s.con 3).st = .stopping ∧ s.chart.busy = some (.stop 3) ∧
       (∀ n ∈ s.members 3, s.coreAtPoint n = true) ∧ readBytes s.keeper.request 0 2 = natBytes 2 0x11) := by
  unfold MailboxFree; decide +kernel

/-- The first request and the last. -/
theorem witness_MailboxCommands_requests : IsRequest .info ∧ IsRequest .skeyRotate :=
  ⟨.inl rfl, .inr (.inr (.inr (.inr (.inr (.inr (.inr rfl))))))⟩

theorem witness_TelemetryAndSideband :
    (wKeeper.firmware = true ∧ wKeeper.clocksOn = true ∧ wKeeper.power.powerGood = true ∧ wKeeper.power.perstLow = false ∧ wKeeper.keeper.boot ≠ .warm) ∧
    (wKeeper.keeper.mirrorAt = none ∧
      (let s : State := { wKeeper with clk := { wKeeper.clk with ccycle := 1100007 }, keeper := { wKeeper.keeper with mirrorAt := some 8 } }
       s.firmware = true ∧ s.clk.ccycle.toNat < 8 + 1100000) ∧
      (let s : State := { wKeeper with clk := { wKeeper.clk with ccycle := 1100007 }, keeper := { wKeeper.keeper with mirrorAt := some 7 } }
       s.firmware = true ∧ 7 + 1100000 ≤ s.clk.ccycle.toNat)) ∧
    (W.core (coreOf 22)).member = some 3 ∧ (W.thr 22).world = false ∧ (W.thr 22).level = true ∧
    ((8 : Word).getLsbD 3 = true ∧ (∀ d < 32, (8 : Word).getLsbD d = true → d = 3) ∧ (0x80000000 : Word).getLsbD 31 = true ∧
      (0x100000000 : Word).getLsbD 32 = true) ∧
    State.reset.power.perstLow = true ∧ (CountedNow W 20000 3 : BitVec 32) = 3 ∧ (CountedNow W 19999 3 : BitVec 32) = 0 := by
  unfold CountedNow; decide +kernel

/-- A step of a thread and of a sealed one, the items at the ends of their classes, and the lower bounds of TJ_LIMIT. -/
theorem witness_DebugAndPower :
    (State.reset.power.perstLow = true ∧ State.reset.power.powerGood = true ∧ W.power.perstLow = false ∧ W.power.powerGood = true ∧ W.clocksOn = true) ∧
    (∀ x ∈ [(0, 31), (0, 32), (1, 2), (2, 7), (2, 8), (5, 5), (7, 4095), (15, 65535)],
      Selects { wThr fun th => { th with stopped := true, z0 := { tag := { sealed := true } } } with dbgSel := [(5,
        BitVec.ofNat 64 (2 + 16 * x.1 + 256 * x.2))] } 5 2 x.1 x.2) ∧
    (let s := wThr fun th => { th with stopped := true, step := 1, bankO := { entry := 0x4000 } }
     (s.thr 22).stopped = true ∧ (s.thr 22).world = false ∧ s.ready 22 [] = true) ∧
    ((wSealed.modThr 22 fun th => { th with stopped := true }).thr 22).world = true ∧ AtBoundary W 22 ∧ (W.thr 22).stopped = false ∧
    ((wThr fun th => { th with stopped := true, step := 2 }).thr 22).step = 2 ∧ (W.thr 22).seedO = none ∧
    (∀ tj ∈ [70, 95, 69, 96], ((BitVec.ofNat 64 (tj * 65536)).extractLsb' 16 8).toNat = tj) ∧
    ({ W with power := { W.power with tripped := true, perstSeen := true } } : State).power.perstSeen = true ∧ wKeeper.firmware = true ∧
    (∀ e ∈ [(35600, false), (35601, true), (40000, true)], decide (W.fab < e.1 + 4400) = e.2) ∧
    ({ W with power := { W.power with powerGood := false } } : State).power.vinOn = true := by
  unfold Selects AtBoundary; decide +kernel

/-! ## The smoke test of WellFormed: for each check, a term that it refuses -/

theorem wf_refuses_units : ∀ i ∈ [Instr.nop 4608, .fence 4608, .scrubSlot 1152 0 0, .copyStop 1152 0, .commit 32, .winvDone 32, .stackSlot 24 0, .train 24,
    .regionLog 24 0 0, .frameTransmit 16, .retrain 16, .meshClearStatus 8, .coreResetDone 8, .tallyTimeout 1, .tallyTimeout 8, .retirementComplete 4096,
    .vfFlr 32, .unsupportedRequest 32, .inject 0x480, .inject 0xF81], i.wf .nv8 = false := by decide

theorem wf_refuses_ranges : ∀ i ∈ [Instr.flitHop 0 48 0 [], .flitHop 0 0 24 [], .logbookRead 65536 1, .eventRead 0 65536, .stackWear 256 0,
  .faultedSet 65536, .faultedClear 65536, .logbookRead 0 256, .coreResetGo 0 144, .hostInboundRead 0 (2 ^ 36) 4,
    .winvEntry .keeper 0 1024, .neighbourRefresh 0 0 0 65536, .ageingSample [], .floorRaise 168 0, .monitorGate 1152,
    .key 3 4096, .quoteGo 32 false, .doorbell 1 0 9 0, .hostInboundWrite 1 (2 ^ 36) [], .winvEntry (.thread 4608) 3 0, .registerWrite (.host 32) 0 0,
    .flushReportComplete 1024, .msixSend 0 32 0, .tallyAbort 0 1 0, .lanternRetry 0xF81, .foeValidClear .keeper 1152, .dbPendClear .keeper 32 0],
      i.wf .nv8 = false := by decide

/-- The smaller members have fewer units. -/
theorem wf_refuses_by_member : (Instr.nop 1152).wf .nv2 = false ∧ (Instr.stackSlot 6 0).wf .nv2 = false ∧ (Instr.stackSlot 12 0).wf .nv4 = false ∧
    (Instr.stackSlot 12 0).wf .nv8 = true ∧ (Instr.nop 4607).wf .nv8 = true := by decide

/-! ## Worked examples of the spec

Each expected value is the spec's own, from the example of the section its docstring names. -/

/-- Core (30, 17) of an NV8 (02_chart). -/
theorem test_core_numbers : Member.nv8.xy 846 = (30, 17) ∧ Member.nv8.dieOf 846 = 6 := by decide

/-- The populated local store of core 1151 and the hole behind it (02_chart). -/
theorem test_local_store_slots :
    (let s : State := { W with cores := [(1151, { member := some 3 })] }
     lsBase 1151 = 0x1008FE000000 ∧ s.target 0x1008FFBFFFFF = .ls 1151 0x1BFFFFF ∧ s.target 0x1008FFC00000 = .nowhere) := by decide +kernel

/-- Interleaving over all 24 stacks, and the router of a line (14_memory_stacks). -/
theorem test_interleave :
    (let m : MemSet := { granule := 8, mask := 0xFFFFFF, sizeGib := 3072 }
     let s : State := { W with chart := { W.chart with pkg := { sets := [(0, m)] } } }
     m.place 0x1234567840 = (0, 0xC22E4540) ∧ s.channelOf 0x48D159E1 = 21 ∧ s.routerOf (nodeStack 0) 0x48D159E1 = (1, 0, 1)) := by decide +kernel

/-- Sub-stores of the offsets in the examples of 04_core and 06_local_store. -/
theorem test_sub_stores : subStore 0x700180 = 3 ∧ subStore 0xE42A48 = 4 := by decide

/-- 2.5 in NF4 is halfway and goes to even (08_number_formats). -/
theorem test_nf4_ties : nf4.encode .even (.fin false 5 (-1)) = 4 ∧ nf4.decode 4 = .fin false 2 0 := by decide +kernel

/-- The block of largest magnitude 1000 under RANGE and its conversion to NF8 (08_number_formats). -/
theorem test_block_scale : nf16.decode 0x51E8 = .fin false 1000 0 ∧ scaleByte 2 (nf16.decode 0x51E8) = 2 ∧
    nf8.encode .even (.fin false 250 0) = 0x78 ∧ nf8.decode 0x78 = .fin false 8 5 ∧ nf32.encode .even (.fin false 1000 0) = 0x423D0000 := by decide +kernel

/-- Native and reference sums of 1, 2^-22 and 2^-22 in AS16 (08_number_formats). -/
theorem test_reference_mode :
    (let ps := [0x3F00, 0x2900, 0x2900].map as16.decode
     nf32.encode .even (nk40.decode (mmaElem false .zero ps).toNat) = 0x3FC00002 ∧
     nf32.encode .even (nk40.decode (mmaElem true .zero ps).toNat) = 0x3FC00004) := by decide +kernel

/-- The command answers a next state, which passes a check. -/
def answers (o : Out State) (f : State → Bool) : Bool :=
  match o with
  | .next s => f s
  | _ => false

/-- ESTATUS of bank O after the system call of 05_worlds_and_exceptions, and after the handler's write. -/
theorem test_scall_estatus :
    answers (exec (.scall 22) (wThr fun th => { th with level := false, ie := true })) (fun s =>
      s.readEntry 22 2 == 4 && (s.thr 22).level &&
        answers (exec (.mte 22 2 1) (s.setG 22 1 0x01230007)) fun u => u.readEntry 22 2 == 5) = true := by decide +kernel

/-- The two ADD packets of the example of 10_mesh merge into lanes of 6 with CNT 2. -/
theorem test_adds_merge :
    (let p : Packet := { typ := .add, line := 9, cnt := 1, rtag := 2, data := lineOf (List.replicate 16 [3, 0, 0, 0]).flatten }
     mergeable p p = true ∧ (mergePkt p p).cnt = 2 ∧ (mergePkt p p).data = lineOf (List.replicate 16 [6, 0, 0, 0]).flatten) := by decide +kernel

/-- Edge results of division (04_core, R103). -/
theorem test_divisions : aluDiv 7 0 = -1 ∧ aluRem 7 0 = 7 ∧ aluDiv (1 <<< 63) (-1) = 1 <<< 63 ∧ aluRem (1 <<< 63) (-1) = 0 ∧
    aluDiv (-7) 2 = -3 ∧ aluRem (-7) 2 = -1 := by decide +kernel

/-- The first push of the example of 12_synchronisation: the slot is filling and TAIL is 1. -/
theorem test_ring_push :
    answers (exec (.rpushg 22 8 3) (wRing 4 0 0 0 0)) (fun s => (s.ring 5 8).tail == 1 && s.slotSt 5 (s.ringHalf 5 8 0) == 1) = true := by
  decide +kernel

/-- The pop of that ring's empty slot blocks. -/
theorem test_ring_pop_blocks :
    answers (exec (.rpopg 22 5 8) (wRing 4 0 0 0 0)) (fun s => (s.thr 22).blocked != none && (s.ring 5 8).head == 0) = true := by
  decide +kernel

/-- The upper half of HWBASE, written by 4 bytes and read back by 8 (15_host_interface.md). -/
theorem test_host_halves :
    answers (exec (.hostInboundWrite 0 0x20004 [1, 2, 0, 4]) { W with host := { linkUp := true, ready := true } }) (fun s =>
      (s.func 0).hwbase == 0x20100000000 &&
        answers (exec (.hostInboundRead 0 0x20000 8) s) fun u => u.host.tlps == [.completion 0 [0, 0, 0, 0, 1, 2, 0, 0] false]) = true := by
  decide +kernel

/-- A doorbell takes 8 bytes only (R360). -/
theorem test_doorbell_half :
    answers (exec (.hostInboundWrite 1 (0xFC0000000 + 0x1000) [1, 2, 3, 4])
      { W with
        host := { linkUp := true, ready := true, vfEnable := true }
        funcs := [(1, { bound := some 3 })] }) (fun s =>
      (s.func 1).dbPend == 0 && s.keeper.violPkg == 1) = true := by decide +kernel

/-! ## Instruction words, written out from the encodings of the spec -/

/-- Forms M, R, I, X, B, J and U of R99: a word's MAJOR, then its fields from bit 25 down. -/
theorem test_decode_forms :
    decodeInstr 22 (some 0x6CA25FF8) none = .std 22 5 2 2 0x1FF8 ∧        -- 1B, RS 5, RA 2, PG 2, IMM13
    decodeInstr 22 (some 0x04A21801) none = .sub 22 5 2 3 ∧               -- 01, RD 5, RA 2, RB 3, FUNC 001
    decodeInstr 22 (some 0x08A2FFFF) none = .addi 22 5 2 0xFFFF ∧         -- 02, RD 5, RA 2, IMM16
    decodeInstr 22 (some 0x70A21968) none = .ldx 22 5 2 3 1 1 2 true ∧    -- 1C, RD 5, RA 2, RB 3, PG 1, SCALE 1, SIZE 2, SIGNED
    decodeInstr 22 (some 0x80A2FFFE) none = .beq 22 5 2 0xFFFE ∧          -- 20, RA 5, RB 2, DISP16
    decodeInstr 22 (some 0x98000005) none = .jmp 22 5 ∧                   -- 26, DISP26
    decodeInstr 22 (some 0x24BFFFFF) none = .li 22 5 0x1FFFFF := by decide -- 09, RD 5, IMM21

/-- The system group, the shifts, the atomics, the pipes and the rings (R101, R104, R113, R165, R291). -/
theorem test_decode_short :
    decodeInstr 22 (some 0x00000010) none = .scall 22 ∧ decodeInstr 22 (some 0x00040011) none = .gate 22 4 ∧
    decodeInstr 22 (some 0x20A20043) none = .shri 22 5 2 3 ∧              -- 08, kind 1, amount 3
    decodeInstr 22 (some 0x78A21901) none = .cas 22 5 2 3 1 ∧             -- 1E, PG 1, FUNC 01
    decodeInstr 22 (some 0x78021A13) none = .addn32 22 2 3 2 3 ∧          -- 1E, PG 2, RTAG 3
    decodeInstr 22 (some 0xB0A01002) none = .prd 22 5 2 ∧                 -- 2C, peer 2, FUNC 2
    decodeInstr 22 (some 0x00A04043) none = .rpopg 22 5 8 := by decide    -- 00, ring 8, FUNC 043

/-- Matrix, vector and copy instructions: two words (R181, R237, R320). -/
theorem test_decode_long :
    decodeInstr 22 (some 0xF4200004) (some 1) = .mma 22 1 1 ∧
    decodeInstr 22 (some 0xF4004A82) (some 0x21FC0010) = .tldb 22 9 10 2 63 33 ∧
    decodeInstr 22 (some 0xF0611104) (some 5) = .vfma 22 3 1 2 4 .nf32 ∧
    decodeInstr 22 (some 0xF8090001) (some 0x12) = .cpset 22 2 4 9 := by decide

/-- The zero word, a field that is not zero, MAJOR 3F, an unlisted FUNC and refused words (R31, R100, R482). -/
theorem test_decode_undefined :
    decodeInstr 22 (some 0) none = .undef 22 false ∧ decodeInstr 22 (some 0x00040010) none = .undef 22 false ∧
    decodeInstr 22 (some 0xFC000000) none = .undef 22 false ∧ decodeInstr 22 (some 0x0000004F) none = .undef 22 false ∧
    decodeInstr 22 (some 0xF4200004) (some 3) = .undef 22 false ∧ decodeInstr 22 (some 0xF8090001) none = .undef 22 true ∧
    decodeInstr 22 none none = .undef 22 true := by decide

end Sys2Proof.Tests
end

section
/-! SUPPORT. Each function of the ALU group over integers, and the obligation on arithmetic results (R102, R103). -/

namespace Sys2Proof.Machine

open Sys2Proof Sys2Proof.Claims

/-! ## The functions of R102 and R103 over integers -/

theorem ofInt_toInt_sub (a b : Word) : BitVec.ofInt 64 (a.toInt - b.toInt) = a - b := by
  rw [Int.sub_eq_add_neg, BitVec.ofInt_add, BitVec.ofInt_neg, BitVec.ofInt_toInt, BitVec.ofInt_toInt, ← BitVec.sub_eq_add_neg]

theorem ofNat_toNat_mul_pow (a : Word) (n : Nat) : BitVec.ofNat 64 (a.toNat * 2 ^ n) = a <<< n := by
  apply BitVec.eq_of_toNat_eq
  rw [BitVec.toNat_ofNat, BitVec.toNat_shiftLeft, Nat.shiftLeft_eq]

theorem ofNat_toNat_div_pow (a : Word) (n : Nat) : BitVec.ofNat 64 (a.toNat / 2 ^ n) = a >>> n := by
  apply BitVec.eq_of_toNat_eq
  rw [BitVec.toNat_ofNat, BitVec.toNat_ushiftRight, Nat.shiftRight_eq_div_pow]
  exact Nat.mod_eq_of_lt ((Nat.div_le_self _ _).trans_lt a.isLt)

theorem ofInt_toInt_div_pow (a : Word) (n : Nat) : BitVec.ofInt 64 (a.toInt / 2 ^ n) = a.sshiftRight n := by
  have e : (a.sshiftRight n).toInt = a.toInt / 2 ^ n := by
    rw [BitVec.toInt_sshiftRight, Int.shiftRight_eq_div_pow]; norm_cast
  rw [← e, BitVec.ofInt_toInt]

theorem rotateLeft_eq_or (a : Word) {n : Nat} (h : n < 64) : a.rotateLeft n = a <<< n ||| a >>> (64 - n) := by
  rw [BitVec.rotateLeft_def, Nat.mod_eq_of_lt h]

theorem word1_eq (b : Bool) : word1 b = if b = true then 1 else 0 := rfl

theorem aluMin_eq (a b : Word) : aluMin a b = BitVec.ofInt 64 (min a.toInt b.toInt) := by
  unfold aluMin
  split
  · next h => rw [min_eq_left (BitVec.slt_iff_toInt_lt.mp h).le, BitVec.ofInt_toInt]
  · next h => rw [min_eq_right (not_lt.mp (mt BitVec.slt_iff_toInt_lt.mpr h)), BitVec.ofInt_toInt]

theorem aluMax_eq (a b : Word) : aluMax a b = BitVec.ofInt 64 (max a.toInt b.toInt) := by
  unfold aluMax
  split
  · next h => rw [max_eq_right (BitVec.slt_iff_toInt_lt.mp h).le, BitVec.ofInt_toInt]
  · next h => rw [max_eq_left (not_lt.mp (mt BitVec.slt_iff_toInt_lt.mpr h)), BitVec.ofInt_toInt]

theorem aluMinu_eq (a b : Word) : aluMinu a b = BitVec.ofNat 64 (min a.toNat b.toNat) := by
  unfold aluMinu
  split
  · next h => rw [min_eq_left (BitVec.ult_iff_lt.mp h).le]; simp
  · next h => rw [min_eq_right (not_lt.mp (mt BitVec.ult_iff_lt.mpr h))]; simp

theorem aluMaxu_eq (a b : Word) : aluMaxu a b = BitVec.ofNat 64 (max a.toNat b.toNat) := by
  unfold aluMaxu
  split
  · next h => rw [max_eq_right (BitVec.ult_iff_lt.mp h).le]; simp
  · next h => rw [max_eq_left (not_lt.mp (mt BitVec.ult_iff_lt.mpr h))]; simp

/-- The double-width product of two words does not wrap, and its high half is a floor division. -/
theorem aluMulhu_eq (a b : Word) : aluMulhu a b = BitVec.ofNat 64 (a.toNat * b.toNat / 2 ^ 64) := by
  unfold aluMulhu
  apply BitVec.eq_of_toNat_eq
  have hlt : a.toNat * b.toNat < 2 ^ 128 := (Nat.mul_lt_mul'' a.isLt b.isLt).trans_le (by norm_num)
  rw [BitVec.extractLsb'_toNat, BitVec.toNat_mul, BitVec.toNat_setWidth_of_le (by decide), BitVec.toNat_setWidth_of_le (by decide),
    Nat.mod_eq_of_lt hlt, Nat.shiftRight_eq_div_pow, BitVec.toNat_ofNat]

/-- The high half of a 128-bit integer is its floor quotient. -/
theorem extractLsb'_ofInt_high (i : Int) : (BitVec.ofInt 128 i).extractLsb' 64 64 = BitVec.ofInt 64 (i / 2 ^ 64) := by
  apply BitVec.eq_of_toNat_eq
  rw [BitVec.extractLsb'_toNat, BitVec.toNat_ofInt, BitVec.toNat_ofInt, Nat.shiftRight_eq_div_pow]
  norm_num
  omega

theorem aluMulh_eq (a b : Word) : aluMulh a b = BitVec.ofInt 64 (a.toInt * b.toInt / 2 ^ 64) := by
  rw [← extractLsb'_ofInt_high, BitVec.ofInt_mul]
  rfl

theorem aluDiv_eq (a b : Word) : aluDiv a b = if b = 0 then -1 else BitVec.ofInt 64 (a.toInt.tdiv b.toInt) := by
  unfold aluDiv
  split
  · rfl
  · apply BitVec.eq_of_toInt_eq
    rw [BitVec.toInt_sdiv, BitVec.toInt_ofInt]

theorem aluDivu_eq (a b : Word) : aluDivu a b = if b = 0 then 0xFFFFFFFFFFFFFFFF else BitVec.ofNat 64 (a.toNat / b.toNat) := by
  unfold aluDivu
  split
  · rfl
  · rw [← BitVec.toNat_udiv, BitVec.ofNat_toNat, BitVec.setWidth_eq]

theorem aluRem_eq (a b : Word) : aluRem a b = if b = 0 then a else BitVec.ofInt 64 (a.toInt.tmod b.toInt) := by
  unfold aluRem
  rw [← BitVec.toInt_srem, BitVec.ofInt_toInt]

theorem aluRemu_eq (a b : Word) : aluRemu a b = if b = 0 then a else BitVec.ofNat 64 (a.toNat % b.toNat) := by
  unfold aluRemu
  rw [← BitVec.toNat_umod, BitVec.ofNat_toNat, BitVec.setWidth_eq]

/-! ## The instructions -/

/-- The instruction writes a function of two registers, which is the given one (R101). -/
def ComputesAlu (p : (Tid → Reg → Reg → Reg → Instr) × (Word → Word → Word)) : Prop :=
  ∃ f, (∀ t rd ra rb s, exec (p.1 t rd ra rb) s = alu2 t rd ra rb f s) ∧ ∀ a b, f a b = p.2 a b

theorem ComputesAlu.writesG {p : (Tid → Reg → Reg → Reg → Instr) × (Word → Word → Word)} (hp : ComputesAlu p) {s : State} {t : Tid}
    {rd ra rb : Reg} (h : s.ready t [ra.val, rb.val] = true) :
    WritesG (p.1 t rd ra rb) s t rd (p.2 ((s.thr t).greg ra) ((s.thr t).greg rb)) := by
  obtain ⟨f, hexec, hf⟩ := hp
  apply writesG_of
  rw [hexec, alu2_ready f h, hf]

theorem binaryOps_compute : ∀ p ∈ binaryOps, ComputesAlu p := by
  simp only [binaryOps, List.forall_mem_cons, List.not_mem_nil, false_imp_iff, implies_true, and_true]
  refine ⟨⟨_, exec_add, fun a b => ?_⟩, ⟨_, exec_sub, fun a b => (ofInt_toInt_sub a b).symm⟩, ⟨_, exec_and, fun _ _ => rfl⟩,
    ⟨_, exec_or, fun _ _ => rfl⟩, ⟨_, exec_xor, fun _ _ => rfl⟩, ⟨_, exec_andn, fun _ _ => rfl⟩,
    ⟨_, exec_shl, fun a _ => (ofNat_toNat_mul_pow a _).symm⟩, ⟨_, exec_shr, fun a _ => (ofNat_toNat_div_pow a _).symm⟩,
    ⟨_, exec_sar, fun a _ => (ofInt_toInt_div_pow a _).symm⟩, ⟨_, exec_rol, fun a b => ?_⟩,
    ⟨_, exec_slt, fun a b => ?_⟩, ⟨_, exec_sltu, fun a b => ?_⟩,
    ⟨_, exec_min, aluMin_eq⟩, ⟨_, exec_max, aluMax_eq⟩, ⟨_, exec_minu, aluMinu_eq⟩, ⟨_, exec_maxu, aluMaxu_eq⟩,
    ⟨_, exec_mul, fun a b => ?_⟩, ⟨_, exec_mulh, aluMulh_eq⟩, ⟨_, exec_mulhu, aluMulhu_eq⟩⟩
  case refine_1 => simp [BitVec.ofNat_add]
  case refine_2 => dsimp only; rw [ofNat_toNat_mul_pow, ofNat_toNat_div_pow]; exact rotateLeft_eq_or a (Nat.mod_lt _ (by decide))
  case refine_3 => simp only [word1_eq, BitVec.slt_iff_toInt_lt]
  case refine_4 => simp only [word1_eq, BitVec.ult_iff_lt, BitVec.lt_def]
  case refine_5 => simp [BitVec.ofNat_mul]

theorem divisionOps_compute : ∀ p ∈ divisionOps, ComputesAlu p := by
  simp only [divisionOps, List.forall_mem_cons, List.not_mem_nil, false_imp_iff, implies_true, and_true]
  exact ⟨⟨_, exec_div, aluDiv_eq⟩, ⟨_, exec_divu, aluDivu_eq⟩, ⟨_, exec_rem, aluRem_eq⟩, ⟨_, exec_remu, aluRemu_eq⟩⟩

/-- A shift or rotate by 64 places takes the low 6 bits, which are zero (R103). -/
theorem shift_by_64 (a : Word) : a <<< amount 64 = a ∧ a >>> amount 64 = a ∧ a.sshiftRight (amount 64) = a ∧ a.rotateLeft (amount 64) = a := by
  have e : amount 64 = 0 := by decide
  rw [e]
  exact ⟨BitVec.shiftLeft_zero _, BitVec.ushiftRight_zero _, BitVec.sshiftRight_zero, by simp [rotateLeft_eq_or, BitVec.ushiftRight_eq_zero]⟩

end Sys2Proof.Machine

open Sys2Proof Sys2Proof.Machine Sys2Proof.Claims

/-- Settles O6: each function of the ALU group is the integer function of its row, and the one form that issues it writes
the result and nothing else. -/
theorem arithmeticResults : Obligations.ArithmeticResults := by
  unfold Obligations.ArithmeticResults
  refine ⟨fun p hp s t rd ra rb h => (binaryOps_compute p hp).writesG h, fun p hp s t rd ra rb h => (divisionOps_compute p hp).writesG h, ?_, ?_, ?_⟩
  · intro s t rd ra rb h ha hb
    constructor <;> apply writesG_of
    · rw [exec_div, execDiv, alu2_ready _ h, ha, hb]; rfl
    · rw [exec_rem, execRem, alu2_ready _ h, ha, hb]; rfl
  · intro p hp s t rd ra rb h hb
    apply writesG_of
    obtain ⟨hshl, hshr, hsar, hrol⟩ := shift_by_64 ((s.thr t).greg ra)
    fin_cases hp
    · rw [exec_shl, execShl, alu2_ready _ h, hb, hshl]
    · rw [exec_shr, execShr, alu2_ready _ h, hb, hshr]
    · rw [exec_sar, execSar, alu2_ready _ h, hb, hsar]
    · rw [exec_rol, execRol, alu2_ready _ h, hb, hrol]
  · intro s t rd ra h ha
    constructor <;> apply writesG_of
    · rw [exec_clz, execClz, alu1_ready _ h, ha]; rfl
    · rw [exec_ctz, execCtz, alu1_ready _ h, ha]; rfl

end

section
/-! SUPPORT. Exceptions as outcomes of a command, and the obligation on misaligned accesses (R98). -/

namespace Sys2Proof.Machine

open Sys2Proof Sys2Proof.Claims

/-- A command that ends in an exception of its thread enters a handler or locks up the core, as the entry lock says. -/
theorem excepts_of {i : Instr} {s : State} {t : Tid} {code acc : Nat} {info epc : Word}
    (h : exec i s = .next ((s.modThr t Thread.issued1).raiseAt t code acc false info epc)) : Excepts i s t code acc info epc :=
  ⟨fun hel => ⟨_, h, raiseAt_enters hel code acc info epc⟩, fun hel => ⟨_, h, raiseAt_locks hel code acc info epc⟩⟩

/-- The exception at the present instruction saves its own address, which the issue leaves. -/
theorem raise_issued1 (s : State) (t : Tid) (code acc : Nat) (info : Word) :
    (s.modThr t Thread.issued1).raise t code acc info =
      (s.modThr t Thread.issued1).raiseAt t code acc false info (s.thr t).pc := by
  unfold State.raise
  rw [State.thr_modThr_same, Thread.issued1_pc]

/-! ## Scalar accesses -/

theorem access_misaligned {s : State} {t : Tid} {a : Access} (h : a.addr % a.kind.align ≠ 0) :
    s.access t a = s.raise t causeAlign a.kind.code (BitVec.ofNat 64 a.addr) := by
  unfold State.access
  rw [if_pos h]

/-- An access that need not wait for a store issues. -/
theorem accessInstr_ready {s : State} {t : Tid} {srcs : List Nat} {kind : Thread → AccKind} {addr : Thread → Nat}
    (hr : s.ready t srcs = true) (hs : s.stalls t { kind := kind (s.thr t), addr := addr (s.thr t) } = false) :
    accessInstr s t srcs kind addr =
      .next ((s.modThr t Thread.issued1).access t { kind := kind (s.thr t), addr := addr (s.thr t) }) := by
  unfold accessInstr
  dsimp only
  rw [hs, issue_ready hr]
  rfl

theorem exec_of_isLoad {i : Instr} {t : Tid} {srcs : List Nat} {n : Nat} {sx : Bool} {rd : Reg} {f : Thread → Nat}
    (h : IsLoad i t srcs n sx rd f) (s : State) : exec i s = accessInstr s t srcs (fun _ => .load n sx rd) f := by
  cases h with
  | m p hp _ _ ra pg imm => fin_cases hp <;> rfl
  | x _ _ ra rb pg scale size _ => rfl

theorem exec_of_isStore {i : Instr} {t : Tid} {srcs : List Nat} {n : Nat} {rs : Reg} {f : Thread → Nat}
    (h : IsStore i t srcs n rs f) (s : State) : exec i s = accessInstr s t srcs (fun th => .store n (th.greg rs)) f := by
  cases h with
  | m p hp _ _ ra pg imm => fin_cases hp <;> rfl
  | x _ _ ra rb pg scale size => rfl

/-- A store never waits for an older one (R88). -/
theorem store_not_stalls (s : State) (t : Tid) (n : Nat) (v : Word) (addr : Nat) :
    s.stalls t { kind := .store n v, addr } = false := rfl

/-- An aligned access of a power of two up to 8 bytes ends in the line in which it begins. -/
theorem aligned_same_line {a n : Nat} (hn : n ∈ [1, 2, 4, 8]) (h : a % n = 0) : a / 64 = (a + n - 1) / 64 := by
  fin_cases hn <;> omega

end Sys2Proof.Machine

open Sys2Proof Sys2Proof.Machine Sys2Proof.Claims

/-- Settles O12: the alignment check stands before every other check of an access. -/
theorem misalignedRaises : Obligations.MisalignedRaises := by
  unfold Obligations.MisalignedRaises
  refine ⟨fun i t srcs n sx rd f hi s hr hmis hstall => ?_, fun i t srcs n rs f hi s hr hmis => ?_, fun a n hn h => aligned_same_line hn h⟩
  · apply excepts_of
    rw [exec_of_isLoad hi, accessInstr_ready hr hstall, access_misaligned hmis, raise_issued1]
    rfl
  · apply excepts_of
    rw [exec_of_isStore hi, accessInstr_ready hr (store_not_stalls ..), access_misaligned hmis, raise_issued1]
    rfl

end

section
/-! SUPPORT. What a refused access changes, said once (R25, R28, R30). -/

namespace Sys2Proof.Machine

open Sys2Proof

/-! ## First offenders (R30) -/

/-- Without an earlier refusal in the cycle, a refusal is the cycle's first. -/
theorem Foe.first_of_late {e : Foe} {cyc : Word} (h : e.lateAt ≠ cyc) (r : FoeRec) : e.first r cyc = r := by
  unfold Foe.first
  cases e.late with
  | none => rfl
  | some b => exact if_neg fun hc => h hc.1

/-- A free entry records the cycle's first refusal. -/
theorem Foe.record_free {e : Foe} {cyc : Word} (hv : e.valid = false) (hl : e.lateAt ≠ cyc) (r : FoeRec) :
    (e.record r cyc).valid = true ∧ (e.record r cyc).toFoeRec = r := by
  unfold Foe.record
  rw [Foe.first_of_late hl, if_neg (by simp [hv])]
  exact ⟨rfl, rfl⟩

/-- An entry of an earlier cycle stands. -/
theorem Foe.record_held {e : Foe} {cyc : Word} (hv : e.valid = true) (hs : e.since ≠ cyc) (r : FoeRec) :
    (e.record r cyc).valid = true ∧ (e.record r cyc).toFoeRec = e.toFoeRec := by
  unfold Foe.record
  rw [if_pos ⟨hv, hs⟩]
  exact ⟨hv, rfl⟩

theorem Thread.tag_sealed (th : Thread) : th.tag.sealed = th.world := by
  unfold Thread.tag
  split
  · next h => exact h.symm
  · next h => exact (Bool.eq_false_iff.mpr h).symm

/-! ## The tallies (R28, R29) -/

@[simp] theorem State.tallyUp_core (s : State) (c : Option Nat) : (s.tallyUp c).core = s.core := by cases c <;> rfl
@[simp] theorem State.tallyUp_thr (s : State) (c : Option Nat) : (s.tallyUp c).thr = s.thr := by cases c <;> rfl
@[simp] theorem State.tallyUp_clk (s : State) (c : Option Nat) : (s.tallyUp c).clk = s.clk := by cases c <;> rfl

/-- The tallies of a constellation and of the package rise, and nothing else changes. -/
theorem State.tallyUp_rest (s : State) (c : Option Nat) :
    s.tallyUp c = { s with cons := (s.tallyUp c).cons, keeper := (s.tallyUp c).keeper } := by cases c <;> rfl

theorem State.tallyUp_keeper (s : State) (c : Option Nat) : (s.tallyUp c).keeper = { s.keeper with
    violPkg := if s.keeper.violPkg = BitVec.allOnes 48 then s.keeper.violPkg else s.keeper.violPkg + 1
    violNew := (s.tallyUp c).keeper.violNew, violAt := (s.tallyUp c).keeper.violAt } := by cases c <;> rfl

theorem State.tallyUp_con (s : State) (o : Option Nat) (c : Nat) : (s.tallyUp o).con c = if o = some c then
    { s.con c with viol := if (s.con c).viol = BitVec.allOnes 32 then (s.con c).viol else (s.con c).viol + 1
                   violNew := ((s.tallyUp o).con c).violNew, violAt := ((s.tallyUp o).con c).violAt } else s.con c := by
  cases o with
  | none => rfl
  | some d =>
    have e : (s.tallyUp (some d)).con c = (s.modCon d fun x => { x with
        viol := if x.viol = BitVec.allOnes 32 then x.viol else x.viol + 1
        violNew := newCount s.clk.ccycle x.violAt x.violNew, violAt := s.clk.ccycle }).con c := rfl
    rw [e]
    split
    · next h => cases h; rw [State.con_modCon_same]
    · next h => exact State.con_modCon_other _ _ _ _ fun hc => h (by rw [hc])

/-! ## A refused access -/

/-- The first-offender entry of the core with a refusal of thread t in it. -/
theorem State.refuse_eq (s : State) (t : Tid) (kind addr : Nat) :
    s.refuse t kind addr = (s.tallyUp (s.core (coreOf t)).member).modCore (coreOf t) fun c =>
      { c with foe := c.foe.record (s.offence t kind (BitVec.ofNat 64 addr)) s.clk.ccycle } := by
  unfold State.refuse State.refuseAt Foe.note State.offence State.now
  simp only [Thread.tag_sealed, State.tallyUp_clk]

@[simp] theorem State.refuse_thr (s : State) (t : Tid) (kind addr : Nat) : (s.refuse t kind addr).thr = s.thr := by
  rw [State.refuse_eq]
  exact State.tallyUp_thr s _

/-- A refusal leaves a core all but its first-offender entry. -/
theorem State.refuse_core (s : State) (t : Tid) (kind addr n : Nat) : (s.refuse t kind addr).core n =
    if n = coreOf t then { s.core n with foe := (s.core n).foe.record (s.offence t kind (BitVec.ofNat 64 addr)) s.clk.ccycle }
    else s.core n := by
  rw [State.refuse_eq]
  split
  · next h => rw [h, State.core_modCore_same, State.tallyUp_core]
  · next h => rw [State.core_modCore_other _ _ _ _ h, State.tallyUp_core]

theorem State.refuse_counts (s : State) (t : Tid) (kind addr : Nat) :
    CountsRefusal s (s.refuse t kind addr) t kind (BitVec.ofNat 64 addr) := by
  have hcore := State.refuse_core s t kind addr (coreOf t)
  rw [if_pos rfl] at hcore
  have hkeeper : (s.refuse t kind addr).keeper = (s.tallyUp (s.core (coreOf t)).member).keeper := by rw [State.refuse_eq]; rfl
  have hcon : (s.refuse t kind addr).con = (s.tallyUp (s.core (coreOf t)).member).con := by rw [State.refuse_eq]; rfl
  constructor
  case package => rw [hkeeper]; exact State.tallyUp_keeper s _
  case con => intro c; rw [hcon]; exact State.tallyUp_con s _ c
  case foe =>
    intro n
    rw [State.refuse_core]
    split <;> rfl
  case first => intro hv hl; rw [hcore]; exact Foe.record_free hv hl _
  case held => intro hv hs; rw [hcore]; exact Foe.record_held hv hs _
  case others => intro i _; rw [State.refuse_thr]
  case rest => rw [State.refuse_eq, State.tallyUp_rest]; rfl

/-- A refusal counts the same when it follows a change of its thread that keeps world and level. -/
theorem countsRefusal_of_threadOnly_left {s m u : State} {t : Tid} {kind : Nat} {addr : Word} (h : ThreadOnly s m t)
    (hw : (m.thr t).world = (s.thr t).world) (hl : (m.thr t).level = (s.thr t).level) (hc : CountsRefusal m u t kind addr) :
    CountsRefusal s u t kind addr := by
  have ho : m.offence t kind addr = s.offence t kind addr := by
    unfold State.offence
    rw [hw, hl, h.rest]
  obtain ⟨hpackage, hcon, hfoe, hfirst, hheld, hothers, hrest⟩ := hc
  have hthr := h.others
  have hm := h.rest
  rw [ho] at hfirst
  generalize m.threads = x at hm
  subst hm
  exact ⟨hpackage, hcon, hfoe, hfirst, hheld, fun i hi => (hothers i hi).trans (hthr i hi), hrest⟩

/-- A refusal counts the same when a change of its thread follows it. -/
theorem countsRefusal_of_threadOnly_right {s u w : State} {t : Tid} {kind : Nat} {addr : Word} (hc : CountsRefusal s u t kind addr)
    (h : ThreadOnly u w t) : CountsRefusal s w t kind addr := by
  obtain ⟨hpackage, hcon, hfoe, hfirst, hheld, hothers, hrest⟩ := hc
  have hthr := h.others
  have hw := h.rest
  generalize w.threads = x at hw
  subst hw
  refine ⟨hpackage, hcon, hfoe, hfirst, hheld, fun i hi => (hthr i hi).trans (hothers i hi), ?_⟩
  generalize u.threads = a at hrest
  generalize u.cores = b at hrest ⊢
  generalize u.cons = c at hrest ⊢
  generalize u.keeper = d at hrest ⊢
  subst hrest
  rfl

theorem past_threadOnly (s : State) (t : Tid) (n : Nat) : ThreadOnly s (s.past t n) t := modThr_threadOnly s t _

theorem setG_threadOnly (s : State) (t : Tid) (r : Reg) (v : Word) : ThreadOnly s (s.setG t r v) t := modThr_threadOnly s t _

/-- An issued instruction that is refused and then goes on in its thread. -/
theorem refused_counts (s : State) (t : Tid) (kind addr : Nat) {u : State}
    (h : ThreadOnly ((s.modThr t Thread.issued1).refuse t kind addr) u t) : CountsRefusal s u t kind (BitVec.ofNat 64 addr) := by
  refine countsRefusal_of_threadOnly_right ?_ h
  refine countsRefusal_of_threadOnly_left (modThr_threadOnly s t Thread.issued1) ?_ ?_ (State.refuse_counts _ t kind addr) <;>
    rw [State.thr_modThr_same] <;> rfl

end Sys2Proof.Machine
end

section
/-! SUPPORT. Calls, returns and the return-stack pointer, and the obligation on them (R105, R106). -/

namespace Sys2Proof.Machine

open Sys2Proof Sys2Proof.Claims

/-! ## Jumps -/

/-- A displacement is added in integers (R101). -/
theorem branchTarget_eq_jumpTo (pc : Word) (n : Nat) (disp : BitVec n) : branchTarget pc n disp = jumpTo pc disp.toInt := by
  unfold branchTarget jumpTo
  rw [BitVec.ofInt_add, BitVec.ofInt_mul, BitVec.ofInt_natCast, BitVec.ofNat_toNat, BitVec.setWidth_eq]
  rfl

/-! ## Calls (R105) -/

theorem doCall_full {s : State} {t : Tid} (h : 2048 ≤ (s.thr t).rsp) (target : Thread → Word) :
    s.doCall t target = s.raise t causeRstack 0 0 := by
  unfold State.doCall
  exact if_pos h

/-- The thread after a call with room: its return address is posted to the entry that RSP names, RSP is one up, and PC is
the target. -/
def Thread.called (th : Thread) (base : Nat) (pc : Word) : Thread :=
  { th with storeQ := th.storeQ ++ [.own (base + 8 * th.rsp) 8 (th.pc + 4) th.tag th.nextId]
            nextId := th.nextId + 1, rsp := th.rsp + 1, pc }

theorem doCall_room {s : State} {t : Tid} (h : (s.thr t).rsp < 2048) (target : Thread → Word) :
    s.doCall t target = s.setThr t ((s.thr t).called (s.rstackBase t) (target (s.thr t))) := by
  unfold State.doCall
  exact if_neg (by omega)

theorem issued_call_full {s : State} {t : Tid} (h : (s.thr t).rsp = 2048) (target : Thread → Word) :
    (s.modThr t Thread.issued1).doCall t target = (s.modThr t Thread.issued1).raiseAt t 4 0 false 0 (s.thr t).pc := by
  rw [doCall_full (by rw [State.thr_modThr_same]; exact h.ge), raise_issued1]
  rfl

/-- What an issued call with room leaves: the posted store, RSP one up, and PC at the target. -/
theorem issued_call_room {s : State} {t : Tid} (h : (s.thr t).rsp < 2048) {target : Thread → Word} {pc : Word}
    (hpc : target (s.thr t).issued1 = pc) :
    let u := (s.modThr t Thread.issued1).doCall t target
    (u.thr t).pc = pc ∧ (u.thr t).rsp = (s.thr t).rsp + 1 ∧
      (u.thr t).storeQ = (s.thr t).storeQ ++ [.own (s.rstackBase t + 8 * (s.thr t).rsp) 8 ((s.thr t).pc + 4) (s.thr t).tag (s.thr t).nextId] ∧
      OnlyPc { s.thr t with rsp := (u.thr t).rsp, storeQ := (u.thr t).storeQ, nextId := (s.thr t).nextId + 1 } (u.thr t) ∧
      ThreadOnly s u t := by
  intro u
  have hu : u = (s.modThr t Thread.issued1).setThr t ((s.thr t).issued1.called (s.rstackBase t) pc) := by
    have hthr : (s.modThr t Thread.issued1).thr t = (s.thr t).issued1 := State.thr_modThr_same ..
    rw [← hpc, ← hthr]
    exact doCall_room (by rw [hthr]; exact h) target
  rw [hu, State.thr_setThr_same]
  exact ⟨rfl, rfl, rfl, rfl, (modThr_threadOnly s t _).trans (setThr_threadOnly _ t _)⟩

/-! ## Returns (R105) -/

theorem doRet_bad {s : State} {t : Tid} (h : (s.thr t).retBad = true) : s.doRet t = s.raise t causeRstack 0 0 := by
  unfold State.doRet
  exact if_pos h

theorem Thread.retBad_iff (th : Thread) : th.retBad = true ↔ th.rsp = 0 ∨ th.world = true ∧ th.rsp = th.bankS.gretRsp.toNat := by
  unfold Thread.retBad
  simp only [Bool.or_eq_true, Bool.and_eq_true, beq_iff_eq]

/-- Using an entry of the gather buffer moves entries only. -/
theorem Thread.useEntry_eq (th : Thread) (line : Nat) : th.useEntry line = { th with gather := (th.useEntry line).gather } := by
  unfold Thread.useEntry
  split <;> rfl

/-- The entry that RET pops, held in the gather buffer. -/
theorem doRet_hit {s : State} {t : Tid} {v : Nat} (hb : (s.thr t).retBad = false) (hv : (s.thr t).gatherHit (s.retOff t) 8 = some v) :
    s.doRet t = s.setThr t { (s.thr t).useEntry (s.retOff t / 128) with
      rsp := (s.thr t).rsp - 1, pc := pcOf (BitVec.ofNat 64 v) } := by
  unfold State.doRet
  simp only [hb, hv, Bool.false_eq_true, if_false]

/-- The entry that RET pops, read by an item of the thread. -/
theorem doRet_miss {s : State} {t : Tid} (hb : (s.thr t).retBad = false) (hv : (s.thr t).gatherHit (s.retOff t) 8 = none) :
    s.doRet t = s.setThr t { (s.thr t) with
      nextId := (s.thr t).nextId + 1, rsp := (s.thr t).rsp - 1, pcWait := true
      p4 := (s.thr t).p4 ++ [{ line := s.retOff t / 128, kind := .read .pc (s.retOff t) 8 false, tag := (s.thr t).tag
                               level := (s.thr t).level, born := (s.thr t).nextId }] } := by
  unfold State.doRet
  simp only [hb, hv, Bool.false_eq_true, if_false]
  rfl

theorem Thread.deliver_pc {th : Thread} (h : th.pcWait = true) (w : Word) (l : Line) :
    th.deliver .pc w l = { th with pc := pcOf w, pcWait := false } := if_pos h

/-- RET of a ready thread issues unless its entry waits in the store queue. -/
theorem exec_ret_ready {s : State} {t : Tid} (hr : s.ready t [] = true)
    (hc : (s.thr t).retBad = true ∨ s.conflict t ((lsBase (coreOf t) + s.retOff t) / 64) = false) :
    exec (.ret t) s = .next ((s.modThr t Thread.issued1).doRet t) := by
  rw [exec_ret, execRet, if_neg, issue_ready hr]
  rcases hc with h | h <;> simp [h]

@[simp] theorem retOff_issued1 (s : State) (t : Tid) : (s.modThr t Thread.issued1).retOff t = s.retOff t := by
  unfold State.retOff
  rw [State.thr_modThr_same]
  rfl

/-- What an issued return of a thread leaves: RSP one down, and PC from the entry, at once or through the item that reads it. -/
theorem issued_ret {s : State} {t : Tid} (hb : (s.thr t).retBad = false) :
    let u := (s.modThr t Thread.issued1).doRet t
    (u.thr t).rsp = (s.thr t).rsp - 1 ∧ (u.thr t).storeQ = (s.thr t).storeQ ∧ (∀ r, (u.thr t).greg r = (s.thr t).greg r) ∧ ThreadOnly s u t ∧
      ((∃ v, (s.thr t).gatherHit (s.retOff t) 8 = some v ∧ (u.thr t).pc = pcOf (BitVec.ofNat 64 v)) ∨
        ((u.thr t).pcWait = true ∧ (∃ it, (u.thr t).p4 = (s.thr t).p4 ++ [it] ∧ it.kind = .read .pc (s.retOff t) 8 false ∧ it.line = s.retOff t / 128) ∧
          ∀ w l, ((u.thr t).deliver .pc w l).pc = pcOf w ∧ ((u.thr t).deliver .pc w l).pcWait = false)) := by
  intro u
  have hthr : (s.modThr t Thread.issued1).thr t = (s.thr t).issued1 := State.thr_modThr_same ..
  have hb' : ((s.modThr t Thread.issued1).thr t).retBad = false := by rw [hthr]; exact hb
  cases hv : (s.thr t).gatherHit (s.retOff t) 8 with
  | some v =>
    have hu : u = _ := doRet_hit (v := v) hb' (by rw [hthr, retOff_issued1]; exact hv)
    rw [Thread.useEntry_eq, hthr] at hu
    rw [hu, State.thr_setThr_same]
    exact ⟨rfl, rfl, fun _ => rfl, (modThr_threadOnly s t _).trans (setThr_threadOnly _ t _), .inl ⟨v, rfl, rfl⟩⟩
  | none =>
    have hu : u = _ := doRet_miss hb' (by rw [hthr, retOff_issued1]; exact hv)
    rw [hthr, retOff_issued1] at hu
    rw [hu, State.thr_setThr_same]
    refine ⟨rfl, rfl, fun _ => rfl, (modThr_threadOnly s t _).trans (setThr_threadOnly _ t _), .inr ⟨rfl, ⟨_, rfl, rfl, rfl⟩, fun w l => ?_⟩⟩
    rw [Thread.deliver_pc rfl]
    exact ⟨rfl, rfl⟩

/-! ## RSP (R106) -/

/-- WRRSP at supervisor level writes RSP, 2048 at most. -/
theorem exec_wrrsp_supervisor {s : State} {t : Tid} {ra : Reg} (hr : s.ready t [ra.val] = true) (hl : (s.thr t).level = true) :
    exec (.wrrsp t ra) s = .next (((s.modThr t Thread.issued1).setThr t
      { (s.thr t).issued1 with rsp := min ((s.thr t).greg ra).toNat 2048 }).past t 4) := by
  rw [exec_wrrsp, execWrrsp, issue_ready (srcs := [gk ra]) hr]
  dsimp only
  rw [State.thr_modThr_same, if_pos (show (s.thr t).issued1.level = true from hl)]
  rfl

/-- WRRSP at user level is a refused register instruction. -/
theorem exec_wrrsp_user {s : State} {t : Tid} {ra : Reg} (hr : s.ready t [ra.val] = true) (hl : (s.thr t).level = false) :
    exec (.wrrsp t ra) s = .next ((s.modThr t Thread.issued1).refuseInstr t) := by
  rw [exec_wrrsp, execWrrsp, issue_ready (srcs := [gk ra]) hr]
  dsimp only
  rw [State.thr_modThr_same, if_neg (show ¬(s.thr t).issued1.level = true from Bool.eq_false_iff.mp hl)]
  rfl

theorem refuseInstr_threadOnly (s : State) (t : Tid) : ThreadOnly (s.refuse t 5 0) (s.refuseInstr t) t := past_threadOnly _ t 4

theorem refuseInstr_thr (s : State) (t : Tid) : (s.refuseInstr t).thr t = (s.thr t).advance 4 := by
  unfold State.refuseInstr State.past
  rw [State.thr_modThr_same, State.refuse_thr]

theorem refuseInstr_ls (s : State) (t : Tid) : (s.refuseInstr t).ls = s.ls := by
  rw [(refuseInstr_threadOnly s t).rest, (State.refuse_counts s t 5 0).rest]

/-- ERET leaves the return-stack pointer and the local stores. -/
theorem eret_keeps_rsp {s u : State} {t : Tid} (h : exec (.eret t) s = .next u) : (u.thr t).rsp = (s.thr t).rsp ∧ u.ls = s.ls := by
  rw [exec_eret, execEret, supInstr] at h
  by_cases hr : s.ready t [] = true
  · rw [issue_ready hr] at h
    cases h
    split
    · rw [State.thr_modThr_same, State.thr_modThr_same]
      exact ⟨rfl, rfl⟩
    · rw [refuseInstr_thr, refuseInstr_ls, State.thr_modThr_same]
      exact ⟨rfl, rfl⟩
  · rw [issue_not_ready (Bool.eq_false_iff.mpr hr)] at h
    cases h
    exact ⟨rfl, rfl⟩

theorem enters_keeps_rsp {s u : State} {t : Tid} {code acc : Nat} {info epc : Word} (h : Enters s u t code acc info epc) :
    (u.thr t).rsp = (s.thr t).rsp ∧ u.ls = s.ls := by
  refine ⟨?_, ?_⟩
  · rw [h.thread]
  · rw [h.rest]

end Sys2Proof.Machine

open Sys2Proof Sys2Proof.Machine Sys2Proof.Claims

/-- Settles O10: a call and a return act on the thread's own queue, RSP and PC only, and nothing but them and WRRSP
writes RSP. -/
theorem returnStack : Obligations.ReturnStack := by
  unfold Obligations.ReturnStack
  refine ⟨?_, ?_, ?_, ?_, ?_, ?_, ?_⟩
  · intro s t ra disp hroom p hp hready
    fin_cases hp
    · exact ⟨_, by rw [exec_call, execCall, issue_ready hready], issued_call_room hroom (branchTarget_eq_jumpTo _ _ _)⟩
    · exact ⟨_, by rw [exec_callr, execCallr, issue_ready (srcs := [gk ra]) hready], issued_call_room hroom rfl⟩
  · exact fun s t hr hb hc => ⟨_, exec_ret_ready hr (.inr hc), issued_ret hb⟩
  · intro s t ra disp hfull
    refine ⟨fun hr => excepts_of ?_, fun hr => excepts_of ?_⟩
    · rw [exec_call, execCall, issue_ready hr, issued_call_full hfull]
    · rw [exec_callr, execCallr, issue_ready (srcs := [gk ra]) hr, issued_call_full hfull]
  · intro s t hr hbad
    have hb := (Thread.retBad_iff _).mpr hbad
    apply excepts_of
    rw [exec_ret_ready hr (.inl hb), doRet_bad (by rw [State.thr_modThr_same]; exact hb), raise_issued1]
    rfl
  · intro s t ra hr hl
    refine ⟨_, exec_wrrsp_supervisor hr hl, ?_⟩
    unfold State.past
    rw [State.thr_modThr_same, State.thr_setThr_same]
    exact ⟨rfl, rfl, rfl, ((modThr_threadOnly s t _).trans (setThr_threadOnly _ t _)).trans (modThr_threadOnly _ t _)⟩
  · intro s t ra rd
    refine ⟨fun hr hl => ⟨_, exec_wrrsp_user hr hl, refused_counts s t 5 0 (refuseInstr_threadOnly _ t), ?_⟩, fun hr => writesG_of ?_⟩
    · rw [refuseInstr_thr, State.thr_modThr_same]
      exact ⟨rfl, rfl⟩
    · rw [exec_rdrsp, execRdrsp, alu0_ready _ hr, State.thr_modThr_same]
      rfl
  · exact fun s u t => ⟨fun _ _ _ _ => enters_keeps_rsp, eret_keeps_rsp⟩

end

section
/-! SUPPORT. The pipes of a core: their rules, what the four pipe instructions do, and the obligation on them (R113 to R117). -/

namespace Sys2Proof.Machine

open Sys2Proof Sys2Proof.Claims

/-! ## One pipe written -/

@[simp] theorem Core.pipe_setPipe_same (c : Core) (a b : Nat) (l : List PipeWord) : (c.setPipe a b l).pipe a b = l :=
  Map.get_set_same _ _ _ _

/-- The pipes of a core do not overlap: four receivers to a sender. -/
theorem Core.pipe_setPipe_other (c : Core) {a b a' b' : Nat} (l : List PipeWord) (hb : b < 4) (hb' : b' < 4) (h : ¬(a' = a ∧ b' = b)) :
    (c.setPipe a b l).pipe a' b' = c.pipe a' b' :=
  Map.get_set_other (by omega) _ _ _

/-- What follows a change of one thread by a write of a pipe of its core and another change of the thread stays in thread and
core. -/
theorem coreOnly_of_modCore {s m u : State} {t : Tid} {f : Core → Core} (hm : ThreadOnly s m t)
    (hu : ThreadOnly (m.modCore (coreOf t) f) u t) : CoreOnly s u t := by
  have hcore : m.core = s.core := by rw [hm.rest]; rfl
  have hucore : u.core = (m.modCore (coreOf t) f).core := by rw [hu.rest]; rfl
  constructor
  case threads => exact fun i hi => (hu.others i hi).trans (hm.others i hi)
  case cores => intro n hn; rw [hucore, State.core_modCore_other _ _ _ _ hn, hcore]
  case rest =>
    have e := hm.rest
    have d := hu.rest
    generalize u.threads = a at d
    subst d
    generalize m.threads = b at e
    subst e
    rfl

/-- The pipe to or from a peer after it alone was written. -/
theorem pipeOf_setPipe_same {m u : State} {t : Tid} {a b : Nat} {l : List PipeWord}
    (hu : ThreadOnly (m.modCore (coreOf t) fun c => c.setPipe a b l) u t) : pipeOf u t a b = l := by
  unfold pipeOf
  have hucore : u.core = (m.modCore (coreOf t) fun c => c.setPipe a b l).core := by rw [hu.rest]; rfl
  rw [hucore, State.core_modCore_same, Core.pipe_setPipe_same]

theorem pipeOf_setPipe_other {s m u : State} {t : Tid} {a b : Nat} {l : List PipeWord} (hm : ThreadOnly s m t) (hb : b < 4)
    (hu : ThreadOnly (m.modCore (coreOf t) fun c => c.setPipe a b l) u t) {a' b' : Nat} (hb' : b' < 4) (h : ¬(a' = a ∧ b' = b)) :
    pipeOf u t a' b' = pipeOf s t a' b' := by
  unfold pipeOf
  have hucore : u.core = (m.modCore (coreOf t) fun c => c.setPipe a b l).core := by rw [hu.rest]; rfl
  have hcore : m.core = s.core := by rw [hm.rest]; rfl
  rw [hucore, State.core_modCore_same, Core.pipe_setPipe_other _ _ hb hb' h, hcore]

theorem pipeOf_threadOnly {s m : State} {t : Tid} (hm : ThreadOnly s m t) (a b : Nat) : pipeOf m t a b = pipeOf s t a b := by
  unfold pipeOf
  have hcore : m.core = s.core := by rw [hm.rest]; rfl
  rw [hcore]

/-- A refusal leaves every pipe. -/
theorem pipeOf_countsRefusal {s u : State} {t : Tid} {kind : Nat} {addr : Word} (h : CountsRefusal s u t kind addr) (a b : Nat) :
    pipeOf u t a b = pipeOf s t a b := by
  unfold pipeOf
  rw [h.foe, if_pos rfl]
  rfl

/-! ## Exceptions and pipes -/

theorem lockup_pipes (s : State) (t : Tid) (cause : Nat) :
    ((s.lockup t cause).core (coreOf t)).pipes = (s.core (coreOf t)).pipes := by
  unfold State.lockup
  dsimp only
  rw [(report_nil _ 4 _ _ _).1]
  generalize hm : s.modCore (coreOf t) _ = m
  have hpipes : (m.core (coreOf t)).pipes = (s.core (coreOf t)).pipes := by rw [← hm, State.core_modCore_same]
  split <;> exact hpipes

/-- An exception leaves every pipe of the core, a lockup too. -/
theorem pipeOf_raiseAt (s : State) (t : Tid) (code acc : Nat) (info epc : Word) (a b : Nat) :
    pipeOf ((s.modThr t Thread.issued1).raiseAt t code acc false info epc) t a b = pipeOf s t a b := by
  cases hel : (s.thr t).el with
  | false =>
    unfold pipeOf
    rw [(raiseAt_enters hel code acc info epc).cores, if_pos rfl]
    rfl
  | true =>
    have e : (s.modThr t Thread.issued1).raiseAt t code acc false info epc = (s.modThr t Thread.issued1).lockup t code := by
      unfold State.raiseAt
      rw [State.thr_modThr_same]
      exact if_pos hel
    unfold pipeOf Core.pipe
    rw [e, lockup_pipes]
    rfl

/-! ## Registers of an issued thread -/

/-- A thread after a register write and the move past the instruction. -/
theorem setG_advance (th : Thread) (rd : Reg) (v : Word) :
    ((th.setG rd v).advance 4).greg rd = (if rd.val = 0 then 0 else v) ∧ OtherG th ((th.setG rd v).advance 4) rd ∧
      ((th.setG rd v).advance 4).pc = pcOf (th.pc + 4) := by
  refine ⟨by simp, fun r hr => by simp [Thread.greg_setG_other _ _ _ _ hr], by simp⟩

theorem setG_advance_blocked (th : Thread) (rd : Reg) (v : Word) : ((th.setG rd v).advance 4).blocked = th.blocked := by
  unfold Thread.advance Thread.setG
  split <;> rfl

theorem issued_setG_onlyG (th : Thread) (rd : Reg) (v : Word) : OnlyG th ((th.issued1.setG rd v).advance 4) := by
  have h := Thread.setG_onlyG th.issued1 rd v
  unfold OnlyG Thread.advance at *
  generalize th.issued1.setG rd v = x at *
  rw [h]
  rfl

theorem setG_past_threadOnly (s : State) (t : Tid) (rd : Reg) (v : Word) : ThreadOnly s ((s.setG t rd v).past t 4) t :=
  (setG_threadOnly s t rd v).trans (past_threadOnly _ t 4)

theorem setG_past_thr (s : State) (t : Tid) (rd : Reg) (v : Word) :
    ((s.setG t rd v).past t 4).thr t = ((s.thr t).setG rd v).advance 4 := by
  unfold State.past State.setG
  rw [State.thr_modThr_same, State.thr_modThr_same]

/-! ## PWR and PWRL (R113 to R115) -/

/-- The pipe after a word joins it, a last word committing the open message. -/
def pushWord (l : List PipeWord) (w : PipeWord) : List PipeWord :=
  if w.last then (l ++ [w]).map fun x : PipeWord => ({ x with committed := true } : PipeWord) else l ++ [w]

theorem tryPwr_self {s : State} {t : Tid} {peer : Nat} (h : peer = t % 4) (last : Bool) (v : Word) :
    s.tryPwr t last peer v = some ((s.refuse t 4 0).past t 4) := if_pos h

theorem tryPwr_overlong {s : State} {t : Tid} {peer : Nat} (h : peer ≠ t % 4) (ho : 7 ≤ txOpen (pipeOf s t (t % 4) peer)) (v : Word) :
    s.tryPwr t false peer v = some (s.raise t causePipe 0 0) := by
  unfold State.tryPwr
  exact (if_neg h).trans (if_pos ⟨rfl, ho⟩)

theorem tryPwr_fits {s : State} {t : Tid} {last : Bool} {peer : Nat} (h : peer ≠ t % 4)
    (ho : last = true ∨ txOpen (pipeOf s t (t % 4) peer) < 7) (v : Word) :
    s.tryPwr t last peer v = if 8 ≤ (pipeOf s t (t % 4) peer).length then none
      else some ((s.modCore (coreOf t) fun c => c.setPipe (t % 4) peer
        (pushWord (pipeOf s t (t % 4) peer) { data := v, tag := (s.thr t).tag, committed := false, last })).past t 4) := by
  unfold State.tryPwr
  refine (if_neg h).trans (if_neg ?_)
  rintro ⟨hl, h7⟩
  rcases ho with rfl | ho
  · cases hl
  · exact absurd ho (not_lt.mpr h7)

/-- The effect of a word that joins its pipe, when the instruction issues and when it is retried. -/
theorem tryPwr_takes {s m : State} {t : Tid} {last : Bool} {peer : Fin 4} (hm : ThreadOnly s m t) (htag : (m.thr t).tag = (s.thr t).tag)
    (h : peer.val ≠ t % 4) (ho : last = true ∨ txOpen (pipeOf s t (t % 4) peer) < 7)
    (hlen : (pipeOf s t (t % 4) peer).length < 8) (v : Word) :
    ∃ u, m.tryPwr t last peer v = some u ∧ CoreOnly s u t ∧ PipeTook s u t peer v last ∧ u.thr t = (m.thr t).advance 4 := by
  have hp := pipeOf_threadOnly hm (t % 4) peer
  have hu := past_threadOnly (m.modCore (coreOf t) fun c => c.setPipe (t % 4) peer
    (pushWord (pipeOf m t (t % 4) peer) { data := v, tag := (m.thr t).tag, committed := false, last })) t 4
  refine ⟨_, (tryPwr_fits h (by rw [hp]; exact ho) v).trans (if_neg (by rw [hp]; omega)), coreOnly_of_modCore hm hu, ⟨?_, ?_⟩, ?_⟩
  · rw [pipeOf_setPipe_same hu, hp, htag]
    rfl
  · exact fun a b _ hb hab => pipeOf_setPipe_other hm peer.isLt hu hb hab
  · exact State.thr_modThr_same ..

theorem tryPwr_full {s m : State} {t : Tid} {last : Bool} {peer : Fin 4} (hm : ThreadOnly s m t) (h : peer.val ≠ t % 4)
    (ho : last = true ∨ txOpen (pipeOf s t (t % 4) peer) < 7) (hlen : 8 ≤ (pipeOf s t (t % 4) peer).length) (v : Word) :
    m.tryPwr t last peer v = none := by
  have hp := pipeOf_threadOnly hm (t % 4) peer
  exact (tryPwr_fits h (by rw [hp]; exact ho) v).trans (if_pos (by rw [hp]; exact hlen))

@[simp] theorem State.orBlock_some (s : State) (t : Tid) (op : BlockOp) (u : State) : s.orBlock t op (some u) = u := rfl

@[simp] theorem State.orBlock_none (s : State) (t : Tid) (op : BlockOp) :
    s.orBlock t op none = s.modThr t fun th => { th with blocked := some op } := rfl

/-- PWR and PWRL of a ready thread: they take effect, or block the thread. -/
theorem exec_pipeWrite {s : State} {t : Tid} {ra : Reg} {peer : Fin 4} (hr : s.ready t [ra.val] = true) {x : Instr × Bool}
    (hx : x ∈ [(Instr.pwr t peer ra, false), (.pwrl t peer ra, true)]) :
    exec x.1 s = .next ((s.modThr t Thread.issued1).orBlock t (.pwr x.2 peer ((s.thr t).greg ra))
      ((s.modThr t Thread.issued1).tryPwr t x.2 peer ((s.thr t).greg ra))) := by
  have hg : ((s.modThr t Thread.issued1).thr t).greg ra = (s.thr t).greg ra := by rw [State.thr_modThr_same]; rfl
  fin_cases hx
  · rw [exec_pwr, execPwr, issue_ready (srcs := [gk ra]) hr]
    simp only [hg]
  · rw [exec_pwrl, execPwrl, issue_ready (srcs := [gk ra]) hr]
    simp only [hg]

/-- An eighth open word raises PIPE (R115). -/
theorem exec_pwr_overlong {s : State} {t : Tid} {ra : Reg} {peer : Fin 4} (hr : s.ready t [ra.val] = true) (h : peer.val ≠ t % 4)
    (ho : 7 ≤ txOpen (pipeOf s t (t % 4) peer)) :
    exec (.pwr t peer ra) s = .next ((s.modThr t Thread.issued1).raiseAt t causePipe 0 false 0 (s.thr t).pc) := by
  refine (exec_pipeWrite hr (x := (_, false)) (.head _)).trans ?_
  dsimp only
  rw [tryPwr_overlong h (by rw [pipeOf_threadOnly (modThr_threadOnly s t _)]; exact ho), State.orBlock_some, raise_issued1]

/-! ## PRD (R114, R117) -/

theorem tryPrd_self {s : State} {t : Tid} {peer : Nat} (h : peer = t % 4) (rd : Reg) :
    s.tryPrd t rd peer = some (((s.refuse t 4 0).setG t rd 0).past t 4) := if_pos h

/-- A pipe whose head is not committed, or that is empty, gives no word. -/
theorem popPipe_none {l : List PipeWord} (h : l.head?.all (fun w => !w.committed) = true) : popPipe l = none := by
  cases l with
  | nil => rfl
  | cons w r => exact if_neg (by simpa using h)

theorem popPipe_committed {w : PipeWord} (h : w.committed = true) (l : List PipeWord) : popPipe (w :: l) = some (w, l) := if_pos h

theorem tryPrd_none {s : State} {t : Tid} {peer : Nat} (h : peer ≠ t % 4)
    (hp : (pipeOf s t peer (t % 4)).head?.all (fun w => !w.committed) = true) (rd : Reg) : s.tryPrd t rd peer = none := by
  unfold State.tryPrd
  refine (if_neg h).trans ?_
  have e : popPipe ((s.core (coreOf t)).pipe peer (tnum t)) = none := popPipe_none hp
  simp only [e]

theorem tryPrd_some {s : State} {t : Tid} {peer : Nat} {w : PipeWord} {l : List PipeWord} (h : peer ≠ t % 4)
    (hp : pipeOf s t peer (t % 4) = w :: l) (hw : w.committed = true) (rd : Reg) :
    s.tryPrd t rd peer = some (if w.tag = (s.thr t).tag
      then ((s.modCore (coreOf t) fun c => c.setPipe peer (t % 4) l).setG t rd w.data).past t 4
      else ((s.refuse t 4 0).setG t rd 0).past t 4) := by
  unfold State.tryPrd
  refine (if_neg h).trans ?_
  have e : popPipe ((s.core (coreOf t)).pipe peer (tnum t)) = some (w, l) := by
    rw [← popPipe_committed hw l, ← hp]
    rfl
  simp only [e]
  exact (apply_ite some _ _ _).symm

/-- The effect of a word that is read, when PRD issues and when it is retried. -/
theorem tryPrd_takes {s m : State} {t : Tid} {rd : Reg} {peer : Fin 4} {w : PipeWord} {l : List PipeWord} (hm : ThreadOnly s m t)
    (htag : (m.thr t).tag = (s.thr t).tag) (h : peer.val ≠ t % 4) (hp : pipeOf s t peer (t % 4) = w :: l) (hw : w.committed = true)
    (ht : w.tag = (s.thr t).tag) :
    ∃ u, m.tryPrd t rd peer = some u ∧ CoreOnly s u t ∧ pipeOf u t peer (t % 4) = l ∧
      (∀ a b, a < 4 → b < 4 → ¬(a = peer.val ∧ b = t % 4) → pipeOf u t a b = pipeOf s t a b) ∧
      u.thr t = ((m.thr t).setG rd w.data).advance 4 := by
  have hp' := (pipeOf_threadOnly hm peer (t % 4)).trans hp
  have hu := setG_past_threadOnly (m.modCore (coreOf t) fun c => c.setPipe peer (t % 4) l) t rd w.data
  refine ⟨_, (tryPrd_some h hp' hw rd).trans (congrArg some (if_pos (ht.trans htag.symm))), coreOnly_of_modCore hm hu, pipeOf_setPipe_same hu, ?_, ?_⟩
  · exact fun a b _ hb hab => pipeOf_setPipe_other hm (Nat.mod_lt _ (by decide)) hu hb hab
  · exact setG_past_thr ..

theorem exec_prd_ready {s : State} {t : Tid} (hr : s.ready t [] = true) (rd : Reg) (peer : Fin 4) :
    exec (.prd t rd peer) s = .next ((s.modThr t Thread.issued1).orBlock t (.prd rd peer)
      ((s.modThr t Thread.issued1).tryPrd t rd peer)) := by
  rw [exec_prd, execPrd, issue_ready hr]

/-- An issued instruction that is refused and gives zero (R113, R117). -/
theorem refused_zero (s : State) (t : Tid) (rd : Reg) :
    let u := (((s.modThr t Thread.issued1).refuse t 4 0).setG t rd 0).past t 4
    CountsRefusal s u t 4 0 ∧ (u.thr t).greg rd = 0 ∧ OtherG (s.thr t) (u.thr t) rd ∧ OnlyG (s.thr t) (u.thr t) ∧
      (u.thr t).pc = pcOf ((s.thr t).pc + 4) := by
  intro u
  have hu : u.thr t = ((s.thr t).issued1.setG rd 0).advance 4 :=
    (setG_past_thr ..).trans (by rw [State.refuse_thr, State.thr_modThr_same])
  obtain ⟨hg, hother, hpc⟩ := setG_advance (s.thr t).issued1 rd 0
  rw [hu]
  exact ⟨refused_counts s t 4 0 (setG_past_threadOnly _ t rd 0), hg.trans (ite_self 0), hother, issued_setG_onlyG _ rd 0, hpc⟩

/-! ## Retries (R88, R114) -/

/-- A blocked instruction that can complete now does. -/
theorem exec_retry {s u : State} {t : Tid} {op : BlockOp} (hr : s.runs t = true) (hs : (s.thr t).stopped = false)
    (hb : (s.thr t).blocked = some op) (hl : op.leaves = true) (hu : s.retry t op = some u) : exec (.blockedRetry t) s = .next u := by
  rw [exec_blockedRetry, execBlockedRetry]
  simp only [hb, hl, hr, hs, hu, if_true, Bool.not_false, Bool.and_true, Option.getD_some]

/-! ## PTST (R116) -/

/-- The fields of a word of four nibbles and a bit at 16. -/
theorem packed_fields {a b c d : Nat} (ha : a < 16) (hb : b < 16) (hc : c < 16) (hd : d < 16) (x : Bool) :
    let w := BitVec.ofNat 64 (65536 * bit x + a * 4096 + b * 256 + c * 16 + d)
    (w.extractLsb' 0 4).toNat = d ∧ (w.extractLsb' 4 4).toNat = c ∧ (w.extractLsb' 8 4).toNat = b ∧ (w.extractLsb' 12 4).toNat = a ∧
      w.getLsbD 16 = x ∧ w.extractLsb' 17 47 = 0 := by
  intro w
  have hx : bit x ≤ 1 := by cases x <;> decide
  have hw : w.toNat = 65536 * bit x + a * 4096 + b * 256 + c * 16 + d := by
    rw [BitVec.toNat_ofNat, Nat.mod_eq_of_lt (by omega)]
  have key (i n : Nat) : (w.extractLsb' i n).toNat = (65536 * bit x + a * 4096 + b * 256 + c * 16 + d) / 2 ^ i % 2 ^ n := by
    rw [BitVec.extractLsb'_toNat, hw, Nat.shiftRight_eq_div_pow]
  refine ⟨?_, ?_, ?_, ?_, ?_, BitVec.eq_of_toNat_eq ?_⟩
  · rw [key]; omega
  · rw [key]; omega
  · rw [key]; omega
  · rw [key]; omega
  · rw [BitVec.getLsbD, hw, Nat.testBit_eq_decide_div_mod_eq]
    have e : (65536 * bit x + a * 4096 + b * 256 + c * 16 + d) / 2 ^ 16 % 2 = bit x := by omega
    rw [e]
    cases x <;> rfl
  · rw [key]
    show _ = 0
    omega

theorem ptstWord_eq (tx rx : List PipeWord) : ptstWord tx rx = BitVec.ofNat 64
    (65536 * bit (((rx.filter (·.committed)).head?.map (·.tag.sealed)).getD false) + txOpen tx * 4096 + (8 - tx.length) * 256 +
      rxLeft rx * 16 + rxAvail rx) := by
  unfold ptstWord
  cases rx.filter (·.committed) <;> rfl

/-- Of the oldest committed message, the words up to its last one are left. -/
theorem rxLeft_eq {l a b : List PipeWord} {x : PipeWord} (h : l.filter (·.committed) = a ++ x :: b) (ha : ∀ y ∈ a, y.last = false)
    (hx : x.last = true) : rxLeft l = a.length + 1 := by
  have e : (a ++ x :: b).findIdx? (·.last) = some a.length := by
    rw [List.findIdx?_append, List.findIdx?_eq_none_iff.mpr (by simpa using ha), List.findIdx?_cons, hx]
    simp
  unfold rxLeft
  rw [h, e]

theorem rxLeft_le (l : List PipeWord) : rxLeft l ≤ l.length := by
  unfold rxLeft
  split
  · next i h =>
    have hi := (List.findIdx?_eq_some_iff_getElem.mp h).1
    exact Nat.succ_le_of_lt (hi.trans_le (List.length_filter_le _ _))
  · exact Nat.zero_le _

/-- The fields of PTST's word for pipes of at most 8 words. -/
theorem ptstWord_fields {tx rx : List PipeWord} (htx : tx.length ≤ 8) (hrx : rx.length ≤ 8) :
    let w := ptstWord tx rx
    (w.extractLsb' 0 4).toNat = rxAvail rx ∧ (w.extractLsb' 4 4).toNat = rxLeft rx ∧ (w.extractLsb' 8 4).toNat = 8 - tx.length ∧
      (w.extractLsb' 12 4).toNat = txOpen tx ∧
      w.getLsbD 16 = (((rx.filter (·.committed)).head?.map (·.tag.sealed)).getD false) ∧ w.extractLsb' 17 47 = 0 := by
  have hopen : txOpen tx ≤ 8 := (List.length_filter_le _ _).trans htx
  have havail : rxAvail rx ≤ 8 := (List.length_filter_le _ _).trans hrx
  have hleft := (rxLeft_le rx).trans hrx
  rw [ptstWord_eq]
  exact packed_fields (by omega) (by omega) (by omega) (by omega) _

theorem exec_ptst_other {s : State} {t : Tid} {rd : Reg} {peer : Fin 4} (hr : s.ready t [] = true) (hpeer : peer.val ≠ t % 4) :
    exec (.ptst t rd peer) s = .next (wroteG s t rd (ptstWord (pipeOf s t (t % 4) peer) (pipeOf s t peer (t % 4)))) := by
  rw [exec_ptst, execPtst, issue_ready hr]
  exact congrArg Host.Outcome.next (if_neg hpeer)

theorem exec_ptst_self {s : State} {t : Tid} {rd : Reg} {peer : Fin 4} (hr : s.ready t [] = true) (hpeer : peer.val = t % 4) :
    exec (.ptst t rd peer) s = .next ((((s.modThr t Thread.issued1).refuse t 4 0).setG t rd 0).past t 4) := by
  rw [exec_ptst, execPtst, issue_ready hr]
  exact congrArg Host.Outcome.next (if_pos hpeer)

end Sys2Proof.Machine

open Sys2Proof Sys2Proof.Machine Sys2Proof.Claims

/-- Settles O23: each pipe instruction takes one word at its end of one pipe, blocks, or is refused, by the rules of one pipe. -/
theorem pipesInOrder : Obligations.PipesInOrder := by
  unfold Obligations.PipesInOrder
  refine ⟨?_, ?_, ?_, ?_, ?_, ?_, ?_, ?_⟩
  · intro s t ra peer hr hpeer x hx hopen
    have hm := modThr_threadOnly s t Thread.issued1
    have hthr : (s.modThr t Thread.issued1).thr t = (s.thr t).issued1 := State.thr_modThr_same ..
    refine ⟨fun hlen => ?_, fun hlen => ?_⟩
    · obtain ⟨u, hu, hcore, htook, huthr⟩ := tryPwr_takes hm (by rw [hthr]; rfl) hpeer hopen hlen ((s.thr t).greg ra)
      refine ⟨u, by rw [exec_pipeWrite hr hx, hu, State.orBlock_some], hcore, htook, ?_⟩
      rw [huthr, hthr]
      exact ⟨rfl, rfl⟩
    · refine ⟨_, by rw [exec_pipeWrite hr hx, tryPwr_full hm hpeer hopen hlen, State.orBlock_none], hm.trans (modThr_threadOnly _ t _), ?_⟩
      rw [State.thr_modThr_same, hthr]
      exact ⟨rfl, rfl⟩
  · intro s t last peer v hr hs hb hpeer hlen hopen
    have hm := modThr_threadOnly s t fun th => { th with blocked := none }
    obtain ⟨u, hu, hcore, htook, huthr⟩ := tryPwr_takes hm (by rw [State.thr_modThr_same]; rfl) hpeer hopen hlen v
    refine ⟨u, exec_retry hr hs hb rfl hu, hcore, htook, ?_⟩
    rw [huthr, State.thr_modThr_same]
    exact ⟨rfl, rfl⟩
  · intro s t ra peer hr hpeer hopen
    have hexec := exec_pwr_overlong hr hpeer hopen
    exact ⟨excepts_of hexec, _, hexec, pipeOf_raiseAt s t _ 0 0 _⟩
  · intro s t rd peer w l hr hpeer hp hw
    have hm := modThr_threadOnly s t Thread.issued1
    have hthr : (s.modThr t Thread.issued1).thr t = (s.thr t).issued1 := State.thr_modThr_same ..
    by_cases htag : w.tag = (s.thr t).tag
    · obtain ⟨u, hu, hcore, hpipe, hothers, huthr⟩ := tryPrd_takes (rd := rd) hm (by rw [hthr]; rfl) hpeer hp hw htag
      obtain ⟨hg, hother, hpc⟩ := setG_advance (s.thr t).issued1 rd w.data
      rw [hthr] at huthr
      refine ⟨u, by rw [exec_prd_ready hr, hu, State.orBlock_some], ?_⟩
      rw [if_pos htag, huthr]
      exact ⟨hother, issued_setG_onlyG _ rd _, hpc, hcore.threads, hothers, hg, hpipe, hcore⟩
    · obtain ⟨hcount, hg, hother, honly, hpc⟩ := refused_zero s t rd
      have hu := (tryPrd_some (rd := rd) hpeer ((pipeOf_threadOnly hm peer (t % 4)).trans hp) hw).trans
        (congrArg some (if_neg (by rw [hthr]; exact htag)))
      refine ⟨_, by rw [exec_prd_ready hr, hu, State.orBlock_some], hother, honly, hpc, hcount.others, fun a b _ _ _ => pipeOf_countsRefusal hcount a b, ?_⟩
      rw [if_neg htag]
      exact ⟨hg, (pipeOf_countsRefusal hcount _ _).trans hp, hcount⟩
  · intro s t rd peer hr hpeer hp
    have hm := modThr_threadOnly s t Thread.issued1
    refine ⟨_, by rw [exec_prd_ready hr, tryPrd_none hpeer ((pipeOf_threadOnly hm _ _).symm ▸ hp), State.orBlock_none], hm.trans (modThr_threadOnly _ t _), ?_⟩
    rw [State.thr_modThr_same, State.thr_modThr_same]
    exact ⟨rfl, rfl⟩
  · intro s t rd peer w l hr hs hb hpeer hp hw htag
    have hm := modThr_threadOnly s t fun th => { th with blocked := none }
    obtain ⟨u, hu, hcore, hpipe, -, huthr⟩ := tryPrd_takes (rd := rd) hm (by rw [State.thr_modThr_same]; rfl) hpeer hp hw htag
    rw [State.thr_modThr_same] at huthr
    obtain ⟨hg, hother, hpc⟩ := setG_advance { s.thr t with blocked := none } rd w.data
    refine ⟨u, exec_retry hr hs hb rfl hu, ?_⟩
    rw [huthr]
    exact ⟨setG_advance_blocked _ rd _, hother, hg, hpipe, hpc, hcore⟩
  · intro s t r peer hpeer
    refine ⟨fun hr i hi => ?_, fun hr i hi => ?_⟩
    · refine ⟨((s.modThr t Thread.issued1).refuse t 4 0).past t 4, ?_, refused_counts s t 4 0 (past_threadOnly _ t 4), ?_⟩
      · fin_cases hi
        · rw [exec_pipeWrite hr (x := (_, false)) (.head _), tryPwr_self hpeer, State.orBlock_some]
        · rw [exec_pipeWrite hr (x := (_, true)) (.tail _ (.head _)), tryPwr_self hpeer, State.orBlock_some]
      · unfold State.past
        rw [State.thr_modThr_same, State.refuse_thr, State.thr_modThr_same]
        exact ⟨rfl, rfl⟩
    · obtain ⟨hcount, hg, hother, -, hpc⟩ := refused_zero s t r
      refine ⟨_, ?_, hcount, hg, hother, hpc⟩
      fin_cases hi
      · rw [exec_prd_ready hr, tryPrd_self hpeer, State.orBlock_some]
      · exact exec_ptst_self hr hpeer
  · intro s t rd peer hr hpeer htx hrx rx
    obtain ⟨havail, hleft, hroom, hopen, hsealed, hzero⟩ := ptstWord_fields htx hrx
    exact ⟨_, writesG_of (exec_ptst_other hr hpeer), havail, fun a x b he ha hx => hleft.trans (rxLeft_eq he ha hx), hroom, hopen, hsealed, hzero⟩

end

section
/-! SUPPORT. Instructions of supervisor level, non-interruptible windows, and the obligation on them (R123, R138, R139). -/

namespace Sys2Proof.Machine

open Sys2Proof Sys2Proof.Claims

/-! ## Privilege (R123) -/

/-- At supervisor level such an instruction has its effect on the state with the marks of the issue. -/
theorem supInstr_supervisor {s : State} {t : Tid} {srcs : List Nat} (hr : s.ready t srcs = true) (hl : (s.thr t).level = true)
    (k : State → State) : supInstr t srcs k s = .next (k (s.modThr t Thread.issued1)) := by
  rw [supInstr, issue_ready hr, State.thr_modThr_same]
  exact congrArg Host.Outcome.next (if_pos hl)

/-- At user level it is a refused register instruction. -/
theorem supInstr_user {s : State} {t : Tid} {srcs : List Nat} (hr : s.ready t srcs = true) (hl : (s.thr t).level = false)
    (k : State → State) : supInstr t srcs k s = .next ((s.modThr t Thread.issued1).refuseInstr t) := by
  rw [supInstr, issue_ready hr, State.thr_modThr_same]
  exact congrArg Host.Outcome.next (if_neg (Bool.eq_false_iff.mp hl))

theorem refusedInstr_of {i : Instr} {s : State} {t : Tid} (h : exec i s = .next ((s.modThr t Thread.issued1).refuseInstr t)) :
    RefusedInstr i s t := by
  refine ⟨_, h, refused_counts s t 5 0 (refuseInstr_threadOnly _ t), ?_⟩
  rw [refuseInstr_thr, State.thr_modThr_same]
  exact ⟨rfl, rfl⟩

/-! ## Non-interruptible windows (R138, R139) -/

/-- The thread with a window open up to a cycle. -/
def Thread.niOpened (th : Thread) (endCycle : Word) : Thread := { th with ni := true, niEnd := endCycle }

/-- The thread with no window open. -/
def Thread.niClosed (th : Thread) : Thread := { th with ni := false }

/-- Under the entry lock NIBEGIN is refused, at either level. -/
theorem exec_nibegin_locked {s : State} {t : Tid} {ra : Reg} (hr : s.ready t [ra.val] = true) (hel : (s.thr t).el = true) :
    exec (.nibegin t ra) s = .next ((s.modThr t Thread.issued1).refuseInstr t) := by
  rw [exec_nibegin, execNibegin]
  cases hl : (s.thr t).level with
  | false => exact supInstr_user (srcs := [gk ra]) hr hl _
  | true =>
    rw [supInstr_supervisor (srcs := [gk ra]) hr hl]
    dsimp only
    rw [State.thr_modThr_same]
    exact congrArg Host.Outcome.next (if_pos hel)

/-- Outside the entry lock NIBEGIN opens a window, unless its count is zero or one is open. -/
theorem exec_nibegin_unlocked {s : State} {t : Tid} {ra : Reg} {c : Nat} (hr : s.ready t [ra.val] = true)
    (hl : (s.thr t).level = true) (hel : (s.thr t).el = false) (hc : (s.core (coreOf t)).member = some c) :
    exec (.nibegin t ra) s = .next (State.past
      (let n := min ((s.thr t).greg ra).toNat (s.con c).niLimit
       if n = 0 ∨ (s.thr t).ni = true then s.modThr t Thread.issued1
       else (s.modThr t Thread.issued1).modThr t fun th => th.niOpened (s.issueCycle t + BitVec.ofNat 64 n)) t 4) := by
  have hmember : ((s.modThr t Thread.issued1).core (coreOf t)).member.getD 0 = c := congrArg (Option.getD · 0) hc
  rw [exec_nibegin, execNibegin, supInstr_supervisor (srcs := [gk ra]) hr hl]
  dsimp only
  rw [hmember, State.thr_modThr_same]
  refine (congrArg Host.Outcome.next (if_neg (Bool.eq_false_iff.mp hel))).trans ?_
  unfold State.modThr
  rw [State.thr_setThr_same]
  rfl

theorem exec_niend_supervisor {s : State} {t : Tid} (hr : s.ready t [] = true) (hl : (s.thr t).level = true) :
    exec (.niend t) s = .next (((s.modThr t Thread.issued1).modThr t Thread.niClosed).past t 4) := by
  rw [exec_niend, execNiend, supInstr_supervisor hr hl]
  rfl

/-- An instruction that changes its thread and goes on leaves the rest of the state. -/
theorem issued_modThr_past (s : State) (t : Tid) (f : Thread → Thread) :
    ThreadOnly s (((s.modThr t Thread.issued1).modThr t f).past t 4) t ∧
      (((s.modThr t Thread.issued1).modThr t f).past t 4).thr t = (f (s.thr t).issued1).advance 4 := by
  refine ⟨((modThr_threadOnly s t _).trans (modThr_threadOnly _ t f)).trans (past_threadOnly _ t 4), ?_⟩
  unfold State.past
  rw [State.thr_modThr_same, State.thr_modThr_same, State.thr_modThr_same]

/-- An instruction that only goes on leaves the rest of the state. -/
theorem issued_past (s : State) (t : Tid) :
    ThreadOnly s ((s.modThr t Thread.issued1).past t 4) t ∧
      ((s.modThr t Thread.issued1).past t 4).thr t = (s.thr t).issued1.advance 4 := by
  refine ⟨(modThr_threadOnly s t _).trans (past_threadOnly _ t 4), ?_⟩
  unfold State.past
  rw [State.thr_modThr_same, State.thr_modThr_same]

/-- An open window closes once CCYCLE has reached its end. -/
theorem exec_niWindowEnd_open {s : State} {t : Tid} (hclk : s.clocksOn = true) (hni : (s.thr t).ni = true) :
    exec (.niWindowEnd t) s =
      .next (if (s.thr t).niEnd.toNat ≤ s.clk.ccycle.toNat then s.modThr t Thread.niClosed else s) := by
  rw [exec_niWindowEnd, execNiWindowEnd, clocked, if_pos hclk]
  simp only [hni, Bool.true_and, decide_eq_true_eq]
  rfl

end Sys2Proof.Machine

open Sys2Proof Sys2Proof.Machine Sys2Proof.Claims

/-- Settles O21: NIBEGIN, NIEND and the window's end write NI and its end cycle in their own thread, and nothing else. -/
theorem interruptWindows : Obligations.InterruptWindows := by
  unfold Obligations.InterruptWindows
  refine ⟨?_, ?_, ?_, ?_⟩
  · intro s t ra c hr hl hel hc
    have hexec := exec_nibegin_unlocked hr hl hel hc
    by_cases hkeeps : min ((s.thr t).greg ra).toNat (s.con c).niLimit = 0 ∨ (s.thr t).ni = true
    · obtain ⟨hother, hthr⟩ := issued_past s t
      refine ⟨_, hexec.trans (by rw [if_pos hkeeps]), hother, ?_⟩
      rw [hthr, if_pos hkeeps]
      exact ⟨rfl, rfl, rfl, rfl⟩
    · obtain ⟨hother, hthr⟩ := issued_modThr_past s t fun th =>
        th.niOpened (s.issueCycle t + BitVec.ofNat 64 (min ((s.thr t).greg ra).toNat (s.con c).niLimit))
      refine ⟨_, hexec.trans (by rw [if_neg hkeeps]), hother, ?_⟩
      rw [hthr, if_neg hkeeps]
      exact ⟨rfl, rfl, rfl, rfl⟩
  · intro s t hr hl
    obtain ⟨hother, hthr⟩ := issued_modThr_past s t Thread.niClosed
    refine ⟨_, exec_niend_supervisor hr hl, hother, ?_⟩
    rw [hthr]
    exact ⟨rfl, rfl⟩
  · intro s t ra hr hel
    obtain ⟨u, hu, hcount, honly, hpc⟩ := refusedInstr_of (exec_nibegin_locked hr hel)
    exact ⟨u, hu, hcount, hpc, honly⟩
  · intro s t hclk hni
    have hexec := exec_niWindowEnd_open hclk hni
    by_cases hend : (s.thr t).niEnd.toNat ≤ s.clk.ccycle.toNat
    · refine ⟨_, hexec.trans (by rw [if_pos hend]), modThr_threadOnly s t _, ?_⟩
      rw [State.thr_modThr_same, decide_eq_false (not_lt.mpr hend)]
      rfl
    · refine ⟨s, hexec.trans (by rw [if_neg hend]), ⟨rfl, fun _ _ => rfl⟩, ?_⟩
      rw [decide_eq_true (not_le.mp hend), ← hni]

end

section
/-! SUPPORT. Tables that are filtered by key, what a report of a fault leaves alone, and scrub (R162, R441). -/

namespace Sys2Proof

/-! ## Entries of a table -/

theorem Map.mem_of_find {α : Type} {m : Map α} {k : Nat} {v : α} (h : Map.find m k = some v) : (k, v) ∈ m := by
  induction m with
  | nil => cases h
  | cons p m ih =>
    rw [Map.find] at h
    split at h
    · next hk => cases h; subst hk; exact .head _
    · exact .tail _ (ih h)

/-- A key that does not read as an unlisted one is listed with its value. -/
theorem Map.mem_of_get {α : Type} {d : α} {m : Map α} {k : Nat} {v : α} (h : Map.get d m k = v) (hv : v ≠ d) : (k, v) ∈ m := by
  unfold Map.get at h
  cases hf : Map.find m k with
  | none => rw [hf] at h; exact absurd h.symm hv
  | some w =>
    rw [hf] at h
    exact Map.mem_of_find (hf.trans (congrArg some h))

/-- In a table of rising keys an entry reads as its value. -/
theorem Map.get_of_mem {α : Type} {d : α} {m : Map α} {p : Nat × α} (hm : m.Pairwise fun a b => a.1 < b.1) (hp : p ∈ m) :
    Map.get d m p.1 = p.2 := by
  suffices h : Map.find m p.1 = some p.2 by unfold Map.get; rw [h]; rfl
  induction m with
  | nil => cases hp
  | cons q m ih =>
    obtain ⟨hq, hm⟩ := List.pairwise_cons.mp hm
    rw [Map.find]
    rcases List.mem_cons.mp hp with rfl | hp
    · exact if_pos rfl
    · rw [if_neg (hq p hp).ne']
      exact ih hm hp

/-- Taking keys out of a table makes them read as unlisted. -/
theorem Map.get_filter {α : Type} (d : α) (m : Map α) (f : Nat → Bool) (k : Nat) :
    Map.get d (m.filter fun p => f p.1) k = if f k then Map.get d m k else d := by
  suffices h : Map.find (m.filter fun p => f p.1) k = if f k then Map.find m k else none by
    unfold Map.get
    rw [h]
    split <;> rfl
  induction m with
  | nil => simp [Map.find]
  | cons p m ih =>
    by_cases hk : k = p.1
    · subst hk
      cases hf : f p.1 with
      | true => simp [hf, Map.find]
      | false => simp [hf, ih]
    · cases hf : f p.1 with
      | true => simpa [hf, Map.find, hk] using ih
      | false => simpa [hf, Map.find, hk] using ih

end Sys2Proof

namespace Sys2Proof.Machine

open Sys2Proof

/-! ## Reports (R441) -/

/-- Between two states k faults have been reported: the registers of constellations and Keeper, the marks of the present core
cycle and the logbook may differ, and the package's count has gone up by k. -/
structure Reported (k : Nat) (s u : State) : Prop where
  rest : u = { s with cons := u.cons, hwSet := u.hwSet, hwAt := u.hwAt, keeper := u.keeper, ageing := u.ageing }
  count : u.keeper.pkgCount = s.keeper.pkgCount + BitVec.ofNat 32 k

theorem Reported.refl (s : State) : Reported 0 s s := ⟨rfl, (BitVec.add_zero _).symm⟩

theorem Reported.trans {j k : Nat} {s u w : State} (h : Reported j s u) (h' : Reported k u w) : Reported (j + k) s w := by
  refine ⟨?_, by rw [h'.count, h.count, BitVec.ofNat_add, BitVec.add_assoc]⟩
  have e := h.rest
  have d := h'.rest
  generalize w.cons = a1, w.hwSet = a2, w.hwAt = a3, w.keeper = a4, w.ageing = a5 at d
  subst d
  generalize u.cons = b1, u.hwSet = b2, u.hwAt = b3, u.keeper = b4, u.ageing = b5 at e
  subst e
  rfl

theorem Reported.overAll {α : Type} {k : Nat} {f : State → α → State} (h : ∀ s x, Reported k s (f s x)) (xs : List α) (s : State) :
    Reported (k * xs.length) s (overAll xs f s) := by
  unfold Machine.overAll
  induction xs generalizing s with
  | nil => exact .refl s
  | cons x xs ih =>
    rw [List.length_cons, Nat.mul_succ, Nat.add_comm]
    exact (h s x).trans (ih (f s x))

theorem hwMark_reported (s : State) (b : StatusBit) : Reported 0 s (s.hwMark b) := by
  rw [hwMark_eq]
  exact ⟨rfl, (BitVec.add_zero _).symm⟩

/-- A report is one fault, to however many constellations it goes. -/
theorem report_reported (s : State) (cls : Nat) (cons : List Nat) (node : Nat) (sld : Bool) (addr : Word) :
    Reported 1 s (s.report cls cons node sld addr) := by
  unfold State.report
  have hcons := Reported.overAll (k := 0)
    (f := fun s c => (s.modCon c fun x => x.fault cls node sld addr s.now s.clk.ccycle).hwMark (.fault c cls))
    (fun s c => (show Reported 0 s (s.modCon c _) from ⟨rfl, (BitVec.add_zero _).symm⟩).trans (hwMark_reported _ _)) cons s
  rw [Nat.zero_mul] at hcons
  refine (hcons.trans (hwMark_reported _ (.pkgFault cls))).trans (k := 1) ?_
  dsimp only
  split <;> exact ⟨rfl, rfl⟩

/-! ## Scrub (R162) -/

/-- The row that scrub takes next at a sub-store. -/
def Core.scrubLine (c : Core) (sub : Nat) : Nat := (Map.get [] c.scrubQ sub).headD (8 * Map.get 0 c.scrubRow sub + sub)

/-- The core after a scrub slot at a sub-store in a frame. -/
def Core.scrubbed (c : Core) (sub frame : Nat) : Core :=
  { (c.nextScrub sub).2 with scrubLast := Map.set 0 (c.nextScrub sub).2.scrubLast sub frame }

/-- A queued row goes before the next in order. -/
theorem Core.nextScrub_fst (c : Core) (sub : Nat) : (c.nextScrub sub).1 = c.scrubLine sub := by
  unfold Core.nextScrub Core.scrubLine
  cases Map.get [] c.scrubQ sub <;> rfl

theorem Core.scrubbed_scrubLast (c : Core) (sub frame : Nat) : Map.get 0 (c.scrubbed sub frame).scrubLast sub = frame :=
  Map.get_set_same _ _ _ _

theorem Core.scrubbed_scrubQ (c : Core) (sub frame : Nat) :
    Map.get [] (c.scrubbed sub frame).scrubQ sub = (Map.get [] c.scrubQ sub).tail := by
  unfold Core.scrubbed Core.nextScrub
  cases hq : Map.get [] c.scrubQ sub with
  | nil => exact hq
  | cons l q => exact Map.get_set_same _ _ _ _

/-- The order of rows advances when no row is queued. -/
theorem Core.scrubbed_scrubRow (c : Core) (sub frame : Nat) : Map.get 0 (c.scrubbed sub frame).scrubRow sub =
    if Map.get [] c.scrubQ sub = [] then (Map.get 0 c.scrubRow sub + 1) % 28672 else Map.get 0 c.scrubRow sub := by
  unfold Core.scrubbed Core.nextScrub
  cases Map.get [] c.scrubQ sub with
  | nil => rw [if_pos rfl]; exact Map.get_set_same _ _ _ _
  | cons l q => rw [if_neg (List.cons_ne_nil l q)]

/-- The code words of a row that scrub cannot correct. -/
theorem wordBits_rowBad (b : BitVec 8) : wordBits (b.toNat % 16) = (List.range 4).filter fun i => b.getLsbD i := by
  unfold wordBits
  refine List.filter_congr fun i hi => ?_
  rw [show (16 : Nat) = 2 ^ 4 from rfl, Nat.testBit_mod_two_pow, decide_eq_true (List.mem_range.mp hi), Bool.true_and]
  rfl

/-- Without new bad symbols a strike writes back what the check array tells. -/
theorem strikeLs_zero (s : State) (n line : Nat) : s.strikeLs n line 0 = s.setRowBad n line (s.rowBad n line) :=
  congrArg (s.setRowBad n line) BitVec.or_zero

theorem lsBad_setRowBad_other (s : State) {n line x : Nat} (b : BitVec 8) (h : x ≠ 2 ^ 18 * n + line) :
    Map.get 0 (s.setRowBad n line b).lsBad x = Map.get 0 s.lsBad x := Map.get_set_other h _ _ _

@[simp] theorem rowBad_setRowBad_same (s : State) (n line : Nat) (b : BitVec 8) : (s.setRowBad n line b).rowBad n line = b :=
  Map.get_set_same _ _ _ _

/-- The state in which scrub reads the row that it has taken. -/
def State.scrubTurn (s : State) (n sub : Nat) : State :=
  (s.modCore n fun c => c.scrubbed sub s.frame).strikeLs n ((s.core n).scrubLine sub) 0

/-- Each code word of a row that cannot be corrected is reported. -/
def State.reportLost (s : State) (n row : Nat) : State :=
  overAll (wordBits ((s.rowBad n row).toNat % 16)) (fun s _ =>
    s.report 1 (s.core n).member.toList n false (BitVec.ofNat 64 (lsBase n + 128 * row))) s

theorem reportLost_reported (s : State) (n row : Nat) :
    Reported ((List.range 4).filter fun i => (s.rowBad n row).getLsbD i).length s (s.reportLost n row) := by
  unfold State.reportLost
  rw [wordBits_rowBad]
  simpa only [Nat.one_mul] using Reported.overAll (k := 1) (fun s _ => report_reported s ..) _ s

/-- A scrub slot reports what its row has lost, and leaves the marks of that alone. -/
theorem scrub_eq (s : State) (n sub : Nat) :
    let row := (s.core n).scrubLine sub
    let m := (s.scrubTurn n sub).reportLost n row
    s.scrub n sub 0 = m.setRowBad n row (m.rowBad n row &&& 15) := by
  unfold State.scrub
  dsimp only
  rw [Core.nextScrub_fst]
  rfl

/-- The marks of the row that scrub takes stand while it reads them. -/
theorem rowBad_scrubTurn (s : State) (n sub : Nat) :
    (s.scrubTurn n sub).rowBad n ((s.core n).scrubLine sub) = s.rowBad n ((s.core n).scrubLine sub) := by
  unfold State.scrubTurn
  rw [strikeLs_zero, rowBad_setRowBad_same]
  rfl

/-- The effect of a scrub slot: the core's scrub registers, the marks of one row, and the reports. -/
theorem scrub_effect (s : State) (n sub : Nat) :
    let u := s.scrub n sub 0
    let row := (s.core n).scrubLine sub
    (u.ls = s.ls ∧ u.lsTag = s.lsTag ∧ u.mem = s.mem ∧ u.threads = s.threads) ∧
      u.core = (s.modCore n fun c => c.scrubbed sub s.frame).core ∧
      u.rowBad n row = s.rowBad n row &&& 15 ∧ (∀ x, x ≠ 2 ^ 18 * n + row → Map.get 0 u.lsBad x = Map.get 0 s.lsBad x) ∧
      u.keeper.pkgCount = s.keeper.pkgCount + BitVec.ofNat 32 ((List.range 4).filter fun b => (s.rowBad n row).getLsbD b).length := by
  intro u row
  have hm := reportLost_reported (s.scrubTurn n sub) n row
  have hu : u = _ := scrub_eq s n sub
  generalize (s.scrubTurn n sub).reportLost n row = m at hm hu
  have hbad : m.rowBad n row = s.rowBad n row := by rw [← rowBad_scrubTurn s n sub, hm.rest]; rfl
  rw [hbad] at hu
  rw [rowBad_scrubTurn s n sub] at hm
  have hrest := hm.rest
  rw [hu]
  refine ⟨⟨?_, ?_, ?_, ?_⟩, ?_, rowBad_setRowBad_same m n row _, fun x hx => ?_, hm.count⟩
  case refine_6 =>
    rw [lsBad_setRowBad_other _ _ hx, hrest]
    exact lsBad_setRowBad_other _ _ hx
  all_goals
    rw [hrest]
    rfl

/-- A free slot of a member core goes to scrub. -/
theorem exec_scrubSlot_free {s : State} {n : Nat} {sub : Fin 8} (hclk : s.clocksOn = true) (hm : (s.core n).member ≠ none)
    (hq : s.p7Head n sub = none) : exec (.scrubSlot n sub 0) s = .next (s.scrub n sub 0) := by
  rw [exec_scrubSlot, execScrubSlot, clocked, if_pos hclk, if_pos]
  rw [hq, Option.isSome_iff_ne_none.mpr hm]
  rfl

/-- After 4095 frames without one, scrub of a member core takes a slot. -/
theorem exec_scrubForced_due {s : State} {n : Nat} {sub : Fin 8} (hclk : s.clocksOn = true) (hm : (s.core n).member ≠ none)
    (hdue : Map.get 0 (s.core n).scrubLast sub + 4096 ≤ s.clk.ccycle.toNat / 8) :
    exec (.scrubForced n sub 0) s = .next (s.scrub n sub 0) := by
  rw [exec_scrubForced, execScrubForced, clocked, if_pos hclk, if_pos]
  rw [Option.isSome_iff_ne_none.mpr hm]
  exact decide_eq_true hdue

end Sys2Proof.Machine
end

section
/-! SUPPORT. The registers of a ring, its status and RCLR, and the obligation on them and on scrub (R161 to R169). -/

namespace Sys2Proof.Machine

open Sys2Proof Sys2Proof.Claims

/-! ## Ring registers (R163) -/

@[simp] theorem State.ring_modRing_same (s : State) (n r : Nat) (f : Ring → Ring) : (s.modRing n r f).ring n r = f (s.ring n r) := by
  unfold State.modRing State.ring
  rw [State.core_modCore_same]
  exact Map.get_set_same _ _ _ _

theorem State.ring_modRing_other (s : State) {n r k : Nat} (f : Ring → Ring) (h : k ≠ r) :
    (s.modRing n r f).ring n k = s.ring n k := by
  unfold State.modRing State.ring
  rw [State.core_modCore_same]
  exact Map.get_set_other h _ _ _

/-- A write of a ring register leaves a core all but its rings. -/
theorem State.core_modRing (s : State) (n r : Nat) (f : Ring → Ring) (m : Nat) :
    (s.modRing n r f).core m = if m = n then { s.core m with rings := ((s.modRing n r f).core m).rings } else s.core m := by
  unfold State.modRing
  split
  · next h => rw [h, State.core_modCore_same]
  · next h => exact State.core_modCore_other _ _ _ _ h

/-- Going on in a thread leaves every core and ring. -/
theorem State.core_past (s : State) (t : Tid) (k n : Nat) : (s.past t k).core n = s.core n := rfl

theorem State.ring_past (s : State) (t : Tid) (k n r : Nat) : (s.past t k).ring n r = s.ring n r := rfl

theorem State.ringWriter_iff (s : State) (t r : Nat) :
    s.ringWriter t r = true ↔ t % 4 = r / 4 ∨ (s.thr t).world = false ∧ (s.thr t).level = true := by
  unfold State.ringWriter tnum
  simp

theorem ringWriter_false {s : State} {t r : Nat} (ht : t % 4 ≠ r / 4) (hs : (s.thr t).world = true ∨ (s.thr t).level = false) :
    s.ringWriter t r = false := by
  rw [← Bool.not_eq_true, s.ringWriter_iff]
  rintro (h | ⟨hworld, hlevel⟩)
  · exact ht h
  · rcases hs with h | h
    · exact Bool.false_ne_true (hworld.symm.trans h)
    · exact Bool.false_ne_true (h.symm.trans hlevel)

/-- A change of one thread that keeps its world and level keeps the rings that it may write. -/
theorem ringWriter_modThr (s : State) {t : Tid} {f : Thread → Thread} (hw : (f (s.thr t)).world = (s.thr t).world)
    (hl : (f (s.thr t)).level = (s.thr t).level) (r : Nat) : (s.modThr t f).ringWriter t r = s.ringWriter t r := by
  unfold State.ringWriter
  rw [State.thr_modThr_same, hw, hl]

/-- A register of 20 bits holds the low bits of a word. -/
theorem extractLsb'_low20 (v : Word) : (v.extractLsb' 0 20).toNat = v.toNat % 2 ^ 20 := by
  rw [BitVec.extractLsb'_toNat, Nat.shiftRight_zero]

theorem exec_rrd_ready {s : State} {t : Tid} (hr : s.ready t [] = true) (rd : Reg) (r : Fin 16) (f : Fin 4) :
    exec (.rrd t rd r f) s = .next (wroteG s t rd ((s.ring (coreOf t) r).read f)) := by
  rw [exec_rrd, execRrd, issue_ready hr]
  rfl

/-- A ring register written by one of its writers. -/
theorem ringWrite_writer {s : State} {t : Tid} {r : Fin 16} {ra : Reg} (hr : s.ready t [ra.val] = true)
    (hw : s.ringWriter t r = true) (f : Nat) :
    ringWrite t r ra f s = .next (((s.modThr t Thread.issued1).modRing (coreOf t) r fun g => g.write f ((s.thr t).greg ra)).past t 4) := by
  rw [ringWrite, issue_ready (srcs := [gk ra]) hr, ringWriter_modThr s rfl rfl, if_pos hw, State.thr_modThr_same, Thread.issued1_greg]

/-- A ring register written by another thread: a refused access. -/
theorem ringWrite_other {s : State} {t : Tid} {r : Fin 16} {ra : Reg} (hr : s.ready t [ra.val] = true)
    (hw : s.ringWriter t r = false) (f : Nat) :
    ringWrite t r ra f s = .next (((s.modThr t Thread.issued1).refuseRing t).past t 4) := by
  rw [ringWrite, issue_ready (srcs := [gk ra]) hr, ringWriter_modThr s rfl rfl, if_neg (Bool.eq_false_iff.mp hw)]

/-- What an accepted write of a ring register changes. -/
theorem ringWrite_effect (s : State) (t : Tid) (r : Nat) (f : Ring → Ring) :
    let u := ((s.modThr t Thread.issued1).modRing (coreOf t) r f).past t 4
    CoreOnly s u t ∧ u.ring (coreOf t) r = f (s.ring (coreOf t) r) ∧
      (∀ k, k ≠ r → u.ring (coreOf t) k = s.ring (coreOf t) k) ∧
      u.core (coreOf t) = { s.core (coreOf t) with rings := (u.core (coreOf t)).rings } ∧
      OnlyPc (s.thr t) (u.thr t) ∧ (u.thr t).pc = pcOf ((s.thr t).pc + 4) := by
  intro u
  have hthr : u.thr t = (s.thr t).issued1.advance 4 :=
    (State.thr_modThr_same ..).trans (congrArg (Thread.advance · 4) (State.thr_modThr_same ..))
  rw [hthr]
  refine ⟨coreOnly_of_modCore (modThr_threadOnly s t _) (past_threadOnly _ t 4),
    (State.ring_past ..).trans (State.ring_modRing_same ..),
    fun k hk => (State.ring_past ..).trans (State.ring_modRing_other _ f hk), ?_, rfl, rfl⟩
  exact (State.core_past ..).trans ((State.core_modRing ..).trans (if_pos rfl))

/-! ## Refused ring accesses -/

/-- A refused ring access that only goes on. -/
theorem refusedRing_past (s : State) (t : Tid) :
    let u := ((s.modThr t Thread.issued1).refuseRing t).past t 4
    CountsRefusal s u t 6 0 ∧ OnlyPc (s.thr t) (u.thr t) ∧ (u.thr t).pc = pcOf ((s.thr t).pc + 4) := by
  intro u
  have hthr : u.thr t = (s.thr t).issued1.advance 4 := by
    refine (State.thr_modThr_same ..).trans (congrArg (Thread.advance · 4) ?_)
    unfold State.refuseRing
    rw [State.refuse_thr, State.thr_modThr_same]
  rw [hthr]
  exact ⟨refused_counts s t 6 0 (past_threadOnly _ t 4), rfl, rfl⟩

/-- A refused ring access that gives zero. -/
theorem refusedRing_zero (s : State) (t : Tid) (rd : Reg) :
    let u := (((s.modThr t Thread.issued1).refuseRing t).setG t rd 0).past t 4
    CountsRefusal s u t 6 0 ∧ (u.thr t).greg rd = 0 ∧ OtherG (s.thr t) (u.thr t) rd ∧ (u.thr t).pc = pcOf ((s.thr t).pc + 4) := by
  intro u
  have hthr : u.thr t = ((s.thr t).issued1.setG rd 0).advance 4 := by
    refine (setG_past_thr ..).trans ?_
    unfold State.refuseRing
    rw [State.refuse_thr, State.thr_modThr_same]
  obtain ⟨hg, hother, hpc⟩ := setG_advance (s.thr t).issued1 rd 0
  rw [hthr]
  exact ⟨refused_counts s t 6 0 (setG_past_threadOnly _ t rd 0), hg.trans (ite_self 0), hother, hpc⟩

/-! ## RSTAT (R165, R167) -/

theorem bit_lt_two (b : Bool) : bit b < 2 := by cases b <;> decide

theorem bit_eq_one (b : Bool) : decide (bit b = 1) = b := by cases b <;> rfl

theorem ringWord_eq {size : Nat} (hsize : size ≠ 0) (tail head : Nat) (done : Bool) : ringWord size tail head done =
    BitVec.ofNat 64 (1024 * tail + head * 256 + bit done * 16 + bit (decide (tail ≠ 0)) * 4 + bit (decide (head ≠ 2)) * 2 + 1) := by
  unfold ringWord
  rw [beq_false_of_ne hsize]
  simp [bne, beq_eq_decide, bit]

/-- The fields of the status word of a ring that has slots. -/
theorem ringWord_fields {size tail head : Nat} (hsize : size ≠ 0) (htail : tail < 4) (hhead : head < 4) (done : Bool) :
    let w := ringWord size tail head done
    w.getLsbD 0 = true ∧ w.getLsbD 1 = decide (head ≠ 2) ∧ w.getLsbD 2 = decide (tail ≠ 0) ∧ w.getLsbD 3 = false ∧
      w.getLsbD 4 = done ∧ w.extractLsb' 5 3 = 0 ∧ (w.extractLsb' 8 2).toNat = head ∧ (w.extractLsb' 10 2).toNat = tail ∧
      w.extractLsb' 12 52 = 0 := by
  intro w
  have hw : w = _ := ringWord_eq hsize tail head done
  have hx := bit_lt_two (decide (tail ≠ 0))
  have hy := bit_lt_two (decide (head ≠ 2))
  have hz := bit_lt_two done
  have htrue : bit true = 1 := rfl
  have hfalse : bit false = 0 := rfl
  generalize hb : decide (tail ≠ 0) = x at *
  generalize hc : decide (head ≠ 2) = y at *
  have hnat : w.toNat = 1024 * tail + head * 256 + bit done * 16 + bit x * 4 + bit y * 2 + 1 := by
    rw [hw, BitVec.toNat_ofNat, Nat.mod_eq_of_lt (by omega)]
  have hfield {i n v : Nat} (h : w.toNat / 2 ^ i % 2 ^ n = v) : (w.extractLsb' i n).toNat = v := by
    rw [BitVec.extractLsb'_toNat, Nat.shiftRight_eq_div_pow, h]
  have hbit {i : Nat} {b : Bool} (h : w.toNat / 2 ^ i % 2 = bit b) : w.getLsbD i = b := by
    rw [BitVec.getLsbD, Nat.testBit_eq_decide_div_mod_eq, h, bit_eq_one]
  refine ⟨hbit ?_, hbit ?_, hbit ?_, hbit ?_, hbit ?_, BitVec.eq_of_toNat_eq (hfield (v := 0) ?_), hfield ?_, hfield ?_,
    BitVec.eq_of_toNat_eq (hfield (v := 0) ?_)⟩
  all_goals
    rw [hnat]
    omega

theorem ringStatus_of_size {s : State} {n r : Nat} (hok : s.ringOk n r = true) (hsize : (s.ring n r).size ≠ 0) (done : Bool) :
    s.ringStatus n r done = ringWord (s.ring n r).size (s.slotSt n (s.ringHalf n r (s.ring n r).tail))
      (s.slotSt n (s.ringHalf n r (s.ring n r).head)) done := by
  unfold State.ringStatus
  simp only [hok, hsize, Bool.not_true, Bool.false_eq_true, if_false]

theorem ringStatus_of_size_zero {s : State} {n r : Nat} (hok : s.ringOk n r = true) (hsize : (s.ring n r).size = 0) (done : Bool) :
    s.ringStatus n r done = 11 := by
  unfold State.ringStatus
  simp only [hok, hsize, Bool.not_true, Bool.false_eq_true, if_false, if_true]
  rfl

theorem ringStatus_of_disagree {s : State} {n r : Nat} (hok : s.ringOk n r = false) (done : Bool) : s.ringStatus n r done = 0 := by
  unfold State.ringStatus
  simp only [hok, Bool.not_false, if_true]

theorem ringStatus_isRingStatus {s : State} {n r : Nat} (hok : s.ringOk n r = true) (hsize : (s.ring n r).size ≠ 0)
    (hst : ∀ h, s.slotSt n h < 4) (done : Bool) : IsRingStatus s n r done (s.ringStatus n r done) := by
  rw [ringStatus_of_size hok hsize]
  exact ringWord_fields hsize (hst _) (hst _) done

theorem exec_rstat_agree {s : State} {t : Tid} {r : Fin 16} (hr : s.ready t [] = true) (hok : s.ringOk (coreOf t) r = true) (rd : Reg) :
    exec (.rstat t rd r) s = .next (wroteG s t rd (s.ringStatus (coreOf t) r false)) := by
  rw [exec_rstat, execRstat, issue_ready hr]
  dsimp only
  rw [if_pos (show (s.modThr t Thread.issued1).ringOk (coreOf t) r = true from hok)]
  rfl

theorem exec_rstat_disagree {s : State} {t : Tid} {r : Fin 16} (hr : s.ready t [] = true) (hok : s.ringOk (coreOf t) r = false) (rd : Reg) :
    exec (.rstat t rd r) s = .next ((((s.modThr t Thread.issued1).refuseRing t).setG t rd 0).past t 4) := by
  have hok' : (s.modThr t Thread.issued1).ringOk (coreOf t) r = false := hok
  rw [exec_rstat, execRstat, issue_ready hr]
  dsimp only
  rw [if_neg (Bool.eq_false_iff.mp hok'), ringStatus_of_disagree hok']

/-! ## RCLR (R169) -/

/-- Half h of core n is a slot of ring r. -/
abbrev State.isSlotOf (s : State) (n r h : Nat) : Prop := s.ringHalf n r 0 ≤ h ∧ h < s.ringHalf n r 0 + (s.ring n r).size

/-- The key of the slot states at which a slot of ring r stands. -/
def State.slotKey (s : State) (n r k : Nat) : Bool :=
  decide (2 ^ 19 * n + s.ringHalf n r 0 ≤ k) && decide (k < 2 ^ 19 * n + s.ringHalf n r 0 + (s.ring n r).size)

theorem State.slotKey_iff (s : State) (n r h : Nat) : s.slotKey n r (2 ^ 19 * n + h) = true ↔ s.isSlotOf n r h := by
  unfold State.slotKey State.isSlotOf
  rw [Bool.and_eq_true, decide_eq_true_eq, decide_eq_true_eq]
  omega

/-- A slot of the ring is in transfer, filling or draining. -/
def State.ringMoves (s : State) (n r : Nat) : Bool := s.lsSlot.any fun p => s.slotKey n r p.1 && p.2 % 2 == 1

/-- The state with the slots of a ring empty, and its HEAD and TAIL zero. -/
def State.ringCleared (s : State) (n r : Nat) : State :=
  State.modRing { s with lsSlot := s.lsSlot.filter fun p => !s.slotKey n r p.1 } n r fun g => { g with head := 0, tail := 0 }

theorem ringMoves_of_transfer {s : State} {n r h : Nat} (hslot : s.isSlotOf n r h) (hst : s.slotSt n h = 1 ∨ s.slotSt n h = 3) :
    s.ringMoves n r = true := by
  have hmem : (2 ^ 19 * n + h, s.slotSt n h) ∈ s.lsSlot := Map.mem_of_get (d := 0) rfl (by omega)
  have hodd : s.slotSt n h % 2 = 1 := by omega
  unfold State.ringMoves
  rw [List.any_eq_true]
  exact ⟨_, hmem, by rw [(s.slotKey_iff n r h).mpr hslot, hodd]; rfl⟩

/-- In the canonical form every listed slot state is the state of its slot. -/
theorem ringMoves_of_quiet {s : State} {n r : Nat} (hmem : s.memOk = true)
    (hq : ∀ h, s.isSlotOf n r h → s.slotSt n h = 0 ∨ s.slotSt n h = 2) : s.ringMoves n r = false := by
  have hwf : Map.wf 0 s.lsSlot = true := by
    unfold State.memOk at hmem
    simp only [Bool.and_eq_true] at hmem
    obtain ⟨⟨⟨⟨-, hslot⟩, -⟩, -⟩, -⟩ := hmem
    exact hslot
  obtain ⟨hrising, -⟩ := Map.wf_iff.mp hwf
  unfold State.ringMoves
  rw [List.any_eq_false]
  intro p hp hmoves
  obtain ⟨hkey, hodd⟩ := Bool.and_eq_true_iff.mp hmoves
  have hge : 2 ^ 19 * n ≤ p.1 := by
    unfold State.slotKey at hkey
    rw [Bool.and_eq_true, decide_eq_true_eq] at hkey
    omega
  obtain ⟨h, hh⟩ := Nat.exists_eq_add_of_le hge
  have hst : s.slotSt n h = p.2 := by
    rw [← Map.get_of_mem (d := 0) hrising hp, hh]
    rfl
  have hquiet := hq h ((s.slotKey_iff n r h).mp (hh ▸ hkey))
  rw [hst] at hquiet
  rw [beq_iff_eq] at hodd
  omega

theorem ring_ringCleared_same (s : State) (n r : Nat) : (s.ringCleared n r).ring n r = { s.ring n r with head := 0, tail := 0 } :=
  State.ring_modRing_same ..

theorem ring_ringCleared_other (s : State) {n r k : Nat} (h : k ≠ r) : (s.ringCleared n r).ring n k = s.ring n k :=
  State.ring_modRing_other _ _ h

theorem core_ringCleared (s : State) (n r m : Nat) : (s.ringCleared n r).core m =
    if m = n then { s.core m with rings := ((s.ringCleared n r).core m).rings } else s.core m := State.core_modRing ..

theorem slotSt_ringCleared (s : State) (n r h : Nat) :
    (s.ringCleared n r).slotSt n h = if s.isSlotOf n r h then 0 else s.slotSt n h := by
  refine (Map.get_filter 0 s.lsSlot (fun k => !s.slotKey n r k) (2 ^ 19 * n + h)).trans ?_
  rw [← ite_not]
  refine if_congr ?_ rfl rfl
  rw [← s.slotKey_iff n r h, Bool.not_eq_true', Bool.not_eq_false]

/-- RCLR is refused to other threads than the ring's writers, and of a ring whose fields disagree. -/
theorem tryRclr_refused {s : State} {t : Tid} {r : Nat} (h : s.ringOk (coreOf t) r = false ∨ s.ringWriter t r = false) :
    s.tryRclr t r = some ((s.refuseRing t).past t 4) := by
  unfold State.tryRclr
  refine if_pos ?_
  rcases h with h | h
  · rw [h, Bool.not_false, Bool.or_true]
  · rw [h]
    rfl

/-- RCLR of a writer waits while a slot of the ring moves; a change of the thread before it that keeps world and level does not
matter. -/
theorem tryRclr_writer {s : State} {t : Tid} {r : Nat} {f : Thread → Thread} (hok : s.ringOk (coreOf t) r = true)
    (hw : s.ringWriter t r = true) (hworld : (f (s.thr t)).world = (s.thr t).world) (hlevel : (f (s.thr t)).level = (s.thr t).level) :
    (s.modThr t f).tryRclr t r = if s.ringMoves (coreOf t) r then none
      else some (((s.modThr t f).ringCleared (coreOf t) r).past t 4) := by
  unfold State.tryRclr
  refine if_neg ?_
  rw [ringWriter_modThr s hworld hlevel, hw, show (s.modThr t f).ringOk (coreOf t) r = true from hok]
  decide

/-- Clearing a ring between two changes of one thread keeps to the ring's pointers and slot states. -/
theorem ringOnly_of_ringCleared {s m u : State} {t : Tid} {r : Nat} (hm : ThreadOnly s m t)
    (hu : ThreadOnly (m.ringCleared (coreOf t) r) u t) : RingOnly s u t r := by
  have hcore : m.core = s.core := by rw [hm.rest]; rfl
  have hring : m.ring = s.ring := by rw [hm.rest]; rfl
  have hucore : u.core = (m.ringCleared (coreOf t) r).core := by rw [hu.rest]; rfl
  have huring : u.ring = (m.ringCleared (coreOf t) r).ring := by rw [hu.rest]; rfl
  constructor
  case threads => exact fun i hi => (hu.others i hi).trans (hm.others i hi)
  case core =>
    intro n
    rw [hucore, ← hcore]
    exact core_ringCleared m (coreOf t) r n
  case rings => intro k hk; rw [huring, ring_ringCleared_other _ hk, hring]
  case regs =>
    rw [huring, ring_ringCleared_same, hring]
    exact ⟨rfl, rfl⟩
  case rest =>
    have e := hm.rest
    have d := hu.rest
    generalize u.threads = a at d
    subst d
    generalize m.threads = b at e
    subst e
    rfl

/-- What RCLR does to its ring and its slots, when it issues and when it is retried. -/
theorem ringCleared_effect {s : State} {t : Tid} {f : Thread → Thread} (hpc : (f (s.thr t)).pc = (s.thr t).pc) (r : Nat) :
    let n := coreOf t
    let u := ((s.modThr t f).ringCleared n r).past t 4
    RingOnly s u t r ∧ (u.ring n r).head = 0 ∧ (u.ring n r).tail = 0 ∧
      (∀ h, u.slotSt n h = if s.ringHalf n r 0 ≤ h ∧ h < s.ringHalf n r 0 + (s.ring n r).size then 0 else s.slotSt n h) ∧
      (u.thr t).pc = pcOf ((s.thr t).pc + 4) ∧ (u.thr t).blocked = (f (s.thr t)).blocked := by
  intro n u
  have hring : u.ring n r = { s.ring n r with head := 0, tail := 0 } :=
    (State.ring_past ..).trans (ring_ringCleared_same (s.modThr t f) n r)
  have hthr : u.thr t = (f (s.thr t)).advance 4 :=
    (State.thr_modThr_same ..).trans (congrArg (Thread.advance · 4) (State.thr_modThr_same ..))
  rw [hring, hthr, Thread.advance_pc, hpc]
  exact ⟨ringOnly_of_ringCleared (modThr_threadOnly s t f) (past_threadOnly _ t 4), rfl, rfl,
    fun h => slotSt_ringCleared (s.modThr t f) n r h, rfl, rfl⟩

theorem exec_rclr_ready {s : State} {t : Tid} (hr : s.ready t [] = true) (r : Fin 16) :
    exec (.rclr t r) s = .next ((s.modThr t Thread.issued1).orBlock t (.rclr r) ((s.modThr t Thread.issued1).tryRclr t r)) := by
  rw [exec_rclr, execRclr, issue_ready hr]

end Sys2Proof.Machine

open Sys2Proof Sys2Proof.Machine Sys2Proof.Claims

/-- Settles O34: a ring register is one field of one ring of the core, RCLR empties the slots of a ring that stands still, and
a scrub slot changes the marks of one row. -/
theorem ringRegisters : Obligations.RingRegisters := by
  unfold Obligations.RingRegisters
  refine ⟨fun n r => rfl, ?_, ?_, ?_, ?_, ?_⟩
  · intro s t rd r f hr
    apply writesG_of
    rw [exec_rrd_ready hr]
    fin_cases f <;> rfl
  · intro s t r ra hr v g x p hp
    have hwrite : ∃ k, exec p.1 s = ringWrite t r ra k s ∧ p.2 = g.write k v := by
      have hx : x = v.toNat % 2 ^ 20 := extractLsb'_low20 v
      rw [hx] at hp
      fin_cases hp
      · exact ⟨0, rfl, rfl⟩
      · exact ⟨1, rfl, rfl⟩
      · exact ⟨2, rfl, rfl⟩
      · exact ⟨3, rfl, rfl⟩
    obtain ⟨k, hexec, hfield⟩ := hwrite
    rw [hexec, hfield]
    exact ⟨fun hw => ⟨_, ringWrite_writer hr ((s.ringWriter_iff t r).mpr hw) k, ringWrite_effect s t r _⟩,
      fun ht hs => ⟨_, ringWrite_other hr (ringWriter_false ht hs) k, refusedRing_past s t⟩⟩
  · intro s t rd r hr
    refine ⟨fun hok hsize hst => ?_, fun hok hsize => ?_, fun hok => ?_⟩
    · exact ⟨_, writesG_of (exec_rstat_agree hr hok rd), ringStatus_isRingStatus hok hsize hst false⟩
    · rw [← ringStatus_of_size_zero hok hsize false]
      exact writesG_of (exec_rstat_agree hr hok rd)
    · exact ⟨_, exec_rstat_disagree hr hok rd, refusedRing_zero s t rd⟩
  · intro s t r n first size writer quiet cleared
    have hstill : quiet → s.memOk = true → ¬s.ringMoves n r = true := fun hq hmem =>
      Bool.eq_false_iff.mp (ringMoves_of_quiet hmem fun h hslot => hq h hslot.1 hslot.2)
    refine ⟨fun hr hok hw => ⟨fun hq hmem => ?_, fun ⟨h, hfirst, hlast, hst⟩ => ?_⟩,
      fun hr hs hb hok hw hq hmem => ?_, fun hr hbad => ?_⟩
    · have hu := (tryRclr_writer (f := Thread.issued1) hok ((s.ringWriter_iff t r).mpr hw) rfl rfl).trans (if_neg (hstill hq hmem))
      obtain ⟨honly, hhead, htail, hslots, hpc, -⟩ := ringCleared_effect (s := s) (t := t) (f := Thread.issued1) rfl r
      exact ⟨_, by rw [exec_rclr_ready hr, hu, State.orBlock_some], honly, hhead, htail, hslots, hpc⟩
    · have hu := (tryRclr_writer (f := Thread.issued1) hok ((s.ringWriter_iff t r).mpr hw) rfl rfl).trans
        (if_pos (ringMoves_of_transfer ⟨hfirst, hlast⟩ hst))
      refine ⟨_, by rw [exec_rclr_ready hr, hu, State.orBlock_none], (modThr_threadOnly s t _).trans (modThr_threadOnly _ t _), ?_⟩
      rw [State.thr_modThr_same, State.thr_modThr_same]
      exact ⟨rfl, rfl⟩
    · have hu := (tryRclr_writer (f := fun th => { th with blocked := none }) hok ((s.ringWriter_iff t r).mpr hw) rfl rfl).trans
        (if_neg (hstill hq hmem))
      obtain ⟨honly, hhead, htail, hslots, hpc, hblocked⟩ :=
        ringCleared_effect (s := s) (t := t) (f := fun th => { th with blocked := none }) rfl r
      exact ⟨_, exec_retry hr hs hb rfl hu, ⟨honly, hhead, htail, hslots, hpc⟩, hblocked⟩
    · have hbad' : (s.modThr t Thread.issued1).ringOk n r = false ∨ (s.modThr t Thread.issued1).ringWriter t r = false := by
        refine hbad.imp id fun hw => ?_
        rw [ringWriter_modThr s rfl rfl, ← Bool.not_eq_true, s.ringWriter_iff]
        exact hw
      exact ⟨_, by rw [exec_rclr_ready hr, tryRclr_refused hbad', State.orBlock_some], refusedRing_past s t⟩
  · intro s n sub hclk hm i hi hfree hdue
    have hexec : exec i s = .next (s.scrub n sub 0) := by
      fin_cases hi
      · exact exec_scrubSlot_free hclk hm (hfree rfl)
      · exact exec_scrubForced_due hclk hm (hdue rfl)
    obtain ⟨⟨hls, hlsTag, hmemory, hthreads⟩, hcore, hrow, hrows, hcount⟩ := scrub_effect s n sub
    refine ⟨_, hexec, hls, hlsTag, hmemory, hthreads, fun m hne => ?_, ?_, ?_, ?_, hrow, hrows, hcount⟩
    · rw [hcore, State.core_modCore_other _ _ _ _ hne]
    all_goals rw [hcore, State.core_modCore_same]
    · exact Core.scrubbed_scrubLast ..
    · exact Core.scrubbed_scrubQ ..
    · exact Core.scrubbed_scrubRow ..

end
